-- ==== Sys2Proof/Word.lean ====
section
/-! DEFINITION. The word types of the Tlante X24 (R9, R18, R19) and their plainest arithmetic. -/

namespace Sys2Proof

/-- A general register, an address, a counter value: 64 bits (R9, R18). -/
abbrev Word := BitVec 64

/-- One byte of memory (R9). -/
abbrev Byte := BitVec 8

/-- A vector register or a 64-byte stream piece: 512 bits (R19, R21). -/
abbrev V512 := BitVec 512

/-- A register number: g0–g31 or v0–v31 (R18, R19). -/
abbrev Reg := Fin 32

/-- The field of `w` from bit `lo`, `n` bits wide, as a number (R9). -/
def field (w lo n : Nat) : Nat := w / 2 ^ lo % 2 ^ n

/-- A number read as a register number. -/
def toReg (n : Nat) : Reg := ⟨n % 32, Nat.mod_lt _ (by decide)⟩

end Sys2Proof
end

