-- ==== Sys2Proof/Config.lean ====
section
/-! DEFINITION. What is fixed for the part (R1, R3, R69) and the free values: constants without a body, one for each thing
the manual leaves open (notes/assumptions names each). -/

namespace Sys2Proof.Config

/-- Cores of the package (R1). -/
def cores : Nat := 3072

/-- Clusters of the package (R1). -/
def clusters : Nat := 192

/-- Memory slices (R1). -/
def slices : Nat := 48

/-- Bytes of one core's local memory (R44). -/
def localBytes : Nat := 524288

/-- The X24 feature mask (R73). -/
def features : BitVec 64 := 0xFF

/-- A free natural number for each draw: the outcome of an open choice (which of several positions wins, R244; which wake
comes first, R214; whether a station still holds a translation, R358). Log entry 8. -/
opaque freeNat : Nat → Nat

/-- A free 64-bit value for each draw: a value the manual leaves open. Log entry 8. -/
opaque freeWord : Nat → BitVec 64

/-- The leaf translations a station caches (R1, R358). -/
def stationEntries : Nat := 16384

/-- Bytes of the second tier that are mapped at most (R1, R384). -/
def tierBytes : Nat := 16000000000000

/-- The numbers that the model's service kernel gives its services of saving and restoring the clusters of a partition (R332, R344). Log entry
92. -/
def serviceSave : Nat := 16
def serviceRestore : Nat := 17

/-- What a byte of an encrypted line shows under a key pair it was not written under (R357, R405): from the number of free values taken so far, the key
id, the place, and the bytes of the line. Log entry 83. -/
opaque garble : Nat → Nat → Nat → List (BitVec 8) → BitVec 8

/-- SHA-384 of a byte string (R407), left uninterpreted. Log entry 21. -/
opaque sha384 : List (BitVec 8) → BitVec 384

/-- The ECDSA P-384 signature under the package's attestation key, which the manual does not print (R407). Log entry 21. -/
opaque ecdsaSign : List (BitVec 8) → BitVec 768

/-- The certificate of the attestation key, which the manual does not print (R375, R407), as words. Log entry 21. -/
opaque certificate : List (BitVec 64)

end Sys2Proof.Config
end

