-- ==== Sys2Proof/Syntax.lean ====
section
/-! DEFINITION. The syntax: operand forms of the formats R57–R68 and one constructor of `Instr` for each row of
spec/opcode_table.json: the 192 instructions of Ikily, then the 89 steps of the device, its engines and the outside world (those the model's own
scheduling never names stand last). -/

namespace Sys2Proof

/-- Address modes (R41). -/
inductive AddrMode where
  | gl | lo | cb | ci
  deriving DecidableEq, Repr

/-- The OA codes (R62). -/
inductive Order where
  | plain | acq | rel | ar
  deriving DecidableEq, Repr

/-- Scopes (R68). -/
inductive Scope where
  | core | clu | die | sec | pkg | sys
  deriving DecidableEq, Repr

/-- Element types (R67). -/
inductive ElemType where
  | i8 | n8 | i16 | n16 | i32 | n32 | i64 | n64 | f32 | bf16 | f16 | dm8 | e4m3 | e2m3 | e2m1 | i4
  deriving DecidableEq, Repr

/-- The operation types of scalar floating point (R107). -/
inductive FType where
  | f32 | bf16 | f16
  deriving DecidableEq, Repr

/-- Masking of a V-format instruction: unmasked, `.mu` or `.ma` with the mask register (R63). -/
inductive Mask where
  | none
  | mu (m : Reg)
  | ma (m : Reg)
  deriving DecidableEq, Repr

/-- Lane widths of majors 0x26 and 0x27 (R70). -/
inductive LaneWidth where
  | w8 | w16 | w32 | w64
  deriving DecidableEq, Repr

/-- FCMP conditions (R110). -/
inductive FCond where
  | eq | lt | le | un
  deriving DecidableEq, Repr

/-- VCMP conditions (R160). -/
inductive VCond where
  | eq | ne | lt | le | un
  deriving DecidableEq, Repr

/-- Accumulator types of a prefix (R65). -/
inductive AccType where
  | i32 | f32
  deriving DecidableEq, Repr

/-- Scale modes (R193, R194). -/
inductive ScaleMode where
  | none | both | aOnly | bOnly
  deriving DecidableEq, Repr

/-- Output types of MST (R200). -/
inductive OutType where
  | i8 | i32 | f32 | bf16 | f16 | dm8 | e4m3
  deriving DecidableEq, Repr

/-- Control registers (R22). Stream registers are indexed from v24. -/
inductive CtlReg where
  | tsw | tsws | tvec | tcause | tval | tepc | tscr | ipend | imask | cycle | timecmp | spid | dmem | coreid | treg
  | lstat | lctx | lvc | seq
  | sqi (n : Fin 16) | sa (j : Fin 8) | sn (j : Fin 8) | sg (j : Fin 8)
  | old | ost | ocp | otl | rdv
  | tagc (i : Fin 64) | tagt (i : Fin 64) | trdy
  deriving DecidableEq, Repr

/-- Kinds of interrupt, by IPEND bit (R29, R125). -/
inductive Irq where
  | pre | slice | timer | stall | svc | err
  deriving DecidableEq, Repr

/-- The steps of a command the host stores in the window (R378) and of the services it can name (R332). -/
abbrev Queue := Fin 64

/-- A host port (R375). -/
abbrev HostPort := Fin 4

/-- A field of a link flit as the receiver takes it (R385). -/
structure Flit where
  src   : BitVec 12
  dst   : BitVec 12
  part  : BitVec 16
  dom   : BitVec 6
  kind  : BitVec 4
  chan  : BitVec 8
  sseq  : BitVec 32
  len   : Nat
  off   : Nat
  payload : List Byte
  authentic : Bool
  reservedZero : Bool
  deriving DecidableEq, Repr

/-- Fatal-error causes (R417). -/
inductive FatalCause where
  | state | thermal | bell | fwdog | power
  deriving DecidableEq, Repr

/-- A register of a port that a host names (R376, R377, R383, R409). -/
inductive HostReg where
  | bar0
  | decoder (i : Fin 8)
  | cmdf (q : Queue)
  | cplc (q : Queue)
  | cpla (q : Queue)
  | cpln (q : Queue)
  | ring (q : Queue) (offset : Nat)
  | dctl
  | memEnable
  | qbind (q : Queue)
  | cmdd (q : Queue)
  | cplseq (q : Queue)
  | bstat
  deriving DecidableEq, Repr

/-- Where a host reads: memory at a host physical address (R376), or a register (R377, R409). -/
inductive HostPlace where
  | mem (hpa : Nat)
  | reg (r : HostReg)
  deriving DecidableEq, Repr

/-- What a host writes: bytes, or with a read-modify-write that found `old` the bytes it leaves (R316). -/
inductive HostData where
  | bytes (new : List Byte)
  | update (old new : List Byte)
  deriving DecidableEq, Repr

/-- A unit or node by its number, with the frame the kernel gives a page it finds missing, where it gives one. -/
structure Served where
  num   : Nat
  frame : Option Nat
  deriving DecidableEq, Repr

/-- Who waits for a CXL completion that reports an error or does not come (R364, R384): a core, a command, the walk or posted receive of a number at
an address, or whoever comes to a 64 KiB page of host memory or the second tier from now on (`page`, by its place), until the page answers again
(`back`). -/
inductive CxlParty where
  | core (n : Nat)
  | copy (id : Nat)
  | walk (id : Nat) (va : Word)
  | post (id : Nat) (va : Word)
  | page (place : Nat)
  | back (place : Nat)
  deriving DecidableEq, Repr

/-- A store's acknowledgement: which of the core's pending stores it is for, and whether it reports an error (R137, R364). -/
structure StoreAck where
  err : Bool
  k   : Nat
  deriving DecidableEq, Repr

/-- What becomes of an island's control register (R412): its sensors give a reading, or the management service core writes GATE or OP. -/
inductive IslandEvent where
  | reading (temp : BitVec 8) (pwr : BitVec 16)
  | gate (on : Bool)
  | op (k : BitVec 3)
  deriving DecidableEq, Repr

/-- A binding that the management service core has prepared for the next bell (R403): of a queue to a partition and a space, or to none (R377); of
a partition to a port, or no longer (R376). -/
inductive PortBinding where
  | queue (p : HostPort) (q : Queue) (dest : Option (BitVec 16 × BitVec 20))
  | part (p : HostPort) (part : BitVec 16) (bound : Bool)
  deriving DecidableEq, Repr

/-- One constructor for each row of spec/opcode_table.json. The docstring names the rule; the first 192 are instructions, the others
are steps of the device, of its engines and of the outside world, whose operands say which unit moves. -/
inductive Instr where
  /-- ADD (R100). -/
  | add (d a b : Reg)
  /-- SUB (R100). -/
  | sub (d a b : Reg)
  /-- MUL (R100). -/
  | mul (d a b : Reg)
  /-- MULH (R100). -/
  | mulh (d a b : Reg)
  /-- MULHN (R100). -/
  | mulhn (d a b : Reg)
  /-- DIV (R100). -/
  | div (d a b : Reg)
  /-- DIVN (R100). -/
  | divn (d a b : Reg)
  /-- REM (R100). -/
  | rem (d a b : Reg)
  /-- REMN (R100). -/
  | remn (d a b : Reg)
  /-- AND (R100). -/
  | and (d a b : Reg)
  /-- OR (R100). -/
  | or (d a b : Reg)
  /-- XOR (R100). -/
  | xor (d a b : Reg)
  /-- SLL (R100). -/
  | sll (d a b : Reg)
  /-- SRL (R100). -/
  | srl (d a b : Reg)
  /-- SRA (R100). -/
  | sra (d a b : Reg)
  /-- SLLI (R100). -/
  | slli (d a : Reg) (sh : Fin 64)
  /-- SRLI (R100). -/
  | srli (d a : Reg) (sh : Fin 64)
  /-- SRAI (R100). -/
  | srai (d a : Reg) (sh : Fin 64)
  /-- SLT (R100). -/
  | slt (d a b : Reg)
  /-- SLTN (R100). -/
  | sltn (d a b : Reg)
  /-- MIN (R100). -/
  | min (d a b : Reg)
  /-- MAX (R100). -/
  | max (d a b : Reg)
  /-- MINN (R100). -/
  | minn (d a b : Reg)
  /-- MAXN (R100). -/
  | maxn (d a b : Reg)
  /-- CLZ (R100). -/
  | clz (d a : Reg)
  /-- CTZ (R100). -/
  | ctz (d a : Reg)
  /-- POPC (R100). -/
  | popc (d a : Reg)
  /-- EXTS (R102; the width is w + 1). -/
  | exts (d a : Reg) (p : Fin 64) (w : Fin 32)
  /-- EXTN (R102; the width is w + 1). -/
  | extn (d a : Reg) (p : Fin 64) (w : Fin 32)
  /-- BINS (R102; the width is w + 1). -/
  | bins (d a : Reg) (p : Fin 64) (w : Fin 32)
  /-- ADDI (R103). -/
  | addi (d a : Reg) (imm : BitVec 16)
  /-- ANDI (R103). -/
  | andi (d a : Reg) (imm : BitVec 16)
  /-- ORI (R103). -/
  | ori (d a : Reg) (imm : BitVec 16)
  /-- XORI (R103). -/
  | xori (d a : Reg) (imm : BitVec 16)
  /-- SLTI (R103). -/
  | slti (d a : Reg) (imm : BitVec 16)
  /-- LIH (R104). -/
  | lih (d : Reg) (imm : BitVec 20)
  /-- ADDPC (R104). -/
  | addpc (d : Reg) (imm : BitVec 20)
  /-- JAL (R113). -/
  | jal (d : Reg) (off : BitVec 21)
  /-- JALR (R114). -/
  | jalr (d a : Reg) (imm : BitVec 16)
  /-- BEQ (R112). -/
  | beq (a b : Reg) (off : BitVec 14)
  /-- BNE (R112). -/
  | bne (a b : Reg) (off : BitVec 14)
  /-- BLT (R112). -/
  | blt (a b : Reg) (off : BitVec 14)
  /-- BGE (R112). -/
  | bge (a b : Reg) (off : BitVec 14)
  /-- BLTN (R112). -/
  | bltn (a b : Reg) (off : BitVec 14)
  /-- BGEN (R112). -/
  | bgen (a b : Reg) (off : BitVec 14)
  /-- FADD (R108). -/
  | fadd (t : FType) (d a b : Reg)
  /-- FSUB (R108). -/
  | fsub (t : FType) (d a b : Reg)
  /-- FMUL (R108). -/
  | fmul (t : FType) (d a b : Reg)
  /-- FFMA (R108). -/
  | ffma (t : FType) (d a b : Reg)
  /-- FDIV (R108). -/
  | fdiv (t : FType) (d a b : Reg)
  /-- FSQRT (R108). -/
  | fsqrt (t : FType) (d a : Reg)
  /-- FMIN (R109). -/
  | fmin (t : FType) (d a b : Reg)
  /-- FMAX (R109). -/
  | fmax (t : FType) (d a b : Reg)
  /-- FCMP (R110). -/
  | fcmp (c : FCond) (t : FType) (d a b : Reg)
  /-- FCVT (R111). -/
  | fcvt (t u : ElemType) (d a : Reg)
  /-- LD_I8 (R139). -/
  | ldI8 (d base : Reg) (am : AddrMode) (oa : Order) (nt : Bool) (off : BitVec 8)
  /-- LD_I16 (R139). -/
  | ldI16 (d base : Reg) (am : AddrMode) (oa : Order) (nt : Bool) (off : BitVec 8)
  /-- LD_I32 (R139). -/
  | ldI32 (d base : Reg) (am : AddrMode) (oa : Order) (nt : Bool) (off : BitVec 8)
  /-- LD_64 (R139). -/
  | ld64 (d base : Reg) (am : AddrMode) (oa : Order) (nt : Bool) (off : BitVec 8)
  /-- LD_N8 (R139). -/
  | ldN8 (d base : Reg) (am : AddrMode) (oa : Order) (nt : Bool) (off : BitVec 8)
  /-- LD_N16 (R139). -/
  | ldN16 (d base : Reg) (am : AddrMode) (oa : Order) (nt : Bool) (off : BitVec 8)
  /-- LD_N32 (R139). -/
  | ldN32 (d base : Reg) (am : AddrMode) (oa : Order) (nt : Bool) (off : BitVec 8)
  /-- ST_8 (R139). -/
  | st8 (d base : Reg) (am : AddrMode) (oa : Order) (nt : Bool) (off : BitVec 8)
  /-- ST_16 (R139). -/
  | st16 (d base : Reg) (am : AddrMode) (oa : Order) (nt : Bool) (off : BitVec 8)
  /-- ST_32 (R139). -/
  | st32 (d base : Reg) (am : AddrMode) (oa : Order) (nt : Bool) (off : BitVec 8)
  /-- ST_64 (R139). -/
  | st64 (d base : Reg) (am : AddrMode) (oa : Order) (nt : Bool) (off : BitVec 8)
  /-- LBF (R144; the width is w + 1). -/
  | lbf (sx : Bool) (d a b : Reg) (w : Fin 32)
  /-- SBF (R144; the width is w + 1). -/
  | sbf (d a b : Reg) (w : Fin 32)
  /-- ATOM_ADD (R147). -/
  | atomAdd (d a b : Reg) (w64 : Bool) (am : AddrMode) (oa : Order) (sc : Scope)
  /-- ATOM_AND (R147). -/
  | atomAnd (d a b : Reg) (w64 : Bool) (am : AddrMode) (oa : Order) (sc : Scope)
  /-- ATOM_OR (R147). -/
  | atomOr (d a b : Reg) (w64 : Bool) (am : AddrMode) (oa : Order) (sc : Scope)
  /-- ATOM_XOR (R147). -/
  | atomXor (d a b : Reg) (w64 : Bool) (am : AddrMode) (oa : Order) (sc : Scope)
  /-- ATOM_MIN (R147). -/
  | atomMin (d a b : Reg) (w64 : Bool) (am : AddrMode) (oa : Order) (sc : Scope)
  /-- ATOM_MAX (R147). -/
  | atomMax (d a b : Reg) (w64 : Bool) (am : AddrMode) (oa : Order) (sc : Scope)
  /-- ATOM_SWP (R147). -/
  | atomSwp (d a b : Reg) (w64 : Bool) (am : AddrMode) (oa : Order) (sc : Scope)
  /-- ATOM_CAS (R147). -/
  | atomCas (d a b : Reg) (w64 : Bool) (am : AddrMode) (oa : Order) (sc : Scope)
  /-- FENCE_ACQ (R151). -/
  | fenceAcq (sc : Scope) (all : Bool)
  /-- FENCE_REL (R151). -/
  | fenceRel (sc : Scope) (all : Bool)
  /-- FENCE_SC (R151). -/
  | fenceSc (sc : Scope) (all : Bool)
  /-- TLOOK (R153). -/
  | tlook (d a : Reg)
  /-- TSET (R153). -/
  | tset (a b : Reg)
  /-- TCLR (R153). -/
  | tclr (a : Reg)
  /-- VLD_128 (R140). -/
  | vld128 (d base : Reg) (am : AddrMode) (oa : Order) (nt : Bool) (off : BitVec 8)
  /-- VLD_256 (R140). -/
  | vld256 (d base : Reg) (am : AddrMode) (oa : Order) (nt : Bool) (off : BitVec 8)
  /-- VLD_512 (R140). -/
  | vld512 (d base : Reg) (am : AddrMode) (oa : Order) (nt : Bool) (off : BitVec 8)
  /-- VST_128 (R140). -/
  | vst128 (d base : Reg) (am : AddrMode) (oa : Order) (nt : Bool) (off : BitVec 8)
  /-- VST_256 (R140). -/
  | vst256 (d base : Reg) (am : AddrMode) (oa : Order) (nt : Bool) (off : BitVec 8)
  /-- VST_512 (R140). -/
  | vst512 (d base : Reg) (am : AddrMode) (oa : Order) (nt : Bool) (off : BitVec 8)
  /-- VLDS (R141). -/
  | vlds (vd ga gb : Reg) (mk : Mask) (et : ElemType)
  /-- VSTS (R141). -/
  | vsts (vd ga gb : Reg) (mk : Mask) (et : ElemType)
  /-- VLDX (R141). -/
  | vldx (vd ga vb : Reg) (mk : Mask) (et : ElemType)
  /-- VSTX (R141). -/
  | vstx (vd ga vb : Reg) (mk : Mask) (et : ElemType)
  /-- VATOM_ADD (R149). -/
  | vatomAdd (vd va : Reg) (am : AddrMode) (mk : Mask) (et : ElemType)
  /-- VATOM_AND (R149). -/
  | vatomAnd (vd va : Reg) (am : AddrMode) (mk : Mask) (et : ElemType)
  /-- VATOM_OR (R149). -/
  | vatomOr (vd va : Reg) (am : AddrMode) (mk : Mask) (et : ElemType)
  /-- VATOM_XOR (R149). -/
  | vatomXor (vd va : Reg) (am : AddrMode) (mk : Mask) (et : ElemType)
  /-- VATOM_MIN (R149). -/
  | vatomMin (vd va : Reg) (am : AddrMode) (mk : Mask) (et : ElemType)
  /-- VATOM_MAX (R149). -/
  | vatomMax (vd va : Reg) (am : AddrMode) (mk : Mask) (et : ElemType)
  /-- VATOM_SWP (R149). -/
  | vatomSwp (vd va : Reg) (am : AddrMode) (mk : Mask) (et : ElemType)
  /-- VADD (R157). -/
  | vadd (vd va vb : Reg) (mk : Mask) (et : ElemType)
  /-- VSUB (R157). -/
  | vsub (vd va vb : Reg) (mk : Mask) (et : ElemType)
  /-- VMUL (R157). -/
  | vmul (vd va vb : Reg) (mk : Mask) (et : ElemType)
  /-- VFMA (R157). -/
  | vfma (vd va vb : Reg) (mk : Mask) (et : ElemType)
  /-- VMIN (R157). -/
  | vmin (vd va vb : Reg) (mk : Mask) (et : ElemType)
  /-- VMAX (R157). -/
  | vmax (vd va vb : Reg) (mk : Mask) (et : ElemType)
  /-- VAND (R158). -/
  | vand (vd va vb : Reg) (mk : Mask) (lw : LaneWidth)
  /-- VOR (R158). -/
  | vor (vd va vb : Reg) (mk : Mask) (lw : LaneWidth)
  /-- VXOR (R158). -/
  | vxor (vd va vb : Reg) (mk : Mask) (lw : LaneWidth)
  /-- VSEL (R158). -/
  | vsel (vd va vb m : Reg) (lw : LaneWidth)
  /-- VSHL (R159). -/
  | vshl (vd va vb : Reg) (mk : Mask) (lw : LaneWidth)
  /-- VSHR (R159). -/
  | vshr (vd va vb : Reg) (mk : Mask) (lw : LaneWidth)
  /-- VSRA (R159). -/
  | vsra (vd va vb : Reg) (mk : Mask) (lw : LaneWidth)
  /-- VCMP (R160). -/
  | vcmp (c : VCond) (vd va vb : Reg) (et : ElemType)
  /-- VPERM (R167). -/
  | vperm (vd va vb : Reg) (mk : Mask) (et : ElemType)
  /-- VPACK (R163). -/
  | vpack (vd va vb : Reg) (mk : Mask) (et : ElemType)
  /-- VCVT (R161). -/
  | vcvt (t u : ElemType) (vd va : Reg) (mk : Mask)
  /-- VRED_ADD (R165). -/
  | vredAdd (vd va : Reg) (mk : Mask) (et : ElemType)
  /-- VRED_MIN (R165). -/
  | vredMin (vd va : Reg) (mk : Mask) (et : ElemType)
  /-- VRED_MAX (R165). -/
  | vredMax (vd va : Reg) (mk : Mask) (et : ElemType)
  /-- VRED_OR (R165). -/
  | vredOr (vd va : Reg) (mk : Mask) (et : ElemType)
  /-- VSCAN_ADD (R166). -/
  | vscanAdd (vd va : Reg) (mk : Mask) (et : ElemType)
  /-- VSCAN_MAX (R166). -/
  | vscanMax (vd va : Reg) (mk : Mask) (et : ElemType)
  /-- VUNPK (R164). -/
  | vunpk (vd va : Reg) (mk : Mask) (et : ElemType)
  /-- VBCAST (R168). -/
  | vbcast (vd ga : Reg) (mk : Mask) (et : ElemType)
  /-- VMVG (R168). -/
  | vmvg (gd va : Reg) (n : Fin 64) (et : ElemType)
  /-- VMGV (R168). -/
  | vmgv (vd ga : Reg) (n : Fin 64) (et : ElemType)
  /-- VEXP2 (R169). -/
  | vexp2 (vd va : Reg) (mk : Mask) (et : ElemType)
  /-- VLOG2 (R169). -/
  | vlog2 (vd va : Reg) (mk : Mask) (et : ElemType)
  /-- VRCP (R169). -/
  | vrcp (vd va : Reg) (mk : Mask) (et : ElemType)
  /-- VRSQ (R169). -/
  | vrsq (vd va : Reg) (mk : Mask) (et : ElemType)
  /-- VTANH (R169). -/
  | vtanh (vd va : Reg) (mk : Mask) (et : ElemType)
  /-- VNOT (R158). -/
  | vnot (vd va : Reg) (mk : Mask) (lw : LaneWidth)
  /-- STRCFG (R176). -/
  | strcfg (j : Fin 8) (a b : Reg) (dir : Bool) (am : AddrMode) (nt : Bool)
  /-- STREND (R179). -/
  | strend (j : Fin 8)
  /-- VLOOP (R180; n + 1 words are captured). -/
  | vloop (a : Reg) (n : Fin 16)
  /-- FMT (R193). -/
  | fmt (aty bty : ElemType) (cty : AccType) (scl : ScaleMode) (sp : Bool)
  /-- MLEASE (R190). -/
  | mlease (d : Reg)
  /-- MREL (R191). -/
  | mrel
  /-- OCLAIM (R188). -/
  | oclaim (d : Reg) (n : Fin 64)
  /-- OFREE (R188). -/
  | ofree (n : Fin 64)
  /-- MZERO (R197). -/
  | mzero (t : Fin 16)
  /-- MVC (R195). -/
  | mvc (a b : Reg)
  /-- MLD (R196). -/
  | mld (a b : Reg) (am : AddrMode) (nt : Bool) (slot : Fin 64)
  /-- MLDT (R196). -/
  | mldt (a b : Reg) (am : AddrMode) (nt : Bool) (slot : Fin 64)
  /-- MLDS (R196). -/
  | mlds (a b : Reg) (am : AddrMode) (nt : Bool) (slot : Fin 64)
  /-- MST (R200). -/
  | mst (ot : OutType) (a b : Reg) (am : AddrMode) (nt : Bool) (t : Fin 16)
  /-- MMA (R198). -/
  | mma (t : Fin 16) (sa sb : Fin 64)
  /-- CADD (R222; `none` is DS = 1). -/
  | cadd (a b : Reg) (sc : Option Scope)
  /-- CADDV (R222). -/
  | caddv (a b c : Reg) (sc : Option Scope)
  /-- CREAD (R223). -/
  | cread (a b c : Reg) (sc : Option Scope)
  /-- CWAIT (R224). -/
  | cwait (a b c : Reg) (sc : Option Scope)
  /-- CWAITT (R224). -/
  | cwaitt (a b c : Reg) (sc : Option Scope)
  /-- CAW (R226). -/
  | caw (a b c : Reg) (sc : Option Scope)
  /-- CINIT (R227). -/
  | cinit (a b c : Reg) (sc : Option Scope)
  /-- CPOISON (R228). -/
  | cpoison (a : Reg) (sc : Option Scope)
  /-- TWANY (R230). -/
  | twany (d a : Reg)
  /-- TWALL (R230). -/
  | twall (d a : Reg)
  /-- TFIRST (R230). -/
  | tfirst (d : Reg)
  /-- FORK (R231). -/
  | fork (mb : Bool)
  /-- JOIN (R232). -/
  | join (d a : Reg)
  /-- WAITN (R233). -/
  | waitn (ld st cp tl : Fin 16)
  /-- XCOPY (R241). -/
  | xcopy (a b c : Reg) (sc : Scope) (acq rel : Bool)
  /-- XGATH (R241). -/
  | xgath (a b c : Reg) (sc : Scope) (acq rel : Bool)
  /-- XSCAT (R241). -/
  | xscat (a b c : Reg) (sc : Scope) (acq rel ord : Bool)
  /-- XFILL (R241). -/
  | xfill (a b c : Reg) (sc : Scope) (acq rel : Bool)
  /-- XPUT (R241). -/
  | xput (a b c : Reg) (sc : Scope) (acq rel : Bool)
  /-- XGET (R241). -/
  | xget (a b c : Reg) (sc : Scope) (acq rel : Bool)
  /-- XSUB (R249). -/
  | xsub (a b c : Reg) (sc : Scope)
  /-- XPUB (R249). -/
  | xpub (a b c : Reg) (sc : Scope)
  /-- XQUERY (R251). -/
  | xquery (a b c : Reg)
  /-- GLMAP (R257). -/
  | glmap (a b c : Reg) (sc : Scope)
  /-- GCOPY (R269). -/
  | gcopy (a b c : Reg) (sc : Scope)
  /-- GSEND (R271). -/
  | gsend (a b c : Reg) (sc : Scope)
  /-- GRECV (R272). -/
  | grecv (a b c : Reg) (sc : Scope)
  /-- GCMP (R273). -/
  | gcmp (a b c : Reg) (sc : Scope)
  /-- GHASH (R274). -/
  | ghash (a b c : Reg) (sc : Scope)
  /-- GREL (R275). -/
  | grel (a b c : Reg) (sc : Scope)
  /-- EBIND (R283). -/
  | ebind (e : Fin 16) (a b c : Reg)
  /-- ESTEP (R286). -/
  | estep (e : Fin 16) (c : Reg)
  /-- ELD (R284). -/
  | eld (e : Fin 16) (a b : Reg)
  /-- EMMA (R285). -/
  | emma (e : Fin 16) (a b : Reg)
  /-- EMAP (R287). -/
  | emap (e : Fin 16) (a b c : Reg)
  /-- ESIG (R288). -/
  | esig (e : Fin 16) (a b c : Reg)
  /-- EFORCE (R289). -/
  | eforce (e : Fin 16)
  /-- TRAP (R117). -/
  | trap (k : BitVec 12)
  /-- TRET (R121). -/
  | tret
  /-- MFK (R119). -/
  | mfk (d : Reg) (k : CtlReg)
  /-- MTK (R120). -/
  | mtk (k : CtlReg) (a : Reg)
  /-- BRK (R118). -/
  | brk (k : BitVec 12)
  /-- GENPUB (R122). -/
  | genpub (a : Reg)
  /-- YIELD (R123). -/
  | yield
  /-- LI48 (R105). -/
  | li48 (d : Reg) (imm : BitVec 48)
  /-- TAKE_INTERRUPT (R125: the interrupt the current hart takes before its next instruction). -/
  | takeInterrupt
  /-- LOAD_DATA_RETURN (R132, R133: the data of pending load k of the current hart arrives; err: an uncorrectable error). -/
  | loadDataReturn (k : Nat) (err : Bool)
  /-- STORE_ACKNOWLEDGE (R137, R364: a store of the current hart is acknowledged; err: its completion reports an error). -/
  | storeAcknowledge (ack : StoreAck)
  /-- STREAM_READ_AHEAD (R178). -/
  | streamReadAhead (j : Fin 8)
  /-- SEQUENCER_ISSUE (R181: of the current hart). -/
  | sequencerIssue
  /-- SEQUENCER_LOOP_END (R181: of the current hart). -/
  | sequencerLoopEnd
  /-- LEASE_GRANT (R189: of cluster c). -/
  | leaseGrant (c : Nat)
  /-- RESUME_GRANT (R206: of cluster c). -/
  | resumeGrant (c : Nat)
  /-- ARRAY_COMMAND_BEGIN (R192: command k of the acceptance order of cluster c). -/
  | arrayCommandBegin (c k : Nat)
  /-- TILE_COMMAND_RETIRE (R202: command k of the acceptance order of cluster c). -/
  | tileCommandRetire (c k : Nat)
  /-- ARRAY_RDV_ADD (R204: FORK.mb entry k of cluster c). -/
  | arrayRdvAdd (c k : Nat)
  /-- HOMEROOM_ADD (R214: add k in flight). -/
  | homeroomAdd (k : Nat)
  /-- COUNTER_WAKE (R214: wake message k in flight). -/
  | counterWake (k : Nat)
  /-- COUNTER_REPOLL (R210). -/
  | counterRepoll (core : Nat)
  /-- CWAITT_TIMEOUT (R224). -/
  | cwaittTimeout (core : Nat)
  /-- COPY_COMMAND_ACCEPT (R237: the BTE of slice m). -/
  | copyCommandAccept (m : Nat)
  /-- COPY_START (R237, R242–R244). -/
  | copyStart (id : Nat)
  /-- COPY_COMPLETE (R245). -/
  | copyComplete (id : Nat)
  /-- COPY_SUSPEND (R248). -/
  | copySuspend (id : Nat)
  /-- UNIT_RESUME (R248, R361: the unit code of R361 and the unit's number; with a frame, the kernel first maps the missing page). -/
  | unitResume (unit : Nat) (id : Served)
  /-- SUBSCRIPTION_TILE (R250). -/
  | subscriptionTile (id : Nat)
  /-- BELL (R403). -/
  | bell
  /-- WALK_SUSPEND (R266). -/
  | walkSuspend (core : Nat)
  /-- STREAM_DELIVER (R272: posted receive k takes what has arrived). -/
  | streamDeliver (k : Nat)
  /-- TREE_FORWARD (R337: forward entry k). -/
  | treeForward (k : Nat)
  /-- SUBMISSION_INTAKE (R326). -/
  | submissionIntake (part : Nat)
  /-- GRAPH_ADMIT (R330). -/
  | graphAdmit (part slot : Nat)
  /-- NODE_FIRE (R331). -/
  | nodeFire (part slot node : Nat)
  /-- COHORT_PLACE (R333, R334: the first cohort of the pool of the partition). -/
  | cohortPlace (part : Nat)
  /-- SERVICE_NODE_POST (R332). -/
  | serviceNodePost (part slot node : Nat)
  /-- TRANSFER_NODE_ISSUE (R332). -/
  | transferNodeIssue (part slot node : Nat)
  /-- NODE_COMPLETE (R331; ok: the report of a service routine). -/
  | nodeComplete (part slot node : Nat) (ok : Bool)
  /-- ENDC_OBSERVE (R335). -/
  | endcObserve (core : Nat)
  /-- SERVICE_UNMAP (R363, R359). -/
  | serviceUnmap (m part : Nat)
  /-- SERVICE_CHANGE_ATTRIBUTES (R363, R359). -/
  | serviceChangeAttributes (m part : Nat)
  /-- REPLICA_APPLY (R312: the replicas of sector k apply the next write of the sequence). -/
  | replicaApply (k : Fin 3)
  /-- ILLEGAL_INSTRUCTION (R53, R54). -/
  | illegalInstruction (w0 : BitVec 32) (w1 : Option (BitVec 32))
  /-- FETCH_EXCEPTION (R115, R129). -/
  | fetchException (va : Word)
  /-- SAVED_CONTEXT_RESUME (R341). -/
  | savedContextResume (part core : Nat)
  /-- COMMAND_NOP (R378, R379: the record the queue takes next). -/
  | commandNop (p : HostPort) (q : Queue)
  /-- COMMAND_SUBMIT (R378, R379: the record the queue takes next). -/
  | commandSubmit (p : HostPort) (q : Queue)
  /-- COMMAND_ADD (R378, R379: the record the queue takes next). -/
  | commandAdd (p : HostPort) (q : Queue)
  /-- COMMAND_REFUSED (R378, R379: the record the queue takes next). -/
  | commandRefused (p : HostPort) (q : Queue)
  /-- COMPLETION_WRITE (R380). -/
  | completionWrite (p : HostPort) (q : Queue)
  /-- HELD_MESSAGE_RESUME (R389). -/
  | heldMessageResume (src : BitVec 12) (sseq : BitVec 32)
  /-- LAYOUT (R396: the address of the change list in space 0). -/
  | layout (list : Word)
  /-- ACYC_GATHER (R399). -/
  | acycGather (c : Nat)
  /-- HEALTH (R416). -/
  | health (a1 : Word)
  /-- CHECKPOINT_SAVE (R420). -/
  | checkpointSave (a1 : Word)
  /-- CHECKPOINT_RESTORE (R420). -/
  | checkpointRestore (a1 : Word)
  /-- DUMPREAD (R419). -/
  | dumpread (a1 : Word)
  /-- MESSAGE_RETRY_TIMEOUT (R391). -/
  | messageRetryTimeout (dst : BitVec 12) (sseq : BitVec 32)
  /-- PARTY_COUNTER_SUSPEND (R430). -/
  | partyCounterSuspend (unit id : Nat)
  /-- TIMER_COMPARE (R126: n cycles pass, then every hart compares CYCLE with TIMECMP). -/
  | timerCompare (n : Nat)
  /-- SLICE_QUANTUM_EXPIRY (R339: of the domain of a core, or of the core alone). -/
  | sliceQuantumExpiry (part core : Nat)
  /-- FORCE_WINDOW_EXPIRY (R339). -/
  | forceWindowExpiry (core : Nat)
  /-- STALL_WATCHDOG_EXPIRY (R345). -/
  | stallWatchdogExpiry (part : Nat)
  /-- SERVICE_LOAD (R346: frame is the first physical frame the service kernel gives the pages). -/
  | serviceLoad (part slot node : Nat) (frame : Nat)
  /-- SERVICE_MAP (R363: the next request of slice m's ring for the partition; frame as in SERVICE_LOAD). -/
  | serviceMap (m part frame : Nat)
  /-- SERVICE_FAULT (R363: a frame services the fault, none declares it fatal). -/
  | serviceFault (m part : Nat) (frame : Option Nat)
  /-- UNIT_FATAL (R248). -/
  | unitFatal (unit id : Nat)
  /-- HOST_MEM_READ (R376: n bytes of memory; R377, R409: a register, whole). -/
  | hostMemRead (p : HostPort) (hpa : HostPlace) (n : Nat)
  /-- HOST_MEM_WRITE (R376, R316). -/
  | hostMemWrite (p : HostPort) (hpa : Nat) (data : HostData)
  /-- CMDF_WRITE (R379). -/
  | cmdfWrite (p : HostPort) (q : Queue) (v : Word)
  /-- COMMAND_SERVICE (R378; ok, detail and result: the report of the routine). -/
  | commandService (p : HostPort) (q : Queue) (ok : Bool) (detail : BitVec 56) (result : Word)
  /-- HOST_REGISTER_WRITE (R383). -/
  | hostRegisterWrite (p : HostPort) (r : HostReg) (v : BitVec 192)
  /-- LOCK_INTERFACE_REQUEST (R383). -/
  | lockInterfaceRequest (p : HostPort)
  /-- START_INTERFACE_REQUEST (R383). -/
  | startInterfaceRequest (p : HostPort)
  /-- STOP_INTERFACE_REQUEST (R383). -/
  | stopInterfaceRequest (p : HostPort)
  /-- GET_DEVICE_INTERFACE_REPORT (R383). -/
  | getDeviceInterfaceReport (p : HostPort)
  /-- IDE_INTEGRITY_FAILURE (R383). -/
  | ideIntegrityFailure (p : HostPort)
  /-- CXL_FUNCTION_LEVEL_RESET (R411). -/
  | cxlFunctionLevelReset (p : HostPort)
  /-- CXL_COMPLETION_TIMEOUT (R384, R364; of a core: a store, or else its pending load k). -/
  | cxlCompletionTimeout (core : CxlParty) (isStore : Bool) (k : Nat)
  /-- FLIT_RECEIVE (R387). -/
  | flitReceive (f : Flit)
  /-- REASSEMBLY_TIMEOUT (R387). -/
  | reassemblyTimeout (src : BitVec 12) (sseq : BitVec 32)
  /-- PARTITION_QUIET (R401). -/
  | partitionQuiet
  /-- QUIESCE_DEADLINE (R401). -/
  | quiesceDeadline
  /-- SERVICE_UNLOAD (R347; with a frame for a page that the routine finds missing). -/
  | serviceUnload (part slot : Nat) (node : Served)
  /-- BELL_ACKNOWLEDGED (R401, R408). -/
  | bellAcknowledged
  /-- USAGE_RECORD_PERIODIC (R408). -/
  | usageRecordPeriodic
  /-- POWER_ON_RESET (R410: the step that fails, with its CODE). -/
  | powerOnReset (fail : Option (Nat × BitVec 16))
  /-- DEVICE_RESET (R411). -/
  | deviceReset (fail : Option (Nat × BitVec 16))
  /-- THERMAL_THROTTLE (R412, R413). -/
  | thermalThrottle (island : Fin 120) (x : IslandEvent)
  /-- FATAL_ERROR (R417). -/
  | fatalError (cause : FatalCause)
  /-- FIRMWARE_WATCHDOG_EXPIRY (R417). -/
  | firmwareWatchdogExpiry
  /-- AGEING_MEASUREMENT (R415: what the oscillator and the ECC counters of the island's two memories show). -/
  | ageingMeasurement (island : Fin 120) (drift : Int) (ecc : Int × Int)
  /-- SERVICE_KERNEL_INSTANCE_RESTART (R382). -/
  | serviceKernelInstanceRestart (m : Nat)
  /-- POWER_OFF (R409). -/
  | powerOff
  /-- SPDM_MESSAGE (R375: keys: the request sets up the IDE keys, otherwise it asks for the certificate). -/
  | spdmMessage (p : HostPort) (keys : Bool)
  /-- BELL (R403: before it, the management service core writes a binding into the shadow of a host port's table). -/
  | bindingShadow (x : PortBinding)
  deriving DecidableEq, Repr

end Sys2Proof
end

