-- ==== Sys2Proof/WellFormed.lean ====
section
/-! DEFINITION. Which operands an instruction accepts beyond what its operand types already say (R53, R70, R111, R149, R156,
R161, R164, R168). Steps of the device carry no such limit. -/

namespace Sys2Proof

/-- The type code (R67). -/
def ElemType.code : ElemType → Nat
  | .i8 => 0 | .n8 => 1 | .i16 => 2 | .n16 => 3 | .i32 => 4 | .n32 => 5 | .i64 => 6 | .n64 => 7
  | .f32 => 8 | .bf16 => 9 | .f16 => 10 | .dm8 => 11 | .e4m3 => 12 | .e2m3 => 13 | .e2m1 => 14 | .i4 => 15

/-- The lane width of a type (R19). -/
def ElemType.laneBits : ElemType → Nat
  | .i64 | .n64 => 64
  | .i32 | .n32 | .f32 => 32
  | .i16 | .n16 | .bf16 | .f16 => 16
  | .i8 | .n8 | .dm8 | .e4m3 | .e2m3 | .e2m1 | .i4 => 8

/-- The lane count of a type (R19). -/
def ElemType.lanes (t : ElemType) : Nat := 512 / t.laneBits

/-- The element width of a type (R161): e2m1 and i4 take 4 bits. -/
def ElemType.elemBits : ElemType → Nat
  | .e2m1 | .i4 => 4
  | t => t.laneBits

/-- Integer types of 8 bits or more: codes 0–7. -/
def ElemType.isInt (t : ElemType) : Bool := t.code < 8

/-- The IEEE types: codes 8–10 (R81). -/
def ElemType.isIeee (t : ElemType) : Bool := t == .f32 || t == .bf16 || t == .f16

/-- Codes 0–10, which vector arithmetic accepts (R156). -/
def ElemType.isArith (t : ElemType) : Bool := t.code ≤ 10

/-- Codes 11–14, which VPACK and VUNPK accept (R156). -/
def ElemType.isPacked (t : ElemType) : Bool := t == .dm8 || t == .e4m3 || t == .e2m3 || t == .e2m1

/-- The types VATOM accepts, by address mode and whether the operation is bitwise (R149). -/
def vatomAccepts (bitwise : Bool) (am : AddrMode) (t : ElemType) : Bool :=
  match t with
  | .i64 | .n64 => true
  | .i32 | .n32 => am != .gl
  | .f32 => am != .gl && !bitwise
  | _ => false

/-- A plain ATOM has SC 0 (R147). -/
def atomAccepts (oa : Order) (sc : Scope) : Bool := oa != .plain || sc == .core

/-- A field with p + width ≤ 64 (R70). -/
def fieldAccepts (p : Fin 64) (w : Fin 32) : Bool := p.val + w.val + 1 ≤ 64

/-- The source and destination types FCVT accepts (R111). -/
def fcvtAccepts (t u : ElemType) : Bool :=
  let ok (x : ElemType) := 4 ≤ x.code && x.code ≤ 10
  ok t && ok u && t != u && !(t.isInt && u.isInt)

/-- The pairs VCVT accepts (R161). -/
def vcvtAccepts (t u : ElemType) : Bool := t != u && !(t.elemBits == 4 && u.elemBits == 4)

/-- An instruction whose operands the manual accepts. Rows that are not listed have no limit beyond their operand types. -/
def Instr.wf : Instr → Bool
  | .exts _ _ p w | .extn _ _ p w | .bins _ _ p w => fieldAccepts p w
  | .fcvt t u _ _ => fcvtAccepts t u
  | .atomAdd _ _ _ _ _ oa sc | .atomAnd _ _ _ _ _ oa sc | .atomOr _ _ _ _ _ oa sc | .atomXor _ _ _ _ _ oa sc
  | .atomMin _ _ _ _ _ oa sc | .atomMax _ _ _ _ _ oa sc | .atomSwp _ _ _ _ _ oa sc | .atomCas _ _ _ _ _ oa sc =>
    atomAccepts oa sc
  | .fenceAcq sc all | .fenceRel sc all | .fenceSc sc all => !all || sc == .sys
  | .vatomAdd _ _ am _ et | .vatomMin _ _ am _ et | .vatomMax _ _ am _ et | .vatomSwp _ _ am _ et =>
    vatomAccepts false am et
  | .vatomAnd _ _ am _ et | .vatomOr _ _ am _ et | .vatomXor _ _ am _ et => vatomAccepts true am et
  | .vadd _ _ _ _ et | .vsub _ _ _ _ et | .vmul _ _ _ _ et | .vfma _ _ _ _ et | .vmin _ _ _ _ et | .vmax _ _ _ _ et =>
    et.isArith
  | .vcmp c _ _ _ et => if c = .un then et.isIeee else et.isArith
  | .vpack _ _ _ _ et => et.isPacked
  | .vcvt t u _ _ _ => vcvtAccepts t u
  | .vredAdd _ _ _ et | .vredMin _ _ _ et | .vredMax _ _ _ et | .vscanAdd _ _ _ et | .vscanMax _ _ _ et => et.isArith
  | .vredOr _ _ _ et => et.isInt
  | .vunpk vd _ _ et => et.isPacked && vd.val % 2 == 0
  | .vmvg _ _ n et | .vmgv _ _ n et => n.val < et.lanes
  | .vexp2 _ _ _ et | .vlog2 _ _ _ et | .vrcp _ _ _ et | .vrsq _ _ _ et | .vtanh _ _ _ et => et.isIeee
  | _ => true

end Sys2Proof
end

