-- ==== Sys2Proof/Decode.lean ====
section
/-! DEFINITION. Decoding of instruction words (R52, R53, R55–R70), total and rejecting by name, and the encoder. -/

namespace Sys2Proof

/-- Why a word is not an instruction (R53, R55); every case raises the illegal-instruction trap. -/
inductive Reject where
  | truncated            -- fewer bytes than a word
  | unassignedMajor
  | unassignedSelector
  | reserved             -- a reserved field is non-zero
  | unaccepted           -- a code field holds a reserved or unaccepted value
  deriving DecidableEq, Repr

/-- What the first word says: a one-word instruction, or LI48 with its first fields (R66). -/
inductive First where
  | one (r : Except Reject Instr)
  | li48 (d : Reg) (immh : BitVec 16)

/-- The codes of the operand forms (R41, R62, R63, R67, R68, R70). -/
def AddrMode.code : AddrMode → Nat | .gl => 0 | .lo => 1 | .cb => 2 | .ci => 3
def AddrMode.ofCode : Nat → AddrMode | 0 => .gl | 1 => .lo | 2 => .cb | _ => .ci
def Order.code : Order → Nat | .plain => 0 | .acq => 1 | .rel => 2 | .ar => 3
def Order.ofCode : Nat → Order | 0 => .plain | 1 => .acq | 2 => .rel | _ => .ar
def Scope.code : Scope → Nat | .core => 0 | .clu => 1 | .die => 2 | .sec => 3 | .pkg => 4 | .sys => 5
def Scope.ofCode : Nat → Option Scope
  | 0 => some .core | 1 => some .clu | 2 => some .die | 3 => some .sec | 4 => some .pkg | 5 => some .sys | _ => none
def ElemType.ofCode : Nat → ElemType
  | 0 => .i8 | 1 => .n8 | 2 => .i16 | 3 => .n16 | 4 => .i32 | 5 => .n32 | 6 => .i64 | 7 => .n64
  | 8 => .f32 | 9 => .bf16 | 10 => .f16 | 11 => .dm8 | 12 => .e4m3 | 13 => .e2m3 | 14 => .e2m1 | _ => .i4
def FType.code : FType → Nat | .f32 => 8 | .bf16 => 9 | .f16 => 10
def FType.ofCode : Nat → Option FType | 8 => some .f32 | 9 => some .bf16 | 10 => some .f16 | _ => none
def LaneWidth.code : LaneWidth → Nat | .w8 => 0 | .w16 => 1 | .w32 => 2 | .w64 => 3
def LaneWidth.ofCode : Nat → LaneWidth | 0 => .w8 | 1 => .w16 | 2 => .w32 | _ => .w64
def FCond.code : FCond → Nat | .eq => 0 | .lt => 1 | .le => 2 | .un => 3
def FCond.ofCode : Nat → Option FCond | 0 => some .eq | 1 => some .lt | 2 => some .le | 3 => some .un | _ => none
def VCond.code : VCond → Nat | .eq => 0 | .ne => 1 | .lt => 2 | .le => 3 | .un => 4
def VCond.ofCode : Nat → Option VCond
  | 0 => some .eq | 1 => some .ne | 2 => some .lt | 3 => some .le | 4 => some .un | _ => none
def AccType.code : AccType → Nat | .i32 => 4 | .f32 => 8
def AccType.ofCode : Nat → Option AccType | 4 => some .i32 | 8 => some .f32 | _ => none
def ScaleMode.code : ScaleMode → Nat | .none => 0 | .both => 1 | .aOnly => 2 | .bOnly => 3
def ScaleMode.ofCode : Nat → ScaleMode | 0 => .none | 1 => .both | 2 => .aOnly | _ => .bOnly
def OutType.code : OutType → Nat
  | .i8 => 0 | .i32 => 4 | .f32 => 8 | .bf16 => 9 | .f16 => 10 | .dm8 => 11 | .e4m3 => 12
def OutType.ofCode : Nat → Option OutType
  | 0 => some .i8 | 4 => some .i32 | 8 => some .f32 | 9 => some .bf16 | 10 => some .f16 | 11 => some .dm8
  | 12 => some .e4m3 | _ => none

/-- The mask field and the MK code (R63). -/
def Mask.reg : Mask → Nat | .none => 0 | .mu m => m.val | .ma m => m.val
def Mask.mk : Mask → Nat | .none => 0 | .mu _ => 1 | .ma _ => 2
def Mask.ofCode (m mk : Nat) : Except Reject Mask :=
  match mk with
  | 0 => if m = 0 then .ok .none else .error .reserved
  | 1 => .ok (.mu (toReg m))
  | 2 => .ok (.ma (toReg m))
  | _ => .error .unaccepted

/-- Control register numbers (R22). -/
def CtlReg.code : CtlReg → Nat
  | .tsw => 0x00 | .tsws => 0x01 | .tvec => 0x02 | .tcause => 0x03 | .tval => 0x04 | .tepc => 0x05 | .tscr => 0x06
  | .ipend => 0x08 | .imask => 0x09 | .cycle => 0x0A | .timecmp => 0x0B | .spid => 0x10 | .dmem => 0x11 | .coreid => 0x12
  | .treg => 0x13 | .lstat => 0x18 | .lctx => 0x19 | .lvc => 0x1A | .seq => 0x20
  | .sqi n => 0x30 + n.val | .sa j => 0x40 + j.val | .sn j => 0x48 + j.val | .sg j => 0x50 + j.val
  | .old => 0x58 | .ost => 0x59 | .ocp => 0x5A | .otl => 0x5B | .rdv => 0x5C
  | .tagc i => 0x100 + i.val | .tagt i => 0x140 + i.val | .trdy => 0x180

/-- A number read as a field of `n` values. -/
def toFin (n : Nat) (k : Nat) (h : 0 < n) : Fin n := ⟨k % n, Nat.mod_lt _ h⟩

abbrev fin8 (k : Nat) : Fin 8 := toFin 8 k (by decide)
abbrev fin16 (k : Nat) : Fin 16 := toFin 16 k (by decide)
abbrev fin32 (k : Nat) : Fin 32 := toFin 32 k (by decide)
abbrev fin64 (k : Nat) : Fin 64 := toFin 64 k (by decide)

/-- The register of a number; a number absent from R22 has none. -/
def CtlReg.ofCode (k : Nat) : Option CtlReg :=
  if 0x30 ≤ k ∧ k < 0x40 then some (.sqi (fin16 k))
  else if 0x40 ≤ k ∧ k < 0x48 then some (.sa (fin8 k))
  else if 0x48 ≤ k ∧ k < 0x50 then some (.sn (fin8 k))
  else if 0x50 ≤ k ∧ k < 0x58 then some (.sg (fin8 k))
  else if 0x100 ≤ k ∧ k < 0x140 then some (.tagc (fin64 k))
  else if 0x140 ≤ k ∧ k < 0x180 then some (.tagt (fin64 k))
  else match k with
    | 0x00 => some .tsw | 0x01 => some .tsws | 0x02 => some .tvec | 0x03 => some .tcause | 0x04 => some .tval
    | 0x05 => some .tepc | 0x06 => some .tscr | 0x08 => some .ipend | 0x09 => some .imask | 0x0A => some .cycle
    | 0x0B => some .timecmp | 0x10 => some .spid | 0x11 => some .dmem | 0x12 => some .coreid | 0x13 => some .treg
    | 0x18 => some .lstat | 0x19 => some .lctx | 0x1A => some .lvc | 0x20 => some .seq
    | 0x58 => some .old | 0x59 => some .ost | 0x5A => some .ocp | 0x5B => some .otl | 0x5C => some .rdv
    | 0x180 => some .trdy | _ => none

/-- The reserved fields `r` are zero, or the word is rejected. -/
def zeroes (r : Nat) (i : Instr) : Except Reject Instr := if r = 0 then .ok i else .error .reserved

/-- The operands are accepted, or the word is rejected. -/
def accept (i : Instr) : Except Reject Instr := if i.wf then .ok i else .error .unaccepted

/-- The register fields of the formats: bits [25:21], [20:16], [15:11]. -/
abbrev rd (w : Nat) : Reg := toReg (field w 21 5)
abbrev ra (w : Nat) : Reg := toReg (field w 16 5)
abbrev rb (w : Nat) : Reg := toReg (field w 11 5)

/-- A masked V-format word: the mask, then the rest. -/
def masked (w : Nat) (k : Mask → Except Reject Instr) : Except Reject Instr :=
  match Mask.ofCode (field w 6 5) (field w 4 2) with
  | .ok m => k m
  | .error e => .error e

/-- A field that holds a code of some values only. -/
def coded {α : Type} (c : Option α) (k : α → Except Reject Instr) : Except Reject Instr :=
  match c with
  | some x => k x
  | none => .error .unaccepted

abbrev etOf (w : Nat) : ElemType := ElemType.ofCode (field w 0 4)
abbrev flag (w b : Nat) : Bool := field w b 1 == 1

/-- Major 0x01 (R69, R70, R100). -/
def decode01 (w : Nat) : Except Reject Instr :=
  let sh := field w 0 6
  match field w 6 5 with
  | 0 => zeroes sh (.add (rd w) (ra w) (rb w))
  | 1 => zeroes sh (.sub (rd w) (ra w) (rb w))
  | 2 => zeroes sh (.mul (rd w) (ra w) (rb w))
  | 3 => zeroes sh (.mulh (rd w) (ra w) (rb w))
  | 4 => zeroes sh (.mulhn (rd w) (ra w) (rb w))
  | 5 => zeroes sh (.div (rd w) (ra w) (rb w))
  | 6 => zeroes sh (.divn (rd w) (ra w) (rb w))
  | 7 => zeroes sh (.rem (rd w) (ra w) (rb w))
  | 8 => zeroes sh (.remn (rd w) (ra w) (rb w))
  | 9 => zeroes sh (.and (rd w) (ra w) (rb w))
  | 10 => zeroes sh (.or (rd w) (ra w) (rb w))
  | 11 => zeroes sh (.xor (rd w) (ra w) (rb w))
  | 12 => zeroes sh (.sll (rd w) (ra w) (rb w))
  | 13 => zeroes sh (.srl (rd w) (ra w) (rb w))
  | 14 => zeroes sh (.sra (rd w) (ra w) (rb w))
  | 15 => zeroes (field w 11 5) (.slli (rd w) (ra w) (fin64 sh))
  | 16 => zeroes (field w 11 5) (.srli (rd w) (ra w) (fin64 sh))
  | 17 => zeroes (field w 11 5) (.srai (rd w) (ra w) (fin64 sh))
  | 18 => zeroes sh (.slt (rd w) (ra w) (rb w))
  | 19 => zeroes sh (.sltn (rd w) (ra w) (rb w))
  | 20 => zeroes sh (.min (rd w) (ra w) (rb w))
  | 21 => zeroes sh (.max (rd w) (ra w) (rb w))
  | 22 => zeroes sh (.minn (rd w) (ra w) (rb w))
  | 23 => zeroes sh (.maxn (rd w) (ra w) (rb w))
  | 24 => zeroes (field w 11 5 + sh) (.clz (rd w) (ra w))
  | 25 => zeroes (field w 11 5 + sh) (.ctz (rd w) (ra w))
  | 26 => zeroes (field w 11 5 + sh) (.popc (rd w) (ra w))
  | 27 => accept (.exts (rd w) (ra w) (fin64 sh) (rb w))
  | 28 => accept (.extn (rd w) (ra w) (fin64 sh) (rb w))
  | 29 => accept (.bins (rd w) (ra w) (fin64 sh) (rb w))
  | _ => .error .unassignedSelector

/-- Scalar floating point, major 0x0C (R69, R70, R107, R111). -/
def decode0C (w : Nat) : Except Reject Instr :=
  let cc := field w 0 3
  let ty (k : FType → Instr) : Except Reject Instr := coded (FType.ofCode (field w 3 4)) fun t => zeroes cc (k t)
  match field w 7 4 with
  | 0 => ty fun t => .fadd t (rd w) (ra w) (rb w)
  | 1 => ty fun t => .fsub t (rd w) (ra w) (rb w)
  | 2 => ty fun t => .fmul t (rd w) (ra w) (rb w)
  | 3 => ty fun t => .ffma t (rd w) (ra w) (rb w)
  | 4 => ty fun t => .fdiv t (rd w) (ra w) (rb w)
  | 6 => ty fun t => .fmin t (rd w) (ra w) (rb w)
  | 7 => ty fun t => .fmax t (rd w) (ra w) (rb w)
  | 5 => coded (FType.ofCode (field w 3 4)) fun t => zeroes (cc + field w 11 5) (.fsqrt t (rd w) (ra w))
  | 8 => coded (FType.ofCode (field w 3 4)) fun t => coded (FCond.ofCode cc) fun c => .ok (.fcmp c t (rd w) (ra w) (rb w))
  | 9 =>
    if cc = 0 ∧ field w 11 5 < 16 then
      accept (.fcvt (ElemType.ofCode (field w 3 4)) (ElemType.ofCode (field w 11 5)) (rd w) (ra w))
    else .error .unaccepted
  | _ => .error .unassignedSelector

/-- The M format (R62): the fields every load and store shares. -/
def mfields (w : Nat) (k : Reg → Reg → AddrMode → Order → Bool → BitVec 8 → Instr) : Except Reject Instr :=
  .ok (k (rd w) (ra w) (AddrMode.ofCode (field w 14 2)) (Order.ofCode (field w 9 2)) (flag w 8) (BitVec.ofNat 8 (field w 0 8)))

/-- Loads (R62, R139). -/
def decode10 (w : Nat) : Except Reject Instr :=
  match field w 11 3 with
  | 0 => mfields w .ldI8
  | 1 => mfields w .ldI16
  | 2 => mfields w .ldI32
  | 3 => mfields w .ld64
  | 4 => mfields w .ldN8
  | 5 => mfields w .ldN16
  | 6 => mfields w .ldN32
  | _ => .error .unaccepted

/-- Stores (R62, R139). -/
def decode11 (w : Nat) : Except Reject Instr :=
  match field w 11 3 with
  | 0 => mfields w .st8
  | 1 => mfields w .st16
  | 2 => mfields w .st32
  | 3 => mfields w .st64
  | _ => .error .unaccepted

/-- Vector loads (R140). -/
def decode18 (w : Nat) : Except Reject Instr :=
  match field w 11 3 with
  | 4 => mfields w .vld128
  | 5 => mfields w .vld256
  | 6 => mfields w .vld512
  | _ => .error .unaccepted

/-- Vector stores (R140). -/
def decode19 (w : Nat) : Except Reject Instr :=
  match field w 11 3 with
  | 4 => mfields w .vst128
  | 5 => mfields w .vst256
  | 6 => mfields w .vst512
  | _ => .error .unaccepted

/-- Bit fields, major 0x12 (R144). -/
def decode12 (w : Nat) : Except Reject Instr :=
  if field w 10 1 = 0 then zeroes (field w 0 4) (.lbf (flag w 9) (rd w) (ra w) (rb w) (fin32 (field w 4 5)))
  else zeroes (field w 0 4 + field w 9 1) (.sbf (rd w) (ra w) (rb w) (fin32 (field w 4 5)))

/-- Atomics, major 0x13 (R147). -/
def decode13 (w : Nat) : Except Reject Instr :=
  let go (k : Reg → Reg → Reg → Bool → AddrMode → Order → Scope → Instr) : Except Reject Instr :=
    coded (Scope.ofCode (field w 0 3)) fun sc =>
      accept (k (rd w) (ra w) (rb w) (flag w 7) (AddrMode.ofCode (field w 5 2)) (Order.ofCode (field w 3 2)) sc)
  match field w 8 3 with
  | 0 => go .atomAdd
  | 1 => go .atomAnd
  | 2 => go .atomOr
  | 3 => go .atomXor
  | 4 => go .atomMin
  | 5 => go .atomMax
  | 6 => go .atomSwp
  | _ => go .atomCas

/-- Fences, major 0x14 (R151). -/
def decode14 (w : Nat) : Except Reject Instr :=
  if field w 11 15 + field w 0 5 ≠ 0 then .error .reserved
  else coded (Scope.ofCode (field w 6 3)) fun sc =>
    match field w 9 2 with
    | 0 => accept (.fenceAcq sc (flag w 5))
    | 1 => accept (.fenceRel sc (flag w 5))
    | 2 => accept (.fenceSc sc (flag w 5))
    | _ => .error .unassignedSelector

/-- The tag table, major 0x15 (R153). -/
def decode15 (w : Nat) : Except Reject Instr :=
  match field w 9 2 with
  | 0 => zeroes (field w 0 9 + field w 11 5) (.tlook (rd w) (ra w))
  | 1 => zeroes (field w 0 9 + field w 21 5) (.tset (ra w) (rb w))
  | 2 => zeroes (field w 0 9 + field w 11 5 + field w 21 5) (.tclr (ra w))
  | _ => .error .unassignedSelector

/-- Vector atomics, major 0x1E (R149). -/
def decode1E (w : Nat) : Except Reject Instr :=
  let go (k : Reg → Reg → AddrMode → Mask → ElemType → Instr) : Except Reject Instr :=
    masked w fun m => accept (k (rd w) (ra w) (AddrMode.ofCode (field w 14 2)) m (etOf w))
  match field w 11 3 with
  | 0 => go .vatomAdd
  | 1 => go .vatomAnd
  | 2 => go .vatomOr
  | 3 => go .vatomXor
  | 4 => go .vatomMin
  | 5 => go .vatomMax
  | 6 => go .vatomSwp
  | _ => .error .unassignedSelector

/-- A V-format word with an element type and three registers (R63, R156). -/
def vform (w : Nat) (k : Reg → Reg → Reg → Mask → ElemType → Instr) : Except Reject Instr :=
  masked w fun m => accept (k (rd w) (ra w) (rb w) m (etOf w))

/-- Logic and select, major 0x26 (R158). -/
def decode26 (w : Nat) : Except Reject Instr :=
  let lw := LaneWidth.ofCode (field w 2 2)
  match field w 0 2 with
  | 0 => masked w fun m => .ok (.vand (rd w) (ra w) (rb w) m lw)
  | 1 => masked w fun m => .ok (.vor (rd w) (ra w) (rb w) m lw)
  | 2 => masked w fun m => .ok (.vxor (rd w) (ra w) (rb w) m lw)
  | _ => if field w 4 2 = 0 then .ok (.vsel (rd w) (ra w) (rb w) (toReg (field w 6 5)) lw) else .error .unaccepted

/-- Shifts, major 0x27 (R159): ET[3] and ET[0] select. -/
def decode27 (w : Nat) : Except Reject Instr :=
  let lw := LaneWidth.ofCode (field w 1 2)
  match field w 3 1 * 2 + field w 0 1 with
  | 0 => masked w fun m => .ok (.vshl (rd w) (ra w) (rb w) m lw)
  | 1 => masked w fun m => .ok (.vshr (rd w) (ra w) (rb w) m lw)
  | 2 => masked w fun m => .ok (.vsra (rd w) (ra w) (rb w) m lw)
  | _ => .error .unassignedSelector

/-- Compare, major 0x28 (R160). -/
def decode28 (w : Nat) : Except Reject Instr :=
  if field w 4 2 ≠ 0 then .error .unaccepted
  else coded (VCond.ofCode (field w 6 5)) fun c => accept (.vcmp c (rd w) (ra w) (rb w) (etOf w))

/-- The UOP codes of major 0x2B (R69). -/
def decode2B (w : Nat) : Except Reject Instr :=
  let uop := field w 11 5
  let v (k : Reg → Reg → Mask → ElemType → Instr) : Except Reject Instr :=
    masked w fun m => accept (k (rd w) (ra w) m (etOf w))
  if uop < 16 then masked w fun m => accept (.vcvt (etOf w) (ElemType.ofCode uop) (rd w) (ra w) m)
  else match uop with
  | 16 => v .vredAdd
  | 17 => v .vredMin
  | 18 => v .vredMax
  | 19 => v .vredOr
  | 20 => v .vscanAdd
  | 21 => v .vscanMax
  | 22 => v .vunpk
  | 23 => v .vbcast
  | 24 => if field w 4 1 = 0 then accept (.vmvg (rd w) (ra w) (fin64 (field w 5 6)) (etOf w)) else .error .reserved
  | 25 => if field w 4 1 = 0 then accept (.vmgv (rd w) (ra w) (fin64 (field w 5 6)) (etOf w)) else .error .reserved
  | 26 => v .vexp2
  | 27 => v .vlog2
  | 28 => v .vrcp
  | 29 => v .vrsq
  | 30 => v .vtanh
  | _ => masked w fun m => zeroes (field w 0 2) (.vnot (rd w) (ra w) m (LaneWidth.ofCode (field w 2 2)))

/-- Streams and the sequencer, majors 0x2C–0x2E (R176, R179, R180): the d field of the first two holds 24–31. -/
def decode2C (w : Nat) : Except Reject Instr :=
  if field w 24 2 ≠ 3 then .error .unaccepted
  else zeroes (field w 0 7)
    (.strcfg (fin8 (field w 21 3)) (ra w) (rb w) (flag w 10) (AddrMode.ofCode (field w 8 2)) (flag w 7))

def decode2D (w : Nat) : Except Reject Instr :=
  if field w 24 2 ≠ 3 then .error .unaccepted else zeroes (field w 0 21) (.strend (fin8 (field w 21 3)))

def decode2E (w : Nat) : Except Reject Instr :=
  zeroes (field w 21 5 + field w 4 12) (.vloop (ra w) (fin16 (field w 0 4)))

/-- The format prefix, major 0x30 (R65). -/
def decode30 (w : Nat) : Except Reject Instr :=
  coded (AccType.ofCode (field w 14 4)) fun c => zeroes (field w 0 11)
    (.fmt (ElemType.ofCode (field w 22 4)) (ElemType.ofCode (field w 18 4)) c (ScaleMode.ofCode (field w 12 2)) (flag w 11))

/-- Leases, ownership and counts, major 0x31 (R69, R70). -/
def decode31 (w : Nat) : Except Reject Instr :=
  let n := field w 0 7
  let d := field w 21 5
  let ab := field w 11 10
  match field w 7 4 with
  | 0 => zeroes (ab + n) (.mlease (rd w))
  | 1 => zeroes (d + ab + n) .mrel
  | 2 => if n < 64 then zeroes ab (.oclaim (rd w) (fin64 n)) else .error .unaccepted
  | 3 => if n < 64 then zeroes (d + ab) (.ofree (fin64 n)) else .error .unaccepted
  | 4 => if n < 16 then zeroes (d + ab) (.mzero (fin16 n)) else .error .unaccepted
  | 5 => zeroes (d + n) (.mvc (ra w) (rb w))
  | _ => .error .unassignedSelector

/-- Slot loads and tile stores, major 0x32 (R196, R200). -/
def decode32 (w : Nat) : Except Reject Instr :=
  let am := AddrMode.ofCode (field w 7 2)
  match field w 9 2 with
  | 0 => zeroes (field w 21 5) (.mld (ra w) (rb w) am (flag w 6) (fin64 (field w 0 6)))
  | 1 => zeroes (field w 21 5) (.mldt (ra w) (rb w) am (flag w 6) (fin64 (field w 0 6)))
  | 2 => zeroes (field w 21 5) (.mlds (ra w) (rb w) am (flag w 6) (fin64 (field w 0 6)))
  | _ => coded (OutType.ofCode (field w 21 4)) fun ot =>
      zeroes (field w 25 1 + field w 4 2) (.mst ot (ra w) (rb w) am (flag w 6) (fin16 (field w 0 4)))

/-- The scope of a counter instruction: DS = 1 makes SC reserved (R70, R220). -/
def counterScope (w : Nat) (k : Option Scope → Except Reject Instr) : Except Reject Instr :=
  if field w 0 3 ≠ 0 then .error .reserved
  else if field w 3 1 = 1 then (if field w 8 3 = 0 then k none else .error .reserved)
  else coded (Scope.ofCode (field w 8 3)) fun sc => k (some sc)

/-- Counters, major 0x36 (R220). The E-format registers a, b and c are bits [25:21], [20:16] and [15:11] (R64). -/
def decode36 (w : Nat) : Except Reject Instr :=
  counterScope w fun sc =>
  match field w 4 4 with
  | 0 => zeroes (field w 11 5) (.cadd (rd w) (ra w) sc)
  | 1 => .ok (.caddv (rd w) (ra w) (rb w) sc)
  | 2 => .ok (.cread (rd w) (ra w) (rb w) sc)
  | 3 => .ok (.cwait (rd w) (ra w) (rb w) sc)
  | 4 => .ok (.cwaitt (rd w) (ra w) (rb w) sc)
  | 5 => .ok (.caw (rd w) (ra w) (rb w) sc)
  | 6 => .ok (.cinit (rd w) (ra w) (rb w) sc)
  | 7 => zeroes (field w 11 10) (.cpoison (rd w) sc)
  | _ => .error .unassignedSelector

/-- Tag waits and joins, major 0x37 (R229). -/
def decode37 (w : Nat) : Except Reject Instr :=
  let b := field w 11 5
  match field w 8 3 with
  | 0 => zeroes (b + field w 0 8) (.twany (rd w) (ra w))
  | 1 => zeroes (b + field w 0 8) (.twall (rd w) (ra w))
  | 2 => zeroes (b + field w 16 5 + field w 0 8) (.tfirst (rd w))
  | 3 => zeroes (b + field w 16 5 + field w 21 5 + field w 1 7) (.fork (flag w 0))
  | 4 => zeroes (b + field w 0 8) (.join (rd w) (ra w))
  | _ => .error .unassignedSelector

/-- Copies, major 0x39 (R241). -/
def decode39 (w : Nat) : Except Reject Instr :=
  let go (k : Reg → Reg → Reg → Scope → Bool → Bool → Instr) : Except Reject Instr :=
    coded (Scope.ofCode (field w 8 3)) fun sc =>
      zeroes (field w 0 2) (k (rd w) (ra w) (rb w) sc (flag w 3) (flag w 2))
  match field w 4 4 with
  | 0 => go .xcopy
  | 1 => go .xgath
  | 2 => coded (Scope.ofCode (field w 8 3)) fun sc =>
      zeroes (field w 0 1) (.xscat (rd w) (ra w) (rb w) sc (flag w 3) (flag w 2) (flag w 1))
  | 3 => go .xfill
  | 4 => go .xput
  | 5 => go .xget
  | _ => .error .unassignedSelector

/-- Subscriptions and the query, major 0x3A (R249, R251). -/
def decode3A (w : Nat) : Except Reject Instr :=
  match field w 4 4 with
  | 0 => coded (Scope.ofCode (field w 8 3)) fun sc => zeroes (field w 0 4) (.xsub (rd w) (ra w) (rb w) sc)
  | 1 => coded (Scope.ofCode (field w 8 3)) fun sc => zeroes (field w 0 4) (.xpub (rd w) (ra w) (rb w) sc)
  | 2 => zeroes (field w 0 4 + field w 8 3) (.xquery (rd w) (ra w) (rb w))
  | _ => .error .unassignedSelector

/-- Object graphs, major 0x3B (R267). -/
def decode3B (w : Nat) : Except Reject Instr :=
  coded (Scope.ofCode (field w 8 3)) fun sc =>
  let go (k : Reg → Reg → Reg → Scope → Instr) : Except Reject Instr := zeroes (field w 0 4) (k (rd w) (ra w) (rb w) sc)
  match field w 4 4 with
  | 0 => go .glmap
  | 1 => go .gcopy
  | 2 => go .gsend
  | 3 => go .grecv
  | 4 => go .gcmp
  | 5 => go .ghash
  | 6 => go .grel
  | _ => .error .unassignedSelector

/-- Ephemeris, major 0x3C (R282): SC is reserved and FL[3:0] names the stream. -/
def decode3C (w : Nat) : Except Reject Instr :=
  let e := fin16 (field w 0 4)
  let sc := field w 8 3
  match field w 4 4 with
  | 0 => zeroes sc (.ebind e (rd w) (ra w) (rb w))
  | 1 => zeroes (sc + field w 16 10) (.estep e (rb w))
  | 2 => zeroes (sc + field w 11 5) (.eld e (rd w) (ra w))
  | 3 => zeroes (sc + field w 11 5) (.emma e (rd w) (ra w))
  | 4 => zeroes sc (.emap e (rd w) (ra w) (rb w))
  | 5 => zeroes sc (.esig e (rd w) (ra w) (rb w))
  | 6 => zeroes (sc + field w 11 15) (.eforce e)
  | _ => .error .unassignedSelector

/-- System instructions, major 0x3D (R116). -/
def decode3D (w : Nat) : Except Reject Instr :=
  let k := field w 0 12
  let d := field w 21 5
  let a := field w 16 5
  match field w 12 4 with
  | 0 => zeroes (d + a) (.trap (BitVec.ofNat 12 k))
  | 1 => zeroes (d + a + k) .tret
  | 2 => coded (CtlReg.ofCode k) fun r => zeroes a (.mfk (rd w) r)
  | 3 => coded (CtlReg.ofCode k) fun r => zeroes d (.mtk r (ra w))
  | 4 => zeroes (d + a) (.brk (BitVec.ofNat 12 k))
  | 5 => zeroes (d + k) (.genpub (ra w))
  | 6 => zeroes (d + a + k) .yield
  | _ => .error .unassignedSelector

/-- Immediates, jumps and branches, majors 0x02–0x0B (R58–R61, R103, R104, R112–R114). -/
def decodeImm (maj w : Nat) : Except Reject Instr :=
  let i16 := BitVec.ofNat 16 (field w 0 16)
  let o14 := BitVec.ofNat 14 (field w 2 14)
  match maj with
  | 0x02 => .ok (.addi (rd w) (ra w) i16)
  | 0x03 => .ok (.andi (rd w) (ra w) i16)
  | 0x04 => .ok (.ori (rd w) (ra w) i16)
  | 0x05 => .ok (.xori (rd w) (ra w) i16)
  | 0x06 => .ok (.slti (rd w) (ra w) i16)
  | 0x07 => if field w 20 1 = 0 then .ok (.lih (rd w) (BitVec.ofNat 20 (field w 0 20)))
            else .ok (.addpc (rd w) (BitVec.ofNat 20 (field w 0 20)))
  | 0x08 => .ok (.jal (rd w) (BitVec.ofNat 21 (field w 0 21)))
  | 0x09 => .ok (.jalr (rd w) (ra w) i16)
  | 0x0A => match field w 0 2 with
    | 0 => .ok (.beq (rd w) (ra w) o14)
    | 1 => .ok (.bne (rd w) (ra w) o14)
    | _ => .error .unassignedSelector
  | _ => match field w 0 2 with
    | 0 => .ok (.blt (rd w) (ra w) o14)
    | 1 => .ok (.bge (rd w) (ra w) o14)
    | 2 => .ok (.bltn (rd w) (ra w) o14)
    | _ => .ok (.bgen (rd w) (ra w) o14)

/-- A word of a one-word major (R55, R69). -/
def decodeOne (w : Nat) : Except Reject Instr :=
  match field w 26 6 with
  | 0x01 => decode01 w
  | 0x02 => decodeImm 0x02 w | 0x03 => decodeImm 0x03 w | 0x04 => decodeImm 0x04 w | 0x05 => decodeImm 0x05 w
  | 0x06 => decodeImm 0x06 w | 0x07 => decodeImm 0x07 w | 0x08 => decodeImm 0x08 w | 0x09 => decodeImm 0x09 w
  | 0x0A => decodeImm 0x0A w | 0x0B => decodeImm 0x0B w
  | 0x0C => decode0C w
  | 0x10 => decode10 w | 0x11 => decode11 w | 0x12 => decode12 w | 0x13 => decode13 w | 0x14 => decode14 w
  | 0x15 => decode15 w
  | 0x18 => decode18 w | 0x19 => decode19 w
  | 0x1A => vform w .vlds | 0x1B => vform w .vsts | 0x1C => vform w .vldx | 0x1D => vform w .vstx
  | 0x1E => decode1E w
  | 0x20 => vform w .vadd | 0x21 => vform w .vsub | 0x22 => vform w .vmul | 0x23 => vform w .vfma
  | 0x24 => vform w .vmin | 0x25 => vform w .vmax
  | 0x26 => decode26 w | 0x27 => decode27 w | 0x28 => decode28 w
  | 0x29 => vform w .vperm | 0x2A => vform w .vpack
  | 0x2B => decode2B w
  | 0x2C => decode2C w | 0x2D => decode2D w | 0x2E => decode2E w
  | 0x30 => decode30 w | 0x31 => decode31 w | 0x32 => decode32 w
  | 0x33 => zeroes (field w 16 10) (.mma (fin16 (field w 12 4)) (fin64 (field w 6 6)) (fin64 (field w 0 6)))
  | 0x36 => decode36 w | 0x37 => decode37 w
  | 0x38 => zeroes (field w 16 10)
      (.waitn (fin16 (field w 12 4)) (fin16 (field w 8 4)) (fin16 (field w 4 4)) (fin16 (field w 0 4)))
  | 0x39 => decode39 w | 0x3A => decode3A w | 0x3B => decode3B w | 0x3C => decode3C w | 0x3D => decode3D w
  | _ => .error .unassignedMajor

/-- The checks on the first word, in the order of R53: major 0x3F goes on to its second word only when SUB is 0. -/
def decodeFirst (w : Nat) : First :=
  if field w 26 6 = 0x3F then
    (if field w 16 5 = 0 then .li48 (rd w) (BitVec.ofNat 16 (field w 0 16)) else .one (.error .unassignedSelector))
  else .one (decodeOne w)

/-- LI48 from its two words (R66, R105). -/
def decodeLi48 (d : Reg) (immh : BitVec 16) (w1 : BitVec 32) : Instr := .li48 d (immh ++ w1)

/-- Four bytes as a little-endian word (R9, R52). -/
def wordOfBytes : List Byte → Option (Nat × List Byte)
  | b0 :: b1 :: b2 :: b3 :: rest => some (b0.toNat + 256 * b1.toNat + 65536 * b2.toNat + 16777216 * b3.toNat, rest)
  | _ => none

/-- The instruction at the head of a list of bytes, with the bytes after it. -/
def decode (bs : List Byte) : Except Reject (Instr × List Byte) :=
  match wordOfBytes bs with
  | none => .error .truncated
  | some (w0, rest) =>
    match decodeFirst w0 with
    | .one (.ok i) => .ok (i, rest)
    | .one (.error e) => .error e
    | .li48 d immh =>
      match wordOfBytes rest with
      | none => .error .truncated
      | some (w1, rest') => .ok (decodeLi48 d immh (BitVec.ofNat 32 w1), rest')

/-- The bytes of a word, lowest first (R52). -/
def bytesOfWord (w : Nat) : List Byte :=
  [BitVec.ofNat 8 w, BitVec.ofNat 8 (w / 256), BitVec.ofNat 8 (w / 65536), BitVec.ofNat 8 (w / 16777216)]

/-- The bytes of an instruction given in the table's bit numbering: two words, the bits above `nbits` zero. -/
def tableBytes (nbits w : Nat) : List Byte :=
  bytesOfWord (w % 2 ^ nbits % 2 ^ 32) ++ bytesOfWord (w % 2 ^ nbits / 2 ^ 32 % 2 ^ 32)

/-- The instruction the decoder reads from `nbits` bits of the table's numbering. -/
def decodeTableWord (nbits w : Nat) : Option Instr :=
  match decode (tableBytes nbits w) with
  | .ok (i, _) => some i
  | .error _ => none

/-! ### The encoder (R57–R70) -/

/-- A Boolean field. -/
def bit (b : Bool) : Nat := if b then 1 else 0

/-- The A, B and E formats: three register fields and eleven bits. -/
def encA (maj d a b f : Nat) : Nat := maj * 2 ^ 26 + d * 2 ^ 21 + a * 2 ^ 16 + b * 2 ^ 11 + f

/-- The I format. -/
def encI (maj d a imm : Nat) : Nat := maj * 2 ^ 26 + d * 2 ^ 21 + a * 2 ^ 16 + imm

/-- The M format. -/
def encM (maj : Nat) (d base : Reg) (am : AddrMode) (sz : Nat) (oa : Order) (nt : Bool) (off : BitVec 8) : Nat :=
  maj * 2 ^ 26 + d.val * 2 ^ 21 + base.val * 2 ^ 16 + am.code * 2 ^ 14 + sz * 2 ^ 11 + oa.code * 2 ^ 9 + bit nt * 2 ^ 8 + off.toNat

/-- The V format. -/
def encV (maj vd va vb m mk et : Nat) : Nat :=
  maj * 2 ^ 26 + vd * 2 ^ 21 + va * 2 ^ 16 + vb * 2 ^ 11 + m * 2 ^ 6 + mk * 2 ^ 4 + et

/-- SC and DS of a counter instruction (R70). -/
def encScope : Option Scope → Nat
  | none => 8
  | some sc => sc.code * 256

/-- The words of an instruction, first word first; a step of the device has none. -/
def Instr.words : Instr → List Nat
  | .add d a b => [encA 1 d.val a.val b.val (0 * 64)]
  | .sub d a b => [encA 1 d.val a.val b.val (1 * 64)]
  | .mul d a b => [encA 1 d.val a.val b.val (2 * 64)]
  | .mulh d a b => [encA 1 d.val a.val b.val (3 * 64)]
  | .mulhn d a b => [encA 1 d.val a.val b.val (4 * 64)]
  | .div d a b => [encA 1 d.val a.val b.val (5 * 64)]
  | .divn d a b => [encA 1 d.val a.val b.val (6 * 64)]
  | .rem d a b => [encA 1 d.val a.val b.val (7 * 64)]
  | .remn d a b => [encA 1 d.val a.val b.val (8 * 64)]
  | .and d a b => [encA 1 d.val a.val b.val (9 * 64)]
  | .or d a b => [encA 1 d.val a.val b.val (10 * 64)]
  | .xor d a b => [encA 1 d.val a.val b.val (11 * 64)]
  | .sll d a b => [encA 1 d.val a.val b.val (12 * 64)]
  | .srl d a b => [encA 1 d.val a.val b.val (13 * 64)]
  | .sra d a b => [encA 1 d.val a.val b.val (14 * 64)]
  | .slli d a sh => [encA 1 d.val a.val 0 (15 * 64 + sh.val)]
  | .srli d a sh => [encA 1 d.val a.val 0 (16 * 64 + sh.val)]
  | .srai d a sh => [encA 1 d.val a.val 0 (17 * 64 + sh.val)]
  | .slt d a b => [encA 1 d.val a.val b.val (18 * 64)]
  | .sltn d a b => [encA 1 d.val a.val b.val (19 * 64)]
  | .min d a b => [encA 1 d.val a.val b.val (20 * 64)]
  | .max d a b => [encA 1 d.val a.val b.val (21 * 64)]
  | .minn d a b => [encA 1 d.val a.val b.val (22 * 64)]
  | .maxn d a b => [encA 1 d.val a.val b.val (23 * 64)]
  | .clz d a => [encA 1 d.val a.val 0 (24 * 64)]
  | .ctz d a => [encA 1 d.val a.val 0 (25 * 64)]
  | .popc d a => [encA 1 d.val a.val 0 (26 * 64)]
  | .exts d a p w => [encA 1 d.val a.val w.val (27 * 64 + p.val)]
  | .extn d a p w => [encA 1 d.val a.val w.val (28 * 64 + p.val)]
  | .bins d a p w => [encA 1 d.val a.val w.val (29 * 64 + p.val)]
  | .addi d a imm => [encI 2 d.val a.val imm.toNat]
  | .andi d a imm => [encI 3 d.val a.val imm.toNat]
  | .ori d a imm => [encI 4 d.val a.val imm.toNat]
  | .xori d a imm => [encI 5 d.val a.val imm.toNat]
  | .slti d a imm => [encI 6 d.val a.val imm.toNat]
  | .lih d imm => [7 * 2 ^ 26 + d.val * 2 ^ 21 + imm.toNat]
  | .addpc d imm => [7 * 2 ^ 26 + d.val * 2 ^ 21 + 2 ^ 20 + imm.toNat]
  | .jal d off => [8 * 2 ^ 26 + d.val * 2 ^ 21 + off.toNat]
  | .jalr d a imm => [encI 9 d.val a.val imm.toNat]
  | .beq a b off => [encI 10 a.val b.val (off.toNat * 4 + 0)]
  | .bne a b off => [encI 10 a.val b.val (off.toNat * 4 + 1)]
  | .blt a b off => [encI 11 a.val b.val (off.toNat * 4 + 0)]
  | .bge a b off => [encI 11 a.val b.val (off.toNat * 4 + 1)]
  | .bltn a b off => [encI 11 a.val b.val (off.toNat * 4 + 2)]
  | .bgen a b off => [encI 11 a.val b.val (off.toNat * 4 + 3)]
  | .fadd t d a b => [encA 12 d.val a.val b.val (0 * 128 + t.code * 8)]
  | .fsub t d a b => [encA 12 d.val a.val b.val (1 * 128 + t.code * 8)]
  | .fmul t d a b => [encA 12 d.val a.val b.val (2 * 128 + t.code * 8)]
  | .ffma t d a b => [encA 12 d.val a.val b.val (3 * 128 + t.code * 8)]
  | .fdiv t d a b => [encA 12 d.val a.val b.val (4 * 128 + t.code * 8)]
  | .fsqrt t d a => [encA 12 d.val a.val 0 (5 * 128 + t.code * 8)]
  | .fmin t d a b => [encA 12 d.val a.val b.val (6 * 128 + t.code * 8)]
  | .fmax t d a b => [encA 12 d.val a.val b.val (7 * 128 + t.code * 8)]
  | .fcmp c t d a b => [encA 12 d.val a.val b.val (8 * 128 + t.code * 8 + c.code)]
  | .fcvt t u d a => [encA 12 d.val a.val u.code (9 * 128 + t.code * 8)]
  | .ldI8 d base am oa nt off => [encM 16 d base am 0 oa nt off]
  | .ldI16 d base am oa nt off => [encM 16 d base am 1 oa nt off]
  | .ldI32 d base am oa nt off => [encM 16 d base am 2 oa nt off]
  | .ld64 d base am oa nt off => [encM 16 d base am 3 oa nt off]
  | .ldN8 d base am oa nt off => [encM 16 d base am 4 oa nt off]
  | .ldN16 d base am oa nt off => [encM 16 d base am 5 oa nt off]
  | .ldN32 d base am oa nt off => [encM 16 d base am 6 oa nt off]
  | .st8 d base am oa nt off => [encM 17 d base am 0 oa nt off]
  | .st16 d base am oa nt off => [encM 17 d base am 1 oa nt off]
  | .st32 d base am oa nt off => [encM 17 d base am 2 oa nt off]
  | .st64 d base am oa nt off => [encM 17 d base am 3 oa nt off]
  | .lbf sx d a b w => [encA 18 d.val a.val b.val (bit sx * 512 + w.val * 16)]
  | .sbf d a b w => [encA 18 d.val a.val b.val (1024 + w.val * 16)]
  | .atomAdd d a b w64 am oa sc => [encA 19 d.val a.val b.val (0 * 256 + bit w64 * 128 + am.code * 32 + oa.code * 8 + sc.code)]
  | .atomAnd d a b w64 am oa sc => [encA 19 d.val a.val b.val (1 * 256 + bit w64 * 128 + am.code * 32 + oa.code * 8 + sc.code)]
  | .atomOr d a b w64 am oa sc => [encA 19 d.val a.val b.val (2 * 256 + bit w64 * 128 + am.code * 32 + oa.code * 8 + sc.code)]
  | .atomXor d a b w64 am oa sc => [encA 19 d.val a.val b.val (3 * 256 + bit w64 * 128 + am.code * 32 + oa.code * 8 + sc.code)]
  | .atomMin d a b w64 am oa sc => [encA 19 d.val a.val b.val (4 * 256 + bit w64 * 128 + am.code * 32 + oa.code * 8 + sc.code)]
  | .atomMax d a b w64 am oa sc => [encA 19 d.val a.val b.val (5 * 256 + bit w64 * 128 + am.code * 32 + oa.code * 8 + sc.code)]
  | .atomSwp d a b w64 am oa sc => [encA 19 d.val a.val b.val (6 * 256 + bit w64 * 128 + am.code * 32 + oa.code * 8 + sc.code)]
  | .atomCas d a b w64 am oa sc => [encA 19 d.val a.val b.val (7 * 256 + bit w64 * 128 + am.code * 32 + oa.code * 8 + sc.code)]
  | .fenceAcq sc all => [encA 20 0 0 0 (0 * 512 + sc.code * 64 + bit all * 32)]
  | .fenceRel sc all => [encA 20 0 0 0 (1 * 512 + sc.code * 64 + bit all * 32)]
  | .fenceSc sc all => [encA 20 0 0 0 (2 * 512 + sc.code * 64 + bit all * 32)]
  | .tlook d a => [encA 21 d.val a.val 0 (0)]
  | .tset a b => [encA 21 0 a.val b.val (512)]
  | .tclr a => [encA 21 0 a.val 0 (1024)]
  | .vld128 d base am oa nt off => [encM 24 d base am 4 oa nt off]
  | .vld256 d base am oa nt off => [encM 24 d base am 5 oa nt off]
  | .vld512 d base am oa nt off => [encM 24 d base am 6 oa nt off]
  | .vst128 d base am oa nt off => [encM 25 d base am 4 oa nt off]
  | .vst256 d base am oa nt off => [encM 25 d base am 5 oa nt off]
  | .vst512 d base am oa nt off => [encM 25 d base am 6 oa nt off]
  | .vlds vd ga gb mk et => [encV 26 vd.val ga.val gb.val mk.reg mk.mk et.code]
  | .vsts vd ga gb mk et => [encV 27 vd.val ga.val gb.val mk.reg mk.mk et.code]
  | .vldx vd ga vb mk et => [encV 28 vd.val ga.val vb.val mk.reg mk.mk et.code]
  | .vstx vd ga vb mk et => [encV 29 vd.val ga.val vb.val mk.reg mk.mk et.code]
  | .vatomAdd vd va am mk et => [encV 30 vd.val va.val (am.code * 8 + 0) mk.reg mk.mk et.code]
  | .vatomAnd vd va am mk et => [encV 30 vd.val va.val (am.code * 8 + 1) mk.reg mk.mk et.code]
  | .vatomOr vd va am mk et => [encV 30 vd.val va.val (am.code * 8 + 2) mk.reg mk.mk et.code]
  | .vatomXor vd va am mk et => [encV 30 vd.val va.val (am.code * 8 + 3) mk.reg mk.mk et.code]
  | .vatomMin vd va am mk et => [encV 30 vd.val va.val (am.code * 8 + 4) mk.reg mk.mk et.code]
  | .vatomMax vd va am mk et => [encV 30 vd.val va.val (am.code * 8 + 5) mk.reg mk.mk et.code]
  | .vatomSwp vd va am mk et => [encV 30 vd.val va.val (am.code * 8 + 6) mk.reg mk.mk et.code]
  | .vadd vd va vb mk et => [encV 32 vd.val va.val vb.val mk.reg mk.mk et.code]
  | .vsub vd va vb mk et => [encV 33 vd.val va.val vb.val mk.reg mk.mk et.code]
  | .vmul vd va vb mk et => [encV 34 vd.val va.val vb.val mk.reg mk.mk et.code]
  | .vfma vd va vb mk et => [encV 35 vd.val va.val vb.val mk.reg mk.mk et.code]
  | .vmin vd va vb mk et => [encV 36 vd.val va.val vb.val mk.reg mk.mk et.code]
  | .vmax vd va vb mk et => [encV 37 vd.val va.val vb.val mk.reg mk.mk et.code]
  | .vand vd va vb mk lw => [encV 38 vd.val va.val vb.val mk.reg mk.mk (lw.code * 4 + 0)]
  | .vor vd va vb mk lw => [encV 38 vd.val va.val vb.val mk.reg mk.mk (lw.code * 4 + 1)]
  | .vxor vd va vb mk lw => [encV 38 vd.val va.val vb.val mk.reg mk.mk (lw.code * 4 + 2)]
  | .vsel vd va vb m lw => [encV 38 vd.val va.val vb.val m.val 0 (lw.code * 4 + 3)]
  | .vshl vd va vb mk lw => [encV 39 vd.val va.val vb.val mk.reg mk.mk (lw.code * 2 + 0)]
  | .vshr vd va vb mk lw => [encV 39 vd.val va.val vb.val mk.reg mk.mk (lw.code * 2 + 1)]
  | .vsra vd va vb mk lw => [encV 39 vd.val va.val vb.val mk.reg mk.mk (lw.code * 2 + 8)]
  | .vcmp c vd va vb et => [encV 40 vd.val va.val vb.val c.code 0 et.code]
  | .vperm vd va vb mk et => [encV 41 vd.val va.val vb.val mk.reg mk.mk et.code]
  | .vpack vd va vb mk et => [encV 42 vd.val va.val vb.val mk.reg mk.mk et.code]
  | .vcvt t u vd va mk => [encV 43 vd.val va.val u.code mk.reg mk.mk t.code]
  | .vredAdd vd va mk et => [encV 43 vd.val va.val 16 mk.reg mk.mk et.code]
  | .vredMin vd va mk et => [encV 43 vd.val va.val 17 mk.reg mk.mk et.code]
  | .vredMax vd va mk et => [encV 43 vd.val va.val 18 mk.reg mk.mk et.code]
  | .vredOr vd va mk et => [encV 43 vd.val va.val 19 mk.reg mk.mk et.code]
  | .vscanAdd vd va mk et => [encV 43 vd.val va.val 20 mk.reg mk.mk et.code]
  | .vscanMax vd va mk et => [encV 43 vd.val va.val 21 mk.reg mk.mk et.code]
  | .vunpk vd va mk et => [encV 43 vd.val va.val 22 mk.reg mk.mk et.code]
  | .vbcast vd ga mk et => [encV 43 vd.val ga.val 23 mk.reg mk.mk et.code]
  | .vmvg gd va n et => [encA 43 gd.val va.val 24 (n.val * 32 + et.code)]
  | .vmgv vd ga n et => [encA 43 vd.val ga.val 25 (n.val * 32 + et.code)]
  | .vexp2 vd va mk et => [encV 43 vd.val va.val 26 mk.reg mk.mk et.code]
  | .vlog2 vd va mk et => [encV 43 vd.val va.val 27 mk.reg mk.mk et.code]
  | .vrcp vd va mk et => [encV 43 vd.val va.val 28 mk.reg mk.mk et.code]
  | .vrsq vd va mk et => [encV 43 vd.val va.val 29 mk.reg mk.mk et.code]
  | .vtanh vd va mk et => [encV 43 vd.val va.val 30 mk.reg mk.mk et.code]
  | .vnot vd va mk lw => [encV 43 vd.val va.val 31 mk.reg mk.mk (lw.code * 4)]
  | .strcfg j a b dir am nt => [encA 44 (24 + j.val) a.val b.val (bit dir * 1024 + am.code * 256 + bit nt * 128)]
  | .strend j => [encA 45 (24 + j.val) 0 0 (0)]
  | .vloop a n => [encA 46 0 a.val 0 (n.val)]
  | .fmt aty bty cty scl sp => [48 * 2 ^ 26 + aty.code * 2 ^ 22 + bty.code * 2 ^ 18 + cty.code * 2 ^ 14 + scl.code * 2 ^ 12 + bit sp * 2 ^ 11]
  | .mlease d => [encA 49 d.val 0 0 (0)]
  | .mrel => [encA 49 0 0 0 (128)]
  | .oclaim d n => [encA 49 d.val 0 0 (256 + n.val)]
  | .ofree n => [encA 49 0 0 0 (384 + n.val)]
  | .mzero t => [encA 49 0 0 0 (512 + t.val)]
  | .mvc a b => [encA 49 0 a.val b.val (640)]
  | .mld a b am nt slot => [encA 50 0 a.val b.val (0 * 512 + am.code * 128 + bit nt * 64 + slot.val)]
  | .mldt a b am nt slot => [encA 50 0 a.val b.val (1 * 512 + am.code * 128 + bit nt * 64 + slot.val)]
  | .mlds a b am nt slot => [encA 50 0 a.val b.val (2 * 512 + am.code * 128 + bit nt * 64 + slot.val)]
  | .mst ot a b am nt t => [encA 50 ot.code a.val b.val (1536 + am.code * 128 + bit nt * 64 + t.val)]
  | .mma t sa sb => [51 * 2 ^ 26 + t.val * 2 ^ 12 + sa.val * 2 ^ 6 + sb.val]
  | .cadd a b sc => [encA 54 a.val b.val 0 (0 * 16 + encScope sc)]
  | .caddv a b c sc => [encA 54 a.val b.val c.val (1 * 16 + encScope sc)]
  | .cread a b c sc => [encA 54 a.val b.val c.val (2 * 16 + encScope sc)]
  | .cwait a b c sc => [encA 54 a.val b.val c.val (3 * 16 + encScope sc)]
  | .cwaitt a b c sc => [encA 54 a.val b.val c.val (4 * 16 + encScope sc)]
  | .caw a b c sc => [encA 54 a.val b.val c.val (5 * 16 + encScope sc)]
  | .cinit a b c sc => [encA 54 a.val b.val c.val (6 * 16 + encScope sc)]
  | .cpoison a sc => [encA 54 a.val 0 0 (7 * 16 + encScope sc)]
  | .twany d a => [encA 55 d.val a.val 0 (0 * 256)]
  | .twall d a => [encA 55 d.val a.val 0 (1 * 256)]
  | .tfirst d => [encA 55 d.val 0 0 (2 * 256)]
  | .fork mb => [encA 55 0 0 0 (768 + bit mb)]
  | .join d a => [encA 55 d.val a.val 0 (4 * 256)]
  | .waitn ld st cp tl => [56 * 2 ^ 26 + ld.val * 2 ^ 12 + st.val * 2 ^ 8 + cp.val * 2 ^ 4 + tl.val]
  | .xcopy a b c sc acq rel => [encA 57 a.val b.val c.val (sc.code * 256 + 0 * 16 + bit acq * 8 + bit rel * 4)]
  | .xgath a b c sc acq rel => [encA 57 a.val b.val c.val (sc.code * 256 + 1 * 16 + bit acq * 8 + bit rel * 4)]
  | .xscat a b c sc acq rel ord => [encA 57 a.val b.val c.val (sc.code * 256 + 2 * 16 + bit acq * 8 + bit rel * 4 + bit ord * 2)]
  | .xfill a b c sc acq rel => [encA 57 a.val b.val c.val (sc.code * 256 + 3 * 16 + bit acq * 8 + bit rel * 4)]
  | .xput a b c sc acq rel => [encA 57 a.val b.val c.val (sc.code * 256 + 4 * 16 + bit acq * 8 + bit rel * 4)]
  | .xget a b c sc acq rel => [encA 57 a.val b.val c.val (sc.code * 256 + 5 * 16 + bit acq * 8 + bit rel * 4)]
  | .xsub a b c sc => [encA 58 a.val b.val c.val (sc.code * 256 + 0 * 16)]
  | .xpub a b c sc => [encA 58 a.val b.val c.val (sc.code * 256 + 1 * 16)]
  | .xquery a b c => [encA 58 a.val b.val c.val (32)]
  | .glmap a b c sc => [encA 59 a.val b.val c.val (sc.code * 256 + 0 * 16)]
  | .gcopy a b c sc => [encA 59 a.val b.val c.val (sc.code * 256 + 1 * 16)]
  | .gsend a b c sc => [encA 59 a.val b.val c.val (sc.code * 256 + 2 * 16)]
  | .grecv a b c sc => [encA 59 a.val b.val c.val (sc.code * 256 + 3 * 16)]
  | .gcmp a b c sc => [encA 59 a.val b.val c.val (sc.code * 256 + 4 * 16)]
  | .ghash a b c sc => [encA 59 a.val b.val c.val (sc.code * 256 + 5 * 16)]
  | .grel a b c sc => [encA 59 a.val b.val c.val (sc.code * 256 + 6 * 16)]
  | .ebind e a b c => [encA 60 a.val b.val c.val (0 * 16 + e.val)]
  | .estep e c => [encA 60 0 0 c.val (1 * 16 + e.val)]
  | .eld e a b => [encA 60 a.val b.val 0 (2 * 16 + e.val)]
  | .emma e a b => [encA 60 a.val b.val 0 (3 * 16 + e.val)]
  | .emap e a b c => [encA 60 a.val b.val c.val (4 * 16 + e.val)]
  | .esig e a b c => [encA 60 a.val b.val c.val (5 * 16 + e.val)]
  | .eforce e => [encA 60 0 0 0 (6 * 16 + e.val)]
  | .trap k => [encI 61 0 0 k.toNat]
  | .tret => [encI 61 0 0 4096]
  | .mfk d k => [encI 61 d.val 0 (8192 + k.code)]
  | .mtk k a => [encI 61 0 a.val (12288 + k.code)]
  | .brk k => [encI 61 0 0 (16384 + k.toNat)]
  | .genpub a => [encI 61 0 a.val 20480]
  | .yield => [encI 61 0 0 24576]
  | .li48 d imm => [63 * 2 ^ 26 + d.val * 2 ^ 21 + imm.toNat / 2 ^ 32, imm.toNat % 2 ^ 32]
  | _ => []

/-- The bytes of an instruction as memory holds them (R52). -/
def Instr.bytes (i : Instr) : List Byte := i.words.flatMap bytesOfWord

/-- The instruction words as TVAL shows them: the second word, if any, in bits [63:32] (R54). -/
def Instr.tval (i : Instr) : Word :=
  match i.words with
  | [w0] => BitVec.ofNat 64 w0
  | w0 :: w1 :: _ => BitVec.ofNat 64 (w0 + 2 ^ 32 * w1)
  | [] => 0

/-- An instruction of the program, as against a step of the device. -/
def Instr.isProgram (i : Instr) : Bool := !i.words.isEmpty

end Sys2Proof
end

