-- ==== Sys2Proof/Machine/State.lean ====
section
/-! DEFINITION. The state of the package: one record per hart, memory, the units that move on their own, and the state after reset. -/

namespace Sys2Proof.Machine

/-! ## The hart -/

/-- Privilege modes (R15). The reserved code 0b10 is never held. -/
inductive Mode where
  | user | supervisor | firmware
  deriving DecidableEq, Repr

/-- TSW.RM (R25). -/
inductive Round where
  | rne | rtz | rdn | rup
  deriving DecidableEq, Repr

/-- The thread status word (R24); TSWS has the same fields (R26). -/
structure Tsw where
  gen   : BitVec 24
  pfmt  : BitVec 16
  pp    : Bool
  ap    : Bool
  rs    : Bool
  rlane : BitVec 7
  rm    : Round
  nv    : Bool
  dz    : Bool
  of    : Bool
  uf    : Bool
  nx    : Bool
  ie    : Bool
  mode  : Mode
  deriving DecidableEq, Repr

/-- Trap registers (R28). Bits [1:0] of `tvec` and `tepc` are kept zero by every write. -/
structure TrapRegs where
  tvec : Word
  int  : Bool
  code : BitVec 16
  tval : Word
  tepc : Word
  tscr : Word
  deriving DecidableEq, Repr

/-- Interrupt and timer registers (R29). -/
structure IrqRegs where
  pend    : BitVec 6
  mask    : BitVec 6
  cycle   : Word
  timecmp : Word
  deriving DecidableEq, Repr

/-- An outstanding count (R39). -/
structure Count where
  iss : BitVec 32
  ret : BitVec 32
  deriving DecidableEq, Repr

/-- A piece a read-bound stream has read ahead (R178): its bytes, and the places they were read from with their lengths. -/
structure AheadPiece where
  data   : V512
  places : List (Nat × Nat)
  deriving DecidableEq, Repr

/-- The state of one stream register (R35), and the pieces a read-bound stream has read ahead (R178), oldest first. -/
structure Stream where
  sa     : Word
  sn     : Word
  stride : BitVec 32
  exh    : Bool
  nt     : Bool
  am     : AddrMode
  dir    : Bool
  en     : Bool
  ahead  : List AheadPiece
  deriving DecidableEq, Repr

/-- The vector sequencer (R34) with what R181 adds to SEQ: Stopped, and the finished loops whose add to RDV has not been made. -/
structure Sequencer where
  pos     : BitVec 4
  run     : Bool
  capt    : Bool
  count   : BitVec 5
  sqi     : Vector (BitVec 32) 16
  stopped : Bool
  ending  : Nat
  deriving DecidableEq, Repr

/-- Lease, context and valid-count registers (R32). -/
structure LeaseRegs where
  pctx : BitVec 8
  park : Bool
  held : Bool
  left : BitVec 5
  hctx : BitVec 8
  ctx  : BitVec 8
  cols : BitVec 9
  rows : BitVec 9
  deriving DecidableEq, Repr

/-- A register a load fills (R132) or poisons (R133). -/
inductive Dest where
  | g (r : Reg)
  | v (r : Reg)
  deriving DecidableEq, Repr

/-- A load or atomic whose data has not arrived (R132): its register, its address, the value, whether its page's key was refused (R406), and
whether its page is UN (R152). -/
structure PendingLoad where
  dest : Dest
  addr : Word
  data : V512
  bad  : Bool
  un   : Bool
  deriving DecidableEq, Repr

/-- A store that no unit has acknowledged (R137): whether its pages are UN (R152), whether some of it goes out over CXL (R364), and the numbers of the
replication sequence from `first` to below `upto` among which its own writes lie, to be applied in all three replicas first (R312). -/
structure PendingStore where
  un    : Bool
  far   : Bool
  first : Nat
  upto  : Nat
  deriving DecidableEq, Repr

/-! ## Walks (R252–R275) -/

/-- An object the walker has read and not finished (R258): its address, the words of its one pass, the address and words of its partner in the
second graph (GCMP), the layout entry of its type at its visit and the one in force (R256), and the next word to examine. -/
structure Frame where
  addr   : Word
  words  : List Word
  addr2  : Word
  words2 : List Word
  first  : List Word
  layout : List Word
  wpos   : Nat
  deriving DecidableEq, Repr

/-- An object whose one pass the walker has begun (R264): its address, the words read so far and the layout entry of its type. -/
structure ObjRead where
  addr   : Word
  words  : List Word
  layout : List Word
  deriving DecidableEq, Repr

/-- A page fault a unit waits on (R248, R266, R430): the address, the kind of access (1 read, 2 write, 3 both), the cause
(1 PAGE, 2 PERM), the space, and the fault record once it is written: its ring and sequence number (R361). -/
structure Suspension where
  va     : Word
  kind   : Nat
  cause  : Nat
  space  : BitVec 20
  record : Option (Nat × Nat)
  deriving DecidableEq, Repr

/-- A fault record in the ring of a slice (R361): its sequence number and its six words. -/
structure FaultRecord where
  slice : Nat
  seq   : Nat
  words : List Word
  deriving DecidableEq, Repr

/-- A graph walk (R258–R266), running or parked. `seen` lists the objects numbered so far in index order, each with its copy or its
partner in the second graph; `stack` has the object on top first; `entries` are the layout entries read (R256). `alloc` is the allocation of a
visit that a fault stopped. `ptrs` are the pointer words of the copies with their targets (R269). `out` are stream words found and not sent,
`starts` the stream offsets of the entries (R368), `recs` canonical records (R274). `fail` is an end decided outside the walk: status, RES0 and RES1. -/
structure Walk where
  id       : Nat
  fn       : Nat
  core     : Nat
  space    : BitVec 20
  part     : BitVec 16
  blk      : Nat
  creg     : Reg
  sc       : Scope
  root     : Word
  root2    : Word
  table    : Word
  count    : Nat
  work     : Word
  wsize    : Word
  arena    : Word
  guard    : Word
  done     : Word
  peer     : Word
  resume   : Bool
  checked  : Bool
  begun    : Bool
  ended    : Bool
  gstart   : Word
  gpoison  : Bool
  seen     : List (Word × Word)
  stack    : List Frame
  pass     : List ObjRead
  maxd     : Nat
  entries  : List (Nat × List Word)
  alloc    : Option Word
  ptrs     : List (Word × Word)
  freed    : Nat
  decs     : Nat
  sent     : Nat
  length   : Nat
  out      : List (Nat × Word)
  starts   : List Nat
  recs     : List (List Word)
  failed   : Option (Nat × Word × Word)
  aborted  : Bool
  closing  : Option (Nat × Word × Word)
  fail     : Option (Nat × Word × Word)
  susp     : Option Suspension
  deriving DecidableEq, Repr

/-! ## Waiting harts -/

/-- What the instruction at the program counter waits for (R224–R233): a wait registered or re-polling at a homeroom, a wait that has
ended with a status, the add of a CAW on its way, one of the core's own counts, a lease, or the commands of a step (R286). `start` is CYCLE when the
wait began, and `limit` the timeout of a CWAITT and its register. -/
inductive Wait where
  | counter (key : Nat) (thr : Word) (polling : Bool) (start : Word) (limit : Option (Word × Reg))
  | woken (status : Word) (start : Word) (limit : Option (Word × Reg))
  | cawAdd
  | own (kind : Nat) (ref thr : Word) (start : Word) (limit : Option (Word × Reg))
  | lease
  | leaseGranted
  | step (ids : List Nat) (key : Nat) (ok : Bool)
  deriving DecidableEq, Repr

/-- All that one hart holds (R15–R51), with the queries of its ended tags (R251) and what its instruction in progress waits for. -/
structure Hart where
  pc       : Word
  g        : Vector Word 32
  v        : Vector V512 32
  poison   : List (Dest × Word)
  tsw      : Tsw
  tsws     : Tsw
  trap     : TrapRegs
  irq      : IrqRegs
  spid     : BitVec 20
  dmem     : Word
  dmemNext : Word
  chip     : BitVec 12
  tregHalf : Bool
  tregEn   : Bool
  tagTable : Vector (Option (BitVec 45)) 256
  lease    : LeaseRegs
  seq      : Sequencer
  streams  : Vector Stream 8
  tagc     : Vector Word 64
  tagt     : Vector Word 64
  queries  : List (Nat × Word)
  old      : Count
  ost      : Count
  ocp      : Count
  otl      : Count
  rdv      : Word
  loads    : List PendingLoad
  stores   : List PendingStore
  wait     : Option Wait
  walk     : Option Walk
  ahead    : Option (Word × Nat)
  entering : Bool
  halted   : Bool
  deriving DecidableEq, Repr

/-! ## Memory and translation -/

/-- Memory: the bytes that differ from 0, by place, rising (`Memory.wf`). A byte that is not listed reads as 0. The places of all
storage (R348) lie in one numbering: HBM and the second tier at their physical address (R351); host memory of port p at
(1 + p) · 2^52 plus the host physical address; local memory, event-unit counters, operand slots, accumulator tiles, block scales and group
bitmaps each above 2^56 (`Machine/Mem.lean`). -/
abbrev Memory := List Host.Cell

/-- Ordering attributes of a page (R301, R354). -/
inductive PageOrder where
  | rc | so | un
  deriving DecidableEq, Repr

/-- The key pair under which a 128-byte line of HBM or the second tier was last written (R357, R405): the key id, how many pairs have been
installed for it before, and the line whose address tweaks the data. Byte i of the line is `stale` where bit i is 1: it was last written under
another pair, and is no plaintext under this one. -/
structure LineKey where
  key   : Nat
  gen   : Nat
  tweak : Nat
  stale : Nat
  deriving DecidableEq, Repr

/-- One entry of the space table (R352). -/
structure SpaceEntry where
  part : BitVec 16
  root : BitVec 36
  deriving DecidableEq, Repr

/-- A translation cached at a station (R358): the leaf entry as read, and whether it lay at level 1. -/
structure Cached where
  station : Nat
  space   : BitVec 20
  page    : Nat
  big     : Bool
  entry   : Word
  deriving DecidableEq, Repr

/-- A write of the replication sequence that some replica has not applied (R312): its number in the sequence, its place in sector 0, its bytes,
its core, and the key id and the UN attribute of the page it was made through (R303, R357). -/
structure ReplWrite where
  num   : Nat
  place : Nat
  data  : List Byte
  core  : Nat
  key   : Nat
  un    : Bool
  deriving DecidableEq, Repr

/-! ## Counters (R208–R234) -/

/-- A waiter on a roll (R210): a core, a subscription (R250) or the forward entry of the completion-tree counter at a place (R337). -/
inductive Waiter where
  | core (n : Nat)
  | copy (id : Nat)
  | forward (key : Nat)
  deriving DecidableEq, Repr

/-- A roll entry (R210): the counter's home (its place in memory), the waiter, the threshold and the effective scope of the wait (R216). -/
structure RollEntry where
  key    : Nat
  waiter : Waiter
  thr    : Word
  scope  : Scope
  deriving DecidableEq, Repr

/-- A wake on its way to a waiter (R214). -/
structure Wake where
  waiter : Waiter
  status : Word
  deriving DecidableEq, Repr

/-- An add on its way to its homeroom (R213, R222): `caw` marks the add of a CAW (R226); `scope` is its effective scope (R216), and `ord` the
ordering attribute of the mapping it was made through (R301). -/
structure AddInFlight where
  core   : Nat
  key    : Nat
  amount : Word
  caw    : Bool
  scope  : Scope
  ord    : PageOrder
  deriving DecidableEq, Repr

/-! ## The array and the Ephemeris of a cluster -/

/-- A page of memory as an accepted command, a copy or an access found it (R201): virtual page of 64 KiB, its place, and whether its key is
permitted (R406) and its expander reaches it (R384), and its entry. -/
structure PageMap where
  page  : Nat
  place : Nat
  ok    : Bool
  entry : Word
  deriving DecidableEq, Repr

/-- What a lease command or Ephemeris command does (R196–R200, R284–R288). -/
inductive LoadKind where
  | mld | mldt | mlds
  deriving DecidableEq, Repr

inductive CmdOp where
  | load (k : LoadKind) (ty : ElemType) (scl : Bool) (slot : Nat) (base pitch : Word) (am : AddrMode)
  | store (ot : OutType) (scl : Bool) (tile : Nat) (base pitch : Word) (am : AddrMode)
  | zero (tile : Nat)
  | mul (aty bty : ElemType) (cty : AccType) (scl : ScaleMode) (sp : Bool) (tile sa sb : Nat)
  | eld (e : Fin 16) (block : Nat) (slot : Nat) (base pitch : Word) (am : AddrMode)
  | emma (e : Fin 16) (block : Nat) (tile sa sb : Nat)
  | esig (e : Fin 16) (base pitch : Word) (am : AddrMode) (dst : Word)
  deriving DecidableEq, Repr

/-- A command in acceptance order (R192), with its copy of LVC, its owner and the translations found at acceptance (R201). -/
structure Command where
  id    : Nat
  core  : Nat
  op    : CmdOp
  rows  : Nat
  cols  : Nat
  pages : List PageMap
  begun : Bool
  deriving DecidableEq, Repr

/-- A parked batch (R205). -/
structure Park where
  core : Nat
  cmds : List Command
  left : BitVec 5
  cols : BitVec 9
  rows : BitVec 9
  deriving DecidableEq, Repr

/-- The metadata word of a tile (R49): ET 0, 4 or 8, and SAT. -/
structure TileMeta where
  et  : BitVec 4
  sat : Bool
  deriving DecidableEq, Repr

/-- The live copy of a bound step stream (R276, R277). -/
structure StepStream where
  sigb  : Word
  outb  : Word
  sctr  : Word
  theta : BitVec 16
  f     : BitVec 8
  nbm   : BitVec 12
  aty   : ElemType
  bty   : ElemType
  ci    : Bool
  scl   : Bool
  force : Bool
  pendf : Bool
  step  : Word
  map   : BitVec 4096
  deriving DecidableEq, Repr

/-- An owner of a slot or tile (R48): core n of the cluster and context id. -/
structure Owner where
  core : Nat
  ctx  : BitVec 8
  deriving DecidableEq, Repr

/-- The matrix array, ownership tables and Ephemeris of one cluster. `acyc` holds the array cycles not yet gathered
(R399). -/
structure ArrayUnit where
  last     : Nat
  holder   : Option Nat
  waiting  : List Nat
  resumes  : List Nat
  queue    : List Command
  nextId   : Nat
  parks    : List Park
  rdv      : List (Nat × List Nat)
  slots    : Vector (Option Owner) 64
  tiles    : Vector (Option Owner) 16
  tileMeta : Vector TileMeta 16
  eph      : Vector (Option StepStream) 16
  acyc     : Nat
  deriving DecidableEq, Repr

/-! ## Block-transfer engines (R235–R251) -/

/-- The command a BTE performs (R241, R249). -/
inductive CopyOp where
  | copy | gath | scat | fill | put | get | sub | pub
  deriving DecidableEq, Repr

/-- Who issued a command: a core, or a transfer node (partition, graph slot, node) (R332). -/
inductive Issuer where
  | core (n : Nat)
  | node (part slot node : Nat)
  deriving DecidableEq, Repr

/-- Where a command stands (R237, R245, R248): in the fabric, queued, begun, its elements moved, or waiting for link messages. -/
inductive CopyStage where
  | fabric | queued | begun | moved | remote
  deriving DecidableEq, Repr

/-- A command of major 0x39 or 0x3A between issue and its end. `pos` is the element or tile byte reached; `idx` the indices already read (R243) with
their positions, the runs of an XPUT or XGET under way (first element, number of the message), or the FILL add a tile still owes; `fatal` the cause of
a fatal end under way; `off` the last suspension offset; `susp` a fault it waits on. -/
structure Copy where
  id     : Nat
  issuer : Issuer
  slice  : Nat
  op     : CopyOp
  words  : List Word
  ref    : Word
  tag    : Option Nat
  acq    : Bool
  rel    : Bool
  ord    : Bool
  sc     : Scope
  space  : BitVec 20
  part   : BitVec 16
  stage  : CopyStage
  pos    : Nat
  idx    : List (Nat × Nat)
  off    : Nat
  fatal  : Option Nat
  susp   : Option Suspension
  deriving DecidableEq, Repr

/-! ## Graph walkers -/

/-- A layout-table binding (R257). -/
structure Binding where
  space : BitVec 20
  part  : BitVec 16
  table : Word
  count : Nat
  deriving DecidableEq, Repr

/-- An object a posted receive has allocated: the stream offset of its entry, its address, its size and the layout entry of its type. -/
structure Arrived where
  start  : Nat
  addr   : Word
  size   : Nat
  layout : List Word
  deriving DecidableEq, Repr

/-- A posted receive (R272): the stream words that have arrived and not been taken (offset, word, message), the messages not acknowledged, the
objects allocated, the stream offset of the next entry, the stream bytes taken, the pointer words received (stream offset, address, index) and
those of them still to be patched, the layout entries read, and a failure under way: status, RES0 and RES1. -/
structure Post where
  id       : Nat
  core     : Nat
  chan     : BitVec 8
  chip     : BitVec 12
  part     : BitVec 16
  space    : BitVec 20
  sc       : Scope
  table    : Word
  count    : Nat
  work     : Word
  wsize    : Word
  arena    : Word
  doneRef  : Word
  slot     : Word
  pending  : List (Nat × Word × BitVec 32)
  admitted : List (BitVec 32)
  objs     : List Arrived
  next     : Nat
  taken    : Nat
  ptrs     : List (Nat × Word × Nat)
  patches  : List (Word × Nat)
  entries  : List (Nat × List Word)
  fail     : Option (Nat × Word × Word)
  susp     : Option Suspension
  deriving DecidableEq, Repr

/-! ## The Timetable (R326–R347) -/

/-- Node states (R331). -/
inductive NodeState where
  | waiting | ready | running | done | skipped | failed | dropped
  deriving DecidableEq, Repr

/-- A node of an admitted graph (R329, R331): its record, the cohort record read at admission, how many edges have delivered and whether one was
DONE, the passes of a LOOP, whether a service is posted, the cohort placed for it, how a transfer's command has ended. -/
structure GNode where
  kind    : Nat
  succ    : List Nat
  arg     : Word
  aux     : Word
  words   : List Word
  st      : NodeState
  arrived : Nat
  anyDone : Bool
  pass    : Nat
  posted  : Bool
  cohort  : Nat
  result  : Option Bool
  susp    : Option Suspension
  deriving DecidableEq, Repr

/-- A graph taken from the ring (R328): its slot among the 16, the number of its ring slot, its record as read at intake, whether it is admitted,
whether a node has failed, and the status and node index it ends with once no node is left. -/
structure Graph where
  slot     : Nat
  num      : Word
  words    : List Word
  admitted : Bool
  nodes    : List GNode
  failed   : Bool
  ending   : Option (Nat × Nat)
  susp     : Option Suspension
  who      : Nat
  deriving DecidableEq, Repr

/-- What a core does in the engine's view (R335): its context runs, is saved, or has been dispatched again while its core was held in a save
(R341, R343). -/
inductive CoreUse where
  | busy | saved | again
  deriving DecidableEq, Repr

/-- A context the engine has placed: its core, its area, its cohort, and what its area says (R341, R342), with its group and its tree leaf. -/
structure Context where
  core   : Nat
  area   : Word
  cohort : Nat
  use    : CoreUse
  move   : Bool
  park   : Bool
  dmem   : Word
  space  : BitVec 20
  group  : Nat
  tref   : Word
  deriving DecidableEq, Repr

/-- A completion-tree counter (R337): its cohort, its place and threshold, its parent's place, and whether it has been forwarded (the root:
whether the node has ended). -/
structure TreeNode where
  cohort : Nat
  key    : Nat
  thr    : Nat
  parent : Option Nat
  fired  : Bool
  deriving DecidableEq, Repr

/-- The Timetable engine's record of one partition (R326–R341). `taken` numbers the slots taken from the ring. `pool` lists ready nodes (graph slot,
node) and saved contexts (16, core) in order. `endc` holds the end adds observed by core, `lastSpace` the space of each core's last context. -/
structure Engine where
  part      : BitVec 16
  taken     : Word
  stopped   : Bool
  susp      : Option Suspension
  graphs    : List Graph
  pool      : List (Nat × Nat)
  ctxs      : List Context
  tree      : List TreeNode
  endc      : List (Nat × Word)
  lastSpace : List (Nat × BitVec 20)
  deriving DecidableEq, Repr

/-! ## Hosts (R375–R384) -/

/-- TDISP states (R383). -/
inductive Tdisp where
  | unlocked | locked | run | error
  deriving DecidableEq, Repr

/-- A completion waiting for its slot (R380). -/
structure Completion where
  seq    : Word
  status : Word
  result : Word
  deriving DecidableEq, Repr

/-- A command taken and not ended (R379): SUBMIT waits on SUBD (`a0`, with the graph status known so far in `a1`), SERVICE on its routine.
`frame` names the frames a routine is given. -/
structure Running where
  seq   : Word
  op    : Nat
  a0    : Word
  a1    : Word
  frame : Nat
  deriving DecidableEq, Repr

/-- The registers of one command queue (R377). RING and CMDF lie in memory. `cplw` is CPLW (R380). -/
structure QueueRegs where
  bound   : Bool
  part    : BitVec 16
  space   : BitVec 20
  cplc    : Word
  cmdd    : Word
  cplseq  : Word
  cpla    : Word
  cpln    : Word
  cplw    : Word
  waiting : List Completion
  running : List Running
  deriving DecidableEq, Repr

/-- One host port (R375, R376, R383): its interface state, frozen registers, the partitions bound to it and its queues (an unlisted queue is
unbound, all registers 0). `keys` says that the IDE keys are set up, `doe` is the last answer in the DOE mailbox, and `answer` what the last
CXL.mem read returned, none where it was poisoned. -/
structure HostPortState where
  tdisp    : Tdisp
  bar0     : Word
  memEn    : Bool
  decoders : Vector (BitVec 192) 8
  parts    : List (BitVec 16)
  queues   : List (Nat × QueueRegs)
  keys     : Bool
  doe      : List Word
  answer   : Option (List Byte)
  deriving DecidableEq, Repr

/-! ## Links (R385–R391) -/

/-- What a sequenced message serves: a copy, a graph walk, or nothing on this chip (a reply to a peer, an abort record). -/
inductive MsgOwner where
  | copy (id : Nat)
  | walk (id : Nat)
  | reply
  deriving DecidableEq, Repr

/-- A message a source keeps until it ends (R391); `sent` is false while the 4,096 numbers before it have not all ended, and `held` says that the peer
has answered HELD (R389). -/
structure OutMsg where
  dst     : BitVec 12
  sseq    : BitVec 32
  part    : BitVec 16
  dom     : BitVec 6
  kind    : Nat
  chan    : BitVec 8
  body    : List Byte
  owner   : MsgOwner
  retries : Nat
  sent    : Bool
  held    : Bool
  deriving DecidableEq, Repr

/-- A message the package has put on the wire without keeping it: an ACK or a FAIL (R386, R389, R391). -/
structure Control where
  dst    : BitVec 12
  fail   : Bool
  sseq   : BitVec 32
  status : Nat
  info   : List Word
  deriving DecidableEq, Repr

/-- A message being reassembled (R387): the first flit's header and the payloads placed. `spoiled` marks flits that disagree. -/
structure Partial where
  first   : Flit
  parts   : List (Nat × List Byte)
  spoiled : Bool
  deriving DecidableEq, Repr

/-- The de-duplication window for a source chip (R390): its base and the statuses recorded, each with what came back with it. -/
structure Window where
  src    : BitVec 12
  base   : BitVec 32
  status : List (BitVec 32 × Nat × List Word)
  deriving DecidableEq, Repr

/-- A memory expander behind ports 4–7 (R375, R384): its capacity, how much of it is mapped (R384), and whether the management service core has set up
the IDE keys of its port. -/
structure Expander where
  capacity : Nat
  mapped   : Nat
  keys     : Bool
  deriving DecidableEq, Repr

/-- An import entry (R388) of a partition. -/
structure ImportEntry where
  part  : BitVec 16
  index : Nat
  key   : Word
  tgt   : Word
  perm  : Word
  deriving DecidableEq, Repr

/-- A complete message, admitted and held at a page fault (R389, R430), with the import entry it was admitted under (none for DATA): it is checked
against one version of the table only (R403). -/
structure Held where
  src   : BitVec 12
  sseq  : BitVec 32
  flit  : Flit
  body  : List Byte
  entry : Option ImportEntry
  susp  : Suspension
  deriving DecidableEq, Repr

/-- The link state of the package. `reports` is what the service cores have been told (R387, R391). -/
structure Links where
  next    : List (BitVec 12 × BitVec 32)
  out     : List OutMsg
  control : List Control
  partials : List Partial
  windows : List Window
  held    : List Held
  imports : List ImportEntry
  reports : List (BitVec 12 × BitVec 32)
  deriving DecidableEq, Repr

/-! ## Partitions (R392–R408) and management (R409–R420) -/

/-- Roles of the layout nodes that are not ABSENT (R393). -/
inductive Role where
  | idle | active
  deriving DecidableEq, Repr

/-- The descriptor of a partition (R398) as the device holds it. `done` is LVER of the bell that created it. -/
structure Descriptor where
  part  : BitVec 16
  dom   : BitVec 6
  sched : Word
  reqb  : Word
  keys  : Word
  log   : Word
  logn  : Word
  qctl  : BitVec 4
  lim   : List Word
  lver  : Word
  deriving DecidableEq, Repr

/-- One entry of a change list (R396): operation, node id, and bytes 0x08–0x3F as words; for IMPORT the words of the 256 entries. `ok` is false
where a reserved field is not zero. -/
structure ChangeEntry where
  op    : Nat
  node  : Nat
  words : List Word
  ok    : Bool
  deriving DecidableEq, Repr

/-- States of the management service core's change machine (R401) after IDLE; RINGING before and after the tick of the bell. -/
inductive ChangeState where
  | quiescing | ringing | rung
  deriving DecidableEq, Repr

/-- A change in progress (R401): its list and the address the command named, none where only bindings changed. `before` is the layout before the
bell, `gone` the partitions the bell destroyed, each with the place of its log slot for the last record and that page's entry. -/
structure Change where
  state   : ChangeState
  entries : List ChangeEntry
  force   : Bool
  list    : Option Word
  before  : List (Nat × Role)
  gone    : List (Descriptor × Option (Nat × Word))
  deriving DecidableEq, Repr

/-- A usage chain of a partition (R407): the next SEQ and the hash of the last record. -/
structure Chain where
  part : BitVec 16
  seq  : Word
  prev : BitVec 384
  deriving DecidableEq, Repr

/-- An island control register (R412). `hot` says that firmware is raising OP (R413). -/
structure Island where
  pwr  : BitVec 16
  temp : BitVec 8
  gate : Bool
  op   : BitVec 3
  hot  : Bool
  deriving DecidableEq, Repr

/-- BSTAT and DCTL (R409), the islands, the ageing measures of the last 30 days, latest first (R415), whether power is on, the layout and its tables,
the change in progress, the usage chains, the revoked keys (R406), the bindings in the shadows of the host ports' tables (R403), how often a new key
pair has been installed for each key id (R405, R410), the frames of destroyed partitions not yet zeroed and the pages of theirs that space 0 maps
(R404: partition, page number, entry), CYCLE of the management service core (R407), and the save of a checkpoint under way: its argument and how many
stacks are copied (R420). -/
structure Management where
  code     : BitVec 16
  step     : BitVec 8
  dump     : Bool
  fatal    : Bool
  fail     : Bool
  ready    : Bool
  keep     : Bool
  power    : Bool
  islands  : Vector Island 120
  measures : List (Nat × List (Int × Int × Int))
  lver     : Word
  nodes    : List (Nat × Role)
  descs    : List Descriptor
  change   : Option Change
  chains   : List Chain
  revoked  : List Nat
  shadow   : List PortBinding
  keyGens  : List (Nat × Nat)
  released : List Nat
  kept     : List (BitVec 16 × Nat × Word)
  cycle    : Word
  saving   : Option (Word × Nat)
  deriving DecidableEq, Repr

/-- Code that LOAD has placed (R346): where, how many pages its text takes, and the pages its data lies on. -/
structure Image where
  part  : BitVec 16
  space : BitVec 20
  text  : Word
  pages : Nat
  data  : Word
  dataAt : List Nat
  deriving DecidableEq, Repr

/-! ## The package -/

/-- Who moves next, when it is not the current hart: a step of the device, or another core. Log entry 85. -/
inductive Move where
  | event (i : Instr)
  | run (core : Nat)
  deriving DecidableEq, Repr

/-- Why a step can stop with a fault. No rule of the manual stops the package for good; power-off leaves no machine. -/
inductive Fault where
  /-- Raised by the step when power is off (R409): nothing executes until POWER_ON_RESET. Safe: no state follows. -/
  | poweredOff
  deriving DecidableEq, Repr

/-- Why an instruction has no meaning here. -/
inductive Refusal where
  /-- Raised by an arm of `exec` whose instruction has no meaning yet. Safe: nothing follows from it. -/
  | notModelled (mnemonic : String)
  deriving DecidableEq, Repr

/-- The state of the package. `hart` is the record of core `cur`; `others` lists the other cores that differ from reset. `draws` counts the free
values taken (log entry 8). `dark` lists the 64 KiB pages of host memory and the second tier whose accesses report an error (R364, R384). `sealed`
says that HBM holds a checkpoint taken before the last reset, whose bytes no key shows but in the lines written since (R420). `parkStore` holds the
batches that park records of cluster images stand for (R344). Lists that hold a unit's state by number leave out units that are as reset leaves
them. -/
structure State where
  cur      : Nat
  hart     : Hart
  others   : List (Nat × Hart)
  agenda   : List Move
  draws    : Nat
  mem      : Memory
  lines    : List (Nat × LineKey)
  sealed   : Bool
  dark     : List Nat
  spaces   : List (BitVec 20 × SpaceEntry)
  stations : List Cached
  repl     : List ReplWrite
  replNext : Nat
  applied  : Vector Nat 3
  poison   : List Nat
  roll     : List RollEntry
  wakes    : List Wake
  adds     : List AddInFlight
  arrays   : List (Nat × ArrayUnit)
  copies   : List Copy
  nextCopy : Nat
  bindings : List Binding
  parked   : List Walk
  posts    : List Post
  engines  : List Engine
  ports    : Vector HostPortState 4
  tiers    : Vector Expander 4
  links    : Links
  mgmt     : Management
  faults   : List FaultRecord
  faultSeq : List (Nat × Nat)
  doubles  : List Nat
  images   : List Image
  parkStore : List Park
  deriving DecidableEq, Repr

/-- What an instruction or a step answers. -/
abbrev Out := Host.Outcome State Fault Refusal

/-! ## After reset -/

def Tsw.reset : Tsw := ⟨0, 0, false, false, false, 0, .rne, false, false, false, false, false, false, .firmware⟩
def Count.reset : Count := ⟨0, 0⟩
def Stream.reset : Stream := ⟨0, 0, 0, false, false, .gl, false, false, []⟩
def Sequencer.reset : Sequencer := ⟨0, false, false, 0, Vector.replicate 16 0, false, 0⟩
def LeaseRegs.reset : LeaseRegs := ⟨0, false, false, 0, 0xFF, 0, 256, 256⟩

/-- The address the model gives the program counter at reset: the idle loop in the descriptor page (R393, R397). Log entry 2. -/
def resetPc : Word := 0x007FFFFFFFFF1000

/-- A hart after reset (R15, R24–R40, R46). The registers to which the manual gives no reset value hold 0 (log entry 1). -/
def Hart.reset : Hart where
  pc := resetPc
  g := Vector.replicate 32 0
  v := Vector.replicate 32 0
  poison := []
  tsw := Tsw.reset
  tsws := Tsw.reset
  trap := ⟨0, false, 0, 0, 0, 0⟩
  irq := ⟨0, 0, 0, 0xFFFFFFFFFFFFFFFF⟩
  spid := 0
  dmem := 0xFFFFFFFFFFFFFFFF
  dmemNext := 0xFFFFFFFFFFFFFFFF
  chip := 0
  tregHalf := false
  tregEn := false
  tagTable := Vector.replicate 256 none
  lease := LeaseRegs.reset
  seq := Sequencer.reset
  streams := Vector.replicate 8 Stream.reset
  tagc := Vector.replicate 64 0
  tagt := Vector.replicate 64 0
  queries := []
  old := Count.reset
  ost := Count.reset
  ocp := Count.reset
  otl := Count.reset
  rdv := 0
  loads := []
  stores := []
  wait := none
  walk := none
  ahead := none
  entering := false
  halted := false

/-- The array unit of a cluster after reset (R48, R49, R189). -/
def ArrayUnit.reset : ArrayUnit where
  last := 15
  holder := none
  waiting := []
  resumes := []
  queue := []
  nextId := 0
  parks := []
  rdv := []
  slots := Vector.replicate 64 none
  tiles := Vector.replicate 16 none
  tileMeta := Vector.replicate 16 ⟨0, false⟩
  eph := Vector.replicate 16 none
  acyc := 0

def QueueRegs.reset : QueueRegs := ⟨false, 0, 0, 0, 0, 0, 0, 0, 0, [], []⟩
def HostPortState.reset : HostPortState := ⟨.unlocked, 0, false, Vector.replicate 8 0, [], [], false, [], none⟩
/-- An expander of 4 TB, mapped whole: four of them make up the 16 TB of R1. Log entry 41. -/
def Expander.reset : Expander := ⟨4000000000000, 4000000000000, true⟩
def Links.reset : Links := ⟨[], [], [], [], [], [], [], []⟩

/-- Management after bring-up (R409, R410): READY, STEP 9, the three sector roots IDLE. -/
def Management.reset : Management where
  code := 0
  step := 9
  dump := false
  fatal := false
  fail := false
  ready := true
  keep := false
  power := true
  islands := Vector.replicate 120 ⟨0, 0, false, 0, false⟩
  measures := []
  lver := 0
  nodes := [(1, .idle), (129, .idle), (257, .idle)]
  descs := []
  change := none
  chains := []
  revoked := []
  shadow := []
  keyGens := []
  released := []
  kept := []
  cycle := 0
  saving := none

/-- The frame of the root table page of space 0 (R393, R352). Log entry 20. -/
def rootFrame0 : BitVec 36 := 0x14181

/-- The package right after reset: bring-up has completed (R410), core 0 is the one that moves first (log entry 3), memory lists nothing, and space 0
belongs to the firmware partition (R30, R394). -/
def State.reset : State where
  cur := 0
  hart := Hart.reset
  others := []
  agenda := []
  draws := 0
  mem := []
  lines := []
  sealed := false
  dark := []
  spaces := [(0, ⟨0, rootFrame0⟩)]
  stations := []
  repl := []
  replNext := 0
  applied := Vector.replicate 3 0
  poison := []
  roll := []
  wakes := []
  adds := []
  arrays := []
  copies := []
  nextCopy := 0
  bindings := []
  parked := []
  posts := []
  engines := []
  ports := Vector.replicate 4 HostPortState.reset
  tiers := Vector.replicate 4 Expander.reset
  links := Links.reset
  mgmt := Management.reset
  faults := []
  faultSeq := []
  doubles := []
  images := []
  parkStore := []

end Sys2Proof.Machine
end

