-- ==== Sys2Proof/Machine/Mem.lean ====
section
/-! DEFINITION. Memory as bytes by place: reading, writing, byte order (R9), and where each storage place lies in the one numbering (R348). -/

namespace Sys2Proof.Machine

/-- The canonical form: places strictly rise and no listed byte is 0, what an unlisted byte reads as. -/
abbrev Memory.wf (m : Memory) : Prop := m.Pairwise (fun a b => a.1 < b.1) ∧ ∀ c ∈ m, c.2 ≠ 0

/-- The byte at a place. A byte that is not listed reads 0: bring-up zeroes the package's memories (R410); of host memory and the second tier
the manual says nothing (log entry 4). -/
def Memory.read (m : Memory) (a : Nat) : Byte :=
  match m with
  | [] => 0
  | (b, x) :: r => if b = a then x else Memory.read r a

/-- `n` bytes from a place upward. -/
def Memory.readN (m : Memory) (a n : Nat) : List Byte := (List.range n).map fun i => m.read (a + i)

/-- The cells of bytes that differ from 0. -/
def cellsOf (a : Nat) : List Byte → Memory
  | [] => []
  | b :: r => if b = 0 then cellsOf (a + 1) r else (a, b) :: cellsOf (a + 1) r

/-- Writes bytes from a place upward; the canonical form is kept. -/
def Memory.write (m : Memory) (a : Nat) (bs : List Byte) : Memory :=
  m.filter (fun c => c.1 < a) ++ cellsOf a bs ++ m.filter (fun c => a + bs.length ≤ c.1)

/-- A number from bytes, the lowest first (R9). -/
def leNat : List Byte → Nat
  | [] => 0
  | b :: r => b.toNat + 256 * leNat r

/-- The low `n` bytes of a number, the lowest first (R9). -/
def toBytes : Nat → Nat → List Byte
  | 0, _ => []
  | n + 1, x => BitVec.ofNat 8 x :: toBytes n (x / 256)

/-- The bytes of a word (R9). -/
def wordBytes (w : Word) : List Byte := toBytes 8 w.toNat

/-- The word at a place. -/
def Memory.readWord (m : Memory) (a : Nat) : Word := BitVec.ofNat 64 (leNat (m.readN a 8))

/-- A field of a word (R9). -/
def bits (w : Word) (lo n : Nat) : Nat := field w.toNat lo n

/-- One bit of a word. -/
def bit1 (w : Word) (b : Nat) : Bool := w.toNat.testBit b

/-- 0 or 1. -/
def ofBool (b : Bool) : Nat := if b then 1 else 0

/-- A bit string of `n` bits read as two's complement. -/
def signedOf (n x : Nat) : Int := if 2 * (x % 2 ^ n) < 2 ^ n then (x % 2 ^ n : Nat) else (x % 2 ^ n : Nat) - (2 ^ n : Nat)

/-- An integer reduced to a word. -/
def wordOfInt (x : Int) : Word := BitVec.ofInt 64 x

/-! ## Places (R348) -/

/-- Host physical memory of port `p` (log entry 4 names the numbering). -/
def hostPlace (p a : Nat) : Nat := (1 + p) * 2 ^ 52 + a

/-- Local memory (R44): core and offset. Log entry 4. -/
def localPlace (core off : Nat) : Nat := 2 ^ 56 + core * 2 ^ 19 + off

/-- Event-unit counter `i` of cluster `c` (R209). -/
def eventPlace (c i : Nat) : Nat := 2 ^ 57 + (c * 4096 + i) * 8

/-- Row `r` of operand slot `n` of cluster `c` (R184): 256 bytes a row. -/
def slotPlace (c n r : Nat) : Nat := 2 ^ 58 + c * 2 ^ 22 + n * 2 ^ 16 + r * 256

/-- Row `i` of accumulator tile `t` (R186): 1,024 bytes a row. -/
def tilePlace (c t i : Nat) : Nat := 2 ^ 59 + c * 2 ^ 22 + t * 2 ^ 18 + i * 1024

/-- The 16 block scales of row `r` of a slot (R184), one byte each. -/
def scalePlace (c n r : Nat) : Nat := 2 ^ 60 + (c * 64 + n) * 4096 + r * 16

/-- The 16 group bitmaps of row `r` of a slot, 2 bytes each (R184). -/
def bitmapPlace (c n r : Nat) : Nat := 2 ^ 61 + (c * 64 + n) * 8192 + r * 32

/-- Byte `a` of the command window of port `p` (R376). -/
def windowPlace (p a : Nat) : Nat := 2 ^ 62 + p * 2 ^ 22 + a

/-- A place a KIND 00 reference can reach (R209): HBM, second tier, host memory, the CMDF words. -/
def isGlobalPlace (k : Nat) : Bool := k < 2 ^ 56 || 2 ^ 62 ≤ k

/-- The slice that owns a physical place (R350, R351): the frame's slice in HBM, the home slice of the port otherwise. -/
def owningSlice (k : Nat) : Nat :=
  if k < 2 ^ 50 then k / 2 ^ 36 % 64
  else if k < 2 ^ 52 then 6 * (4 + k / 2 ^ 48 % 4)
  else if k < 2 ^ 56 then 6 * ((k / 2 ^ 52 - 1) % 4)
  else 6 * (k / 2 ^ 22 % 4)

end Sys2Proof.Machine
end

