-- ==== Sys2Proof/Machine/Base.lean ====
section
/-! DEFINITION. The plain operations over the state: registers, the thread status word, harts by number, units by number, free values,
counts. -/

namespace Sys2Proof.Machine

/-! ## Lists by number -/

/-- The value listed for `k`, or `d`. -/
def lookupD {α : Type} (l : List (Nat × α)) (k : Nat) (d : α) : α :=
  match l with
  | [] => d
  | (j, x) :: r => if j = k then x else lookupD r k d

/-- `l` with the value `x` for `k`. -/
def insertA {α : Type} (l : List (Nat × α)) (k : Nat) (x : α) : List (Nat × α) :=
  match l with
  | [] => [(k, x)]
  | (j, y) :: r => if j = k then (k, x) :: r else (j, y) :: insertA r k x

/-! ## The current hart -/

/-- The current hart changed by `f`. -/
@[reducible] def State.onHart (s : State) (f : Hart → Hart) : State := { s with hart := f s.hart }

/-- g[r]; g0 reads as zero (R18). -/
def State.g (s : State) (r : Reg) : Word := if r = 0 then 0 else s.hart.g[r]

/-- The register-file copy of v[r] (R19). -/
def State.v (s : State) (r : Reg) : V512 := s.hart.v[r]

/-- A write of g[r]: discarded for g0 (R18); it clears the poison of the register (R133). -/
def Hart.setG (h : Hart) (r : Reg) (x : Word) : Hart :=
  if r = 0 then h else { h with g := h.g.set r x, poison := h.poison.filter fun p => p.1 != Dest.g r }

/-- A write of v[r]; it clears the poison of the register (R133). -/
def Hart.setV (h : Hart) (r : Reg) (x : V512) : Hart :=
  { h with v := h.v.set r x, poison := h.poison.filter fun p => p.1 != Dest.v r }

def State.setG (s : State) (r : Reg) (x : Word) : State := { s with hart := s.hart.setG r x }
def State.setV (s : State) (r : Reg) (x : V512) : State := { s with hart := s.hart.setV r x }

/-- The program counter moves; bits [1:0] stay zero (R16). -/
def State.setPc (s : State) (pc : Word) : State := { s with hart := { s.hart with pc := pc } }

/-- PP, AP, RS and RLANE cleared, as the completion of an instruction does (R27). -/
def Tsw.clearPending (t : Tsw) : Tsw := { t with pp := false, ap := false, rs := false, rlane := 0 }

/-- The instruction completes (R27) and the hart goes on at `pc`. -/
def State.finish (s : State) (pc : Word) : State :=
  { s with hart := { s.hart with pc := pc, tsw := s.hart.tsw.clearPending, wait := none } }

/-- The instruction completes and the next one follows `n` bytes on. -/
def State.retire (s : State) (n : Nat) : State := s.finish (s.hart.pc + BitVec.ofNat 64 n)

/-- User mode (R15). -/
def State.userMode (s : State) : Bool := s.hart.tsw.mode == .user

/-! ## The thread status word as a word (R24, R25, R15) -/

def Mode.code : Mode → Nat | .user => 0 | .supervisor => 1 | .firmware => 3
def Round.code : Round → Nat | .rne => 0 | .rtz => 1 | .rdn => 2 | .rup => 3
def Round.ofCode : Nat → Round | 0 => .rne | 1 => .rtz | 2 => .rdn | _ => .rup

/-- TSW as MFK reads it (R24). -/
def Tsw.word (t : Tsw) : Word :=
  BitVec.ofNat 64 (t.mode.code + 4 * ofBool t.ie + 2 ^ 7 * ofBool t.nx + 2 ^ 8 * ofBool t.uf + 2 ^ 9 * ofBool t.of + 2 ^ 10 * ofBool t.dz
    + 2 ^ 11 * ofBool t.nv + 2 ^ 12 * t.rm.code + 2 ^ 14 * t.rlane.toNat + 2 ^ 21 * ofBool t.rs + 2 ^ 22 * ofBool t.ap
    + 2 ^ 23 * ofBool t.pp + 2 ^ 24 * t.pfmt.toNat + 2 ^ 40 * t.gen.toNat)

/-- The fields of a status word; `mode` is the mode its bits [1:0] name. -/
def Tsw.ofWord (x : Word) (mode : Mode) : Tsw where
  gen := BitVec.ofNat 24 (bits x 40 24)
  pfmt := BitVec.ofNat 16 (bits x 24 16)
  pp := bit1 x 23
  ap := bit1 x 22
  rs := bit1 x 21
  rlane := BitVec.ofNat 7 (bits x 14 7)
  rm := Round.ofCode (bits x 12 2)
  nv := bit1 x 11
  dz := bit1 x 10
  of := bit1 x 9
  uf := bit1 x 8
  nx := bit1 x 7
  ie := bit1 x 2
  mode := mode

/-! ## Harts, clusters and units by number (R3, R4) -/

/-- The hart of a core. -/
def State.hartOf (s : State) (n : Nat) : Hart := if n = s.cur then s.hart else lookupD s.others n Hart.reset

/-- The hart of a core changed by `f`. -/
def State.modifyHart (s : State) (n : Nat) (f : Hart → Hart) : State :=
  if n = s.cur then { s with hart := f s.hart } else { s with others := insertA s.others n (f (lookupD s.others n Hart.reset)) }

/-- Another core moves: its record comes to `hart`, the current one goes to the list. -/
def State.switch (s : State) (n : Nat) : State :=
  if n = s.cur then s
  else { s with cur := n, hart := lookupD s.others n Hart.reset, others := insertA s.others s.cur s.hart }

/-- The package cluster of a core (R4). -/
def clusterOf (core : Nat) : Nat := core / 16

/-- The home slice of a cluster: slice 2d + (k div 4) (R350). -/
def homeSlice (c : Nat) : Nat := 2 * (c / 8) + c % 8 / 4

/-- The sector of a cluster (R293). -/
def sectorOf (c : Nat) : Nat := c / 64

/-- The current core's cluster. -/
def State.cluster (s : State) : Nat := clusterOf s.cur

def State.array (s : State) (c : Nat) : ArrayUnit := lookupD s.arrays c ArrayUnit.reset
def State.setArray (s : State) (c : Nat) (a : ArrayUnit) : State := { s with arrays := insertA s.arrays c a }

/-! ## Free values (log entry 8) -/

/-- The next free number, and the state in which it has been taken. Log entry 8. -/
def State.draw (s : State) : Nat × State := (Config.freeNat s.draws, { s with draws := s.draws + 1 })

/-- A free choice between two. -/
def State.flip (s : State) : Bool × State := (Config.freeNat s.draws % 2 == 1, { s with draws := s.draws + 1 })

/-- `n` free bytes. -/
def State.freeBytes (s : State) (n : Nat) : List Byte × State :=
  ((List.range n).map fun i => BitVec.ofNat 8 (Config.freeNat (s.draws + i)), { s with draws := s.draws + n })

/-! ## Counts (R39) and the wrap rule (R212) -/

/-- The number outstanding in a class. -/
def Count.out (c : Count) : Nat := (c.iss - c.ret).toNat

def Count.issue (c : Count) : Count := { c with iss := c.iss + 1 }
def Count.retire (c : Count) : Count := { c with ret := c.ret + 1 }

/-- `Reached(v, t)`: (v − t) mod 2⁶⁴ < 2⁶³ (R212). -/
def reached (v t : Word) : Bool := (v - t).toNat < 2 ^ 63

/-- The order of scopes (R216). -/
def scopeRank : Scope → Nat
  | .core => 0 | .clu => 1 | .die => 2 | .sec => 3 | .pkg => 4 | .sys => 5

/-! ## Partitions (R392, R393) -/

/-- The first cluster and the number of clusters of a layout node (R392). -/
def nodeSpan (id : Nat) : Nat × Nat :=
  if id = 384 then (0, 192)
  else if id = 0 then (0, 0)
  else
    let h := id % 128
    let l := Nat.log2 h
    (64 * (id / 128) + (h - 2 ^ l) * (64 / 2 ^ l), 64 / 2 ^ l)

/-- A node covers a cluster. -/
def nodeCovers (id c : Nat) : Bool := (nodeSpan id).1 ≤ c && c < (nodeSpan id).1 + (nodeSpan id).2

/-- The partition of a cluster: the ACTIVE node that covers it, otherwise the firmware partition 0 (R393). -/
def partOfCluster (s : State) (c : Nat) : BitVec 16 :=
  match s.mgmt.nodes.find? fun n => n.2 == .active && nodeCovers n.1 c with
  | some n => BitVec.ofNat 16 n.1
  | none => 0

/-- A cluster lies in a partition (R218): the firmware partition's cores reach the clusters of IDLE nodes. -/
def inPart (s : State) (p : BitVec 16) (c : Nat) : Bool := c < 192 && partOfCluster s c == p

/-- The partition of the current core. -/
def State.part (s : State) : BitVec 16 := partOfCluster s s.cluster

/-- The descriptor of a partition (R398). -/
def descOf (s : State) (p : BitVec 16) : Option Descriptor := s.mgmt.descs.find? fun d => d.part == p

/-- How many key pairs have been installed for a key id before the one in force (R405, R410). -/
def State.keyGen (s : State) (key : Nat) : Nat := lookupD s.mgmt.keyGens key 0

/-- A page key is permitted to a partition (R405, R406): key 0 to the firmware partition and for the descriptor page, otherwise the keys of
KEYS, and no revoked key. Log entry 83. -/
def keyOk (s : State) (p : BitVec 16) (key : Nat) (va : Nat) : Bool :=
  if key = 0 then p == 0 || va / 65536 == 0x7FFFFFFFFF
  else match descOf s p with
    | some d => d.keys.toNat.testBit key && !s.mgmt.revoked.contains key
    | none => false

end Sys2Proof.Machine
end

