-- ==== Sys2Proof/Machine/Translate.lean ====
section
/-! DEFINITION. Page tables, translation stations (R351–R359), and where an access lands: its checks (R131) and its segments. -/

namespace Sys2Proof.Machine

/-! ## Exception codes (R124) -/

def exIllegal : Nat := 0
def exPriv : Nat := 1
def exMisalign : Nat := 2
def exFetch : Nat := 3
def exAddress : Nat := 4
def exPage : Nat := 5
def exPerm : Nat := 6
def exAccess : Nat := 7
def exBreak : Nat := 8
def exTrap : Nat := 9
def exStream : Nat := 10
def exLease : Nat := 11
def exRecord : Nat := 12
def exDataErr : Nat := 13

/-- An exception to take: its code and TVAL. -/
structure Exc where
  code : Nat
  tval : Word
  deriving DecidableEq, Repr

/-! ## Page table entries (R354) -/

def pteV (e : Word) : Bool := bit1 e 0
def pteR (e : Word) : Bool := bit1 e 1
def pteW (e : Word) : Bool := bit1 e 2
def pteX (e : Word) : Bool := bit1 e 3
def pteOrd (e : Word) : Nat := bits e 4 2
def pteRepl (e : Word) : Bool := bit1 e 6
def pteHh (e : Word) : Bool := bit1 e 7
def pteLeaf (e : Word) : Bool := bit1 e 8
def pteKey (e : Word) : Nat := bits e 52 6
def pteHport (e : Word) : Nat := bits e 58 2

/-- The address the FRAME field names (R354). -/
def pteFrame (e : Word) : Nat := bits e 16 36 * 65536

/-- `n` bytes from a physical address lie in a place of the package (R351). -/
def isPlace (pa n : Nat) : Bool :=
  match pa / 2 ^ 50 with
  | 0 => pa / 2 ^ 42 % 256 == 0 && pa / 2 ^ 36 % 64 < 48 && pa % 2 ^ 36 + n ≤ 64000000000
  | 1 => pa % 2 ^ 48 + n ≤ 2 ^ 48
  | _ => false

/-- An entry that names the next table page (R354, R355): the page's physical address. -/
def tableEntry (e : Word) : Option Nat :=
  if pteV e && !pteLeaf e && bits e 1 7 == 0 && bits e 12 4 == 0 && bits e 52 12 == 0 && pteFrame e < 2 ^ 50 && isPlace (pteFrame e) 65536
  then some (pteFrame e) else none

/-- An entry that maps a page of `size` bytes breaks no rule of R355. -/
def leafOk (e : Word) (size : Nat) : Bool :=
  pteV e && pteLeaf e && bits e 60 4 == 0 && bits e 12 4 == 0 && (pteHh e || pteHport e == 0) && pteOrd e != 3
    && pteFrame e % size == 0 && (pteHh e || isPlace (pteFrame e) size)
    && (!pteRepl e || (!pteHh e && pteFrame e < 2 ^ 50 && pteFrame e / 2 ^ 36 < 16))

/-- The space-table entry by which a partition may use a space (R352). -/
def spaceEntry (s : State) (part : BitVec 16) (space : BitVec 20) : Option SpaceEntry :=
  match s.spaces.find? fun p => p.1 == space with
  | some (_, e) => if e.part = part then some e else none
  | none => none

/-- The descriptor page of a partition (R397): in slice 0 (log entry 20 names the place). -/
def descPlace (p : BitVec 16) : Nat := 0x140000000 + p.toNat * 65536

/-- The entry that maps it (R397): valid, R, X, RC, key 0. Log entry 20. -/
def descEntry (p : BitVec 16) : Word := BitVec.ofNat 64 (descPlace p + 0x10B)

/-- The entry of a page that the firmware partition maps in space 0 for a destroyed partition (R404). Log entry 20. -/
def keptEntry (s : State) (page : Nat) : Option Word := (s.mgmt.kept.find? fun x => x.2.1 == page).map (·.2.2)

/-- The page tables on a walk path (R353), root first, and the leaf that ends it, if one does, with whether it lay at level 1. The descriptor page
is mapped in every space of its partition (R397). Log entry 54. -/
def walkPath (s : State) (part : BitVec 16) (space : BitVec 20) (va : Nat) : List Nat × Option (Word × Bool) :=
  if 2 ^ 55 ≤ va then ([], none)
  else match spaceEntry s part space with
  | none => ([], none)
  | some se =>
    let p0 := se.root.toNat * 65536
    if va / 65536 = 0x7FFFFFFFFF then ([p0], some (descEntry part, false))
    else match (if space = 0 then keptEntry s (va / 65536) else none) with
    | some e => ([p0], some (e, false))
    | none =>
    let e0 := s.mem.readWord (p0 + 8 * (va / 2 ^ 42))
    match tableEntry e0 with
    | none => ([p0], none)
    | some p1 =>
      let e1 := s.mem.readWord (p1 + 8 * (va / 2 ^ 29 % 2 ^ 13))
      if pteLeaf e1 then ([p0, p1], if leafOk e1 (2 ^ 29) then some (e1, true) else none)
      else match tableEntry e1 with
      | none => ([p0, p1], none)
      | some p2 =>
        let e2 := s.mem.readWord (p2 + 8 * (va / 2 ^ 16 % 2 ^ 13))
        ([p0, p1, p2], if leafOk e2 (2 ^ 16) then some (e2, false) else none)

/-- The first slice of a partition (R394); the firmware partition's is slice 0. -/
def firstSlice (p : BitVec 16) : Nat := 2 * ((nodeSpan p.toNat).1 / 8)

/-- The owner of a virtual page (R360). -/
def ownerOf (s : State) (part : BitVec 16) (space : BitVec 20) (va : Nat) : Nat :=
  match (walkPath s part space va).1.getLast? with
  | some p => p / 2 ^ 36 % 64
  | none => firstSlice part

/-- The place of the 64 KiB page of `va` under a leaf. -/
def pagePlace (e : Word) (big : Bool) (va : Nat) : Nat :=
  let base := if big then pteFrame e + va % 2 ^ 29 / 65536 * 65536 else pteFrame e
  if pteHh e then hostPlace (pteHport e) base else base

/-- A page translated: its place and its entry. -/
structure Page where
  place : Nat
  entry : Word
  deriving DecidableEq, Repr

/-- A station's cached entry for the page of `va`. -/
def cachedFor (s : State) (station : Nat) (space : BitVec 20) (va : Nat) : Option Cached :=
  s.stations.find? fun c => c.station == station && c.space == space && c.page == (if c.big then va / 2 ^ 29 else va / 2 ^ 16)

/-- A station takes a translation in; one that is full gives up its oldest (R358). Log entry 86. -/
def keepCached (s : State) (c : Cached) : State :=
  let own := s.stations.filter fun x => x.station == c.station
  let s := if own.length < Config.stationEntries then s
    else match own.getLast? with
      | some old => { s with stations := s.stations.filter fun x => x != old }
      | none => s
  { s with stations := c :: s.stations }

/-- The station translates the page of `va` (R358). A cached entry that the tables no longer hold may still serve, until an invalidation
drops it (R359): which of the two serves is a free choice. A failure is never cached. -/
def translate (s : State) (station : Nat) (part : BitVec 16) (space : BitVec 20) (va : Nat) : Option Page × State :=
  if (spaceEntry s part space).isNone then (none, s)
  else
  let walked := (walkPath s part space va).2
  let pageOf (w : Word × Bool) : Page := ⟨pagePlace w.1 w.2 va, w.1⟩
  let keep (w : Word × Bool) : Cached := ⟨station, space, if w.2 then va / 2 ^ 29 else va / 2 ^ 16, w.2, w.1⟩
  match cachedFor s station space va, walked with
  | none, none => (none, s)
  | none, some w => (some (pageOf w), keepCached s (keep w))
  | some c, w =>
    if w = some (c.entry, c.big) then (some (pageOf (c.entry, c.big)), s)
    else
      let (old, s) := s.flip
      if old then (some (pageOf (c.entry, c.big)), s)
      else
        let s := { s with stations := s.stations.filter fun x => x != c }
        match w with
        | none => (none, s)
        | some w => (some (pageOf w), keepCached s (keep w))

/-! ## Accesses -/

/-- A run of bytes of an access: its place, its length, whether the partition's keys admit it (R406) and its expander reaches it (R384), and the
entry of its page (0 for local memory). -/
structure Seg where
  place : Nat
  len   : Nat
  ok    : Bool
  entry : Word
  deriving DecidableEq, Repr

/-- The ordering attribute of a part of an access (R301): that of its page; local memory is RC (R130). -/
def Seg.order (g : Seg) : PageOrder :=
  match pteOrd g.entry with
  | 1 => .so | 2 => .un | _ => .rc

/-- A part of an access that goes out over CXL (R350, R364): to host memory or to the second tier. -/
def Seg.far (g : Seg) : Bool := 2 ^ 50 ≤ g.place && g.place < 2 ^ 56

/-- The page of an address is host-homed or lies in the second tier (R364). -/
def farPage (s : State) (part : BitVec 16) (space : BitVec 20) (va : Nat) : Bool :=
  match (walkPath s part space va).2 with
  | some (e, _) => pteHh e || 2 ^ 50 ≤ pteFrame e
  | none => false

/-- Bytes of the second tier lie in what their expander maps (R384), and no page of the second tier or of host memory that the access reaches reports an
error (R364); every other place is there. Log entry 41. -/
def tierOk (s : State) (a n : Nat) : Bool :=
  (if 2 ^ 50 ≤ a && a < 2 ^ 52 then a % 2 ^ 48 + n ≤ (s.tiers[a / 2 ^ 48 % 4]'(Nat.mod_lt _ (by decide))).mapped else true)
    && !s.dark.any fun p => p < a + n && a < p + 65536

/-- What an access needs of its page (R131). -/
structure Need where
  r : Bool
  w : Bool
  deriving DecidableEq, Repr

def needR : Need := ⟨true, false⟩
def needW : Need := ⟨false, true⟩
def needRW : Need := ⟨true, true⟩

/-- The page grants what is needed. -/
def grants (e : Word) (n : Need) : Bool := (!n.r || pteR e) && (!n.w || pteW e)

/-- The runs of `n` bytes at `va` that lie in one 64 KiB page each, in ascending order: start and length. `fuel` bounds their number. -/
def pageRuns (fuel va n : Nat) : List (Nat × Nat) :=
  match fuel with
  | 0 => []
  | f + 1 =>
    if n = 0 then []
    else
      let k := min n (65536 - va % 65536)
      (va, k) :: pageRuns f (va + k) (n - k)

/-- The page runs of an access. -/
def runsOf (va n : Nat) : List (Nat × Nat) := pageRuns (n / 65536 + 2) va n

/-- Each run with its page, or none where it has no translation. -/
def translateRuns (s : State) (station : Nat) (part : BitVec 16) (space : BitVec 20) :
    List (Nat × Nat) → List ((Nat × Nat) × Option Page) × State
  | [] => ([], s)
  | run :: rest =>
    let (p, s) := translate s station part space run.1
    let (l, s) := translateRuns s station part space rest
    ((run, p) :: l, s)

/-- The outcome of checking a global access: its segments, or the address and cause (5 PAGE, 6 PERM) of the lowest failing byte. -/
inductive Global where
  | ok (segs : List Seg)
  | bad (code va : Nat)
  deriving DecidableEq, Repr

/-- Steps 3 and 4 of R131 over every page of an access, and its segments. -/
def globalAccess (s : State) (station : Nat) (part : BitVec 16) (space : BitVec 20) (need : Need) (va n : Nat) : Global × State :=
  let (l, s) := translateRuns s station part space (runsOf va n)
  match l.find? fun x => x.2.isNone with
  | some x => (.bad exPage x.1.1, s)
  | none =>
    match l.find? fun x => match x.2 with | some p => !grants p.entry need | none => false with
    | some x => (.bad exPerm x.1.1, s)
    | none =>
      (.ok (l.filterMap fun x => x.2.map fun p =>
        ⟨p.place + x.1.1 % 65536, x.1.2, keyOk s part (pteKey p.entry) x.1.1 && tierOk s (p.place + x.1.1 % 65536) x.1.2, p.entry⟩), s)

/-- The address form of a local or global access (R41, R42): none where it is broken, otherwise the local segments (none for `.gl`). Log entry 54. -/
def formOk (am : AddrMode) (addr n : Nat) : Bool :=
  match am with
  | .gl => addr < 2 ^ 55
  | .lo => addr + n ≤ 2 ^ 19
  | .cb => addr < 2 ^ 23 && addr % 2 ^ 19 + n ≤ 2 ^ 19
  | .ci => addr + n ≤ 2 ^ 23

/-- The place of a byte named in a local mode by core `core` (R41). -/
def localByte (core : Nat) (am : AddrMode) (addr : Nat) : Nat :=
  let base := core / 16 * 16
  match am with
  | .lo => localPlace core addr
  | .cb => localPlace (base + addr / 2 ^ 19) (addr % 2 ^ 19)
  | _ => localPlace (base + addr / 8 % 16) (addr / 128 * 8 + addr % 8)

/-- The runs of a `.ci` access: its words (R43). -/
def wordRuns (fuel addr n : Nat) : List (Nat × Nat) :=
  match fuel with
  | 0 => []
  | f + 1 =>
    if n = 0 then []
    else
      let k := min n (8 - addr % 8)
      (addr, k) :: wordRuns f (addr + k) (n - k)

/-- The segments of an access in a local mode. -/
def localSegs (core : Nat) (am : AddrMode) (addr n : Nat) : List Seg :=
  match am with
  | .ci => (wordRuns (n / 8 + 2) addr n).map fun r => ⟨localByte core .ci r.1, r.2, true, 0⟩
  | _ => [⟨localByte core am addr, n, true, 0⟩]

/-- The places of an access, byte by byte. -/
def segPlaces (l : List Seg) : List Nat := l.flatMap fun g => (List.range g.len).map fun i => g.place + i

/-- The outcome of an access's checks (R131): its segments, or the exception of the first check that fails. -/
inductive Access where
  | ok (segs : List Seg)
  | exc (e : Exc)
  deriving DecidableEq, Repr

/-- The checks of R131 for an access of the current core: address form, alignment to `align`, translation, permission. -/
def access (s : State) (am : AddrMode) (align : Nat) (need : Need) (addr : Word) (n : Nat) : Access × State :=
  let a := addr.toNat
  if !formOk am a n then (.exc ⟨exAddress, addr⟩, s)
  else if a % align != 0 then (.exc ⟨exMisalign, addr⟩, s)
  else match am with
  | .gl =>
    match globalAccess s (homeSlice s.cluster) s.part s.hart.spid need a n with
    | (.ok segs, s) => (.ok segs, s)
    | (.bad code va, s) => (.exc ⟨code, BitVec.ofNat 64 va⟩, s)
  | am => (.ok (localSegs s.cur am a n), s)

/-- Whether an access leaves the core (R39, R137). -/
def leaves (s : State) (am : AddrMode) (segs : List Seg) : Bool :=
  match am with
  | .gl => true
  | .lo => false
  | _ => segs.any fun g => (g.place - 2 ^ 56) / 2 ^ 19 != s.cur

/-! ## Encrypted lines (R357, R405) -/

/-- The pair under which a line was last written; none for a line that no page's write has reached, which every key shows as it is. Log entry 83. -/
def State.lineKey (s : State) (line : Nat) : Option LineKey := (s.lines.find? fun x => x.1 == line).map (·.2)

/-- A place of HBM whose line no write has reached since a checkpoint of earlier pairs was restored (R420). Log entry 37. -/
def State.sealedAt (s : State) (a : Nat) : Bool := s.sealed && a < 2 ^ 50

/-- The byte at a place shows as it was written under the pair in force for a key id. -/
def State.clear (s : State) (key a : Nat) : Bool :=
  match s.lineKey (a / 128) with
  | none => !s.sealedAt a
  | some t => t.key == key && t.gen == s.keyGen key && t.tweak == a / 128 && !t.stale.testBit (a % 128)

/-- `n` bytes of a place as a page of a key id shows them. -/
def State.readKeyed (s : State) (key a n : Nat) : List Byte :=
  if (s.lines.isEmpty && !s.sealed) || 2 ^ 52 ≤ a then s.mem.readN a n
  else (List.range n).map fun i =>
    if s.clear key (a + i) then s.mem.read (a + i) else Config.garble s.draws key (a + i) (s.mem.readN ((a + i) / 128 * 128) 128)

/-- The line after a write under a key id to its bytes `a` to `a + n`: what was written under another pair is stale from now on. -/
def retag (s : State) (key a n line : Nat) : LineKey :=
  let written := 2 ^ (min (a + n) (128 * line + 128) - 128 * line) - 2 ^ (a - 128 * line)
  let others := 2 ^ 128 - 1 - written
  let stale := match s.lineKey line with
    | none => if s.sealedAt (128 * line) then others else 0
    | some t => if t.key == key && t.gen == s.keyGen key && t.tweak == line then t.stale &&& others else others
  ⟨key, s.keyGen key, line, stale⟩

/-- A page of a key id writes `n` bytes at a place of HBM or the second tier. -/
def tagLines (s : State) (key a n : Nat) : State :=
  if 2 ^ 52 ≤ a || n = 0 then s
  else
    let first := a / 128
    let l := (List.range ((a + n - 1) / 128 + 1 - first)).map fun k => first + k
    { s with lines := l.foldl (fun m k => insertA m k (retag s key a n k)) s.lines }

/-- The device writes bytes of its own at a place, which every key shows as they are. Log entry 83. -/
def untagLines (s : State) (a n : Nat) : State :=
  if s.lines.isEmpty then s else { s with lines := s.lines.filter fun x => 128 * x.1 + 128 ≤ a || a + n ≤ 128 * x.1 }

/-! ## Replicated pages (R311–R313) -/

/-- The place a read by a party of sector `sec` uses: the sector's replica (R311, R356). -/
def readPlace (sec : Nat) (g : Seg) : Nat := if pteRepl g.entry then g.place + sec * 2 ^ 40 else g.place

/-- The bytes of an access as a party of sector `sec` reads them. -/
def readSegs (s : State) (sec : Nat) (l : List Seg) : List Byte := l.flatMap fun g => s.readKeyed (pteKey g.entry) (readPlace sec g) g.len

/-- Some replicated write of the core to the segments has not been applied in its own sector (R313). -/
def replBusy (s : State) (core : Nat) (l : List Seg) : Bool :=
  let sec := sectorOf (clusterOf core)
  (s.repl.drop s.applied[sec % 3]!).any fun w => w.core == core &&
    l.any fun g => pteRepl g.entry && w.place < g.place + g.len && g.place < w.place + w.data.length

end Sys2Proof.Machine
end

