-- ==== Sys2Proof/Machine/Homeroom.lean ====
section
/-! DEFINITION. What a write to memory does besides changing bytes (R214, R312), and the operations of a homeroom (R213–R215, R222, R227,
R228). -/

namespace Sys2Proof.Machine

/-! ## Rolls -/

/-- A counter as a party names it: its place, and the key id of the page it was reached through, whose pair encrypts a KIND 00 word in HBM or the
second tier (R209, R357, R405). Below 2^64 a name is a place, under key id 0. -/
def ctrName (place kid : Nat) : Nat := place + 2 ^ 64 * kid

/-- The place of a counter. -/
def ctrPlace (key : Nat) : Nat := key % 2 ^ 64

/-- The key id a counter is reached under. -/
def ctrKid (key : Nat) : Nat := key / 2 ^ 64

/-- The counter is poisoned (R209). -/
def State.poisoned (s : State) (key : Nat) : Bool := s.poison.contains (ctrPlace key)

/-- The value of a counter as the key id it is reached under shows it (R357, R405). -/
def State.counter (s : State) (key : Nat) : Word := BitVec.ofNat 64 (leNat (s.readKeyed (ctrKid key) (ctrPlace key) 8))

/-- What an evaluation finds (R214): poison gives 1, a reached threshold 0. -/
def verdict (s : State) (key : Nat) (thr : Word) : Option Word :=
  if s.poisoned key then some 1 else if reached (s.counter key) thr then some 0 else none

/-- The roll entries `p` selects are evaluated; those that wake leave the roll (R214). -/
def evaluate (s : State) (p : RollEntry → Bool) : State :=
  let wakes := s.roll.filterMap fun e => if p e then (verdict s e.key e.thr).map fun st => (⟨e.waiter, st⟩ : Wake) else none
  { s with
    roll := s.roll.filter fun e => !(p e && (verdict s e.key e.thr).isSome)
    wakes := s.wakes ++ wakes }

/-- The homeroom of a counter (R209): an event unit (192 of them) or, from 192 on, a slice. -/
def homeOf (key : Nat) : Nat :=
  let a := ctrPlace key
  if isGlobalPlace a then 192 + owningSlice a
  else if a < 2 ^ 57 then (a - 2 ^ 56) / 2 ^ 19 / 16
  else (a - 2 ^ 57) / 8 / 4096

/-- The entries a homeroom's roll holds (R1, R209). -/
def rollCapacity (home : Nat) : Nat := if home < 192 then 64 else 1024

/-- The roll of the counter's homeroom has no place left (R210). -/
def rollFull (s : State) (key : Nat) : Bool :=
  rollCapacity (homeOf key) ≤ (s.roll.filter fun e => homeOf e.key == homeOf key).length

/-- A waiter registers with the effective scope of its wait (R210, R224). -/
def register (s : State) (key : Nat) (w : Waiter) (thr : Word) (sc : Scope) : State := { s with roll := s.roll ++ [⟨key, w, thr, sc⟩] }

/-- A waiter's entries and wakes are withdrawn (R225). -/
def withdraw (s : State) (w : Waiter) : State :=
  { s with roll := s.roll.filter fun e => e.waiter != w, wakes := s.wakes.filter fun e => e.waiter != w }

/-! ## Writes -/

/-- Bytes are written at a place; the homeroom of a KIND 00 word they reach evaluates its roll (R214). A store to a KIND 10 word causes no
evaluation; nor does an atomic of a local mode or the write of an engine there, which reach the bank in the same way. Log entry 89. -/
def State.write (s : State) (a : Nat) (bs : List Byte) : State :=
  evaluate { s with mem := s.mem.write a bs } fun e =>
    isGlobalPlace (ctrPlace e.key) && ctrPlace e.key < a + bs.length && a < ctrPlace e.key + 8

/-- Bytes are written at a place through a page of a key id (R357). -/
def State.writeKeyed (s : State) (key a : Nat) (bs : List Byte) : State := (tagLines s key a bs.length).write a bs

/-- Replica `k` has applied the sequence up to its write number `n` (R312). -/
def applyUpTo (k : Fin 3) (n : Nat) : List ReplWrite → State → State
  | [], s => s
  | w :: r, s =>
    if n ≤ w.num then s
    else
      let a := w.place + k.val * 2 ^ 40
      applyUpTo k n r { s.writeKeyed w.key a w.data with applied := s.applied.set k (s.applied[k] + 1) }

/-- Writes that all three replicas have applied leave the sequence. -/
def dropApplied (s : State) : State :=
  let k := s.applied.toList.foldl min s.repl.length
  if k = 0 then s else { s with repl := s.repl.drop k, applied := s.applied.map fun a => a - k }

/-- The sequence goes on in every replica until the writes of unit `who` to it are performed (R312). A party that is no core waits so at its
releases. Log entry 11. -/
def settleRepl (who : Nat) (s : State) : State :=
  match (s.repl.filter fun w => w.core == who).getLast? with
  | none => s
  | some w =>
    dropApplied ((List.finRange 3).foldl (fun s k => applyUpTo k (w.num + 1) (s.repl.drop s.applied[k]) s) s)

/-- The replica of sector `sec` goes on until the writes of the units `by'` that meet the segments are applied in it. -/
def settleBy (by' : Nat → Bool) (sec : Nat) (l : List Seg) (s : State) : State :=
  let k : Fin 3 := ⟨sec % 3, Nat.mod_lt _ (by decide)⟩
  let mine := (s.repl.drop s.applied[k]).filter fun w => by' w.core &&
    l.any fun g => pteRepl g.entry && w.place < g.place + g.len && g.place < w.place + w.data.length
  match mine.getLast? with
  | none => s
  | some w => dropApplied (applyUpTo k (w.num + 1) (s.repl.drop s.applied[k]) s)

/-- A party's read of bytes it has itself written waits for them (R134, R313). Log entry 11. -/
def settleOwn (who : Nat) : Nat → List Seg → State → State := settleBy (· == who)

/-- A read that begins a read-modify-write waits for every write to its bytes, so that the operations of several parties follow one another (R268,
R275, R316). Log entry 11. -/
def settleMeeting : Nat → List Seg → State → State := settleBy fun _ => true

/-- The replication sequence goes on in every replica to its end. -/
def settleAll (s : State) : State :=
  dropApplied ((List.finRange 3).foldl (fun s k => applyUpTo k s.replNext (s.repl.drop s.applied[k]) s) s)

/-- A write to a segment by core or unit `who`: dropped where the keys refuse the page (R406); to a replicated page it takes its place in the
replication sequence (R312). An SO write takes its place in the SO order when it is made, in all three replicas (R302). -/
def writeSeg (s : State) (who : Nat) (g : Seg) (bs : List Byte) : State :=
  if !g.ok then s
  else if pteRepl g.entry then
    let s := { s with repl := s.repl ++ [⟨s.replNext, g.place, bs, who, pteKey g.entry, g.order == .un⟩], replNext := s.replNext + 1 }
    if g.order = .so then settleAll s else s
  else s.writeKeyed (pteKey g.entry) g.place bs

/-- The bytes of an access are written to its segments in order. -/
def writeSegs (s : State) (who : Nat) : List Seg → List Byte → State
  | [], _ => s
  | g :: r, bs => writeSegs (writeSeg s who g (bs.take g.len)) who r (bs.drop g.len)

/-- A word is written by the device at a place. -/
def State.writeWord (s : State) (a : Nat) (w : Word) : State := s.write a (wordBytes w)

/-! ## Homeroom operations -/

/-- A counter and a roll entry are about the same word. -/
def sameCounter (key : Nat) (e : RollEntry) : Bool := ctrPlace e.key == ctrPlace key

/-- The value of a counter is set, under the key id it is reached through (R357), and the roll evaluated for it alone: the atomic step of a homeroom
(R213, R214). -/
def setCounter (s : State) (key : Nat) (w : Word) : State :=
  let s := tagLines s (ctrKid key) (ctrPlace key) 8
  evaluate { s with mem := s.mem.write (ctrPlace key) (wordBytes w) } (sameCounter key)

/-- `CounterAdd` (R222, R250). -/
def counterAdd (s : State) (key : Nat) (x : Word) : State := setCounter s key (s.counter key + x)

/-- The counter is poisoned and every entry for it wakes with status 1 (R228). -/
def counterPoison (s : State) (key : Nat) : State :=
  evaluate { s with poison := if s.poisoned key then s.poison else s.poison ++ [ctrPlace key] } (sameCounter key)

/-- The counter takes a value and its poison clears (R227). -/
def counterInit (s : State) (key : Nat) (x : Word) : State :=
  setCounter { s with poison := s.poison.filter fun k => k != ctrPlace key } key x

/-! ## Scopes of counter operations (R216) -/

/-- The die of a counter's homeroom and its sector: an event unit's cluster, or a slice (R216, R293). -/
def homeDie (key : Nat) : Nat := if homeOf key < 192 then homeOf key / 8 else (homeOf key - 192) / 2

/-- The default scope of the counter at a place for a party of cluster `c`: the smallest scope that contains both the party and the homeroom (R216). -/
def defaultScope (c key : Nat) : Scope :=
  if homeOf key = c then .clu
  else if 2 ^ 50 ≤ ctrPlace key && ctrPlace key < 2 ^ 56 then .sys
  else if homeDie key = c / 8 then .die
  else if homeDie key / 8 = sectorOf c then .sec
  else .pkg

/-- The larger of two scopes. -/
def larger (a b : Scope) : Scope := if scopeRank a < scopeRank b then b else a

/-- The effective scope E of an operation on a tag (KIND 11), whose default is `.core` (R216): `sc` is none where DS = 1. -/
def tagScope (sc : Option Scope) : Scope := larger (sc.getD .core) .core

/-- The effective scope E of a counter instruction of core `n` (R216): `sc` is none where DS = 1. -/
def effectiveScope (n key : Nat) (sc : Option Scope) : Scope :=
  let d := defaultScope (clusterOf n) key
  match sc with
  | none => d
  | some x => larger x d

/-! ## Interrupt requests (R17, R29) -/

/-- IPEND bits by number (R29). -/
def irqPre : Nat := 0
def irqSlice : Nat := 1
def irqTimer : Nat := 2
def irqStall : Nat := 3
def irqSvc : Nat := 4
def irqErr : Nat := 5

/-- An interrupt input of a core is raised. -/
def raise (s : State) (core : Nat) (b : Nat) : State :=
  s.modifyHart core fun h => { h with irq := { h.irq with pend := h.irq.pend ||| BitVec.ofNat 6 (2 ^ b) } }

/-- The address form of a reference and its place, for a KIND 00 reference that has been translated, KIND 01 and KIND 10 (R208). -/
def refKind (r : Word) : Nat := bits r 62 2

/-- The cluster a KIND 01 or KIND 10 reference names (R208). -/
def refCluster (r : Word) : Nat := bits r 54 8

/-- The bits of a reference that R208 requires to be zero are zero, and the cluster exists (R218 step 2); KIND 00 apart from bits [2:0]. -/
def refForm (r : Word) : Bool :=
  match refKind r with
  | 0 => bits r 55 7 == 0
  | 1 => bits r 12 42 == 0 && refCluster r < 192
  | 2 => bits r 0 3 == 0 && bits r 19 31 == 0 && refCluster r < 192
  | _ => bits r 6 56 == 0

/-- The place of a KIND 01 or KIND 10 counter (R209). -/
def refPlace (r : Word) : Nat :=
  if refKind r = 1 then eventPlace (refCluster r) (bits r 0 12)
  else localPlace (refCluster r * 16 + bits r 50 4) (bits r 3 16 * 8)

/-- Step 3 of R218 for a party of partition `p`; `user` bars the engine counters (R327). -/
def refReach (s : State) (p : BitVec 16) (user : Bool) (r : Word) : Bool :=
  match refKind r with
  | 1 => inPart s p (refCluster r) && !(user && 4032 ≤ bits r 0 12)
  | 2 => inPart s p (refCluster r)
  | _ => true

/-- A reference that a party other than a core may be given: KIND 00, 01 or 10 in its form (R208, R218). -/
def addForm (r : Word) : Bool := refForm r && refKind r != 3 && (refKind r != 0 || bits r 0 3 == 0)

/-- What a party finds when it reaches for a counter (R430): the place, a page fault, or a refusal for good: cause 2 for the REPL bit, 3 for a page
whose key is refused or that its expander does not reach (R384, R406). -/
inductive RefAt where
  | at (key : Nat)
  | fault (va kind cause : Nat)
  | never (cause : Nat)
  deriving DecidableEq, Repr

/-- A party other than a core translates a reference when it makes the operation (R430): steps 4 and 5 of R218 at station `m`. -/
def partyRef (s : State) (m : Nat) (part : BitVec 16) (space : BitVec 20) (need : Need) (r : Word) : RefAt × State :=
  match refKind r with
  | 0 =>
    match globalAccess s m part space need r.toNat 8 with
    | (.bad code va, s) => (.fault va (if need.w then 3 else 1) (if code = exPage then 1 else 2), s)
    | (.ok (g :: _), s) => (if pteRepl g.entry then .never 2 else if !g.ok then .never 3 else .at (ctrName g.place (pteKey g.entry)), s)
    | (.ok [], s) => (.never 1, s)
  | _ => (.at (refPlace r), s)

end Sys2Proof.Machine
end

