-- ==== Sys2Proof/Machine/Regs.lean ====
section
/-! DEFINITION. Which registers each instruction names (R18–R21): what it reads, what it writes, its mask. Rows that are not listed name none. -/

namespace Sys2Proof.Machine

/-- The g registers an instruction reads. -/
def gReads : Instr → List Reg
  | .add _ a b => [a, b]
  | .sub _ a b => [a, b]
  | .mul _ a b => [a, b]
  | .mulh _ a b => [a, b]
  | .mulhn _ a b => [a, b]
  | .div _ a b => [a, b]
  | .divn _ a b => [a, b]
  | .rem _ a b => [a, b]
  | .remn _ a b => [a, b]
  | .and _ a b => [a, b]
  | .or _ a b => [a, b]
  | .xor _ a b => [a, b]
  | .sll _ a b => [a, b]
  | .srl _ a b => [a, b]
  | .sra _ a b => [a, b]
  | .slli _ a _ => [a]
  | .srli _ a _ => [a]
  | .srai _ a _ => [a]
  | .slt _ a b => [a, b]
  | .sltn _ a b => [a, b]
  | .min _ a b => [a, b]
  | .max _ a b => [a, b]
  | .minn _ a b => [a, b]
  | .maxn _ a b => [a, b]
  | .clz _ a => [a]
  | .ctz _ a => [a]
  | .popc _ a => [a]
  | .exts _ a _ _ => [a]
  | .extn _ a _ _ => [a]
  | .bins d a _ _ => [a, d]
  | .addi _ a _ => [a]
  | .andi _ a _ => [a]
  | .ori _ a _ => [a]
  | .xori _ a _ => [a]
  | .slti _ a _ => [a]
  | .jalr _ a _ => [a]
  | .beq a b _ => [a, b]
  | .bne a b _ => [a, b]
  | .blt a b _ => [a, b]
  | .bge a b _ => [a, b]
  | .bltn a b _ => [a, b]
  | .bgen a b _ => [a, b]
  | .fadd _ _ a b => [a, b]
  | .fsub _ _ a b => [a, b]
  | .fmul _ _ a b => [a, b]
  | .ffma _ d a b => [a, b, d]
  | .fdiv _ _ a b => [a, b]
  | .fsqrt _ _ a => [a]
  | .fmin _ _ a b => [a, b]
  | .fmax _ _ a b => [a, b]
  | .fcmp _ _ _ a b => [a, b]
  | .fcvt _ _ _ a => [a]
  | .ldI8 _ base _ _ _ _ => [base]
  | .ldI16 _ base _ _ _ _ => [base]
  | .ldI32 _ base _ _ _ _ => [base]
  | .ld64 _ base _ _ _ _ => [base]
  | .ldN8 _ base _ _ _ _ => [base]
  | .ldN16 _ base _ _ _ _ => [base]
  | .ldN32 _ base _ _ _ _ => [base]
  | .st8 d base _ _ _ _ => [base, d]
  | .st16 d base _ _ _ _ => [base, d]
  | .st32 d base _ _ _ _ => [base, d]
  | .st64 d base _ _ _ _ => [base, d]
  | .lbf _ _ a b _ => [a, b]
  | .sbf d a b _ => [a, b, d]
  | .atomAdd _ a b _ _ _ _ => [a, b]
  | .atomAnd _ a b _ _ _ _ => [a, b]
  | .atomOr _ a b _ _ _ _ => [a, b]
  | .atomXor _ a b _ _ _ _ => [a, b]
  | .atomMin _ a b _ _ _ _ => [a, b]
  | .atomMax _ a b _ _ _ _ => [a, b]
  | .atomSwp _ a b _ _ _ _ => [a, b]
  | .atomCas d a b _ _ _ _ => [a, b, d]
  | .tlook _ a => [a]
  | .tset a b => [a, b]
  | .tclr a => [a]
  | .vld128 _ base _ _ _ _ => [base]
  | .vld256 _ base _ _ _ _ => [base]
  | .vld512 _ base _ _ _ _ => [base]
  | .vst128 _ base _ _ _ _ => [base]
  | .vst256 _ base _ _ _ _ => [base]
  | .vst512 _ base _ _ _ _ => [base]
  | .vlds _ ga gb _ _ => [ga, gb]
  | .vsts _ ga gb _ _ => [ga, gb]
  | .vldx _ ga _ _ _ => [ga]
  | .vstx _ ga _ _ _ => [ga]
  | .vbcast _ ga _ _ => [ga]
  | .vmgv _ ga _ _ => [ga]
  | .strcfg _ a b _ _ _ => [a, b]
  | .vloop a _ => [a]
  | .mvc a b => [a, b]
  | .mld a b _ _ _ => [a, b]
  | .mldt a b _ _ _ => [a, b]
  | .mlds a b _ _ _ => [a, b]
  | .mst _ a b _ _ _ => [a, b]
  | .cadd a b _ => [a, b]
  | .caddv a b _ _ => [a, b]
  | .cread a _ _ _ => [a]
  | .cwait a b _ _ => [a, b]
  | .cwaitt a b c _ => [a, b, c]
  | .caw a b c _ => [a, b, c]
  | .cinit a b _ _ => [a, b]
  | .cpoison a _ => [a]
  | .twany _ a => [a]
  | .twall _ a => [a]
  | .join _ a => [a]
  | .xcopy a b c _ _ _ => [a, b, c]
  | .xgath a b c _ _ _ => [a, b, c]
  | .xscat a b c _ _ _ _ => [a, b, c]
  | .xfill a b c _ _ _ => [a, b, c]
  | .xput a b c _ _ _ => [a, b, c]
  | .xget a b c _ _ _ => [a, b, c]
  | .xsub a b c _ => [a, b, c]
  | .xpub a b c _ => [a, b, c]
  | .xquery a _ _ => [a]
  | .glmap a b _ _ => [a, b]
  | .gcopy a b _ _ => [a, b]
  | .gsend a b _ _ => [a, b]
  | .grecv a b _ _ => [a, b]
  | .gcmp a b _ _ => [a, b]
  | .ghash a b _ _ => [a, b]
  | .grel a b _ _ => [a, b]
  | .ebind _ a b _ => [a, b]
  | .eld _ a b => [a, b]
  | .emma _ a b => [a, b]
  | .emap _ a _ _ => [a]
  | .esig _ a b c => [a, b, c]
  | .mtk _ a => [a]
  | .genpub a => [a]
  | _ => []

/-- The g registers an instruction writes. -/
def gWrites : Instr → List Reg
  | .add d _ _ => [d]
  | .sub d _ _ => [d]
  | .mul d _ _ => [d]
  | .mulh d _ _ => [d]
  | .mulhn d _ _ => [d]
  | .div d _ _ => [d]
  | .divn d _ _ => [d]
  | .rem d _ _ => [d]
  | .remn d _ _ => [d]
  | .and d _ _ => [d]
  | .or d _ _ => [d]
  | .xor d _ _ => [d]
  | .sll d _ _ => [d]
  | .srl d _ _ => [d]
  | .sra d _ _ => [d]
  | .slli d _ _ => [d]
  | .srli d _ _ => [d]
  | .srai d _ _ => [d]
  | .slt d _ _ => [d]
  | .sltn d _ _ => [d]
  | .min d _ _ => [d]
  | .max d _ _ => [d]
  | .minn d _ _ => [d]
  | .maxn d _ _ => [d]
  | .clz d _ => [d]
  | .ctz d _ => [d]
  | .popc d _ => [d]
  | .exts d _ _ _ => [d]
  | .extn d _ _ _ => [d]
  | .bins d _ _ _ => [d]
  | .addi d _ _ => [d]
  | .andi d _ _ => [d]
  | .ori d _ _ => [d]
  | .xori d _ _ => [d]
  | .slti d _ _ => [d]
  | .lih d _ => [d]
  | .addpc d _ => [d]
  | .jal d _ => [d]
  | .jalr d _ _ => [d]
  | .fadd _ d _ _ => [d]
  | .fsub _ d _ _ => [d]
  | .fmul _ d _ _ => [d]
  | .ffma _ d _ _ => [d]
  | .fdiv _ d _ _ => [d]
  | .fsqrt _ d _ => [d]
  | .fmin _ d _ _ => [d]
  | .fmax _ d _ _ => [d]
  | .fcmp _ _ d _ _ => [d]
  | .fcvt _ _ d _ => [d]
  | .ldI8 d _ _ _ _ _ => [d]
  | .ldI16 d _ _ _ _ _ => [d]
  | .ldI32 d _ _ _ _ _ => [d]
  | .ld64 d _ _ _ _ _ => [d]
  | .ldN8 d _ _ _ _ _ => [d]
  | .ldN16 d _ _ _ _ _ => [d]
  | .ldN32 d _ _ _ _ _ => [d]
  | .lbf _ d _ _ _ => [d]
  | .atomAdd d _ _ _ _ _ _ => [d]
  | .atomAnd d _ _ _ _ _ _ => [d]
  | .atomOr d _ _ _ _ _ _ => [d]
  | .atomXor d _ _ _ _ _ _ => [d]
  | .atomMin d _ _ _ _ _ _ => [d]
  | .atomMax d _ _ _ _ _ _ => [d]
  | .atomSwp d _ _ _ _ _ _ => [d]
  | .atomCas d _ _ _ _ _ _ => [d]
  | .tlook d _ => [d]
  | .vmvg gd _ _ _ => [gd]
  | .mlease d => [d]
  | .oclaim d _ => [d]
  | .caddv _ _ c _ => [c]
  | .cread _ b c _ => [b, c]
  | .cwait _ _ c _ => [c]
  | .cwaitt _ _ c _ => [c]
  | .caw _ _ c _ => [c]
  | .cinit _ _ c _ => [c]
  | .twany d _ => [d]
  | .twall d _ => [d]
  | .tfirst d => [d]
  | .join d _ => [d]
  | .xquery _ b c => [b, c]
  | .glmap _ _ c _ => [c]
  | .gcopy _ _ c _ => [c]
  | .gsend _ _ c _ => [c]
  | .grecv _ _ c _ => [c]
  | .gcmp _ _ c _ => [c]
  | .ghash _ _ c _ => [c]
  | .grel _ _ c _ => [c]
  | .ebind _ _ _ c => [c]
  | .estep _ c => [c]
  | .emap _ _ b c => [b, c]
  | .mfk d _ => [d]
  | .li48 d _ => [d]
  | _ => []

/-- The v registers an instruction names (R21): sources, destinations, the mask, whether inactive lanes keep the destination, and whether it
takes no stream register at all. -/
structure VUse where
  src : List Reg
  dst : List Reg
  mask : Option Reg
  merge : Bool
  plain : Bool

/-- The mask register of a masking mode (R63). -/
def maskReg : Mask → Option Reg
  | .none => none
  | .mu m => some m
  | .ma m => some m

/-- Masked-undisturbed (R155). -/
def isMu : Mask → Bool
  | .mu _ => true
  | _ => false

/-- The register after `r`. -/
def nextReg (r : Reg) : Reg := toReg (r.val + 1)

def noV : VUse := ⟨[], [], none, false, false⟩

/-- The v registers of each instruction. Log entry 57. -/
def vUse : Instr → VUse
  | .vld128 d _ _ _ _ _ => ⟨[], [d], none, false, false⟩
  | .vld256 d _ _ _ _ _ => ⟨[], [d], none, false, false⟩
  | .vld512 d _ _ _ _ _ => ⟨[], [d], none, false, false⟩
  | .vst128 d _ _ _ _ _ => ⟨[d], [], none, false, false⟩
  | .vst256 d _ _ _ _ _ => ⟨[d], [], none, false, false⟩
  | .vst512 d _ _ _ _ _ => ⟨[d], [], none, false, false⟩
  | .vlds vd _ _ mk _ => ⟨[], [vd], maskReg mk, isMu mk, false⟩
  | .vsts vd _ _ mk _ => ⟨[vd], [], maskReg mk, false, false⟩
  | .vldx vd _ vb mk _ => ⟨[vb], [vd], maskReg mk, isMu mk, false⟩
  | .vstx vd _ vb mk _ => ⟨[vd, vb], [], maskReg mk, false, false⟩
  | .vatomAdd vd va _ mk _ => ⟨[vd, va], [vd], maskReg mk, false, false⟩
  | .vatomAnd vd va _ mk _ => ⟨[vd, va], [vd], maskReg mk, false, false⟩
  | .vatomOr vd va _ mk _ => ⟨[vd, va], [vd], maskReg mk, false, false⟩
  | .vatomXor vd va _ mk _ => ⟨[vd, va], [vd], maskReg mk, false, false⟩
  | .vatomMin vd va _ mk _ => ⟨[vd, va], [vd], maskReg mk, false, false⟩
  | .vatomMax vd va _ mk _ => ⟨[vd, va], [vd], maskReg mk, false, false⟩
  | .vatomSwp vd va _ mk _ => ⟨[vd, va], [vd], maskReg mk, false, false⟩
  | .vadd vd va vb mk _ => ⟨[va, vb], [vd], maskReg mk, isMu mk, false⟩
  | .vsub vd va vb mk _ => ⟨[va, vb], [vd], maskReg mk, isMu mk, false⟩
  | .vmul vd va vb mk _ => ⟨[va, vb], [vd], maskReg mk, isMu mk, false⟩
  | .vfma vd va vb mk _ => ⟨[va, vb, vd], [vd], maskReg mk, isMu mk, false⟩
  | .vmin vd va vb mk _ => ⟨[va, vb], [vd], maskReg mk, isMu mk, false⟩
  | .vmax vd va vb mk _ => ⟨[va, vb], [vd], maskReg mk, isMu mk, false⟩
  | .vand vd va vb mk _ => ⟨[va, vb], [vd], maskReg mk, isMu mk, false⟩
  | .vor vd va vb mk _ => ⟨[va, vb], [vd], maskReg mk, isMu mk, false⟩
  | .vxor vd va vb mk _ => ⟨[va, vb], [vd], maskReg mk, isMu mk, false⟩
  | .vsel vd va vb m _ => ⟨[va, vb], [vd], some m, false, false⟩
  | .vshl vd va vb mk _ => ⟨[va, vb], [vd], maskReg mk, isMu mk, false⟩
  | .vshr vd va vb mk _ => ⟨[va, vb], [vd], maskReg mk, isMu mk, false⟩
  | .vsra vd va vb mk _ => ⟨[va, vb], [vd], maskReg mk, isMu mk, false⟩
  | .vcmp _ vd va vb _ => ⟨[va, vb], [vd], none, false, false⟩
  | .vperm vd va vb mk _ => ⟨[va, vb], [vd], maskReg mk, isMu mk, false⟩
  | .vpack vd va vb mk _ => ⟨[va, vb], [vd], maskReg mk, false, false⟩
  | .vcvt _ _ vd va mk => ⟨[va], [vd], maskReg mk, isMu mk, false⟩
  | .vredAdd vd va mk _ => ⟨[va], [vd], maskReg mk, false, false⟩
  | .vredMin vd va mk _ => ⟨[va], [vd], maskReg mk, false, false⟩
  | .vredMax vd va mk _ => ⟨[va], [vd], maskReg mk, false, false⟩
  | .vredOr vd va mk _ => ⟨[va], [vd], maskReg mk, false, false⟩
  | .vscanAdd vd va mk _ => ⟨[va], [vd], maskReg mk, isMu mk, false⟩
  | .vscanMax vd va mk _ => ⟨[va], [vd], maskReg mk, isMu mk, false⟩
  | .vunpk vd va mk _ => ⟨[va], [vd, nextReg vd], maskReg mk, isMu mk, true⟩
  | .vbcast vd _ mk _ => ⟨[], [vd], maskReg mk, isMu mk, false⟩
  | .vmvg _ va _ _ => ⟨[va], [], none, false, true⟩
  | .vmgv vd _ _ _ => ⟨[vd], [vd], none, false, true⟩
  | .vexp2 vd va mk _ => ⟨[va], [vd], maskReg mk, isMu mk, false⟩
  | .vlog2 vd va mk _ => ⟨[va], [vd], maskReg mk, isMu mk, false⟩
  | .vrcp vd va mk _ => ⟨[va], [vd], maskReg mk, isMu mk, false⟩
  | .vrsq vd va mk _ => ⟨[va], [vd], maskReg mk, isMu mk, false⟩
  | .vtanh vd va mk _ => ⟨[va], [vd], maskReg mk, isMu mk, false⟩
  | .vnot vd va mk _ => ⟨[va], [vd], maskReg mk, isMu mk, false⟩
  | _ => noV

/-- The v registers whose contents an instruction reads, the mask and a kept destination included (R133). Log entry 57. -/
def vReads (i : Instr) : List Reg :=
  let u := vUse i
  u.src ++ u.mask.toList ++ (if u.merge then u.dst else [])

end Sys2Proof.Machine
end

