-- ==== Sys2Proof/Machine/Ops.lean ====
section
/-! DEFINITION. Taking a trap and returning from one (R125–R129, R205, R206, R225, R265), the checks every instruction passes before its own
entry (R53, R56, R132, R133, R155, R182), and the accesses of units other than cores. -/

namespace Sys2Proof.Machine

/-! ## Accesses of engines, walkers and the device (R235, R429) -/

/-- What a unit finds when it reads or writes: bytes, a page fault (address, kind 1 read, 2 write, 3 both, cause 1 PAGE or 2 PERM), or an
error it cannot get past (a refused key, R406). -/
inductive Fetched where
  | ok (bs : List Byte)
  | fault (va kind cause : Nat)
  | err
  deriving DecidableEq, Repr

/-- The kind of access of a fault record (R361). -/
def Need.kind (n : Need) : Nat := if n.r && n.w then 3 else if n.w then 2 else 1

/-- The segments of an access of a unit at station `m` for a core: translated under the given space, or local to the core's cluster. -/
def partyAccess (s : State) (m : Nat) (part : BitVec 16) (space : BitVec 20) (core : Nat) (am : AddrMode) (need : Need) (a n : Nat) :
    Global × State :=
  match am with
  | .gl => globalAccess s m part space need a n
  | am => (.ok (localSegs core am a n), s)

/-- A party reads: bytes it has itself written to a replicated page are applied first (R134, R313). -/
def partyRead (s : State) (m : Nat) (part : BitVec 16) (space : BitVec 20) (core : Nat) (am : AddrMode) (a n : Nat) : Fetched × State :=
  match partyAccess s m part space core am needR a n with
  | (.bad code va, s) => (.fault va 1 (if code = exPage then 1 else 2), s)
  | (.ok l, s) =>
    let s := settleOwn core (m / 16) l s
    if l.all Seg.ok then (.ok (readSegs s (m / 16) l), s) else (.err, s)

/-- A party writes. -/
def partyWrite (s : State) (m : Nat) (part : BitVec 16) (space : BitVec 20) (core : Nat) (am : AddrMode) (a : Nat) (bs : List Byte) :
    Fetched × State :=
  match partyAccess s m part space core am needW a bs.length with
  | (.bad code va, s) => (.fault va 2 (if code = exPage then 1 else 2), s)
  | (.ok l, s) => if l.all Seg.ok then (.ok [], writeSegs s core l bs) else (.err, s)

/-! ## Fetching a word (R16) -/

/-- The instruction word at an address under the hart's space, or none where the fetch faults (R115). Log entry 7. -/
def fetchWord (s : State) (va : Word) : Option Nat × State :=
  match translate s (homeSlice s.cluster) s.part s.hart.spid va.toNat with
  | (none, s) => (none, s)
  | (some p, s) =>
    if pteX p.entry && keyOk s s.part (pteKey p.entry) va.toNat then
      (some (leNat (readSegs s (sectorOf s.cluster) [⟨p.place + va.toNat % 65536, 4, true, p.entry⟩])), s)
    else (none, s)

/-! ## Contexts and leases (R33, R191, R205) -/

/-- The effective context id (R33). -/
def Hart.ctxId (h : Hart) : BitVec 8 := if h.tsw.mode = .user then h.lease.ctx else h.lease.hctx

/-- The lease of the current core ends (R191). -/
def endLease (s : State) : State :=
  let a := s.array s.cluster
  let s := if a.holder = some s.cur then s.setArray s.cluster { a with holder := none } else s
  s.onHart fun h => { h with lease := { h.lease with held := false, left := 0, cols := 256, rows := 256 } }

/-- The command belongs to a batch: every one but ESIG, which needs no lease (R192, R282). Log entry 66. -/
def CmdOp.leased : CmdOp → Bool
  | .esig _ _ _ _ _ => false
  | _ => true

/-- The held batch is parked at a command boundary (R205); with a batch parked already the held lease ends. Log entry 66. -/
def parkBatch (s : State) : State :=
  if !s.hart.lease.held then s
  else if s.hart.lease.park then endLease s
  else
    let a := s.array s.cluster
    let mine (c : Command) : Bool := c.core == s.cur && !c.begun && c.op.leased
    let cmds := a.queue.filter mine
    let l := s.hart.lease
    let s := s.setArray s.cluster { a with
      holder := none
      queue := a.queue.filter fun c => !mine c
      parks := a.parks ++ [⟨s.cur, cmds, l.left, l.cols, l.rows⟩] }
    s.onHart fun h => { h with
      otl := { h.otl with iss := h.otl.iss - BitVec.ofNat 32 cmds.length }
      lease := { h.lease with pctx := h.ctxId, park := true, held := false, left := 0, cols := 256, rows := 256 } }

/-! ## Withdrawing what an interrupted instruction waits for (R125, R225, R226) -/

/-- An interrupted CWAITT writes its remaining cycles (R225). Log entry 80. -/
def keepTimeout (s : State) (start : Word) (limit : Option (Word × Reg)) : State :=
  match limit with
  | none => s
  | some (n, r) => s.setG r (BitVec.ofNat 64 (n.toNat - (s.hart.irq.cycle - start).toNat))

/-- The add of a CAW on its way is performed and acknowledged before the trap (R226). Log entry 80. -/
def settleCaw (s : State) : State :=
  match s.adds.find? fun a => a.core == s.cur && a.caw with
  | none => s
  | some a =>
    let s := counterAdd { s with adds := s.adds.erase a } a.key a.amount
    s.onHart fun h => { h with ost := h.ost.retire, tsw := { h.tsw with ap := true } }

/-- What the interrupted instruction waits for is withdrawn. Log entries 71 and 80. -/
def withdrawWait (s : State) : State :=
  let s := match s.hart.wait with
    | none | some (.step _ _ _) => s
    | some (.counter _ _ _ start limit) | some (.woken _ start limit) | some (.own _ _ _ start limit) =>
      keepTimeout (withdraw s (.core s.cur)) start limit
    | some .cawAdd => settleCaw s
    | some .lease =>
      let a := s.array s.cluster
      s.setArray s.cluster { a with waiting := a.waiting.filter fun n => n != s.cur }
    | some .leaseGranted =>
      let a := s.array s.cluster
      s.setArray s.cluster { a with holder := none }
  s.onHart fun h => { h with wait := none }

/-! ## Trap entry (R127) -/

/-- The mode a handler runs in (R127). -/
def handlerMode : Mode → Mode
  | .user => .supervisor
  | m => m

/-- `TakeTrap` (R127): the status word and the cause are saved, the sequencer stops, a held batch is parked under the interrupted code's
context, and the hart goes on at the handler with IE and the pending fields clear. -/
def takeTrap (int : Bool) (code : Nat) (tval epc : Word) (s : State) : State :=
  let s := parkBatch (withdrawWait s)
  s.onHart fun h => { h with
    tsws := h.tsw
    trap := { h.trap with int := int, code := BitVec.ofNat 16 code, tval := tval, tepc := epc }
    seq := { h.seq with stopped := h.seq.run }
    tsw := { h.tsw.clearPending with mode := handlerMode h.tsw.mode, ie := false }
    pc := h.trap.tvec
    ahead := none
    entering := true }

/-- The exception `e` of the instruction at the program counter. -/
def trapHere (e : Exc) (s : State) : State := takeTrap false e.code e.tval s.hart.pc s

/-- The illegal-instruction exception of an instruction (R54). -/
def illegal (i : Instr) (s : State) : State := trapHere ⟨exIllegal, i.tval⟩ s

/-- The privilege exception of an instruction (R54). -/
def privileged (i : Instr) (s : State) : State := trapHere ⟨exPriv, i.tval⟩ s

/-! ## Trap return (R121, R181, R206) -/

/-- A resume request is raised when a batch of the context returned to is parked; a lease still held first ends. A return to another context leaves the
batch parked: a request that was raised before and not granted falls (R206). -/
def raiseResume (s : State) : State :=
  let others (a : ArrayUnit) : List Nat := a.resumes.filter fun n => n != s.cur
  if s.hart.lease.park && s.hart.ctxId == s.hart.lease.pctx then
    let s := if s.hart.lease.held then endLease s else s
    let a := s.array s.cluster
    s.setArray s.cluster { a with resumes := others a ++ [s.cur] }
  else if (s.array s.cluster).resumes.contains s.cur then
    let a := s.array s.cluster
    s.setArray s.cluster { a with resumes := others a }
  else s

/-- `TRET` (R121): the pc and the status word return, a stopped loop runs on, and a parked batch asks to resume. -/
def trapReturn (s : State) : State :=
  raiseResume (s.onHart fun h => { h with
    pc := h.trap.tepc
    tsw := h.tsws
    seq := { h.seq with stopped := false }
    ahead := none })

/-! ## Interrupts (R29, R125, R126) -/

/-- The interrupt the hart takes before its next instruction, if any (R125). -/
def takeable (h : Hart) : Option Nat :=
  let on (b : Nat) : Bool := h.irq.pend.getLsbD b && h.irq.mask.getLsbD b && h.tsw.ie
  if h.irq.pend.getLsbD irqPre && (h.tsw.mode == .user || on irqPre) then some irqPre
  else if on irqErr then some irqErr
  else if on irqStall then some irqStall
  else if on irqSvc then some irqSvc
  else if on irqTimer then some irqTimer
  else none

/-- `n` cycles pass for a hart: CYCLE advances, and TIMER is set while CYCLE ≥ TIMECMP (R126). Log entry 50. -/
def Hart.tick (n : Nat) (h : Hart) : Hart :=
  let c := h.irq.cycle + BitVec.ofNat 64 n
  { h with irq := { h.irq with
      cycle := c
      pend := if h.irq.timecmp.toNat ≤ c.toNat then h.irq.pend ||| 4 else h.irq.pend } }

/-! ## The checks before an instruction's own entry -/

/-- The major opcode of an instruction (R9). -/
def majorOf (i : Instr) : Nat := i.words.headD 0 / 2 ^ 26

/-- The supervisor-only instructions (R54). -/
def supervisorOnly : Instr → Bool
  | .tret | .genpub _ | .cinit _ _ _ _ | .cpoison _ _ | .glmap _ _ _ _ => true
  | _ => false

/-- The instructions that accept a prefix (R56). -/
def acceptsPrefix : Instr → Bool
  | .mld _ _ _ _ _ | .mldt _ _ _ _ _ | .mlds _ _ _ _ _ | .mst _ _ _ _ _ _ | .mma _ _ _ => true
  | _ => false

/-- The sequencer is Running (R181). -/
def Hart.running (h : Hart) : Bool := h.seq.run && !h.seq.stopped

/-- The stream bound to a v register, if any (R21). -/
def Hart.bound (h : Hart) (r : Reg) : Option Stream :=
  if r.val < 24 then none
  else
    let st := h.streams[(r.val - 24) % 8]'(Nat.mod_lt _ (by decide))
    if st.en then some st else none

/-- A register is bound in the given direction. -/
def Hart.boundDir (h : Hart) (dir : Bool) (r : Reg) : Bool :=
  match h.bound r with
  | some st => st.dir == dir
  | none => false

/-- A use of stream registers that R21, R155, R164 or R168 forbids. -/
def misuse (h : Hart) (u : VUse) : Bool :=
  u.src.any (h.boundDir true) || u.dst.any (h.boundDir false) || u.mask.toList.any (fun r => (h.bound r).isSome)
    || (u.plain && (u.src ++ u.dst).any fun r => (h.bound r).isSome)

/-- The registers an instruction reads: a bound stream register is no register then (R21). Log entry 57. -/
def readDests (h : Hart) (i : Instr) : List Dest :=
  (gReads i).map Dest.g ++ ((vReads i).filter fun r => (h.bound r).isNone).map Dest.v

/-- The registers an instruction names (R132). -/
def namedDests (h : Hart) (i : Instr) : List Dest := readDests h i ++ (gWrites i).map Dest.g ++ (vUse i).dst.map Dest.v

/-- A command of the core that needs a lease has been issued and has not retired; a parked one counts as not issued (R36, R117, R205). -/
def leaseBusy (s : State) : Bool := (s.array s.cluster).queue.any fun c => c.core == s.cur && c.op.leased

/-- A user-mode MTK of a register that has no W field: every one but TSW (R23, R120). -/
def mtkBarred (h : Hart) : Instr → Bool
  | .mtk k _ => h.tsw.mode == .user && k != .tsw
  | _ => false

/-- An MTK that waits (R36, R182). -/
def mtkHolds (s : State) : CtlReg → Bool
  | .seq | .sqi _ | .sa _ | .sn _ | .sg _ | .tsw => s.hart.running
  | .lstat | .lvc => leaseBusy s
  | _ => false

/-- The sequencer or the core's matrix commands make the instruction wait (R36, R182). -/
def unitHolds (s : State) (i : Instr) : Bool :=
  match i with
  | .mtk k _ => mtkHolds s k
  | .fork _ => s.hart.running
  | i => s.hart.running && ((0x18 ≤ majorOf i && majorOf i ≤ 0x2E) || majorOf i == 0x14)

/-! ## The format prefix (R193, R194) -/

/-- The formats of a lease command. -/
structure Prefix where
  aty : ElemType
  bty : ElemType
  cty : Nat
  scl : Nat
  sp  : Bool
  odd : Bool
  deriving DecidableEq, Repr

/-- The formats of the next command: the pending prefix, or the defaults (R194). `odd` is the reserved bit of the prefix. -/
def prefixOf (t : Tsw) : Prefix :=
  if t.pp then
    let x := t.pfmt.toNat
    ⟨ElemType.ofCode (field x 12 4), ElemType.ofCode (field x 8 4), field x 4 4, field x 2 2, field x 1 1 == 1, field x 0 1 == 1⟩
  else ⟨.dm8, .dm8, 8, 0, false, false⟩

/-- 8 or 16 bits and narrower types a slot can hold: 0, 1, 9, 11–15 (R194). -/
def slotType (t : ElemType) : Bool := t == .i8 || t == .n8 || t == .bf16 || 11 ≤ t.code

/-- A prefix that fits a load of slot `n`. -/
def loadAccepts (p : Prefix) (n : Nat) : Bool :=
  !p.odd && !p.sp && (p.cty == 4 || p.cty == 8) && slotType p.aty && (p.scl == 0 || (p.scl == 1 && p.aty.isPacked))
    && (p.aty != .bf16 || n % 2 == 0)

/-- A prefix that fits a store of output type `ot`. -/
def storeAccepts (p : Prefix) (ot : OutType) : Bool :=
  !p.odd && !p.sp && (p.cty == 4 || p.cty == 8) && (p.scl == 0 || (p.scl == 1 && (ot == .dm8 || ot == .e4m3)))

/-- Integer slot types of MMA. -/
def mmaInt (t : ElemType) : Bool := t == .i8 || t == .n8 || t == .i4

/-- Type combinations of MMA (R194), the slots apart. -/
def mulTypes (aty bty : ElemType) (cty scl : Nat) : Bool :=
  (aty.isPacked && bty.isPacked && cty == 8) || (aty == .bf16 && bty == .bf16 && cty == 8 && scl == 0)
    || (mmaInt aty && mmaInt bty && cty == 4 && scl == 0)

/-- A prefix that fits MMA of slots `a` and `b`. -/
def mulAccepts (p : Prefix) (a b : Nat) : Bool :=
  !p.odd && mulTypes p.aty p.bty p.cty p.scl && (p.aty != .bf16 || (a % 2 == 0 && b % 2 == 0))

/-- The formats a lease command finds fit it (R201 step 1); every other instruction looks at none. -/
def prefixFits (t : Tsw) : Instr → Bool
  | .mld _ _ _ _ n | .mldt _ _ _ _ n | .mlds _ _ _ _ n => loadAccepts (prefixOf t) n
  | .mst ot _ _ _ _ _ => storeAccepts (prefixOf t) ot
  | .mma _ a b => mulAccepts (prefixOf t) a b
  | _ => true

/-- FORK and VLOOP while the sequencer is Stopped (R181). -/
def stoppedMisuse (h : Hart) : Instr → Bool
  | .fork _ | .vloop _ _ => h.seq.run && h.seq.stopped
  | _ => false

/-- What the checks before an instruction's own entry decide: it goes on, it waits, or it traps. -/
inductive Gate where
  | pass
  | hold
  | trap (code : Nat) (tval : Word)
  deriving DecidableEq, Repr

/-- The checks in their order: privilege (R53), prefix (R56), the registers MTK may write (R120), the formats of a lease command (R201), the state of
the sequencer (R181, R182), register interlocks (R132), stream registers (R21), poisoned data (R133). Of several poisoned registers the one that was
poisoned first is reported. Log entry 12. -/
def gate (i : Instr) (s : State) : Gate :=
  let h := s.hart
  if supervisorOnly i && h.tsw.mode == .user then .trap exPriv i.tval
  else if h.tsw.pp && !acceptsPrefix i then .trap exIllegal i.tval
  else if mtkBarred h i then .trap exPriv i.tval
  else if !prefixFits h.tsw i || stoppedMisuse h i then .trap exIllegal i.tval
  else if unitHolds s i then .hold
  else if h.loads.any fun l => l.dest != Dest.g 0 && (namedDests h i).contains l.dest then .hold
  else if misuse h (vUse i) then .trap exIllegal i.tval
  else match h.poison.find? fun p => (readDests h i).contains p.1 with
    | some p => .trap exDataErr p.2
    | none => .pass

/-- An instruction of the program: the checks, then its own entry `k`. An instruction that waits leaves the program counter on it. -/
def issue (i : Instr) (s : State) (k : State → State) : Out :=
  match gate i s with
  | .pass => .next (k s)
  | .hold => .next s
  | .trap code tval => .next (trapHere ⟨code, tval⟩ s)

/-- An instruction that writes one g register from the state and goes on (R99). -/
def writesG (i : Instr) (d : Reg) (f : State → Word) (s : State) : Out :=
  issue i s fun s => (s.setG d (f s)).retire 4

end Sys2Proof.Machine
end

