-- ==== Sys2Proof/Machine/Flags.lean ====
section
/-! DEFINITION. The sticky floating-point flags (R24, R80). -/

namespace Sys2Proof.Machine

/-- The flags an operation raises (R80). -/
structure Fl where
  nv : Bool
  dz : Bool
  of : Bool
  uf : Bool
  nx : Bool
  deriving DecidableEq, Repr

def Fl.none : Fl := ⟨false, false, false, false, false⟩
def Fl.invalid : Fl := ⟨true, false, false, false, false⟩
def Fl.divZero : Fl := ⟨false, true, false, false, false⟩
def Fl.inexact : Fl := ⟨false, false, false, false, true⟩
def Fl.overflow : Fl := ⟨false, false, true, false, true⟩
def Fl.underflow : Fl := ⟨false, false, false, true, true⟩

/-- Flags raised by either of two operations. -/
def Fl.or (a b : Fl) : Fl := ⟨a.nv || b.nv, a.dz || b.dz, a.of || b.of, a.uf || b.uf, a.nx || b.nx⟩

/-- NV when `b` holds. -/
def Fl.nvIf (b : Bool) : Fl := ⟨b, false, false, false, false⟩

/-- The flags of a list of operations. -/
def Fl.all (l : List Fl) : Fl := l.foldl Fl.or Fl.none

/-- Flags are sticky: they stay set (R24). -/
def Tsw.raise (t : Tsw) (f : Fl) : Tsw :=
  { t with nv := t.nv || f.nv, dz := t.dz || f.dz, of := t.of || f.of, uf := t.uf || f.uf, nx := t.nx || f.nx }

def State.raiseFl (s : State) (f : Fl) : State := { s with hart := { s.hart with tsw := s.hart.tsw.raise f } }

end Sys2Proof.Machine
end

