-- ==== Sys2Proof/Machine/Float.lean ====
section
/-! DEFINITION. Number formats and arithmetic (R78–R92): IEEE types, rounding, DM8, the microscaling elements, X8 scales, conversions. -/

namespace Sys2Proof.Machine

/-- A binary floating-point layout: exponent and significand widths (R81, R90). -/
structure Fmt where
  eb : Nat
  mb : Nat
  deriving DecidableEq, Repr

def fmtF32 : Fmt := ⟨8, 23⟩
def fmtBf16 : Fmt := ⟨8, 7⟩
def fmtF16 : Fmt := ⟨5, 10⟩

def ftFmt : FType → Fmt
  | .f32 => fmtF32 | .bf16 => fmtBf16 | .f16 => fmtF16

/-- The layout of an IEEE element type; f32 for the others, which decode to it (R162). -/
def etFmt : ElemType → Fmt
  | .bf16 => fmtBf16 | .f16 => fmtF16 | _ => fmtF32

def Fmt.bias (f : Fmt) : Int := 2 ^ (f.eb - 1) - 1
def Fmt.infCode (f : Fmt) : Nat := (2 ^ f.eb - 1) * 2 ^ f.mb
def Fmt.signCode (f : Fmt) : Nat := 2 ^ (f.eb + f.mb)

/-- The canonical NaN (R79). -/
def Fmt.nan (f : Fmt) : Nat := f.infCode + 2 ^ (f.mb - 1)

/-- The exponent of the least subnormal. -/
def Fmt.umin (f : Fmt) : Int := 1 - f.bias - f.mb

/-- A floating-point value: a NaN, signalling or not; an infinity; or (−1)^s · m · 2^e. -/
inductive FVal where
  | nan (sig : Bool)
  | inf (s : Bool)
  | fin (s : Bool) (m : Nat) (e : Int)
  deriving DecidableEq, Repr

/-- The value of a pattern (R81). -/
def Fmt.decode (f : Fmt) (x : Nat) : FVal :=
  let s := x.testBit (f.eb + f.mb)
  let ex := x / 2 ^ f.mb % 2 ^ f.eb
  let m := x % 2 ^ f.mb
  if ex = 2 ^ f.eb - 1 then if m = 0 then .inf s else .nan (!m.testBit (f.mb - 1))
  else if ex = 0 then .fin s m f.umin
  else .fin s (m + 2 ^ f.mb) (ex - 1 + f.umin)

def FVal.isNan : FVal → Bool | .nan _ => true | _ => false
def FVal.isSig : FVal → Bool | .nan s => s | _ => false
def FVal.isZero : FVal → Bool | .fin _ m _ => m == 0 | _ => false
def FVal.isInf : FVal → Bool | .inf _ => true | _ => false
def FVal.sign : FVal → Bool | .nan _ => false | .inf s => s | .fin s _ _ => s

/-- A sign bit in front of a magnitude code. -/
def Fmt.signed (f : Fmt) (s : Bool) (code : Nat) : Nat := if s then f.signCode + code else code

/-- x · 2^k for k of either sign, as a fraction. -/
def scaleFrac (num den : Nat) (k : Int) : Nat × Nat := if 0 ≤ k then (num * 2 ^ k.toNat, den) else (num, den * 2 ^ (-k).toNat)

/-- ⌊log₂ (num / den)⌋ for num > 0. -/
def floorLog (num den : Nat) : Int :=
  let t : Int := (Nat.log2 num : Int) - (Nat.log2 den : Int)
  let (n, d) := scaleFrac num den (-t)
  if d ≤ n then t else t - 1

/-- num / den rounded to an integer in a mode, for a value of sign `s` (R78, R25): the integer and whether it is exact. -/
def roundQuot (rm : Round) (s : Bool) (num den : Nat) : Nat × Bool :=
  let q := num / den
  let r := num % den
  let up := match rm with
    | .rne => decide (den < 2 * r) || (2 * r == den && q % 2 == 1)
    | .rtz => false
    | .rdn => s && r != 0
    | .rup => !s && r != 0
  (if up then q + 1 else q, r == 0)

/-- The result of an overflow in a mode (R78). -/
def Fmt.overflowCode (f : Fmt) (rm : Round) (s : Bool) : Nat :=
  let toInf := match rm with
    | .rne => true | .rtz => false | .rdn => s | .rup => !s
  f.signed s (if toInf then f.infCode else f.infCode - 1)

/-- `Round` (R78): (−1)^s · num/den · 2^e rounded to the format, the subnormal range and overflow included; tininess is detected after
rounding (R80). -/
def Fmt.round (f : Fmt) (rm : Round) (s : Bool) (num den : Nat) (e : Int) : Nat × Fl :=
  if num = 0 then (f.signed s 0, Fl.none)
  else
    let E := floorLog num den + e
    let u := max (E - f.mb) f.umin
    let (n, d) := scaleFrac num den (e - u)
    let (q, exact) := roundQuot rm s n d
    let code := (u - f.umin).toNat * 2 ^ f.mb + q
    if f.infCode ≤ code then (f.overflowCode rm s, Fl.overflow)
    else if exact then (f.signed s code, Fl.none)
    else
      let emin : Int := f.umin + f.mb
      let (n2, d2) := scaleFrac num den (e - (E - f.mb))
      let tiny := decide (E < emin) && !(E == emin - 1 && (roundQuot rm s n2 d2).1 == 2 ^ (f.mb + 1))
      (f.signed s code, if tiny then Fl.underflow else Fl.inexact)

/-- An integer rounded to the format. -/
def Fmt.ofInt (f : Fmt) (rm : Round) (x : Int) : Nat × Fl := f.round rm (decide (x < 0)) x.natAbs 1 0

/-- The sign of an exact zero sum (R78). -/
def zeroSign (rm : Round) (sa sb : Bool) : Bool := if sa = sb then sa else rm == .rdn

/-- The exact sum of two finite values, as an integer times 2^e. -/
def sumExact (sa : Bool) (ma : Nat) (ea : Int) (sb : Bool) (mb : Nat) (eb : Int) : Int × Int :=
  let e := min ea eb
  let x : Int := (ma * 2 ^ (ea - e).toNat : Nat)
  let y : Int := (mb * 2 ^ (eb - e).toNat : Nat)
  ((if sa then -x else x) + (if sb then -y else y), e)

/-- The canonical NaN of an invalid operation. -/
def Fmt.bad (f : Fmt) : Nat × Fl := (f.nan, Fl.invalid)

/-- A NaN result for NaN operands: NV for a signalling one (R79, R108). -/
def Fmt.nanOf (f : Fmt) (l : List FVal) : Nat × Fl := (f.nan, Fl.nvIf (l.any FVal.isSig))

/-- a + b (R108). -/
def Fmt.addV (f : Fmt) (rm : Round) (a b : FVal) : Nat × Fl :=
  match a, b with
  | .nan _, _ | _, .nan _ => f.nanOf [a, b]
  | .inf s, .inf t => if s = t then (f.signed s f.infCode, Fl.none) else f.bad
  | .inf s, .fin _ _ _ | .fin _ _ _, .inf s => (f.signed s f.infCode, Fl.none)
  | .fin sa ma ea, .fin sb mb eb =>
    let (x, e) := sumExact sa ma ea sb mb eb
    if x = 0 then (f.signed (zeroSign rm sa sb) 0, Fl.none)
    else f.round rm (decide (x < 0)) x.natAbs 1 e

/-- The negative of a value; a NaN stays one. -/
def FVal.neg : FVal → FVal
  | .nan s => .nan s
  | .inf s => .inf (!s)
  | .fin s m e => .fin (!s) m e

/-- a × b exactly, or none for 0 × ∞. -/
def mulExact (a b : FVal) : Option FVal :=
  match a, b with
  | .nan s, .nan t => some (.nan (s || t))
  | .nan s, _ | _, .nan s => some (.nan s)
  | .inf s, .inf t => some (.inf (s != t))
  | .inf s, .fin t m _ | .fin t m _, .inf s => if m = 0 then none else some (.inf (s != t))
  | .fin s m e, .fin t n d => some (.fin (s != t) (m * n) (e + d))

/-- a × b (R108). -/
def Fmt.mulV (f : Fmt) (rm : Round) (a b : FVal) : Nat × Fl :=
  match mulExact a b with
  | none => f.bad
  | some (.nan s) => (f.nan, Fl.nvIf s)
  | some (.inf s) => (f.signed s f.infCode, Fl.none)
  | some (.fin s m e) => f.round rm s m 1 e

/-- a × b + c, rounded once (R108): 0 × ∞ is invalid whatever the addend. -/
def Fmt.fmaV (f : Fmt) (rm : Round) (a b c : FVal) : Nat × Fl :=
  match mulExact a b with
  | none => f.bad
  | some p => if p.isNan || c.isNan then (f.nan, Fl.nvIf (p.isSig || c.isSig)) else f.addV rm p c

/-- a ÷ b (R108). -/
def Fmt.divV (f : Fmt) (rm : Round) (a b : FVal) : Nat × Fl :=
  match a, b with
  | .nan _, _ | _, .nan _ => f.nanOf [a, b]
  | .inf _, .inf _ => f.bad
  | .inf s, .fin t _ _ => (f.signed (s != t) f.infCode, Fl.none)
  | .fin s _ _, .inf t => (f.signed (s != t) 0, Fl.none)
  | .fin s m e, .fin t n d =>
    if n = 0 then if m = 0 then f.bad else (f.signed (s != t) f.infCode, Fl.divZero)
    else f.round rm (s != t) m n (e - d)

/-- √a (R108): the root is taken with enough digits that its last, odd for an inexact root, decides the rounding. -/
def Fmt.sqrtV (f : Fmt) (rm : Round) (a : FVal) : Nat × Fl :=
  match a with
  | .nan s => (f.nan, Fl.nvIf s)
  | .inf s => if s then f.bad else (f.infCode, Fl.none)
  | .fin s m e =>
    if m = 0 then (f.signed s 0, Fl.none)
    else if s then f.bad
    else
      let k := 2 * (f.mb + 4)
      let m2 := if e % 2 = 0 then m * 2 ^ k else 2 * m * 2 ^ k
      let e2 := if e % 2 = 0 then e - k else e - 1 - k
      let r := Nat.sqrt m2
      f.round rm false (2 * r + (if r * r = m2 then 0 else 1)) 1 (e2 / 2 - 1)

/-- The order of two finite or infinite values, −0 equal to +0: less, and equal. -/
def FVal.cmp (a b : FVal) : Bool × Bool :=
  match a, b with
  | .inf s, .inf t => (s && !t, s == t)
  | .inf s, _ => (s, false)
  | _, .inf t => (!t, false)
  | .fin sa ma ea, .fin sb mb eb =>
    let (x, _) := sumExact sa ma ea (!sb) mb eb
    (decide (x < 0), x == 0)
  | _, _ => (false, false)

/-- FCMP and VCMP on floating-point values (R110, R160): EQ, NE, LT, LE, UN. -/
def fcompare (c : VCond) (a b : FVal) : Bool × Fl :=
  let nan := a.isNan || b.isNan
  let sig := Fl.nvIf (a.isSig || b.isSig)
  let (lt, eq) := a.cmp b
  match c with
  | .eq => (!nan && eq, sig)
  | .ne => (nan || !eq, sig)
  | .lt => (!nan && lt, Fl.nvIf nan)
  | .le => (!nan && (lt || eq), Fl.nvIf nan)
  | .un => (nan, sig)

/-- a is below b in the order of minimumNumber: −0 below +0 (R109). -/
def FVal.below (a b : FVal) : Bool :=
  let (lt, eq) := a.cmp b
  lt || (eq && a.isZero && b.isZero && a.sign && !b.sign)

/-- minimumNumber, or with `mx` maximumNumber, of two patterns (R109). -/
def Fmt.minMax (f : Fmt) (mx : Bool) (x y : Nat) : Nat × Fl :=
  let a := f.decode x
  let b := f.decode y
  let sig := Fl.nvIf (a.isSig || b.isSig)
  if a.isNan && b.isNan then (f.nan, sig)
  else if a.isNan then (y, sig)
  else if b.isNan then (x, sig)
  else (if mx then (if a.below b then y else x) else (if b.below a then y else x), sig)

/-! ## Conversions -/

/-- An integer type's range (R82). -/
def etRange : ElemType → Int × Int
  | .i8 => (-2 ^ 7, 2 ^ 7 - 1) | .n8 => (0, 2 ^ 8 - 1)
  | .i16 => (-2 ^ 15, 2 ^ 15 - 1) | .n16 => (0, 2 ^ 16 - 1)
  | .i32 => (-2 ^ 31, 2 ^ 31 - 1) | .n32 => (0, 2 ^ 32 - 1)
  | .i64 => (-2 ^ 63, 2 ^ 63 - 1) | .n64 => (0, 2 ^ 64 - 1)
  | .i4 => (-8, 7)
  | _ => (0, 0)

/-- Signed integer types (R82). -/
def etSigned : ElemType → Bool
  | .i8 | .i16 | .i32 | .i64 | .i4 => true
  | _ => false

/-- The value of an integer element. -/
def etInt (t : ElemType) (x : Nat) : Int :=
  if etSigned t then signedOf t.elemBits x else (x % 2 ^ t.elemBits : Nat)

/-- An integer brought into a range. -/
def clampInt (lo hi x : Int) : Int := if x < lo then lo else if hi < x then hi else x

/-- The pattern of an integer in a width. -/
def intPattern (w : Nat) (x : Int) : Nat := (x % (2 ^ w : Nat)).toNat

/-- A value rounded to an integer in a mode (R83): the integer and whether it is exact. -/
def roundToInt (rm : Round) (s : Bool) (m : Nat) (e : Int) : Int × Bool :=
  let (n, d) := scaleFrac m 1 e
  let (q, exact) := roundQuot rm s n d
  (if s then -(q : Int) else q, exact)

/-- A floating-point value to an integer range (R83). -/
def fvalToInt (rm : Round) (r : Int × Int) (a : FVal) : Int × Fl :=
  match a with
  | .nan _ => (0, Fl.invalid)
  | .inf s => (if s then r.1 else r.2, Fl.invalid)
  | .fin s m e =>
    let (x, exact) := roundToInt rm s m e
    let y := clampInt r.1 r.2 x
    if y != x then (y, Fl.invalid) else (y, if exact then Fl.none else Fl.inexact)

/-- A floating-point value to an IEEE format (R111, R162). -/
def Fmt.ofVal (f : Fmt) (rm : Round) (a : FVal) : Nat × Fl :=
  match a with
  | .nan s => (f.nan, Fl.nvIf s)
  | .inf s => (f.signed s f.infCode, Fl.none)
  | .fin s m e => f.round rm s m 1 e

/-! ## DM8 (R84–R87) -/

/-- The magnitude of a payload in units of 10^−18 · 2^−5 (R85): the fraction 1 + 9F/2^f, times 10^(E + 18). -/
def dm8Mag (p : Nat) : Nat :=
  let go (f fbits exp : Nat) : Nat := (2 ^ fbits + 9 * f) * 2 ^ (5 - fbits) * 10 ^ exp
  if 0x40 ≤ p then go (p % 32) 5 (17 + p / 32 % 2)
  else if 0x20 ≤ p then go (p % 16) 4 (15 + p / 16 % 2)
  else if 0x10 ≤ p then go (p % 4) 2 (11 + p / 4 % 4)
  else if 0x08 ≤ p then go (p % 2) 1 (7 + p / 2 % 4)
  else if 0x04 ≤ p then go 0 0 (3 + p % 4)
  else if 0x02 ≤ p then go 0 0 (1 + p % 2)
  else if p = 1 then go 0 0 0
  else 0

/-- The denominator of `dm8Mag`. -/
def dm8Unit : Nat := 32 * 10 ^ 18

/-- The f32 pattern of a DM8 code (R86). -/
def dm8Decode (c : Nat) : Nat :=
  let p := c % 128
  if p = 0 then if c.testBit 7 then fmtF32.nan else 0
  else (fmtF32.round .rne (c.testBit 7) (dm8Mag p) dm8Unit 0).1

/-- The payload nearest to num/den · 2^e (R87 rules 3 and 4): payloads are counted whose midpoint with the next one lies below the value, or on it
when the next payload is even. -/
def dm8Payload (num den : Nat) (e : Int) : Nat :=
  let (n, d) := scaleFrac num den e
  ((List.range 127).filter fun p =>
    let mid := (dm8Mag p + dm8Mag (p + 1)) * d
    let x := 2 * n * dm8Unit
    decide (mid < x) || (mid == x && (p + 1) % 2 == 0)).length

/-- The exact source is above 9.71875 in magnitude (R87 rule 2). -/
def dm8Over (num den : Nat) (e : Int) : Bool :=
  let (n, d) := scaleFrac num den e
  decide (dm8Mag 127 * d < n * dm8Unit)

/-- Encoding to DM8 (R87), with the flags of R162. -/
def dm8Encode (a : FVal) : Nat × Fl :=
  match a with
  | .nan s => (0x80, Fl.nvIf s)
  | .inf _ => (0x80, Fl.invalid)
  | .fin s m e =>
    if dm8Over m 1 e then (if s then 0xFF else 0x7F, Fl.overflow)
    else
      let p := dm8Payload m 1 e
      if p = 0 then (0, if m = 0 then Fl.none else Fl.underflow)
      else
        let (n, d) := scaleFrac m 1 e
        (if s then 0x80 + p else p, if n * dm8Unit = dm8Mag p * d then Fl.none else Fl.inexact)

/-! ## Microscaling elements (R90–R92) and X8 scales (R88) -/

/-- Significand bits, bias and the largest finite code of e4m3, e2m3 and e2m1. -/
def mxShape : ElemType → Nat × Int × Nat
  | .e4m3 => (3, 7, 0x7E)
  | .e2m3 => (3, 1, 0x1F)
  | _ => (1, 1, 7)

/-- The sign bit of a microscaling code. -/
def mxSign : ElemType → Nat
  | .e4m3 => 0x80
  | .e2m3 => 0x20
  | _ => 8

/-- The exact value of a microscaling code (R90). -/
def mxValue (t : ElemType) (x : Nat) : FVal :=
  let (mb, bias, _) := mxShape t
  let mag := x % mxSign t
  let s := x / mxSign t % 2 == 1
  if t == .e4m3 && mag == 0x7F then .nan false
  else
    let ex := mag / 2 ^ mb
    let m := mag % 2 ^ mb
    if ex = 0 then .fin s m (1 - bias - mb) else .fin s (m + 2 ^ mb) (ex - bias - mb)

/-- Encoding to a microscaling type (R91). -/
def mxEncode (t : ElemType) (a : FVal) : Nat × Fl :=
  let (mb, bias, top) := mxShape t
  let sg (s : Bool) (c : Nat) : Nat := if s then mxSign t + c else c
  match a with
  | .nan s => (if t == .e4m3 then 0x7F else 0, Fl.nvIf s)
  | .inf s => (sg s top, Fl.overflow)
  | .fin s m e =>
    if m = 0 then (sg s 0, Fl.none)
    else
      let umin : Int := 1 - bias - mb
      let (tn, td) := scaleFrac (top % 2 ^ mb + 2 ^ mb) 1 ((top / 2 ^ mb : Nat) - bias - mb)
      let (vn, vd) := scaleFrac m 1 e
      if tn * vd < vn * td then (sg s top, Fl.overflow) else
      let u := max (floorLog m 1 + e - mb) umin
      let (n, d) := scaleFrac m 1 (e - u)
      let (q, exact) := roundQuot .rne s n d
      let code := (u - umin).toNat * 2 ^ mb + q
      (sg s code, if exact then Fl.none else Fl.inexact)

/-- The value of an element of any type: integers, IEEE types, and the narrow types through their f32 pattern (R86, R90, R162). -/
def etValue (t : ElemType) (x : Nat) : FVal :=
  match t with
  | .f32 | .bf16 | .f16 => (etFmt t).decode x
  | .dm8 => fmtF32.decode (dm8Decode (x % 256))
  | .e4m3 | .e2m3 | .e2m1 => mxValue t x
  | t =>
    let i := etInt t x
    .fin (decide (i < 0)) i.natAbs 0

/-- A value encoded as a type (R162). -/
def etEncode (t : ElemType) (rm : Round) (a : FVal) : Nat × Fl :=
  match t with
  | .f32 | .bf16 | .f16 => (etFmt t).ofVal rm a
  | .dm8 => dm8Encode a
  | .e4m3 | .e2m3 | .e2m1 => mxEncode t a
  | t =>
    let (x, fl) := fvalToInt rm (etRange t) a
    (intPattern t.elemBits x, fl)

/-- One element converted (R162): integers among themselves saturate and raise no flag. -/
def convert (dst src : ElemType) (rm : Round) (x : Nat) : Nat × Fl :=
  if (dst.isInt || dst == .i4) && (src.isInt || src == .i4) then
    (intPattern dst.elemBits (clampInt (etRange dst).1 (etRange dst).2 (etInt src x)), Fl.none)
  else etEncode dst rm (etValue src x)

/-- |x| of a value. -/
def FVal.abs : FVal → FVal
  | .nan s => .nan s
  | .inf _ => .inf false
  | .fin _ m e => .fin false m e

/-- A value times 2^k. -/
def FVal.shift (k : Int) : FVal → FVal
  | .fin s m e => .fin s m (e + k)
  | a => a

end Sys2Proof.Machine
end

