-- ==== Sys2Proof/Machine/Operands.lean ====
section
/-! DEFINITION. Operand forms: lanes, masks (R19, R20, R63, R155), loads and stores of the current core (R131–R137), and the pops and
pushes of stream registers (R21, R177, R178). -/

namespace Sys2Proof.Machine

/-! ## Lanes (R19) -/

/-- Lane `i` of width `w`. -/
def lane (w : Nat) (x : V512) (i : Nat) : Nat := field x.toNat (w * i) w

/-- A number from lanes of width `w`, lane 0 lowest. -/
def packLanes (w : Nat) : List Nat → Nat
  | [] => 0
  | x :: r => x % 2 ^ w + 2 ^ w * packLanes w r

/-- A register from lanes of width `w`; lanes that are not listed are 0. -/
def ofLanes (w : Nat) (l : List Nat) : V512 := BitVec.ofNat 512 (packLanes w l)

/-- `x` with lane `i` replaced. -/
def setLane (w : Nat) (x : V512) (i v : Nat) : V512 :=
  ofLanes w ((List.range (512 / w)).map fun k => if k = i then v else lane w x k)

/-- The bytes of a register, the lowest first. -/
def v512Bytes (x : V512) : List Byte := toBytes 64 x.toNat

/-- A register from bytes; the rest is 0. -/
def v512OfBytes (l : List Byte) : V512 := BitVec.ofNat 512 (leNat l)

/-! ## Masks (R20, R155) -/

inductive Masking where
  | all | mu | ma
  deriving DecidableEq, Repr

def maskMode : Mask → Masking
  | .none => .all | .mu _ => .mu | .ma _ => .ma

/-- The mask bits: all ones when unmasked. -/
def maskBits (s : State) : Mask → Nat
  | .none => 2 ^ 64 - 1
  | .mu m | .ma m => (s.v m).toNat % 2 ^ 64

/-! ## Loads and stores of the current core -/

/-- An add of the core on its way to a word of the access: the access waits for it (R134). Log entry 11. -/
def ownAdd (s : State) (l : List Seg) : Bool :=
  s.adds.any fun a => a.core == s.cur && l.any fun g => ctrPlace a.key < g.place + g.len && g.place < ctrPlace a.key + 8

/-- An access to an SO page waits for the adds that its core has sent through SO pages: its SO accesses keep program order (R302). -/
def soWaits (s : State) (l : List Seg) : Bool :=
  l.any (fun g => g.order == .so) && s.adds.any fun a => a.core == s.cur && a.ord == .so

/-- A load or atomic waits: for adds of the core that come before it, or for its own replica (R134, R302, R313). Log entry 12. -/
def loadWaits (s : State) (l : List Seg) : Bool := ownAdd s l || soWaits s l || replBusy s s.cur l

/-- A write of the core to replicated pages is not yet applied everywhere (R312). -/
def replPending (s : State) : Bool := s.repl.any fun w => w.core == s.cur

/-- Something that core `n` did before a release is not yet performed: an add of those listed, or a write to replicated pages. What went through UN
pages is not waited for (R217, R296, R303, R312). -/
def releaseHeld (s : State) (n : Nat) (l : List AddInFlight) : Bool :=
  l.any (fun a => a.core == n && a.ord != .un) || s.repl.any fun w => w.core == n && !w.un

/-- A release of the current core waits (R217, R296). -/
def releaseWaits (s : State) : Bool := releaseHeld s s.cur s.adds

/-- Pieces read ahead are discarded (R178). Log entry 74. -/
def dropAhead (s : State) : State :=
  s.onHart fun h => { h with streams := h.streams.map fun st => { st with ahead := [] } }

/-- Runs of bytes, as places and lengths, have a byte in common. -/
def meet (l m : List (Nat × Nat)) : Bool := l.any fun p => m.any fun q => p.1 < q.1 + q.2 && q.1 < p.1 + p.2

/-- The runs of the segments of an access. -/
def segRuns (l : List Seg) : List (Nat × Nat) := l.map fun g => (g.place, g.len)

/-- An access of the core reaches the bytes of pieces read ahead: those pieces and the ones after them are discarded, so that the pop, which comes
later in program order, does not return something older (R134, R178, R299). Log entry 74. -/
def dropMeeting (s : State) (l : List (Nat × Nat)) : State :=
  s.onHart fun h => { h with streams := h.streams.map fun st =>
    { st with ahead := st.ahead.takeWhile fun p => !meet p.places l } }

/-- Bytes that a command of core `n` has written, or its step's add, are discarded in the same way from what its streams have read ahead (R178,
R203). -/
def dropMeetingOf (s : State) (n : Nat) (l : List (Nat × Nat)) : State :=
  s.modifyHart n fun h => { h with streams := h.streams.map fun st =>
    { st with ahead := st.ahead.takeWhile fun p => !meet p.places l } }

def isAcq (o : Order) : Bool := o == .acq || o == .ar
def isRel (o : Order) : Bool := o == .rel || o == .ar

/-- An access with its release bit waits for the core's earlier accesses (R148, R151, R296). -/
def relWaits (s : State) (o : Order) : Bool := isRel o && releaseWaits s

/-- A store waits: for adds of the core that come before it, and where it is a release (R134, R296, R302). -/
def storeWaits (s : State) (l : List Seg) (o : Order) : Bool := ownAdd s l || soWaits s l || relWaits s o

/-- The bytes of an access as the current core reads them. Log entry 10. -/
def State.load (s : State) (l : List Seg) : List Byte := readSegs s (sectorOf s.cluster) l

/-- A register takes a value, or poison in its place (R133); g0 takes neither. -/
def Hart.fill (h : Hart) (d : Dest) (addr : Word) (data : V512) (bad : Bool) : Hart :=
  let h := match d with
    | .g r => h.setG r (BitVec.ofNat 64 data.toNat)
    | .v r => h.setV r data
  if bad && d != .g 0 then { h with poison := h.poison ++ [(d, addr)] } else h

/-- The value of a load or atomic goes to its register: at once for the core's own local memory, otherwise when it arrives (R39, R132, R137). -/
def deliver (s : State) (away un : Bool) (d : Dest) (addr : Word) (data : V512) (bad : Bool) : State :=
  if away then s.onHart fun h => { h with old := h.old.issue, loads := h.loads ++ [⟨d, addr, data, bad, un⟩] }
  else s.onHart fun h => h.fill d addr data bad

/-- Every byte of an access lies on a UN page (R303). -/
def allUn (l : List Seg) : Bool := l.all fun g => g.order == .un

/-- The refused pages of a store of the current core raise ERR (R406). Log entry 12. -/
def errIf (s : State) (l : List Seg) : State := if l.all Seg.ok then s else raise s s.cur irqErr

/-- A store that leaves the core counts until it is acknowledged: with its own writes of the replication sequence, those from number `first` on,
performed (R39, R137, R312). Log entry 12. -/
def countStore (s : State) (first : Nat) (away un far : Bool) : State :=
  if away then s.onHart fun h => { h with ost := h.ost.issue, stores := h.stores ++ [⟨un, far, first, s.replNext⟩] } else s

/-- Bytes are stored by the current core. Log entry 10. -/
def State.store (s : State) (l : List Seg) (bs : List Byte) : State := dropAhead (errIf (writeSegs s s.cur l bs) l)

/-! ## Partial writes of a piece (R21) -/

/-- One byte merged: bits of `m` from `x`, the others kept. -/
def mergeByte (old x m : Byte) : Byte := (old &&& ~~~m) ||| (x &&& m)

/-- The bytes of a masked write: none where no bit is written. -/
def maskedBytes (old data mask : List Byte) : List (Option Byte) :=
  (old.zip (data.zip mask)).map fun p => if p.2.2 = 0 then none else some (mergeByte p.1 p.2.1 p.2.2)

/-- Runs of bytes that are written: offset and bytes. -/
def byteRuns : Nat → List (Option Byte) → List (Nat × List Byte)
  | _, [] => []
  | i, none :: r => byteRuns (i + 1) r
  | i, some b :: r =>
    match byteRuns (i + 1) r with
    | (j, bs) :: t => if j = i + 1 then (i, b :: bs) :: t else (i, [b]) :: (j, bs) :: t
    | [] => [(i, [b])]

/-- The part of a segment from byte `o` on, `n` bytes long. -/
def Seg.part (g : Seg) (o n : Nat) : Seg := { g with place := g.place + o, len := n }

/-- Bytes of a piece are written where the mask has bits. -/
def writeMasked (s : State) (l : List Seg) (data mask : List Byte) : State :=
  match l with
  | [] => s
  | g :: r =>
    let old := s.load [g]
    let runs := byteRuns 0 (maskedBytes old (data.take g.len) (mask.take g.len))
    let s := runs.foldl (fun s p => writeSeg s s.cur (g.part p.1 p.2.length) p.2) s
    writeMasked s r (data.drop g.len) (mask.drop g.len)

/-! ## Stream operands -/

/-- The stream of a register v24–v31. -/
def streamOf (r : Reg) : Fin 8 := ⟨(r.val - 24) % 8, Nat.mod_lt _ (by decide)⟩

/-- The streams an instruction names, in ascending order. -/
def namedStreams (h : Hart) (u : VUse) : List (Fin 8) :=
  (List.finRange 8).filter fun j => h.streams[j].en && (u.src ++ u.dst).any fun r => r.val == 24 + j.val

/-- A stream changed by `f`. -/
def Hart.onStream (h : Hart) (j : Fin 8) (f : Stream → Stream) : Hart := { h with streams := h.streams.set j (f h.streams[j]) }

/-- One piece further (R177). -/
def Stream.advance (st : Stream) : Stream :=
  { st with sa := st.sa + st.stride.signExtend 64, sn := st.sn - 1, ahead := st.ahead.tail }

/-- What a stream operand finds: a piece and whether its access leaves the core, an exception, or that it has to wait. -/
inductive Piece where
  | ok (x : V512) (away : Bool)
  | exc (e : Exc)
  | wait
  deriving DecidableEq, Repr

/-- The next piece of a read-bound stream (R177, R178); a refused key is uncorrectable data (R133, R406). Log entry 74. -/
def popPiece (s : State) (j : Fin 8) : Piece × State :=
  let st := s.hart.streams[j]
  match st.ahead with
  | p :: _ => (.ok p.data false, s)
  | [] =>
    match access s st.am 1 needR st.sa 64 with
    | (.exc e, s) => (.exc e, s)
    | (.ok l, s) =>
      if loadWaits s l then (.wait, s)
      else if l.all Seg.ok then (.ok (v512OfBytes (s.load l)) (leaves s st.am l), dropMeeting s (segRuns l))
      else (.exc ⟨exDataErr, st.sa⟩, s)

/-- The stream operands of an instruction: the pieces popped, and where the pushed piece goes. -/
inductive Operands where
  | ok (pops : List (Fin 8 × V512 × Bool)) (push : Option (Fin 8 × List Seg))
  | exc (e : Exc)
  | wait
  deriving DecidableEq, Repr

/-- The pops of the streams listed. -/
def popAll (s : State) : List (Fin 8) → Operands × State
  | [] => (.ok [] none, s)
  | j :: r =>
    match popPiece s j with
    | (.exc e, s) => (.exc e, s)
    | (.wait, s) => (.wait, s)
    | (.ok x away, s) =>
      match popAll s r with
      | (.ok l p, s) => (.ok ((j, x, away) :: l) p, s)
      | other => other

/-- The stream operands of an instruction, before it has any effect (R177). -/
def operands (s : State) (u : VUse) : Operands × State :=
  let named := namedStreams s.hart u
  let short := named.filter fun j => s.hart.streams[j].sn == 0
  match short with
  | j :: _ =>
    let s := s.onHart fun h => short.foldl (fun h j => h.onStream j fun st => { st with exh := true }) h
    (.exc ⟨exStream, BitVec.ofNat 64 (24 + j.val)⟩, s)
  | [] =>
    match popAll s (named.filter fun j => !s.hart.streams[j].dir) with
    | (.ok pops _, s) =>
      match named.find? fun j => s.hart.streams[j].dir with
      | none => (.ok pops none, s)
      | some j =>
        let st := s.hart.streams[j]
        match access s st.am 1 needW st.sa 64 with
        | (.exc e, s) => (.exc e, s)
        | (.ok l, s) => (if loadWaits s l then .wait else .ok pops (some (j, l)), s)
    | other => other

/-- The streams of a completed instruction advance, and its pops count (R177). -/
def advanceStreams (s : State) (u : VUse) (pops : List (Fin 8 × V512 × Bool)) : State :=
  let named := namedStreams s.hart u
  let away := (pops.filter fun p => p.2.2).length
  s.onHart fun h => { named.foldl (fun h j => h.onStream j Stream.advance) h with
    old := ⟨h.old.iss + BitVec.ofNat 32 away, h.old.ret + BitVec.ofNat 32 away⟩ }

/-- The contents of a source register: the piece popped for a bound one (R21). -/
def sourceV (s : State) (pops : List (Fin 8 × V512 × Bool)) (r : Reg) : V512 :=
  if (s.hart.bound r).isSome then
    match pops.find? fun p => p.1.val + 24 == r.val with
    | some p => p.2.1
    | none => 0
  else s.v r

/-- The bits of a piece that `act` names are pushed (R21). Log entry 58. -/
def pushBits (s : State) (l : List Seg) (x act : V512) : State := dropAhead (errIf (writeMasked s l (v512Bytes x) (v512Bytes act)) l)

/-- The push, whose writes of the replication sequence begin at number `first`, counts as one store (R177). -/
def countPush (s : State) (first : Nat) (p : Option (Fin 8 × List Seg)) : State :=
  match p with
  | none => s
  | some (j, l) => countStore s first (leaves s s.hart.streams[j].am l) (allUn l) (l.any Seg.far)

/-! ## Vector instructions on lanes (R154, R155) -/

/-- The operands of a vector instruction: its sources, its destination before it, mask bits, masking, rounding mode and the g operand. -/
structure VIn where
  a    : V512
  b    : V512
  d    : V512
  m    : Nat
  mode : Masking
  rm   : Round
  gv   : Word
  deriving DecidableEq, Repr

/-- Its result: the register, the second register of VUNPK, the bits a push writes, the g result of VMVG, and flags. -/
structure VRes where
  reg  : V512
  reg2 : Option V512
  act  : V512
  gres : Option Word
  fl   : Fl
  deriving DecidableEq, Repr

/-- The registers a vector instruction names (`vd` and `va` name g registers where its entry says so). -/
structure VArgs where
  va : Reg
  vb : Reg
  vd : Reg
  msk : Mask
  ga : Reg
  deriving DecidableEq, Repr

/-- Lane `i` is active. -/
def VIn.active (x : VIn) (i : Nat) : Bool := x.m.testBit i

/-- The whole register is written, whatever the mask. Log entry 61. -/
def whole (x : V512) (fl : Fl) : VRes := ⟨x, none, BitVec.allOnes 512, none, fl⟩

/-- `n` elements of `w` bits, each by `f` of its number; inactive ones keep the destination or become 0 (R155). Bits above them are written 0.
Log entry 61. -/
def perElement (w n : Nat) (x : VIn) (f : Nat → Nat × Fl) : VRes :=
  let l := (List.range n).map fun i =>
    if x.active i then f i else (if x.mode = .mu then lane w x.d i else 0, Fl.none)
  let on := (List.range (512 / w)).map fun i => if n ≤ i || x.active i then 2 ^ w - 1 else 0
  ⟨ofLanes w (l.map Prod.fst), none, ofLanes w on, none, Fl.all (l.map Prod.snd)⟩

/-- A free register value. Log entry 60. -/
def State.freeV (s : State) : V512 × State :=
  (ofLanes 64 ((List.range 8).map fun i => (Config.freeWord (s.draws + i)).toNat), { s with draws := s.draws + 8 })

/-- What a vector instruction comes to: done, an exception, or a wait. -/
inductive VOut where
  | done (s : State)
  | exc (e : Exc) (s : State)
  | wait (s : State)

/-- A vector instruction's result goes to its destination. -/
def writeResult (s : State) (c : VArgs) (push : Option (Fin 8 × List Seg)) (r : VRes) : State :=
  match r.gres, push with
  | some g, _ => s.setG c.vd g
  | none, some (_, l) => pushBits s l r.reg r.act
  | none, none =>
    let s := s.setV c.vd r.reg
    match r.reg2 with
    | some y => s.setV (toReg (c.vd.val + 1)) y
    | none => s

/-- A vector instruction of majors 0x20–0x2B with the effect `f` (R154, R177). The former contents of a write-bound destination are no value the
instruction could see: a free one stands for them (R167). Log entry 60. -/
def vecApply (u : VUse) (c : VArgs) (f : VIn → VRes) (s : State) : VOut :=
  match operands s u with
  | (.exc e, s) => .exc e s
  | (.wait, s) => .wait s
  | (.ok pops push, s) =>
    let (d, s) := if push.isSome then s.freeV else (sourceV s pops c.vd, s)
    let r := f ⟨sourceV s pops c.va, sourceV s pops c.vb, d, maskBits s c.msk, maskMode c.msk, s.hart.tsw.rm, s.g c.ga⟩
    let first := s.replNext
    let s := writeResult (s.raiseFl r.fl) c push r
    .done (advanceStreams (countPush s first push) u pops)

/-- A vector instruction executed by the hart. -/
def vecHart (i : Instr) (c : VArgs) (f : VIn → VRes) (s : State) : Out :=
  issue i s fun s =>
    match vecApply (vUse i) c f s with
    | .done s => s.retire 4
    | .exc e s => trapHere e s
    | .wait s => s

end Sys2Proof.Machine
end

