-- ==== Sys2Proof/Machine/Access.lean ====
section
/-! DEFINITION. Memory instructions (R130–R153): loads, stores, lanes, bit fields, atomics, fences and the tag table. -/

namespace Sys2Proof.Machine

/-! ## Scalar and vector loads and stores (R139, R140) -/

/-- The address of an M-format access of `n` bytes (R62). -/
def offsetAddr (base : Word) (off : BitVec 8) (n : Nat) : Word := base + off.signExtend 64 * BitVec.ofNat 64 n

/-- An acquire discards what streams have read ahead (R178). -/
def acquire (s : State) (b : Bool) : State := if b then dropAhead s else s

/-- `LD` (R139): `ext` extends the `n` bytes read. -/
def scalarLoad (i : Instr) (d base : Reg) (am : AddrMode) (oa : Order) (off : BitVec 8) (n : Nat) (ext : Nat → Word) (s : State) : Out :=
  issue i s fun s =>
    let addr := offsetAddr (s.g base) off n
    match access s am 1 needR addr n with
    | (.exc e, s) => trapHere e s
    | (.ok l, s) =>
      if loadWaits s l then s
      else
        let data := (ext (leNat (s.load l))).setWidth 512
        (deliver (acquire (dropMeeting s (segRuns l)) (isAcq oa)) (leaves s am l) (allUn l) (.g d) addr data (!l.all Seg.ok)).retire 4

/-- `ST` (R139): the low `n` bytes of g[src]. -/
def scalarStore (i : Instr) (src base : Reg) (am : AddrMode) (oa : Order) (off : BitVec 8) (n : Nat) (s : State) : Out :=
  issue i s fun s =>
    let addr := offsetAddr (s.g base) off n
    match access s am 1 needW addr n with
    | (.exc e, s) => trapHere e s
    | (.ok l, s) =>
      if storeWaits s l oa then s
      else (countStore (acquire (s.store l (toBytes n (s.g src).toNat)) (isAcq oa)) s.replNext (leaves s am l) (allUn l) (l.any Seg.far)).retire 4

/-- `n` bytes sign-extended to a word (R139). -/
def sext (n : Nat) (x : Nat) : Word := BitVec.ofInt 64 (signedOf (8 * n) x)

/-- Bytes zero-extended to a word (R139). -/
def zext (x : Nat) : Word := BitVec.ofNat 64 x

/-- `VLD` (R140): a write-bound destination pushes the piece (R21). The stream operands are checked before the access itself. Data that cannot be read
(R406) is pushed as free bytes, with ERR, for the instruction traps under R131 alone (R140). Log entry 88. -/
def vectorLoad (i : Instr) (d base : Reg) (am : AddrMode) (oa : Order) (off : BitVec 8) (n : Nat) (s : State) : Out :=
  issue i s fun s =>
    match operands s (vUse i) with
    | (.exc e, s) => trapHere e s
    | (.wait, s) => s
    | (.ok pops push, s) =>
      let addr := offsetAddr (s.g base) off n
      match access s am 1 needR addr n with
      | (.exc e, s) => trapHere e s
      | (.ok l, s) =>
        if loadWaits s l then s
        else
          let data := v512OfBytes (s.load l)
          let s := acquire (dropMeeting s (segRuns l)) (isAcq oa)
          let ok := l.all Seg.ok
          match push with
          | none => (deliver s (leaves s am l) (allUn l) (.v d) addr data (!ok)).retire 4
          | some (_, g) =>
            let (x, s) := if ok then (data, s) else ((raise s s.cur irqErr).freeV)
            let s := countPush (pushBits s g x (BitVec.allOnes 512)) s.replNext push
            let away := leaves s am l
            (advanceStreams s (vUse i) (if away then (0, 0, true) :: pops else pops)).retire 4

/-- `VST` (R140): a read-bound source pops the piece (R21). -/
def vectorStore (i : Instr) (src base : Reg) (am : AddrMode) (oa : Order) (off : BitVec 8) (n : Nat) (s : State) : Out :=
  issue i s fun s =>
    match operands s (vUse i) with
    | (.exc e, s) => trapHere e s
    | (.wait, s) => s
    | (.ok pops _, s) =>
      let addr := offsetAddr (s.g base) off n
      match access s am 1 needW addr n with
      | (.exc e, s) => trapHere e s
      | (.ok l, s) =>
        if storeWaits s l oa then s
        else
          let x := sourceV s pops src
          let s := advanceStreams s (vUse i) pops
          (countStore (acquire (s.store l ((v512Bytes x).take n)) (isAcq oa)) s.replNext (leaves s am l) (allUn l) (l.any Seg.far)).retire 4

def execLdI8 (d base : Reg) (am : AddrMode) (oa : Order) (nt : Bool) (off : BitVec 8) (s : State) : Out :=
  scalarLoad (.ldI8 d base am oa nt off) d base am oa off 1 (sext 1) s
def execLdI16 (d base : Reg) (am : AddrMode) (oa : Order) (nt : Bool) (off : BitVec 8) (s : State) : Out :=
  scalarLoad (.ldI16 d base am oa nt off) d base am oa off 2 (sext 2) s
def execLdI32 (d base : Reg) (am : AddrMode) (oa : Order) (nt : Bool) (off : BitVec 8) (s : State) : Out :=
  scalarLoad (.ldI32 d base am oa nt off) d base am oa off 4 (sext 4) s
def execLd64 (d base : Reg) (am : AddrMode) (oa : Order) (nt : Bool) (off : BitVec 8) (s : State) : Out :=
  scalarLoad (.ld64 d base am oa nt off) d base am oa off 8 zext s
def execLdN8 (d base : Reg) (am : AddrMode) (oa : Order) (nt : Bool) (off : BitVec 8) (s : State) : Out :=
  scalarLoad (.ldN8 d base am oa nt off) d base am oa off 1 zext s
def execLdN16 (d base : Reg) (am : AddrMode) (oa : Order) (nt : Bool) (off : BitVec 8) (s : State) : Out :=
  scalarLoad (.ldN16 d base am oa nt off) d base am oa off 2 zext s
def execLdN32 (d base : Reg) (am : AddrMode) (oa : Order) (nt : Bool) (off : BitVec 8) (s : State) : Out :=
  scalarLoad (.ldN32 d base am oa nt off) d base am oa off 4 zext s
def execSt8 (d base : Reg) (am : AddrMode) (oa : Order) (nt : Bool) (off : BitVec 8) (s : State) : Out :=
  scalarStore (.st8 d base am oa nt off) d base am oa off 1 s
def execSt16 (d base : Reg) (am : AddrMode) (oa : Order) (nt : Bool) (off : BitVec 8) (s : State) : Out :=
  scalarStore (.st16 d base am oa nt off) d base am oa off 2 s
def execSt32 (d base : Reg) (am : AddrMode) (oa : Order) (nt : Bool) (off : BitVec 8) (s : State) : Out :=
  scalarStore (.st32 d base am oa nt off) d base am oa off 4 s
def execSt64 (d base : Reg) (am : AddrMode) (oa : Order) (nt : Bool) (off : BitVec 8) (s : State) : Out :=
  scalarStore (.st64 d base am oa nt off) d base am oa off 8 s
def execVld128 (d base : Reg) (am : AddrMode) (oa : Order) (nt : Bool) (off : BitVec 8) (s : State) : Out :=
  vectorLoad (.vld128 d base am oa nt off) d base am oa off 16 s
def execVst128 (d base : Reg) (am : AddrMode) (oa : Order) (nt : Bool) (off : BitVec 8) (s : State) : Out :=
  vectorStore (.vst128 d base am oa nt off) d base am oa off 16 s
def execVld256 (d base : Reg) (am : AddrMode) (oa : Order) (nt : Bool) (off : BitVec 8) (s : State) : Out :=
  vectorLoad (.vld256 d base am oa nt off) d base am oa off 32 s
def execVst256 (d base : Reg) (am : AddrMode) (oa : Order) (nt : Bool) (off : BitVec 8) (s : State) : Out :=
  vectorStore (.vst256 d base am oa nt off) d base am oa off 32 s
def execVld512 (d base : Reg) (am : AddrMode) (oa : Order) (nt : Bool) (off : BitVec 8) (s : State) : Out :=
  vectorLoad (.vld512 d base am oa nt off) d base am oa off 64 s
def execVst512 (d base : Reg) (am : AddrMode) (oa : Order) (nt : Bool) (off : BitVec 8) (s : State) : Out :=
  vectorStore (.vst512 d base am oa nt off) d base am oa off 64 s

/-! ## Lanes (R141–R143) -/

/-- What a lane comes to: the register after it, whether its data is bad (R406), the state; or an exception. -/
inductive LaneOut where
  | ok (x : V512) (bad : Bool) (s : State)
  | exc (e : Exc) (s : State)

/-- The active lanes listed, in ascending order (R142): the first that faults, and the register, the lowest lane that found bad data and the state
before it. -/
def runLanes (active : Nat → Bool) (f : State → V512 → Nat → LaneOut) :
    List Nat → V512 → Option Nat → State → Option (Nat × Exc) × V512 × Option Nat × State
  | [], x, bad, s => (none, x, bad, s)
  | i :: r, x, bad, s =>
    if active i then
      match f s x i with
      | .ok x b s => runLanes active f r x (if b && bad.isNone then some i else bad) s
      | .exc e s => (some (i, e), x, bad, s)
    else runLanes active f r x bad s

/-- The inactive lanes of a `.ma` instruction become 0 once the lanes are performed (R141, R150). -/
def zeroInactive (w n : Nat) (active : Nat → Bool) (mode : Masking) (x : V512) : V512 :=
  if mode = .ma then
    ofLanes w ((List.range (512 / w)).map fun i => if i < n && !active i then 0 else lane w x i)
  else x

/-- The lanes from TSW.RLANE on (R141). Log entry 59. -/
def lanesFrom (s : State) (n : Nat) : List Nat := (List.range n).filter fun i => s.hart.tsw.rlane.toNat ≤ i

/-- A lane faults: TSW.RLANE names it, then the trap (R143). Log entry 58. -/
def laneTrap (i : Nat) (e : Exc) (s : State) : State :=
  trapHere e (s.onHart fun h => { h with tsw := { h.tsw with rlane := BitVec.ofNat 7 i } })

/-- An active lane of a `.cb` instruction names another core. -/
def lanesAway (s : State) (active : Nat → Bool) (addr : Nat → Word) (l : List Nat) : Bool :=
  l.any fun i => active i && (addr i).toNat / 2 ^ 19 != s.cur % 16

/-- The core has an add on its way to a word of its cluster's local memory. -/
def localAdds (s : State) : Bool := s.adds.any fun a => a.core == s.cur && 2 ^ 56 ≤ ctrPlace a.key && ctrPlace a.key < 2 ^ 57

/-- The bits of the lanes listed that are active. -/
def laneBits (w : Nat) (active : Nat → Bool) (l : List Nat) : V512 :=
  ofLanes w ((List.range (512 / w)).map fun i => if l.contains i && active i then 2 ^ w - 1 else 0)

/-- One lane of a gather or strided load. -/
def loadLane (w : Nat) (addr : Nat → Word) (s : State) (x : V512) (i : Nat) : LaneOut :=
  match access s .cb (w / 8) needR (addr i) (w / 8) with
  | (.exc e, s) => .exc e s
  | (.ok l, s) => .ok (setLane w x i (leNat (s.load l))) false (dropMeeting s (segRuns l))

/-- One lane of a scatter or strided store of the register `src`. -/
def storeLane (w : Nat) (addr : Nat → Word) (src : V512) (s : State) (x : V512) (i : Nat) : LaneOut :=
  match access s .cb (w / 8) needW (addr i) (w / 8) with
  | (.exc e, s) => .exc e s
  | (.ok l, s) => .ok x false (s.store l (toBytes (w / 8) (lane w src i)))

/-- The lane whose address TVAL shows when the data of an access by lanes arrives in error: the lowest that found bad data, otherwise the lowest active
one (R133). Log entry 12. -/
def errLane (on : Nat → Bool) (n : Nat) (bad : Option Nat) : Nat := bad.getD (((List.range n).find? on).getD 0)

/-- `VLDS` and `VLDX` (R141–R143); `addr` gives the lane addresses from the pieces popped. A write-bound destination pushes the lanes performed,
and moves on only when the instruction completes (R177). Log entries 12, 58 and 59. -/
def laneLoad (i : Instr) (d : Reg) (mk : Mask) (et : ElemType) (addr : State → List (Fin 8 × V512 × Bool) → Nat → Word) (s : State) : Out :=
  issue i s fun s =>
    match operands s (vUse i) with
    | (.exc e, s) => trapHere e s
    | (.wait, s) => s
    | (.ok pops push, s) =>
      if localAdds s then s
      else
        let w := et.laneBits
        let on := maskBits s mk
        let lanes := lanesFrom s et.lanes
        let a := addr s pops
        let away := lanesAway s on.testBit a (List.range et.lanes)
        match runLanes on.testBit (loadLane w a) lanes (sourceV s pops d) none s, push with
        | (some (k, e), x, _, s), none => laneTrap k e (if lanes.any fun j => j < k && on.testBit j then s.setV d x else s)
        | (some (k, e), x, _, s), some (_, g) =>
          laneTrap k e (pushBits s g x (laneBits w on.testBit (lanes.filter fun j => j < k)))
        | (none, x, _, s), none =>
          let x := zeroInactive w et.lanes on.testBit (maskMode mk) x
          (deliver s away false (.v d) (a (errLane on.testBit et.lanes none)) x false |> fun s => advanceStreams s (vUse i) pops).retire 4
        | (none, x, _, s), some (_, g) =>
          let s := countPush (pushBits s g x (laneBits w on.testBit lanes)) s.replNext push
          (advanceStreams s (vUse i) (if away then (0, 0, true) :: pops else pops)).retire 4

/-- `VSTS` and `VSTX` (R141–R143). -/
def laneStore (i : Instr) (src : Reg) (mk : Mask) (et : ElemType) (addr : State → List (Fin 8 × V512 × Bool) → Nat → Word) (s : State) : Out :=
  issue i s fun s =>
    match operands s (vUse i) with
    | (.exc e, s) => trapHere e s
    | (.wait, s) => s
    | (.ok pops _, s) =>
      if localAdds s then s
      else
        let w := et.laneBits
        let on := maskBits s mk
        let lanes := lanesFrom s et.lanes
        let a := addr s pops
        let away := lanesAway s on.testBit a (List.range et.lanes)
        match runLanes on.testBit (storeLane w a (sourceV s pops src)) lanes 0 none s with
        | (some (k, e), _, _, s) => laneTrap k e s
        | (none, _, _, s) => (advanceStreams (countStore s s.replNext away false false) (vUse i) pops).retire 4

/-- Lane addresses of the strided forms (R141). -/
def strided (ga gb : Reg) (s : State) (_ : List (Fin 8 × V512 × Bool)) (i : Nat) : Word := s.g ga + BitVec.ofNat 64 i * s.g gb

/-- Lane addresses of the indexed forms (R141). -/
def indexed (ga vb : Reg) (et : ElemType) (s : State) (pops : List (Fin 8 × V512 × Bool)) (i : Nat) : Word :=
  s.g ga + BitVec.ofNat 64 (lane et.laneBits (sourceV s pops vb) i)

def execVlds (vd ga gb : Reg) (mk : Mask) (et : ElemType) (s : State) : Out :=
  laneLoad (.vlds vd ga gb mk et) vd mk et (strided ga gb) s
def execVsts (vd ga gb : Reg) (mk : Mask) (et : ElemType) (s : State) : Out :=
  laneStore (.vsts vd ga gb mk et) vd mk et (strided ga gb) s
def execVldx (vd ga vb : Reg) (mk : Mask) (et : ElemType) (s : State) : Out :=
  laneLoad (.vldx vd ga vb mk et) vd mk et (indexed ga vb et) s
def execVstx (vd ga vb : Reg) (mk : Mask) (et : ElemType) (s : State) : Out :=
  laneStore (.vstx vd ga vb mk et) vd mk et (indexed ga vb et) s

/-! ## Bit fields (R144, R145) -/

/-- The bytes that hold `n` bits from bit address `a` of the core's local memory: first byte and number. -/
def bitBytes (a n : Nat) : Nat × Nat := (a / 8, (a % 8 + n + 7) / 8)

/-- The checks of a bit field: its address where it breaks the form (R144). -/
def bitFieldExc (a : Word) (n : Nat) : Option Exc := if a.toNat + n ≤ 2 ^ 22 then none else some ⟨exAddress, a⟩

/-- `LBF` (R144); the width is w + 1. -/
def execLbf (sx : Bool) (d a b : Reg) (w : Fin 32) (s : State) : Out :=
  issue (.lbf sx d a b w) s fun s =>
    let addr := s.g a + s.g b
    let n := w.val + 1
    match bitFieldExc addr n with
    | some e => trapHere e s
    | none =>
      let p := bitBytes addr.toNat n
      let l : List Seg := [⟨localPlace s.cur p.1, p.2, true, 0⟩]
      if ownAdd s l then s
      else
        let f := field (leNat (s.load l)) (addr.toNat % 8) n
        ((dropMeeting s (segRuns l)).setG d (if sx then BitVec.ofInt 64 (signedOf n f) else BitVec.ofNat 64 f)).retire 4

/-- `SBF` (R144, R145): only the bits of the field change. -/
def execSbf (d a b : Reg) (w : Fin 32) (s : State) : Out :=
  issue (.sbf d a b w) s fun s =>
    let addr := s.g a + s.g b
    let n := w.val + 1
    match bitFieldExc addr n with
    | some e => trapHere e s
    | none =>
      let p := bitBytes addr.toNat n
      let l : List Seg := [⟨localPlace s.cur p.1, p.2, true, 0⟩]
      if ownAdd s l then s
      else
        let old := leNat (s.load l)
        let k := addr.toNat % 8
        let new := old % 2 ^ k + 2 ^ k * ((s.g d).toNat % 2 ^ n) + 2 ^ (k + n) * (old / 2 ^ (k + n))
        (s.store l (toBytes p.2 new)).retire 4

/-! ## Atomics (R146–R150) -/

/-- `ATOM` (R147): `f` gives the new value from the width in bits, the old value, the operand and the compare value; none writes nothing. -/
def atomic (i : Instr) (d a b : Reg) (w64 : Bool) (am : AddrMode) (oa : Order) (f : Nat → Nat → Nat → Nat → Option Nat) (s : State) : Out :=
  issue i s fun s =>
    let n := if w64 then 8 else 4
    let addr := s.g a
    match access s am n needRW addr n with
    | (.exc e, s) => trapHere e s
    | (.ok l, s) =>
      if l.any fun g => pteRepl g.entry then trapHere ⟨exAccess, addr⟩ s
      else if storeWaits s l oa then s
      else
        let old := leNat (s.load l)
        let away := leaves s am l
        let x := (s.g b).toNat % 2 ^ (8 * n)
        let c := (s.g d).toNat % 2 ^ (8 * n)
        let s := match f (8 * n) old x c with
          | some v => s.store l (toBytes n v)
          | none => s
        (deliver (acquire (dropMeeting s (segRuns l)) (isAcq oa)) away (allUn l) (.g d) addr (BitVec.ofNat 512 old) (!l.all Seg.ok)).retire 4

def execAtomAdd (d a b : Reg) (w64 : Bool) (am : AddrMode) (oa : Order) (sc : Scope) (s : State) : Out :=
  atomic (.atomAdd d a b w64 am oa sc) d a b w64 am oa (fun w o x _ => some ((o + x) % 2 ^ w)) s
def execAtomAnd (d a b : Reg) (w64 : Bool) (am : AddrMode) (oa : Order) (sc : Scope) (s : State) : Out :=
  atomic (.atomAnd d a b w64 am oa sc) d a b w64 am oa (fun _ o x _ => some (o &&& x)) s
def execAtomOr (d a b : Reg) (w64 : Bool) (am : AddrMode) (oa : Order) (sc : Scope) (s : State) : Out :=
  atomic (.atomOr d a b w64 am oa sc) d a b w64 am oa (fun _ o x _ => some (o ||| x)) s
def execAtomXor (d a b : Reg) (w64 : Bool) (am : AddrMode) (oa : Order) (sc : Scope) (s : State) : Out :=
  atomic (.atomXor d a b w64 am oa sc) d a b w64 am oa (fun _ o x _ => some (o ^^^ x)) s
def execAtomMin (d a b : Reg) (w64 : Bool) (am : AddrMode) (oa : Order) (sc : Scope) (s : State) : Out :=
  atomic (.atomMin d a b w64 am oa sc) d a b w64 am oa (fun _ o x _ => some (Nat.min o x)) s
def execAtomMax (d a b : Reg) (w64 : Bool) (am : AddrMode) (oa : Order) (sc : Scope) (s : State) : Out :=
  atomic (.atomMax d a b w64 am oa sc) d a b w64 am oa (fun _ o x _ => some (Nat.max o x)) s
def execAtomSwp (d a b : Reg) (w64 : Bool) (am : AddrMode) (oa : Order) (sc : Scope) (s : State) : Out :=
  atomic (.atomSwp d a b w64 am oa sc) d a b w64 am oa (fun _ _ x _ => some x) s
def execAtomCas (d a b : Reg) (w64 : Bool) (am : AddrMode) (oa : Order) (sc : Scope) (s : State) : Out :=
  atomic (.atomCas d a b w64 am oa sc) d a b w64 am oa (fun _ o x c => if o = c then some x else none) s

/-- One lane of `VATOM` (R149, R150): `f` gives the new value from the old one and the operand. -/
def atomLane (w : Nat) (am : AddrMode) (addr : Nat → Word) (f : Nat → Nat → Nat) (s : State) (x : V512) (i : Nat) : LaneOut :=
  match access s am (w / 8) needRW (addr i) (w / 8) with
  | (.exc e, s) => .exc e s
  | (.ok l, s) =>
    if l.any fun g => pteRepl g.entry then .exc ⟨exAccess, addr i⟩ s
    else
      let old := leNat (s.load l)
      .ok (setLane w x i old) (!l.all Seg.ok) (s.store l (toBytes (w / 8) (f old (lane w x i))))

/-- An active lane's address leaves the core. -/
def atomAway (s : State) (am : AddrMode) (active : Nat → Bool) (addr : Nat → Word) (l : List Nat) : Bool :=
  match am with
  | .gl => l.any active
  | .lo => false
  | .cb => lanesAway s active addr l
  | .ci => l.any fun i => active i && (addr i).toNat / 8 % 16 != s.cur % 16

/-- The lanes of a vector atomic with their segments lie on UN pages only. -/
def atomUn (s : State) (am : AddrMode) (addr : Nat → Word) (w : Nat) (l : List Nat) : Bool :=
  !l.isEmpty && l.all fun i => match (access s am (w / 8) needRW (addr i) (w / 8)).1 with
    | .ok g => allUn g
    | .exc _ => false

/-- `VATOM` (R149, R150). Log entries 12 and 59. -/
def vatomic (i : Instr) (vd va : Reg) (am : AddrMode) (mk : Mask) (et : ElemType) (f : Nat → Nat → Nat) (s : State) : Out :=
  issue i s fun s =>
    match operands s (vUse i) with
    | (.exc e, s) => trapHere e s
    | (.wait, s) => s
    | (.ok pops _, s) =>
      if s.adds.any fun a => a.core == s.cur then s
      else
        let w := et.laneBits
        let on := maskBits s mk
        let lanes := lanesFrom s et.lanes
        let v := sourceV s pops va
        let addr (k : Nat) : Word := BitVec.ofNat 64 (lane w v k)
        let every := List.range et.lanes
        let away := atomAway s am on.testBit addr every
        let un := atomUn s am addr w (every.filter on.testBit)
        match runLanes on.testBit (atomLane w am addr f) lanes (s.v vd) none s with
        | (some (k, e), x, bad, s) =>
          laneTrap k e (if lanes.any fun j => j < k && on.testBit j then
            s.onHart fun h => h.fill (.v vd) (addr (errLane on.testBit et.lanes bad)) x bad.isSome else s)
        | (none, x, bad, s) =>
          let x := zeroInactive w et.lanes on.testBit (maskMode mk) x
          (deliver s away un (.v vd) (addr (errLane on.testBit et.lanes bad)) x bad.isSome |> fun s => advanceStreams s (vUse i) pops).retire 4

/-- A lane result of VATOM.add (R149). -/
def vatomSum (t : ElemType) (o x : Nat) : Nat :=
  if t = .f32 then (fmtF32.addV .rne (fmtF32.decode o) (fmtF32.decode x)).1 else (o + x) % 2 ^ t.laneBits

/-- A lane result of VATOM.min, or with `mx` VATOM.max (R149). -/
def vatomExt (mx : Bool) (t : ElemType) (o x : Nat) : Nat :=
  if t = .f32 then (fmtF32.minMax mx o x).1
  else if mx then (if etInt t o < etInt t x then x else o) else (if etInt t x < etInt t o then x else o)

def execVatomAdd (vd va : Reg) (am : AddrMode) (mk : Mask) (et : ElemType) (s : State) : Out :=
  vatomic (.vatomAdd vd va am mk et) vd va am mk et (vatomSum et) s
def execVatomAnd (vd va : Reg) (am : AddrMode) (mk : Mask) (et : ElemType) (s : State) : Out :=
  vatomic (.vatomAnd vd va am mk et) vd va am mk et (fun o x => o &&& x) s
def execVatomOr (vd va : Reg) (am : AddrMode) (mk : Mask) (et : ElemType) (s : State) : Out :=
  vatomic (.vatomOr vd va am mk et) vd va am mk et (fun o x => o ||| x) s
def execVatomXor (vd va : Reg) (am : AddrMode) (mk : Mask) (et : ElemType) (s : State) : Out :=
  vatomic (.vatomXor vd va am mk et) vd va am mk et (fun o x => o ^^^ x) s
def execVatomMin (vd va : Reg) (am : AddrMode) (mk : Mask) (et : ElemType) (s : State) : Out :=
  vatomic (.vatomMin vd va am mk et) vd va am mk et (vatomExt false et) s
def execVatomMax (vd va : Reg) (am : AddrMode) (mk : Mask) (et : ElemType) (s : State) : Out :=
  vatomic (.vatomMax vd va am mk et) vd va am mk et (vatomExt true et) s
def execVatomSwp (vd va : Reg) (am : AddrMode) (mk : Mask) (et : ElemType) (s : State) : Out :=
  vatomic (.vatomSwp vd va am mk et) vd va am mk et (fun _ x => x) s

/-! ## Fences (R151, R152, R314) -/

/-- The loads a fence waits for have returned: every one, or without ALL those that are not on UN pages (R152). -/
def loadsBack (s : State) (all : Bool) : Bool := s.hart.loads.all fun l => l.un && !all

/-- `FENCE.acq`: every earlier load has returned its value (R151, R152). -/
def execFenceAcq (sc : Scope) (all : Bool) (s : State) : Out :=
  issue (.fenceAcq sc all) s fun s => if loadsBack s all then (dropAhead s).retire 4 else s

/-- The accesses of the core to UN pages that OLD and OST count (R152): loads, stores and adds. -/
def unLoads (s : State) : Nat := (s.hart.loads.filter PendingLoad.un).length
def unStores (s : State) : Nat :=
  (s.hart.stores.filter PendingStore.un).length + (s.adds.filter fun a => a.core == s.cur && a.ord == .un).length

/-- The earlier accesses of the core have been performed: OLD and OST show nothing outstanding, without ALL nothing but accesses to UN pages, and the
replication sequence has applied its writes (R151, R152, R312). -/
def performed (s : State) (all : Bool) : Bool :=
  if all then s.hart.old.out == 0 && s.hart.ost.out == 0 && !replPending s && !s.adds.any fun a => a.core == s.cur
  else decide (s.hart.old.out ≤ unLoads s) && decide (s.hart.ost.out ≤ unStores s) && !releaseWaits s

/-- `FENCE.rel`. -/
def execFenceRel (sc : Scope) (all : Bool) (s : State) : Out :=
  issue (.fenceRel sc all) s fun s => if performed s all then s.retire 4 else s

/-- At `.pkg` and `.sys` the replicated writes the core may have read are applied everywhere: every one, or without ALL those that went through no UN
page (R152, R303, R314). -/
def replSettled (s : State) (sc : Scope) (all : Bool) : Bool :=
  scopeRank sc < scopeRank .pkg || s.repl.all fun w => w.un && !all

/-- `FENCE.sc`: both fences, and the replicated writes of others (R151, R152, R314). -/
def execFenceSc (sc : Scope) (all : Bool) (s : State) : Out :=
  issue (.fenceSc sc all) s fun s =>
    if performed s all && loadsBack s all && replSettled s sc all then (dropAhead s).retire 4 else s

/-! ## The tag table (R153) -/

/-- The tag of an address: bits [54:10]. -/
def tagOf (a : Word) : BitVec 45 := BitVec.ofNat 45 (bits a 10 45)

/-- `TLOOK`. -/
def execTlook (d a : Reg) (s : State) : Out :=
  issue (.tlook d a) s fun s =>
    if bits (s.g a) 55 9 ≠ 0 then trapHere ⟨exAddress, s.g a⟩ s
    else
      let hit := (List.finRange 256).find? fun k => s.hart.tagTable[k] == some (tagOf (s.g a))
      let r : Word := match s.hart.tregEn, hit with
        | true, some k => BitVec.ofNat 64 k.val
        | _, _ => BitVec.allOnes 64
      (s.setG d r).retire 4

/-- The tag table cannot be written: TREG.EN is 0 or the slot is above 255. -/
def tagBarred (s : State) (slot : Word) : Bool := !s.hart.tregEn || 255 < slot.toNat

/-- `TSET`. -/
def execTset (a b : Reg) (s : State) : Out :=
  issue (.tset a b) s fun s =>
    if tagBarred s (s.g a) then trapHere ⟨exAccess, s.g a⟩ s
    else if bits (s.g b) 55 9 ≠ 0 then trapHere ⟨exAddress, s.g b⟩ s
    else
      let t := tagOf (s.g b)
      let clear (e : Option (BitVec 45)) : Option (BitVec 45) := if e = some t then none else e
      (s.onHart fun h => { h with tagTable := (h.tagTable.map clear).setIfInBounds (s.g a).toNat (some t) }).retire 4

/-- `TCLR`. -/
def execTclr (a : Reg) (s : State) : Out :=
  issue (.tclr a) s fun s =>
    if tagBarred s (s.g a) then trapHere ⟨exAccess, s.g a⟩ s
    else (s.onHart fun h => { h with tagTable := h.tagTable.setIfInBounds (s.g a).toNat none }).retire 4

end Sys2Proof.Machine
end

