-- ==== Sys2Proof/Machine/SFunc.lean ====
section
/-! DEFINITION. Special functions (R169–R175): tables, coefficients and algorithms on f32 values rounded to nearest even. -/

namespace Sys2Proof.Machine

/-! ## Tables (R170): the f32 pattern nearest to each entry's real value -/

def tableTE0 : List Nat := [0x3F800000, 0x3F8164D2, 0x3F82CD87, 0x3F843A29, 0x3F85AAC3, 0x3F871F62, 0x3F88980F, 0x3F8A14D5,
  0x3F8B95C2, 0x3F8D1ADF, 0x3F8EA43A, 0x3F9031DC, 0x3F91C3D3, 0x3F935A2B, 0x3F94F4F0, 0x3F96942D,
  0x3F9837F0, 0x3F99E046, 0x3F9B8D3A, 0x3F9D3EDA, 0x3F9EF532, 0x3FA0B051, 0x3FA27043, 0x3FA43516,
  0x3FA5FED7, 0x3FA7CD94, 0x3FA9A15B, 0x3FAB7A3A, 0x3FAD583F, 0x3FAF3B79, 0x3FB123F6, 0x3FB311C4]
def tableTE1 : List Nat := [0x3FB504F3, 0x3FB6FD92, 0x3FB8FBAF, 0x3FBAFF5B, 0x3FBD08A4, 0x3FBF179A, 0x3FC12C4D, 0x3FC346CD,
  0x3FC5672A, 0x3FC78D75, 0x3FC9B9BE, 0x3FCBEC15, 0x3FCE248C, 0x3FD06334, 0x3FD2A81E, 0x3FD4F35B,
  0x3FD744FD, 0x3FD99D16, 0x3FDBFBB8, 0x3FDE60F5, 0x3FE0CCDF, 0x3FE33F89, 0x3FE5B907, 0x3FE8396A,
  0x3FEAC0C7, 0x3FED4F30, 0x3FEFE4BA, 0x3FF28177, 0x3FF5257D, 0x3FF7D0DF, 0x3FFA83B3, 0x3FFD3E0C]
/-- TE: 2^(j/64). -/
def tableTE : List Nat := tableTE0 ++ tableTE1

def tableTI0 : List Nat := [0x3F800000, 0x3F7C0FC1, 0x3F783E10, 0x3F74898D, 0x3F70F0F1, 0x3F6D7304, 0x3F6A0EA1, 0x3F66C2B4,
  0x3F638E39, 0x3F607038, 0x3F5D67C9, 0x3F5A740E, 0x3F579436, 0x3F54C77B, 0x3F520D21, 0x3F4F6475,
  0x3F4CCCCD, 0x3F4A4588, 0x3F47CE0C, 0x3F4565C8, 0x3F430C31, 0x3F40C0C1, 0x3F3E82FA, 0x3F3C5264,
  0x3F3A2E8C, 0x3F381703, 0x3F360B61, 0x3F340B41, 0x3F321643, 0x3F302C0B, 0x3F2E4C41, 0x3F2C7692]
def tableTI1 : List Nat := [0x3F2AAAAB, 0x3F28E83F, 0x3F272F05, 0x3F257EB5, 0x3F23D70A, 0x3F2237C3, 0x3F20A0A1, 0x3F1F1166,
  0x3F1D89D9, 0x3F1C09C1, 0x3F1A90E8, 0x3F191F1A, 0x3F17B426, 0x3F164FDA, 0x3F14F209, 0x3F139A86,
  0x3F124925, 0x3F10FDBC, 0x3F0FB824, 0x3F0E7835, 0x3F0D3DCB, 0x3F0C08C1, 0x3F0AD8F3, 0x3F09AE41,
  0x3F088889, 0x3F0767AB, 0x3F064B8A, 0x3F053408, 0x3F042108, 0x3F03126F, 0x3F020821, 0x3F010204]
/-- TI: 1 / (1 + j/64). -/
def tableTI : List Nat := tableTI0 ++ tableTI1

def tableTL0 : List Nat := [0x00000000, 0x3CB73CB4, 0x3D35D69C, 0x3D8759C5, 0x3DB31FB8, 0x3DDE4212, 0x3E0462C4, 0x3E19574F,
  0x3E2E00D2, 0x3E42615F, 0x3E567AF1, 0x3E6A4F72, 0x3E7DE0B6, 0x3E88983F, 0x3E92203D, 0x3E9B8926,
  0x3EA4D3C2, 0x3EAE00D2, 0x3EB7110E, 0x3EC0052B, 0x3EC8DDD4, 0x3ED19BB0, 0x3EDA3F60, 0x3EE2C97D,
  0x3EEB3A9F, 0x3EF39355, 0x3EFBD42B, 0x3F01FED4, 0x3F060828, 0x3F0A0650, 0x3F0DF989, 0x3F11E20F]
def tableTL1 : List Nat := [0x3F15C01A, 0x3F1993E3, 0x3F1D5DA0, 0x3F211D84, 0x3F24D3C2, 0x3F28808C, 0x3F2C2411, 0x3F2FBE80,
  0x3F335004, 0x3F36D8CB, 0x3F3A58FF, 0x3F3DD0C8, 0x3F41404F, 0x3F44A7BA, 0x3F480731, 0x3F4B5ED7,
  0x3F4EAED0, 0x3F51F740, 0x3F553848, 0x3F587209, 0x3F5BA4A4, 0x3F5ED039, 0x3F61F4E5, 0x3F6512C7,
  0x3F6829FB, 0x3F6B3A9F, 0x3F6E44CD, 0x3F7148A1, 0x3F744636, 0x3F773DA4, 0x3F7A2F04, 0x3F7D1A71]
/-- TL: log₂(1 + j/64). -/
def tableTL : List Nat := tableTL0 ++ tableTL1

def tableTQ0 : List Nat := [0x3F7F00FF, 0x3F7D08E5, 0x3F7B1885, 0x3F792FB2, 0x3F774E40, 0x3F757404, 0x3F73A0D5, 0x3F71D48C,
  0x3F700F01, 0x3F6E500F, 0x3F6C9791, 0x3F6AE564, 0x3F693965, 0x3F679373, 0x3F65F36D, 0x3F645933,
  0x3F62C4A7, 0x3F6135AA, 0x3F5FAC1F, 0x3F5E27EB, 0x3F5CA8F1, 0x3F5B2F17, 0x3F59BA42, 0x3F584A5A,
  0x3F56DF44, 0x3F5578E9, 0x3F541733, 0x3F52BA08, 0x3F516154, 0x3F500D01, 0x3F4EBCF9, 0x3F4D7127]
def tableTQ1 : List Nat := [0x3F4C2978, 0x3F4AE5D8, 0x3F49A634, 0x3F486A79, 0x3F473294, 0x3F45FE74, 0x3F44CE08, 0x3F43A13E,
  0x3F427806, 0x3F415250, 0x3F40300C, 0x3F3F112B, 0x3F3DF59D, 0x3F3CDD53, 0x3F3BC841, 0x3F3AB656,
  0x3F39A786, 0x3F389BC3, 0x3F379301, 0x3F368D31, 0x3F358A48, 0x3F348A3A, 0x3F338CFA, 0x3F32927C,
  0x3F319AB6, 0x3F30A59B, 0x3F2FB322, 0x3F2EC33E, 0x3F2DD5E6, 0x3F2CEB10, 0x3F2C02B0, 0x3F2B1CBE]
def tableTQ2 : List Nat := [0x3F2A392F, 0x3F2957FB, 0x3F287917, 0x3F279C7B, 0x3F26C21E, 0x3F25E9F7, 0x3F2513FD, 0x3F244029,
  0x3F236E72, 0x3F229ECF, 0x3F21D13A, 0x3F2105A9, 0x3F203C17, 0x3F1F747A, 0x3F1EAECD, 0x3F1DEB07,
  0x3F1D2922, 0x3F1C6917, 0x3F1BAADF, 0x3F1AEE73, 0x3F1A33CD, 0x3F197AE7, 0x3F18C3BB, 0x3F180E41,
  0x3F175A75, 0x3F16A850, 0x3F15F7CC, 0x3F1548E5, 0x3F149B93, 0x3F13EFD2, 0x3F13459C, 0x3F129CEC]
def tableTQ3 : List Nat := [0x3F11F5BD, 0x3F115009, 0x3F10ABCC, 0x3F100901, 0x3F0F67A2, 0x3F0EC7AB, 0x3F0E2918, 0x3F0D8BE3,
  0x3F0CF009, 0x3F0C5584, 0x3F0BBC51, 0x3F0B246B, 0x3F0A8DCD, 0x3F09F874, 0x3F09645C, 0x3F08D181,
  0x3F083FDE, 0x3F07AF70, 0x3F072033, 0x3F069223, 0x3F06053C, 0x3F05797C, 0x3F04EEDD, 0x3F04655E,
  0x3F03DCF9, 0x3F0355AD, 0x3F02CF75, 0x3F024A4E, 0x3F01C636, 0x3F014328, 0x3F00C122, 0x3F004020]
/-- TQ: 1 / (1 + (j + 0.5)/128). -/
def tableTQ : List Nat := tableTQ0 ++ tableTQ1 ++ tableTQ2 ++ tableTQ3

def tableTS0 : List Nat := [0x3F7E05EC, 0x3F7A33F9, 0x3F768CDC, 0x3F730D8A, 0x3F6FB345, 0x3F6C7B90, 0x3F69642A, 0x3F666B02,
  0x3F638E39, 0x3F60CC16, 0x3F5E2305, 0x3F5B9193, 0x3F59166B, 0x3F56B051, 0x3F545E22, 0x3F521ED0,
  0x3F4FF162, 0x3F4DD4ED, 0x3F4BC89B, 0x3F49CBA2, 0x3F47DD45, 0x3F45FCD6, 0x3F4429AF, 0x3F426337,
  0x3F40A8DE, 0x3F3EFA1C, 0x3F3D5671, 0x3F3BBD67, 0x3F3A2E8C, 0x3F38A975, 0x3F372DBF, 0x3F35BB09]
def tableTS1 : List Nat := [0x3F3450FC, 0x3F32EF41, 0x3F319589, 0x3F304387, 0x3F2EF8F2, 0x3F2DB587, 0x3F2C7904, 0x3F2B432A,
  0x3F2A13C0, 0x3F28EA8C, 0x3F27C759, 0x3F26A9F4, 0x3F25922C, 0x3F247FD3, 0x3F2372BD, 0x3F226ABE,
  0x3F2167AF, 0x3F206968, 0x3F1F6FC4, 0x3F1E7AA0, 0x3F1D89D9, 0x3F1C9D4E, 0x3F1BB4E1, 0x3F1AD073,
  0x3F19EFE6, 0x3F191320, 0x3F183A05, 0x3F17647C, 0x3F16926C, 0x3F15C3BC, 0x3F14F857, 0x3F143026]
def tableTS2 : List Nat := [0x3F136B13, 0x3F12A90B, 0x3F11E9F9, 0x3F112DCA, 0x3F10746D, 0x3F0FBDCE, 0x3F0F09DD, 0x3F0E5889,
  0x3F0DA9C2, 0x3F0CFD79, 0x3F0C539F, 0x3F0BAC25, 0x3F0B06FD, 0x3F0A641A, 0x3F09C36D, 0x3F0924EC,
  0x3F088889, 0x3F07EE37, 0x3F0755ED, 0x3F06BF9E, 0x3F062B40, 0x3F0598C7, 0x3F05082A, 0x3F04795F,
  0x3F03EC5C, 0x3F036117, 0x3F02D788, 0x3F024FA6, 0x3F01C967, 0x3F0144C4, 0x3F00C1B4, 0x3F004030]
/-- TS: 1 / √(1 + (j + 0.5)/32). -/
def tableTS : List Nat := tableTS0 ++ tableTS1 ++ tableTS2

/-- The f32 value of a pattern. -/
def f32 (x : Nat) : FVal := fmtF32.decode x

/-- Entry `j` of a table. -/
def entry (t : List Nat) (j : Nat) : FVal := f32 (t.getD j 0)

/-- ln 2 (R170). -/
def coefC1 : FVal := f32 0x3F317218
/-- (ln 2)²/2 (R170). -/
def coefC2 : FVal := f32 0x3E75FDF0
/-- (ln 2)³/6 (R170). -/
def coefC3 : FVal := f32 0x3D635847
/-- 1/ln 2 (R170). -/
def coefD1 : FVal := f32 0x3FB8AA3B
/-- −1/(2 ln 2) (R170). -/
def coefD2 : FVal := f32 0xBF38AA3B
/-- 1/(3 ln 2) (R170). -/
def coefD3 : FVal := f32 0x3EF6384F
/-- −1/3 (R170). -/
def coefA1 : FVal := f32 0xBEAAAAAB
/-- 2/15 (R170). -/
def coefA2 : FVal := f32 0x3E088889
/-- −17/315 (R170). -/
def coefA3 : FVal := f32 0xBD5D0DD1
/-- 2/ln 2 (R170). -/
def coefK : FVal := f32 0x4038AA3B

/-! ## Rounded and exact operations on f32 values (R170) -/

def rmul (a b : FVal) : FVal := f32 (fmtF32.mulV .rne a b).1
def radd (a b : FVal) : FVal := f32 (fmtF32.addV .rne a b).1
def rsub (a b : FVal) : FVal := radd a b.neg

/-- a · 2^k, rounded once. -/
def rscale (a : FVal) (k : Int) : FVal := f32 (fmtF32.ofVal .rne (a.shift k)).1

/-- a − b exactly. -/
def exactSub (a b : FVal) : FVal :=
  match a, b with
  | .fin s m e, .fin t n d =>
    let (x, k) := sumExact s m e (!t) n d
    .fin (decide (x < 0)) x.natAbs k
  | a, _ => a

def fint (x : Int) : FVal := .fin (decide (x < 0)) x.natAbs 0
def fone : FVal := fint 1

/-- e with |x| = 2^e · m and 1 ≤ m < 2 (R170). -/
def fexp : FVal → Int
  | .fin _ m e => e + Nat.log2 m
  | _ => 0

/-- m of |x| = 2^e · m. -/
def fsig : FVal → FVal
  | .fin _ m _ => .fin false m (-(Nat.log2 m : Int))
  | a => a

/-- The top `n` fraction bits of m. -/
def ffrac (n : Nat) : FVal → Nat
  | .fin _ m _ => m * 2 ^ n / 2 ^ Nat.log2 m - 2 ^ n
  | _ => 0

/-- ⌊(x − 1) · 32⌋ for x ≥ 1. -/
def fidx32 : FVal → Nat
  | .fin _ m e => ((if 0 ≤ e then m * 2 ^ e.toNat * 32 else m * 32 / 2 ^ (-e).toNat)) - 32
  | _ => 0

/-! ## Algorithms -/

/-- `VEXP2` (R171), for −150 ≤ x < 128. -/
def exp2Core (x : FVal) : FVal :=
  match x with
  | .fin s m e =>
    let n := (roundToInt .rne s m (e + 6)).1
    let fr := (exactSub (x.shift 6) (fint n)).shift (-6)
    let j := (n % 64).toNat
    let p := radd fone (rmul fr (radd coefC1 (rmul fr (radd coefC2 (rmul fr coefC3)))))
    rscale (rmul (entry tableTE j) p) ((n - j) / 64)
  | a => a

/-- `VLOG2` (R172), for finite x > 0. -/
def log2Core (x : FVal) : FVal :=
  let j := ffrac 6 x
  let z := rmul (exactSub (fsig x) (.fin false (64 + j) (-6))) (entry tableTI j)
  let p := rmul z (radd coefD1 (rmul z (radd coefD2 (rmul z coefD3))))
  radd (fint (fexp x)) (radd (entry tableTL j) p)

/-- One refinement of `VRCP`. -/
def rcpStep (m y : FVal) : FVal := radd y (rmul y (rsub fone (rmul m y)))

/-- `VRCP` (R173), for finite non-zero x. -/
def rcpCore (x : FVal) : FVal :=
  let m := fsig x
  let y := rcpStep m (rcpStep m (entry tableTQ (ffrac 7 x)))
  let r := rscale y (-fexp x)
  if x.sign then r.neg else r

/-- One refinement of `VRSQ`. -/
def rsqStep (h y : FVal) : FVal := rmul y (rsub (.fin false 3 (-1)) (rmul h (rmul y y)))

/-- `VRSQ` (R174), for finite x > 0. -/
def rsqCore (x : FVal) : FVal :=
  let e := fexp x
  let (m2, e2) := if e % 2 = 1 then ((fsig x).shift 1, e - 1) else (fsig x, e)
  let h := rmul (.fin false 1 (-1)) m2
  rscale (rsqStep h (rsqStep h (entry tableTS (fidx32 m2)))) (-(e2 / 2))

/-- a < b. -/
def flt (a b : FVal) : Bool := (a.cmp b).1

/-- `VTANH` (R175), for finite non-zero x. -/
def tanhCore (x : FVal) : FVal :=
  let b := x.abs
  let put (r : FVal) : FVal := if x.sign then r.neg else r
  if !flt b (fint 9) then put fone
  else if flt b (.fin false 1 (-12)) then x
  else if flt b (.fin false 1 (-2)) then
    let w2 := rmul b b
    put (radd b (rmul b (rmul w2 (radd coefA1 (rmul w2 (radd coefA2 (rmul w2 coefA3)))))))
  else
    let q := rcpCore (radd (exp2Core (rmul b coefK)) fone)
    put (rsub fone (rmul (fint 2) q))

/-! ## Special cases (R169): the f32 result and the flags -/

def fnan : FVal := .nan false

/-- A NaN operand. -/
def ofNan (a : FVal) : FVal × Fl := (fnan, Fl.nvIf a.isSig)

def sfExp2 (a : FVal) : FVal × Fl :=
  match a with
  | .nan _ => ofNan a
  | .inf s => (if s then fint 0 else .inf false, Fl.none)
  | .fin _ m _ =>
    if m = 0 then (fone, Fl.none)
    else if !flt a (fint 128) then (.inf false, Fl.none)
    else if flt a (fint (-150)) then (fint 0, Fl.none)
    else (exp2Core a, Fl.none)

def sfLog2 (a : FVal) : FVal × Fl :=
  match a with
  | .nan _ => ofNan a
  | .inf s => if s then (fnan, Fl.invalid) else (.inf false, Fl.none)
  | .fin s m _ => if m = 0 then (.inf true, Fl.divZero) else if s then (fnan, Fl.invalid) else (log2Core a, Fl.none)

def sfRcp (a : FVal) : FVal × Fl :=
  match a with
  | .nan _ => ofNan a
  | .inf s => (.fin s 0 0, Fl.none)
  | .fin s m _ => if m = 0 then (.inf s, Fl.divZero) else (rcpCore a, Fl.none)

def sfRsq (a : FVal) : FVal × Fl :=
  match a with
  | .nan _ => ofNan a
  | .inf s => if s then (fnan, Fl.invalid) else (fint 0, Fl.none)
  | .fin s m _ => if m = 0 then (.inf s, Fl.divZero) else if s then (fnan, Fl.invalid) else (rsqCore a, Fl.none)

def sfTanh (a : FVal) : FVal × Fl :=
  match a with
  | .nan _ => ofNan a
  | .inf s => (if s then fone.neg else fone, Fl.none)
  | .fin _ m _ => if m = 0 then (a, Fl.none) else (tanhCore a, Fl.none)

/-- A special function on one lane (R169): the f32 result rounded to the lane type; only NV and DZ are set. -/
def sfLane (t : ElemType) (f : FVal → FVal × Fl) (x : Nat) : Nat × Fl :=
  let r := f ((etFmt t).decode x)
  (((etFmt t).ofVal .rne r.1).1, r.2)

end Sys2Proof.Machine
end

