-- ==== Sys2Proof/Machine/Vector.lean ====
section
/-! DEFINITION. Vector instructions of majors 0x20–0x2B (R154–R169): the effect of each on its operands, and its execution by the hart. -/

namespace Sys2Proof.Machine

/-! ## Lane operations -/

def laneWidth : LaneWidth → Nat
  | .w8 => 8 | .w16 => 16 | .w32 => 32 | .w64 => 64

/-- Every active lane of a type by an operation on lanes of va, vb and vd. -/
def perLane (t : ElemType) (x : VIn) (f : Nat → Nat → Nat → Nat × Fl) : VRes :=
  let w := t.laneBits
  perElement w t.lanes x fun i => f (lane w x.a i) (lane w x.b i) (lane w x.d i)

/-- Every active lane of a width by an operation on lanes of va and vb. -/
def perWidth (l : LaneWidth) (x : VIn) (f : Nat → Nat → Nat) : VRes :=
  let w := laneWidth l
  perElement w (512 / w) x fun i => (f (lane w x.a i) (lane w x.b i), Fl.none)

/-- A lane sum (R157). -/
def laneAdd (t : ElemType) (rm : Round) (a b : Nat) : Nat × Fl :=
  if t.isInt then ((a + b) % 2 ^ t.laneBits, Fl.none) else (etFmt t).addV rm ((etFmt t).decode a) ((etFmt t).decode b)

/-- A lane difference (R157). -/
def laneSub (t : ElemType) (rm : Round) (a b : Nat) : Nat × Fl :=
  if t.isInt then ((a + 2 ^ t.laneBits - b) % 2 ^ t.laneBits, Fl.none)
  else (etFmt t).addV rm ((etFmt t).decode a) ((etFmt t).decode b).neg

/-- A lane product (R157). -/
def laneMul (t : ElemType) (rm : Round) (a b : Nat) : Nat × Fl :=
  if t.isInt then (a * b % 2 ^ t.laneBits, Fl.none) else (etFmt t).mulV rm ((etFmt t).decode a) ((etFmt t).decode b)

/-- A lane product and sum (R157). -/
def laneFma (t : ElemType) (rm : Round) (a b c : Nat) : Nat × Fl :=
  if t.isInt then ((a * b + c) % 2 ^ t.laneBits, Fl.none)
  else (etFmt t).fmaV rm ((etFmt t).decode a) ((etFmt t).decode b) ((etFmt t).decode c)

/-- A lane minimum, or with `mx` maximum (R157). -/
def laneExt (mx : Bool) (t : ElemType) (a b : Nat) : Nat × Fl :=
  if t.isInt then (if mx then (if etInt t a < etInt t b then b else a) else (if etInt t b < etInt t a then b else a), Fl.none)
  else (etFmt t).minMax mx a b

def effVadd (t : ElemType) (x : VIn) : VRes := perLane t x fun a b _ => laneAdd t x.rm a b
def effVsub (t : ElemType) (x : VIn) : VRes := perLane t x fun a b _ => laneSub t x.rm a b
def effVmul (t : ElemType) (x : VIn) : VRes := perLane t x fun a b _ => laneMul t x.rm a b
def effVfma (t : ElemType) (x : VIn) : VRes := perLane t x fun a b c => laneFma t x.rm a b c
def effVmin (t : ElemType) (x : VIn) : VRes := perLane t x fun a b _ => laneExt false t a b
def effVmax (t : ElemType) (x : VIn) : VRes := perLane t x fun a b _ => laneExt true t a b

/-! ## Logic, select and shifts (R158, R159) -/

def effVand (l : LaneWidth) (x : VIn) : VRes := perWidth l x fun a b => a &&& b
def effVor (l : LaneWidth) (x : VIn) : VRes := perWidth l x fun a b => a ||| b
def effVxor (l : LaneWidth) (x : VIn) : VRes := perWidth l x fun a b => a ^^^ b
def effVnot (l : LaneWidth) (x : VIn) : VRes := perWidth l x fun a _ => 2 ^ laneWidth l - 1 - a

/-- VSEL: the mask field selects; every lane is written. -/
def effVsel (l : LaneWidth) (x : VIn) : VRes :=
  let w := laneWidth l
  whole (ofLanes w ((List.range (512 / w)).map fun i => if x.m.testBit i then lane w x.a i else lane w x.b i)) Fl.none

def effVshl (l : LaneWidth) (x : VIn) : VRes :=
  let w := laneWidth l
  perWidth l x fun a n => if n < w then a * 2 ^ n % 2 ^ w else 0
def effVshr (l : LaneWidth) (x : VIn) : VRes :=
  let w := laneWidth l
  perWidth l x fun a n => if n < w then a / 2 ^ n else 0
def effVsra (l : LaneWidth) (x : VIn) : VRes :=
  let w := laneWidth l
  perWidth l x fun a n => intPattern w (signedOf w a / 2 ^ min n (w - 1))

/-! ## Compare (R160) -/

/-- The condition on two lanes. -/
def laneCmp (c : VCond) (t : ElemType) (a b : Nat) : Bool × Fl :=
  if t.isInt then
    (match c with
      | .eq => a == b
      | .ne => a != b
      | .lt => decide (etInt t a < etInt t b)
      | .le => decide (etInt t a ≤ etInt t b)
      | .un => false, Fl.none)
  else fcompare c ((etFmt t).decode a) ((etFmt t).decode b)

def effVcmp (c : VCond) (t : ElemType) (x : VIn) : VRes :=
  let w := t.laneBits
  let l := (List.range t.lanes).map fun i => laneCmp c t (lane w x.a i) (lane w x.b i)
  whole (ofLanes 1 (l.map fun r => ofBool r.1)) (Fl.all (l.map Prod.snd))

/-! ## Conversions (R161, R162) -/

/-- VCVT from `u` to `t`. Log entry 61. -/
def effVcvt (t u : ElemType) (x : VIn) : VRes :=
  perElement t.elemBits (512 / max t.elemBits u.elemBits) x fun i => convert t u x.rm (lane u.elemBits x.a i)

/-! ## Block packing (R163, R164) -/

/-- The largest finite value of a packed type, in units of 1/32 (R163). -/
def packMax : ElemType → Nat
  | .dm8 => 311 | .e4m3 => 448 * 32 | .e2m3 => 240 | _ => 192

/-- |a| ≤ Max(t) · 2^k for a finite value. -/
def within (t : ElemType) (m : Nat) (e k : Int) : Bool :=
  let (n, d) := scaleFrac m 1 e
  let (p, q) := scaleFrac (packMax t) 32 k
  decide (n * q ≤ p * d)

/-- The scale code of a block (R163): 127 without a finite element that is not 0. -/
def packScale (t : ElemType) (l : List FVal) : Nat :=
  let mags := l.filterMap fun a => match a with | .fin _ m e => if m = 0 then none else some (m, e) | _ => none
  if mags.isEmpty then 127
  else match (List.range 255).find? fun (c : Nat) => mags.all fun p => within t p.1 p.2 ((c : Int) - 127) with
    | some c => c
    | none => 254

/-- The codes and the scale of one block: elements with whether each is active. -/
def packBlock (t : ElemType) (l : List (Bool × FVal)) : List (Nat × Fl) × Nat :=
  let c := packScale t ((l.filter Prod.fst).map Prod.snd)
  (l.map fun p => if p.1 then etEncode t .rne (p.2.shift (127 - (c : Int))) else (0, Fl.none), c)

def effVpack (t : ElemType) (x : VIn) : VRes :=
  let block (v : V512) (k : Nat) : List (Nat × Fl) × Nat :=
    packBlock t ((List.range 16).map fun i => (x.active (16 * k + i), fmtF32.decode (lane 32 v i)))
  let (l0, c0) := block x.a 0
  let (l1, c1) := block x.b 1
  let codes := ofLanes t.elemBits ((l0 ++ l1).map Prod.fst)
  whole (setLane 8 (setLane 8 codes 62 c0) 63 c1) (Fl.all ((l0 ++ l1).map Prod.snd))

/-- One element unpacked (R164). -/
def unpackElem (t : ElemType) (c x : Nat) : Nat :=
  let v := etValue t x
  if c = 255 || v.isNan then fmtF32.nan else (fmtF32.ofVal .rne (v.shift ((c : Int) - 127))).1

/-- VUNPK: block 0 to vd, block 1 to vd + 1, whose former contents arrive as the second source. -/
def effVunpk (t : ElemType) (x : VIn) : VRes :=
  let half (k : Nat) (old : V512) : VRes :=
    perElement 32 16 { x with d := old, m := x.m / 2 ^ (16 * k) } fun i =>
      (unpackElem t (lane 8 x.a (62 + k)) (lane t.elemBits x.a (16 * k + i)), Fl.none)
  { half 0 x.d with reg2 := some (half 1 x.b).reg }

/-! ## Reductions and scans (R165, R166, R96, R97) -/

/-- One level of `PairSum`. -/
def pairLevel (f : Nat → Nat → Nat × Fl) : List Nat → List Nat × Fl
  | a :: b :: r =>
    let (x, fl) := f a b
    let (l, g) := pairLevel f r
    (x :: l, fl.or g)
  | l => (l, Fl.none)

/-- `PairSum` of 2^k values (R96). -/
def pairSum (f : Nat → Nat → Nat × Fl) : Nat → List Nat → Nat × Fl
  | 0, l => (l.headD 0, Fl.none)
  | k + 1, l =>
    let (l, fl) := pairLevel f l
    let (x, g) := pairSum f k l
    (x, fl.or g)

/-- Smallest or largest value of a type, the identities of max and min (R165). -/
def extIdentity (mx : Bool) (t : ElemType) : Nat :=
  if t.isInt then intPattern t.laneBits (if mx then (etRange t).1 else (etRange t).2)
  else (etFmt t).signed mx (etFmt t).infCode

/-- The identity of add. -/
def addIdentity (t : ElemType) : Nat := if t.isInt then 0 else (etFmt t).signCode

/-- The lanes of va with identities for inactive ones. -/
def lanesOr (t : ElemType) (x : VIn) (e : Nat) : List Nat :=
  (List.range t.lanes).map fun i => if x.active i then lane t.laneBits x.a i else e

/-- A fold of lanes from the first on. -/
def foldLanes (f : Nat → Nat → Nat × Fl) : List Nat → Nat × Fl
  | [] => (0, Fl.none)
  | a :: r => r.foldl (fun p b => let q := f p.1 b; (q.1, p.2.or q.2)) (a, Fl.none)

/-- A result in lane 0, the others 0. -/
def inLane0 (t : ElemType) (r : Nat × Fl) : VRes := whole (ofLanes t.laneBits [r.1]) r.2

def effVredAdd (t : ElemType) (x : VIn) : VRes :=
  inLane0 t (pairSum (laneAdd t x.rm) (Nat.log2 t.lanes) (lanesOr t x (addIdentity t)))
def effVredMin (t : ElemType) (x : VIn) : VRes := inLane0 t (foldLanes (laneExt false t) (lanesOr t x (extIdentity false t)))
def effVredMax (t : ElemType) (x : VIn) : VRes := inLane0 t (foldLanes (laneExt true t) (lanesOr t x (extIdentity true t)))
def effVredOr (t : ElemType) (x : VIn) : VRes := inLane0 t (foldLanes (fun a b => (a ||| b, Fl.none)) (lanesOr t x 0))

/-- The running values of a scan and the flags of each step; a step of an inactive lane raises none (R154). -/
def scanFrom (f : Nat → Nat → Nat × Fl) (x : VIn) : Nat → Nat → List Nat → List (Nat × Fl)
  | _, _, [] => []
  | i, p, b :: r =>
    let q := f p b
    (q.1, if x.active i then q.2 else Fl.none) :: scanFrom f x (i + 1) q.1 r

/-- Lane 0 of a scan: its element, and a NaN in the canonical form, with NV for a signalling one (R79, R154). Log entry 87. -/
def scanFirst (t : ElemType) (x : VIn) (a : Nat) : Nat × Fl :=
  if x.active 0 && !t.isInt && ((etFmt t).decode a).isNan then (etFmt t).nanOf [(etFmt t).decode a] else (a, Fl.none)

/-- A scan (R166): lanes inactive in the mask carry the value forward; flags come from every step of an active lane. -/
def scan (t : ElemType) (x : VIn) (f : Nat → Nat → Nat × Fl) (e : Nat) : VRes :=
  match lanesOr t x e with
  | [] => whole 0 Fl.none
  | a :: r =>
    let p := scanFirst t x a
    let l := p :: scanFrom f x 1 p.1 r
    perElement t.laneBits t.lanes x fun i => l.getD i (0, Fl.none)

def effVscanAdd (t : ElemType) (x : VIn) : VRes := scan t x (laneAdd t x.rm) (addIdentity t)
def effVscanMax (t : ElemType) (x : VIn) : VRes := scan t x (laneExt true t) (extIdentity true t)

/-! ## Permutes and moves (R167, R168) -/

/-- VPERM: the mask governs source lanes. -/
def effVperm (t : ElemType) (x : VIn) : VRes :=
  let w := t.laneBits
  whole (ofLanes w ((List.range t.lanes).map fun i =>
    let j := lane w x.b i
    if j < t.lanes && x.active j then lane w x.a j
    else if x.mode = .mu then lane w x.d i else 0)) Fl.none

def effVbcast (t : ElemType) (x : VIn) : VRes := perLane t x fun _ _ _ => (x.gv.toNat % 2 ^ t.laneBits, Fl.none)

/-- VMVG: signed types sign-extended, the others zero-extended; 4-bit types give the lane byte. -/
def effVmvg (n : Nat) (t : ElemType) (x : VIn) : VRes :=
  let v := lane t.laneBits x.a n
  { whole 0 Fl.none with gres := some (if t.isInt && etSigned t then BitVec.ofInt 64 (etInt t v) else BitVec.ofNat 64 v) }

def effVmgv (n : Nat) (t : ElemType) (x : VIn) : VRes := whole (setLane t.laneBits x.d n x.gv.toNat) Fl.none

/-! ## Special functions (R169) -/

def effVexp2 (t : ElemType) (x : VIn) : VRes := perLane t x fun a _ _ => sfLane t sfExp2 a
def effVlog2 (t : ElemType) (x : VIn) : VRes := perLane t x fun a _ _ => sfLane t sfLog2 a
def effVrcp (t : ElemType) (x : VIn) : VRes := perLane t x fun a _ _ => sfLane t sfRcp a
def effVrsq (t : ElemType) (x : VIn) : VRes := perLane t x fun a _ _ => sfLane t sfRsq a
def effVtanh (t : ElemType) (x : VIn) : VRes := perLane t x fun a _ _ => sfLane t sfTanh a

/-! ## Execution by the hart -/

def execVadd (vd va vb : Reg) (mk : Mask) (et : ElemType) (s : State) : Out :=
  vecHart (.vadd vd va vb mk et) ⟨va, vb, vd, mk, 0⟩ (effVadd et) s
def execVsub (vd va vb : Reg) (mk : Mask) (et : ElemType) (s : State) : Out :=
  vecHart (.vsub vd va vb mk et) ⟨va, vb, vd, mk, 0⟩ (effVsub et) s
def execVmul (vd va vb : Reg) (mk : Mask) (et : ElemType) (s : State) : Out :=
  vecHart (.vmul vd va vb mk et) ⟨va, vb, vd, mk, 0⟩ (effVmul et) s
def execVfma (vd va vb : Reg) (mk : Mask) (et : ElemType) (s : State) : Out :=
  vecHart (.vfma vd va vb mk et) ⟨va, vb, vd, mk, 0⟩ (effVfma et) s
def execVmin (vd va vb : Reg) (mk : Mask) (et : ElemType) (s : State) : Out :=
  vecHart (.vmin vd va vb mk et) ⟨va, vb, vd, mk, 0⟩ (effVmin et) s
def execVmax (vd va vb : Reg) (mk : Mask) (et : ElemType) (s : State) : Out :=
  vecHart (.vmax vd va vb mk et) ⟨va, vb, vd, mk, 0⟩ (effVmax et) s
def execVperm (vd va vb : Reg) (mk : Mask) (et : ElemType) (s : State) : Out :=
  vecHart (.vperm vd va vb mk et) ⟨va, vb, vd, mk, 0⟩ (effVperm et) s
def execVpack (vd va vb : Reg) (mk : Mask) (et : ElemType) (s : State) : Out :=
  vecHart (.vpack vd va vb mk et) ⟨va, vb, vd, mk, 0⟩ (effVpack et) s
def execVand (vd va vb : Reg) (mk : Mask) (lw : LaneWidth) (s : State) : Out :=
  vecHart (.vand vd va vb mk lw) ⟨va, vb, vd, mk, 0⟩ (effVand lw) s
def execVor (vd va vb : Reg) (mk : Mask) (lw : LaneWidth) (s : State) : Out :=
  vecHart (.vor vd va vb mk lw) ⟨va, vb, vd, mk, 0⟩ (effVor lw) s
def execVxor (vd va vb : Reg) (mk : Mask) (lw : LaneWidth) (s : State) : Out :=
  vecHart (.vxor vd va vb mk lw) ⟨va, vb, vd, mk, 0⟩ (effVxor lw) s
def execVshl (vd va vb : Reg) (mk : Mask) (lw : LaneWidth) (s : State) : Out :=
  vecHart (.vshl vd va vb mk lw) ⟨va, vb, vd, mk, 0⟩ (effVshl lw) s
def execVshr (vd va vb : Reg) (mk : Mask) (lw : LaneWidth) (s : State) : Out :=
  vecHart (.vshr vd va vb mk lw) ⟨va, vb, vd, mk, 0⟩ (effVshr lw) s
def execVsra (vd va vb : Reg) (mk : Mask) (lw : LaneWidth) (s : State) : Out :=
  vecHart (.vsra vd va vb mk lw) ⟨va, vb, vd, mk, 0⟩ (effVsra lw) s
def execVsel (vd va vb m : Reg) (lw : LaneWidth) (s : State) : Out :=
  vecHart (.vsel vd va vb m lw) ⟨va, vb, vd, .mu m, 0⟩ (effVsel lw) s
def execVcmp (c : VCond) (vd va vb : Reg) (et : ElemType) (s : State) : Out :=
  vecHart (.vcmp c vd va vb et) ⟨va, vb, vd, .none, 0⟩ (effVcmp c et) s
def execVcvt (t u : ElemType) (vd va : Reg) (mk : Mask) (s : State) : Out :=
  vecHart (.vcvt t u vd va mk) ⟨va, va, vd, mk, 0⟩ (effVcvt t u) s
def execVredAdd (vd va : Reg) (mk : Mask) (et : ElemType) (s : State) : Out :=
  vecHart (.vredAdd vd va mk et) ⟨va, va, vd, mk, 0⟩ (effVredAdd et) s
def execVredMin (vd va : Reg) (mk : Mask) (et : ElemType) (s : State) : Out :=
  vecHart (.vredMin vd va mk et) ⟨va, va, vd, mk, 0⟩ (effVredMin et) s
def execVredMax (vd va : Reg) (mk : Mask) (et : ElemType) (s : State) : Out :=
  vecHart (.vredMax vd va mk et) ⟨va, va, vd, mk, 0⟩ (effVredMax et) s
def execVredOr (vd va : Reg) (mk : Mask) (et : ElemType) (s : State) : Out :=
  vecHart (.vredOr vd va mk et) ⟨va, va, vd, mk, 0⟩ (effVredOr et) s
def execVscanAdd (vd va : Reg) (mk : Mask) (et : ElemType) (s : State) : Out :=
  vecHart (.vscanAdd vd va mk et) ⟨va, va, vd, mk, 0⟩ (effVscanAdd et) s
def execVscanMax (vd va : Reg) (mk : Mask) (et : ElemType) (s : State) : Out :=
  vecHart (.vscanMax vd va mk et) ⟨va, va, vd, mk, 0⟩ (effVscanMax et) s
def execVexp2 (vd va : Reg) (mk : Mask) (et : ElemType) (s : State) : Out :=
  vecHart (.vexp2 vd va mk et) ⟨va, va, vd, mk, 0⟩ (effVexp2 et) s
def execVlog2 (vd va : Reg) (mk : Mask) (et : ElemType) (s : State) : Out :=
  vecHart (.vlog2 vd va mk et) ⟨va, va, vd, mk, 0⟩ (effVlog2 et) s
def execVrcp (vd va : Reg) (mk : Mask) (et : ElemType) (s : State) : Out :=
  vecHart (.vrcp vd va mk et) ⟨va, va, vd, mk, 0⟩ (effVrcp et) s
def execVrsq (vd va : Reg) (mk : Mask) (et : ElemType) (s : State) : Out :=
  vecHart (.vrsq vd va mk et) ⟨va, va, vd, mk, 0⟩ (effVrsq et) s
def execVtanh (vd va : Reg) (mk : Mask) (et : ElemType) (s : State) : Out :=
  vecHart (.vtanh vd va mk et) ⟨va, va, vd, mk, 0⟩ (effVtanh et) s
def execVunpk (vd va : Reg) (mk : Mask) (et : ElemType) (s : State) : Out :=
  vecHart (.vunpk vd va mk et) ⟨va, toReg (vd.val + 1), vd, mk, 0⟩ (effVunpk et) s
def execVnot (vd va : Reg) (mk : Mask) (lw : LaneWidth) (s : State) : Out :=
  vecHart (.vnot vd va mk lw) ⟨va, va, vd, mk, 0⟩ (effVnot lw) s
def execVbcast (vd ga : Reg) (mk : Mask) (et : ElemType) (s : State) : Out :=
  vecHart (.vbcast vd ga mk et) ⟨vd, vd, vd, mk, ga⟩ (effVbcast et) s
def execVmvg (gd va : Reg) (n : Fin 64) (et : ElemType) (s : State) : Out :=
  vecHart (.vmvg gd va n et) ⟨va, va, gd, .none, 0⟩ (effVmvg n.val et) s
def execVmgv (vd ga : Reg) (n : Fin 64) (et : ElemType) (s : State) : Out :=
  vecHart (.vmgv vd ga n et) ⟨vd, vd, vd, .none, ga⟩ (effVmgv n.val et) s

/-- The effect of an instruction the sequencer can hold (R180): majors 0x20–0x2B without VBCAST, VMVG and VMGV. -/
def captured (i : Instr) : Option (VArgs × (VIn → VRes)) :=
  match i with
  | .vadd vd va vb mk et => some (⟨va, vb, vd, mk, 0⟩, effVadd et)
  | .vsub vd va vb mk et => some (⟨va, vb, vd, mk, 0⟩, effVsub et)
  | .vmul vd va vb mk et => some (⟨va, vb, vd, mk, 0⟩, effVmul et)
  | .vfma vd va vb mk et => some (⟨va, vb, vd, mk, 0⟩, effVfma et)
  | .vmin vd va vb mk et => some (⟨va, vb, vd, mk, 0⟩, effVmin et)
  | .vmax vd va vb mk et => some (⟨va, vb, vd, mk, 0⟩, effVmax et)
  | .vperm vd va vb mk et => some (⟨va, vb, vd, mk, 0⟩, effVperm et)
  | .vpack vd va vb mk et => some (⟨va, vb, vd, mk, 0⟩, effVpack et)
  | .vand vd va vb mk lw => some (⟨va, vb, vd, mk, 0⟩, effVand lw)
  | .vor vd va vb mk lw => some (⟨va, vb, vd, mk, 0⟩, effVor lw)
  | .vxor vd va vb mk lw => some (⟨va, vb, vd, mk, 0⟩, effVxor lw)
  | .vshl vd va vb mk lw => some (⟨va, vb, vd, mk, 0⟩, effVshl lw)
  | .vshr vd va vb mk lw => some (⟨va, vb, vd, mk, 0⟩, effVshr lw)
  | .vsra vd va vb mk lw => some (⟨va, vb, vd, mk, 0⟩, effVsra lw)
  | .vsel vd va vb m lw => some (⟨va, vb, vd, .mu m, 0⟩, effVsel lw)
  | .vcmp c vd va vb et => some (⟨va, vb, vd, .none, 0⟩, effVcmp c et)
  | .vcvt t u vd va mk => some (⟨va, va, vd, mk, 0⟩, effVcvt t u)
  | .vredAdd vd va mk et => some (⟨va, va, vd, mk, 0⟩, effVredAdd et)
  | .vredMin vd va mk et => some (⟨va, va, vd, mk, 0⟩, effVredMin et)
  | .vredMax vd va mk et => some (⟨va, va, vd, mk, 0⟩, effVredMax et)
  | .vredOr vd va mk et => some (⟨va, va, vd, mk, 0⟩, effVredOr et)
  | .vscanAdd vd va mk et => some (⟨va, va, vd, mk, 0⟩, effVscanAdd et)
  | .vscanMax vd va mk et => some (⟨va, va, vd, mk, 0⟩, effVscanMax et)
  | .vexp2 vd va mk et => some (⟨va, va, vd, mk, 0⟩, effVexp2 et)
  | .vlog2 vd va mk et => some (⟨va, va, vd, mk, 0⟩, effVlog2 et)
  | .vrcp vd va mk et => some (⟨va, va, vd, mk, 0⟩, effVrcp et)
  | .vrsq vd va mk et => some (⟨va, va, vd, mk, 0⟩, effVrsq et)
  | .vtanh vd va mk et => some (⟨va, va, vd, mk, 0⟩, effVtanh et)
  | .vunpk vd va mk et => some (⟨va, toReg (vd.val + 1), vd, mk, 0⟩, effVunpk et)
  | .vnot vd va mk lw => some (⟨va, va, vd, mk, 0⟩, effVnot lw)
  | _ => none

end Sys2Proof.Machine
end

