-- ==== Sys2Proof/Machine/Sequencer.lean ====
section
/-! DEFINITION. Streams (R176–R179) and the vector sequencer (R180–R183, R231). -/

namespace Sys2Proof.Machine

/-! ## Streams -/

/-- A 64-byte piece at `a`, computed without wrap, passes the address-form checks (R176). Log entry 63. -/
def pieceForm (am : AddrMode) (a : Int) : Bool := decide (0 ≤ a) && formOk am a.toNat 64

/-- The checks of `STRCFG` on the first piece's address and the word of stride and count (R176). Log entry 63. -/
def streamExc (am : AddrMode) (a w : Word) : Option Exc :=
  let stride := signedOf 32 (bits w 32 32)
  let n := bits w 0 32
  let last : Int := a.toNat + ((n : Int) - 1) * stride
  if a.toNat % 64 ≠ 0 || stride % 64 ≠ 0 then some ⟨exMisalign, a⟩
  else if n = 0 then none
  else if !pieceForm am a.toNat then some ⟨exAddress, a⟩
  else if !pieceForm am last then some ⟨exAddress, wordOfInt last⟩
  else none

/-- `STRCFG` (R176). A stream that is bound ends first, which waits for its pushes (R179, R312). Log entry 63. -/
def execStrcfg (j : Fin 8) (a b : Reg) (dir : Bool) (am : AddrMode) (nt : Bool) (s : State) : Out :=
  issue (.strcfg j a b dir am nt) s fun s =>
    match streamExc am (s.g a) (s.g b) with
    | some e => trapHere e s
    | none =>
      if s.hart.streams[j].en && replPending s then s
      else
        (s.onHart fun h => h.onStream j fun _ =>
          ⟨s.g a, BitVec.ofNat 64 (bits (s.g b) 0 32), BitVec.ofNat 32 (bits (s.g b) 32 32), false, nt, am, dir, true, []⟩).retire 4

/-- `STREND` (R179). The register then shows its register-file copy again. -/
def execStrend (j : Fin 8) (s : State) : Out :=
  issue (.strend j) s fun s =>
    if s.hart.streams[j].en && replPending s then s
    else (s.onHart fun h => h.onStream j fun st => { st with en := false, ahead := [] }).retire 4

/-- STREAM_READ_AHEAD (R178): a read-bound stream reads one piece more, at most four ahead of the next pop. A piece that cannot be read is left
to the pop; so is one on an SO page (R302), and every piece while the core's graph instruction is in progress. Log entry 74. -/
def execStreamReadAhead (j : Fin 8) (s : State) : Out :=
  let st := s.hart.streams[j]
  let k := st.ahead.length
  if st.en && !st.dir && k < 4 && k < st.sn.toNat && s.hart.walk.isNone then
    match access s st.am 1 needR (st.sa + BitVec.ofNat 64 k * st.stride.signExtend 64) 64 with
    | (.exc _, s) => .next s
    | (.ok l, s) =>
      if loadWaits s l || !l.all Seg.ok || l.any (fun g => g.order == .so) then .next s
      else
        let n := BitVec.ofNat 32 (ofBool (leaves s st.am l))
        let p : AheadPiece := ⟨v512OfBytes (s.load l), segRuns l⟩
        .next (s.onHart fun h => { h.onStream j fun st => { st with ahead := st.ahead ++ [p] } with
          old := ⟨h.old.iss + n, h.old.ret + n⟩ })
  else .next s

/-! ## Capture (R180) -/

/-- An instruction the sequencer can hold. -/
def capturable (w : Nat) : Option Instr :=
  match decodeFirst w with
  | .one (.ok i) => if (captured i).isSome then some i else none
  | _ => none

/-- The words that follow VLOOP from `va` on, or the exception of the first that cannot be captured. Log entry 62. -/
def captureWords : Nat → Word → State → Except Exc (List (Nat × Instr)) × State
  | 0, _, s => (.ok [], s)
  | n + 1, va, s =>
    match fetchWord s va with
    | (none, s) => (.error ⟨exFetch, va⟩, s)
    | (some w, s) =>
      match capturable w with
      | none => (.error ⟨exIllegal, BitVec.ofNat 64 w⟩, s)
      | some i =>
        match captureWords n (va + 4) s with
        | (.ok l, s) => (.ok ((w, i) :: l), s)
        | (.error e, s) => (.error e, s)

/-- An instruction names stream j. -/
def namesStream (j : Fin 8) (i : Instr) : Bool := ((vUse i).src ++ (vUse i).dst).any fun r => r.val == 24 + j.val

/-- kj: the captured words that name stream j. -/
def timesNamed (l : List Instr) (j : Fin 8) : Nat := (l.filter (namesStream j)).length

/-- The loop streams (R181). -/
def loopStreams (h : Hart) (l : List Instr) : List (Fin 8) :=
  (List.finRange 8).filter fun j => h.streams[j].en && timesNamed l j != 0

/-- A stream that lacks pieces for `n` iterations. -/
def shortStream (h : Hart) (l : List Instr) (n : Nat) : Option (Fin 8) :=
  (loopStreams h l).find? fun j => h.streams[j].sn.toNat < n * timesNamed l j

/-- `VLOOP` (R180); n + 1 words are captured. Log entry 62. -/
def execVloop (a : Reg) (n : Fin 16) (s : State) : Out :=
  issue (.vloop a n) s fun s =>
    match captureWords (n.val + 1) (s.hart.pc + 4) s with
    | (.error e, s) => trapHere e s
    | (.ok l, s) =>
      match shortStream s.hart (l.map Prod.snd) (s.g a).toNat with
      | some j => trapHere ⟨exStream, BitVec.ofNat 64 (24 + j.val)⟩ s
      | none =>
        let words := l.map fun p => BitVec.ofNat 32 p.1
        (s.onHart fun h => { h with seq := { h.seq with
          pos := 0, run := false, count := BitVec.ofNat 5 l.length, sqi := Vector.ofFn fun k => words.getD k.val 0 } }).retire
          (4 + 4 * (n.val + 1))

/-! ## The loop (R181–R183) -/

/-- The instructions of the captured loop. -/
def loopBody (h : Hart) : List Instr :=
  (h.seq.sqi.toList.take h.seq.count.toNat).filterMap fun w => capturable w.toNat

/-- The iteration check (R181): the loop ends when a loop stream is short, and after one iteration when there are none. -/
def iterationCheck (first : Bool) (h : Hart) : Hart :=
  let l := loopBody h
  if (shortStream h l 1).isSome || (!first && (loopStreams h l).isEmpty) then
    { h with seq := { h.seq with run := false, pos := 0, stopped := false, ending := h.seq.ending + 1 } }
  else h

/-- The state of a loop that starts (R181). -/
def startLoop (h : Hart) : Hart :=
  if h.seq.count = 0 then { h with rdv := h.rdv + 1 }
  else iterationCheck true { h with seq := { h.seq with pos := 0, run := true, stopped := false } }

/-- The array's part of `FORK.mb` (R204, R231): at once, or when the core's lease commands, parked ones included, have retired. Log entry 66. -/
def forkArray (s : State) : State :=
  let a := s.array s.cluster
  let mine := a.queue ++ a.parks.flatMap Park.cmds
  let ids := (mine.filter fun c => c.core == s.cur && c.op.leased).map Command.id
  if ids.isEmpty then s.onHart fun h => { h with rdv := h.rdv + 1 }
  else s.setArray s.cluster { a with rdv := a.rdv ++ [(s.cur, ids)] }

/-- `FORK` (R231). -/
def execFork (mb : Bool) (s : State) : Out :=
  issue (.fork mb) s fun s =>
    let s := if mb then forkArray s else s
    (s.onHart startLoop).retire 4

/-- A captured instruction has completed: the next position, and at 0 the iteration check. -/
def stepLoop (h : Hart) : Hart :=
  let p := (h.seq.pos.toNat + 1) % max 1 h.seq.count.toNat
  let h := { h with seq := { h.seq with pos := BitVec.ofNat 4 p } }
  if p = 0 then iterationCheck false h else h

/-- SEQUENCER_ISSUE (R181–R183): the captured instruction at POS has the effect of its own entry, or its trap is taken with TEPC on the next
hart instruction. Log entry 72. -/
def execSequencerIssue (s : State) : Out :=
  let h := s.hart
  if !h.running || h.walk.isSome then .next s
  else
    let w := (h.seq.sqi[h.seq.pos.toNat]'h.seq.pos.isLt).toNat
    match decodeFirst w with
    | .one (.ok i) =>
      match captured i with
      | none => .next (trapHere ⟨exIllegal, BitVec.ofNat 64 w⟩ s)
      | some (c, f) =>
        if h.loads.any fun l => l.dest != Dest.g 0 && (namedDests h i).contains l.dest then .next s
        else if misuse h (vUse i) then .next (trapHere ⟨exIllegal, BitVec.ofNat 64 w⟩ s)
        else match h.poison.find? fun p => (readDests h i).contains p.1 with
          | some p => .next (trapHere ⟨exDataErr, p.2⟩ s)
          | none =>
            match vecApply (vUse i) c f s with
            | .done s => .next (s.onHart stepLoop)
            | .exc e s => .next (trapHere e s)
            | .wait s => .next s
    | _ => .next (trapHere ⟨exIllegal, BitVec.ofNat 64 w⟩ s)

/-- SEQUENCER_LOOP_END (R181, R312): the pushes of a finished loop are performed; RDV gains 1. -/
def execSequencerLoopEnd (s : State) : Out :=
  if 0 < s.hart.seq.ending && !replPending s then
    .next (s.onHart fun h => { h with rdv := h.rdv + 1, seq := { h.seq with ending := h.seq.ending - 1 } })
  else .next s

end Sys2Proof.Machine
end

