-- ==== Sys2Proof/Machine/Counter.lean ====
section
/-! DEFINITION. Counter instructions (R208–R228), tag waits, joins and class waits (R229–R233), and the steps of a homeroom. -/

namespace Sys2Proof.Machine

/-! ## Checks (R218) -/

/-- A counter as a core reaches it: a place, with whether the keys admit it (R406) and the ordering attribute of its mapping (R301), or a tag. -/
inductive CRef where
  | at (key : Nat) (ok : Bool) (ord : PageOrder)
  | tag (i : Fin 64)
  deriving DecidableEq, Repr

/-- Steps 4 and 5 of R218 for the current core, and the tag of KIND 11. -/
def reachRef (s : State) (need : Need) (noTag : Bool) (r : Word) : Except Exc CRef × State :=
  match refKind r with
  | 0 =>
    match globalAccess s (homeSlice s.cluster) s.part s.hart.spid need r.toNat 8 with
    | (.bad code va, s) => (.error ⟨code, BitVec.ofNat 64 va⟩, s)
    | (.ok (g :: _), s) => if pteRepl g.entry then (.error ⟨exAccess, r⟩, s)
      else (.ok (.at (ctrName g.place (pteKey g.entry)) g.ok g.order), s)
    | (.ok [], s) => (.error ⟨exPage, r⟩, s)
  | 3 =>
    if noTag then (.error ⟨exAccess, r⟩, s)
    else (.ok (.tag ⟨bits r 0 6, Nat.mod_lt _ (by decide)⟩), s)
  | _ => (.ok (.at (refPlace r) true .rc), s)

/-- Steps 2–5 of R218 for the current core. Of a KIND 00 reference that breaks both its bits [61:55] and its alignment the ADDRESS exception is
raised. Log entry 93. -/
def coreRef (s : State) (need : Need) (noTag : Bool) (r : Word) : Except Exc CRef × State :=
  if !refForm r then (.error ⟨exAddress, r⟩, s)
  else if refKind r = 0 && bits r 0 3 ≠ 0 then (.error ⟨exMisalign, r⟩, s)
  else if !refReach s s.part s.userMode r then (.error ⟨exAccess, r⟩, s)
  else reachRef s need noTag r

/-- A counter instruction: its checks, then its own entry `k`. -/
def onCounter (i : Instr) (need : Need) (noTag : Bool) (r : State → Word) (k : CRef → State → State) (s : State) : Out :=
  issue i s fun s =>
    match coreRef s need noTag (r s) with
    | (.error e, s) => trapHere e s
    | (.ok c, s) => k c s

/-- An operation of the core on a counter waits for its own adds that come before it: to this counter, or between SO pages (R134, R302). -/
def counterWaits (s : State) (key : Nat) (ord : PageOrder) : Bool :=
  s.adds.any fun a => a.core == s.cur && (ctrPlace a.key == ctrPlace key || (ord == .so && a.ord == .so))

/-- An operation that releases and is performed at once waits for everything before it (R217, R222, R227, R228). -/
def orderWaits (s : State) (key : Nat) (ord : PageOrder) : Bool := releaseWaits s || counterWaits s key ord

/-- An operation of the core on a tag waits for what its release covers at its effective scope: at `.core` the replicated writes, which are performed at
no scope before they are applied, above it the adds on their way as well (R216, R217, R222, R226, R312). -/
def tagHeld (s : State) (sc : Option Scope) : Bool := releaseHeld s s.cur (if tagScope sc = .core then [] else s.adds)

/-- A word result that arrives, or poison for a refused key (R406). -/
def State.fillG (s : State) (r : Reg) (x : Word) (ok : Bool) (addr : Word) : State :=
  s.onHart fun h => h.fill (.g r) addr (x.setWidth 512) (!ok)

/-! ## Instructions -/

/-- An add of the current core sets out with its effective scope; it counts in OST until it is performed (R216, R219). What streams have read ahead of
its counter is discarded (R178). -/
def sendAdd (s : State) (key : Nat) (x : Word) (caw : Bool) (sc : Option Scope) (ord : PageOrder) : State :=
  let s := dropMeeting s [(ctrPlace key, 8)]
  let a : AddInFlight := ⟨s.cur, key, x, caw, effectiveScope s.cur key sc, ord⟩
  let s := { s with adds := s.adds ++ [a] }
  s.onHart fun h => { h with ost := h.ost.issue }

/-- `CADD` (R222): the add is on its way; for a tag it is made once its release is met. -/
def execCadd (a b : Reg) (sc : Option Scope) (s : State) : Out :=
  onCounter (.cadd a b sc) needRW false (fun s => s.g a) (fun c s =>
    match c with
    | .tag i => if tagHeld s sc then s else (s.onHart fun h => { h with tagc := h.tagc.set i (h.tagc[i] + s.g b) }).retire 4
    | .at key ok ord =>
      if ok then (sendAdd s key (s.g b) false sc ord).retire 4
      else (raise s s.cur irqErr).retire 4) s

/-- `CADDV` (R222): the old value arrives in g[c]. -/
def execCaddv (a b c : Reg) (sc : Option Scope) (s : State) : Out :=
  onCounter (.caddv a b c sc) needRW false (fun s => s.g a) (fun r s =>
    match r with
    | .tag i =>
      if tagHeld s sc then s
      else ((s.onHart fun h => { h with tagc := h.tagc.set i (h.tagc[i] + s.g b) }).setG c s.hart.tagc[i]).retire 4
    | .at key ok ord =>
      if orderWaits s key ord then s
      else
        let old := s.counter key
        let s' := if ok then counterAdd s key (s.g b) else raise s s.cur irqErr
        (deliver (dropMeeting s' [(ctrPlace key, 8)]) true (ord == .un) (.g c) (s.g a) (old.setWidth 512) (!ok)).retire 4) s

/-- `CREAD` (R223): the core waits for the result, so it issues and retires at once. -/
def execCread (a b c : Reg) (sc : Option Scope) (s : State) : Out :=
  onCounter (.cread a b c sc) needR false (fun s => s.g a) (fun r s =>
    match r with
    | .tag i => (dropAhead ((s.setG b 0).setG c s.hart.tagc[i])).retire 4
    | .at key ok ord =>
      if counterWaits s key ord then s
      else
        let p : Word := BitVec.ofNat 64 (ofBool (s.poisoned key))
        let v := s.counter key
        let addr := s.g a
        let s := s.onHart fun h => { h with old := h.old.issue.retire }
        (dropAhead ((s.fillG b p ok addr).fillG c v ok addr)).retire 4) s

/-- A wait returns a status (R221, R224). -/
def waitDone (s : State) (c : Reg) (status : Word) : State := (dropAhead (s.setG c status)).retire 4

/-- The wait for a threshold at its registration: evaluated at once, otherwise registered, or re-polled where the roll is full (R210, R224). -/
def waitFor (s : State) (r : CRef) (addr thr : Word) (c : Reg) (sc : Option Scope) (limit : Option Word) : State :=
  match r with
  | .tag i =>
    if reached s.hart.tagc[i] thr then waitDone s c 0
    else if limit = some 0 then waitDone s c 2
    else s.onHart fun h => { h with wait := some (.own 3 addr thr h.irq.cycle (limit.map fun n => (n, c))) }
  | .at key ok ord =>
    if !ok then (dropAhead (s.fillG c 0 false addr)).retire 4
    else if counterWaits s key ord then s
    else match verdict s key thr with
    | some st => waitDone s c st
    | none =>
      if limit = some 0 then waitDone s c 2
      else
        let full := rollFull s key
        let s := if full then s else register s key (.core s.cur) thr (effectiveScope s.cur key sc)
        s.onHart fun h => { h with wait := some (.counter key thr full h.irq.cycle (limit.map fun n => (n, c))) }

/-- A wait in progress: it has ended with a status, its own count is looked at again, or it goes on. None where no wait is in progress. -/
def waitOn (s : State) (c : Reg) : Option State :=
  match s.hart.wait with
  | some (.woken st _ _) => some (waitDone s c st)
  | some (.own 3 r thr _ _) =>
    some (if reached (s.hart.tagc[bits r 0 6]'(Nat.mod_lt _ (by decide))) thr then waitDone s c 0 else s)
  | some _ => some s
  | none => none

/-- `CWAIT` (R224). -/
def execCwait (a b c : Reg) (sc : Option Scope) (s : State) : Out :=
  issue (.cwait a b c sc) s fun s =>
    match waitOn s c with
    | some s => s
    | none =>
      match coreRef s needR false (s.g a) with
      | (.error e, s) => trapHere e s
      | (.ok r, s) => waitFor s r (s.g a) (s.g b) c sc none

/-- `CWAITT` (R224): g[c] holds the timeout on entry. -/
def execCwaitt (a b c : Reg) (sc : Option Scope) (s : State) : Out :=
  issue (.cwaitt a b c sc) s fun s =>
    match waitOn s c with
    | some s => s
    | none =>
      match coreRef s needR false (s.g a) with
      | (.error e, s) => trapHere e s
      | (.ok r, s) => waitFor s r (s.g a) (s.g b) c sc (some (s.g c))

/-- The add of a `CAW` (R226), once its release is met: made at once for a tag; otherwise it is sent and on its way until the homeroom acknowledges. A
trap before finds nothing sent. A refused key drops it (R406). -/
def cawAdd (s : State) (r : CRef) (x : Word) (sc : Option Scope) : State :=
  match r with
  | .tag i =>
    if tagHeld s sc then s else s.onHart fun h => { h with tagc := h.tagc.set i (h.tagc[i] + x), tsw := { h.tsw with ap := true } }
  | .at key ok ord =>
    if orderWaits s key ord then s
    else if ok then (sendAdd s key x true sc ord).onHart fun h => { h with wait := some .cawAdd }
    else (raise s s.cur irqErr).onHart fun h => { h with tsw := { h.tsw with ap := true } }

/-- `CAW` (R226): the add once, then the wait. -/
def execCaw (a b c : Reg) (sc : Option Scope) (s : State) : Out :=
  issue (.caw a b c sc) s fun s =>
    match waitOn s c with
    | some s => s
    | none =>
      match coreRef s needRW false (s.g a) with
      | (.error e, s) => trapHere e s
      | (.ok r, s) => if s.hart.tsw.ap then waitFor s r (s.g a) (s.g c) c sc none else cawAdd s r (s.g b) sc

/-- `CINIT` (R227): refused with status 1 while the roll holds an entry for the counter. -/
def execCinit (a b c : Reg) (sc : Option Scope) (s : State) : Out :=
  onCounter (.cinit a b c sc) needRW true (fun s => s.g a) (fun r s =>
    match r with
    | .tag _ => s
    | .at key ok ord =>
      if orderWaits s key ord then s
      else if !ok then ((raise s s.cur irqErr).fillG c 0 false (s.g a)).retire 4
      else if s.roll.any (sameCounter key) then (s.setG c 1).retire 4
      else ((dropMeeting (counterInit s key (s.g b)) [(ctrPlace key, 8)]).setG c 0).retire 4) s

/-- The posted receive's DONE counter is at this place. -/
def doneAt (s : State) (p : Post) (key : Nat) : Bool :=
  p.doneRef != 0 && match (partyRef s (homeSlice (clusterOf p.core)) p.part p.space needRW p.doneRef).1 with
    | .at k => ctrPlace k == ctrPlace key
    | _ => false

/-- A CPOISON on the DONE counter of posted receives cancels them: their channels are free and the posts retire (R272). Log entry 46. -/
def cancelPosts (s : State) (key : Nat) : State :=
  let gone := s.posts.filter fun p => doneAt s p key
  let s := { s with posts := s.posts.filter fun p => !gone.contains p }
  gone.foldl (fun s p => s.modifyHart p.core fun h => { h with ocp := h.ocp.retire }) s

/-- `CPOISON` (R228). -/
def execCpoison (a : Reg) (sc : Option Scope) (s : State) : Out :=
  onCounter (.cpoison a sc) needRW true (fun s => s.g a) (fun r s =>
    match r with
    | .tag _ => s
    | .at key ok ord =>
      if orderWaits s key ord then s
      else if ok then (cancelPosts (counterPoison s key) key).retire 4
      else (raise s s.cur irqErr).retire 4) s

/-! ## Tag waits, joins, class waits (R230–R233) -/

/-- TRDY (R37). -/
def Hart.trdy (h : Hart) : Word :=
  BitVec.ofNat 64 (((List.finRange 64).map fun i => if reached h.tagc[i] h.tagt[i] then 2 ^ i.val else 0).sum)

/-- `TWANY` (R230). -/
def execTwany (d a : Reg) (s : State) : Out :=
  issue (.twany d a) s fun s =>
    let r := s.hart.trdy &&& s.g a
    if s.g a = 0 || r ≠ 0 then (dropAhead (s.setG d r)).retire 4 else s

/-- `TWALL` (R230). -/
def execTwall (d a : Reg) (s : State) : Out :=
  issue (.twall d a) s fun s =>
    let r := s.hart.trdy &&& s.g a
    if r = s.g a then (dropAhead (s.setG d r)).retire 4 else s

/-- The lowest ready tag, or all ones (R230). -/
def lowestReady (t : Word) : Word :=
  match (List.range 64).find? fun i => t.toNat.testBit i with
  | some i => BitVec.ofNat 64 i
  | none => BitVec.allOnes 64

/-- `TFIRST` (R230). -/
def execTfirst (d : Reg) (s : State) : Out :=
  issue (.tfirst d) s fun s => (dropAhead (s.setG d (lowestReady s.hart.trdy))).retire 4

/-- `JOIN` (R232). -/
def execJoin (d a : Reg) (s : State) : Out :=
  issue (.join d a) s fun s => if reached s.hart.rdv (s.g a) then (dropAhead (s.setG d 0)).retire 4 else s

/-- `WAITN` (R233). -/
def execWaitn (ld st cp tl : Fin 16) (s : State) : Out :=
  issue (.waitn ld st cp tl) s fun s =>
    let h := s.hart
    if h.old.out ≤ ld.val && h.ost.out ≤ st.val && h.ocp.out ≤ cp.val && h.otl.out ≤ tl.val then s.retire 4 else s

/-! ## Steps -/

/-- Add `a` waits for what its core has done before it: what its release covers, adds to the same counter, and the SO adds before an SO add (R134,
R217, R302). `before` are the adds sent earlier. -/
def addWaits (s : State) (a : AddInFlight) (before : List AddInFlight) : Bool :=
  releaseHeld s a.core before || before.any fun b =>
    b.core == a.core && (ctrPlace b.key == ctrPlace a.key || (a.ord == .so && b.ord == .so))

/-- HOMEROOM_ADD (R213, R214, R222, R226): add k is performed once what it releases is; it retires from OST, and the add of a CAW is acknowledged. Log
entry 11. -/
def execHomeroomAdd (k : Nat) (s : State) : Out :=
  match s.adds[k]? with
  | none => .next s
  | some a =>
    if addWaits s a (s.adds.take k) then .next s
    else
      let s := counterAdd { s with adds := s.adds.eraseIdx k } a.key a.amount
      .next (s.modifyHart a.core fun h => { h with
        ost := h.ost.retire
        wait := if a.caw then none else h.wait
        tsw := { h.tsw with ap := h.tsw.ap || a.caw } })

/-- COUNTER_WAKE (R214, R224): wake k reaches a core that waits. Wakes of copies and forward entries are taken by their units (R250, R337). -/
def execCounterWake (k : Nat) (s : State) : Out :=
  match s.wakes[k]? with
  | some ⟨.core n, st⟩ =>
    let s := { s with wakes := s.wakes.eraseIdx k }
    .next (s.modifyHart n fun h =>
      match h.wait with
      | some (.counter _ _ false start limit) => { h with wait := some (.woken st start limit) }
      | _ => h)
  | _ => .next s

/-- COUNTER_REPOLL (R210): a core whose roll was full reads the counter again. -/
def execCounterRepoll (core : Nat) (s : State) : Out :=
  match (s.hartOf core).wait with
  | some (.counter key thr true start limit) =>
    match verdict s key thr with
    | some st => .next (s.modifyHart core fun h => { h with wait := some (.woken st start limit) })
    | none => .next s
  | _ => .next s

/-- A wait on the core's own count is over: the tag has reached its threshold, which the core looks at whenever the count changes (R224). -/
def Hart.tagDone (h : Hart) (kind : Nat) (r thr : Word) : Bool :=
  kind == 3 && reached (h.tagc[bits r 0 6]'(Nat.mod_lt _ (by decide))) thr

/-- The cycles of a CWAITT have passed, and its tag has not reached its threshold (R224). -/
def timedOut (h : Hart) : Option (Word × Option (Word × Reg)) :=
  let late (start n : Word) : Bool := n.toNat ≤ (h.irq.cycle - start).toNat
  match h.wait with
  | some (.counter _ _ _ start (some (n, r))) => if late start n then some (start, some (n, r)) else none
  | some (.own kind ref thr start (some (n, r))) =>
    if late start n && !h.tagDone kind ref thr then some (start, some (n, r)) else none
  | _ => none

/-- CWAITT_TIMEOUT (R224): the registration is withdrawn and the status is 2. -/
def execCwaittTimeout (core : Nat) (s : State) : Out :=
  match timedOut (s.hartOf core) with
  | some (start, limit) =>
    .next ((withdraw s (.core core)).modifyHart core fun h => { h with wait := some (.woken 2 start limit) })
  | none => .next s

end Sys2Proof.Machine
end

