-- ==== Sys2Proof/Machine/Matrix.lean ====
section
/-! DEFINITION. Slots, tiles, leases and lease commands (R184–R202): what the core's instructions do, and what the array does for each command. -/

namespace Sys2Proof.Machine

/-! ## The format prefix (R193, R194) -/

/-- PFMT as `FMT` sets it: bits [25:10] of its word (R65, R193). -/
def prefixBits (aty bty : ElemType) (cty : AccType) (scl : ScaleMode) (sp : Bool) : BitVec 16 :=
  BitVec.ofNat 16 (aty.code * 2 ^ 12 + bty.code * 2 ^ 8 + cty.code * 2 ^ 4 + scl.code * 2 ^ 2 + ofBool sp * 2)

/-- `FMT` (R193): PP is set, AP, RS and RLANE are cleared (R27). -/
def execFmt (aty bty : ElemType) (cty : AccType) (scl : ScaleMode) (sp : Bool) (s : State) : Out :=
  issue (.fmt aty bty cty scl sp) s fun s =>
    let s := s.retire 4
    s.onHart fun h => { h with tsw := { h.tsw with pp := true, pfmt := prefixBits aty bty cty scl sp } }

/-! ## Ownership (R48, R187, R188) -/

/-- The owner the current core claims for (R33, R48). -/
def State.owner (s : State) : Owner := ⟨s.cur % 16, s.hart.ctxId⟩

/-- A slot or tile of the current core's cluster is owned by it. -/
def ownsSlot (s : State) (n : Nat) : Bool := (s.array s.cluster).slots[n]? == some (some s.owner)
def ownsTile (s : State) (t : Nat) : Bool := (s.array s.cluster).tiles[t]? == some (some s.owner)

/-- The slots a slot operand of a type names: a pair for bf16 (R184). -/
def slotPair (t : ElemType) (n : Nat) : List Nat := if t = .bf16 then [n, n + 1] else [n]

/-- The type an Ephemeris stream's tiles have. -/
def streamTypes (a : ArrayUnit) (e : Fin 16) : ElemType × ElemType :=
  match a.eph[e] with
  | some st => (st.aty, st.bty)
  | none => (.dm8, .dm8)

/-- The slots a command names. -/
def cmdSlots (a : ArrayUnit) : CmdOp → List Nat
  | .load _ ty _ slot _ _ _ => slotPair ty slot
  | .mul aty bty _ _ _ _ sa sb => slotPair aty sa ++ slotPair bty sb
  | .eld e _ slot _ _ _ => slotPair (streamTypes a e).1 slot
  | .emma e _ _ sa sb => slotPair (streamTypes a e).1 sa ++ slotPair (streamTypes a e).2 sb
  | _ => []

/-- The tile a command names. -/
def cmdTiles : CmdOp → List Nat
  | .store _ _ t _ _ _ | .zero t | .mul _ _ _ _ _ t _ _ | .emma _ _ t _ _ => [t]
  | _ => []

/-- A command names slot n, or tile n/4 with its anchor slot (R187, R188). -/
def namesSlot (a : ArrayUnit) (n : Nat) (c : Command) : Bool :=
  (cmdSlots a c.op).contains n || (n % 4 == 0 && (cmdTiles c.op).contains (n / 4))

/-- The ownership entry of slot n and its tile set. -/
def setOwner (a : ArrayUnit) (n : Nat) (o : Option Owner) : ArrayUnit :=
  { a with slots := a.slots.setIfInBounds n o, tiles := if n % 4 = 0 then a.tiles.setIfInBounds (n / 4) o else a.tiles }

/-- `OCLAIM` (R188). -/
def execOclaim (d : Reg) (n : Fin 64) (s : State) : Out :=
  issue (.oclaim d n) s fun s =>
    let a := s.array s.cluster
    match a.slots[n] with
    | none => ((s.setArray s.cluster (setOwner a n (some s.owner))).setG d 0).retire 4
    | some o => (s.setG d (if o = s.owner then 1 else 2)).retire 4

/-- `OFREE` (R188): waits until every accepted command that names the slot has retired. -/
def execOfree (n : Fin 64) (s : State) : Out :=
  issue (.ofree n) s fun s =>
    let a := s.array s.cluster
    if !ownsSlot s n || a.parks.any fun p => p.cmds.any (namesSlot a n) then trapHere ⟨exAccess, BitVec.ofNat 64 n⟩ s
    else if a.queue.any (namesSlot a n) then s
    else (s.setArray s.cluster (setOwner a n none)).retire 4

/-! ## Leases (R189–R191, R195) -/

/-- The core has a resume request that has not been granted (R206). Log entry 71. -/
def resumePending (s : State) : Bool := (s.array s.cluster).resumes.contains s.cur

/-- `MLEASE` (R190). -/
def execMlease (d : Reg) (s : State) : Out :=
  issue (.mlease d) s fun s =>
    let a := s.array s.cluster
    if s.hart.lease.held then (s.setG d 1).retire 4
    else match s.hart.wait with
    | some .leaseGranted =>
      ((s.onHart fun h => { h with lease := { h.lease with held := true, left := 16, cols := 256, rows := 256 } }).setG d 0).retire 4
    | some .lease => s
    | _ =>
      if resumePending s then s
      else (s.setArray s.cluster { a with waiting := a.waiting ++ [s.cur] }).onHart fun h => { h with wait := some .lease }

/-- `MREL` (R191). -/
def execMrel (s : State) : Out :=
  issue .mrel s fun s =>
    if resumePending s then s
    else if s.hart.lease.held then (endLease s).retire 4
    else s.retire 4

/-- A count brought into 1–256 (R195). -/
def clampCount (w : Word) : BitVec 9 := BitVec.ofNat 9 (min (max w.toNat 1) 256)

/-- `MVC` (R195). Log entry 52. -/
def execMvc (a b : Reg) (s : State) : Out :=
  issue (.mvc a b) s fun s =>
    if resumePending s then s
    else if !s.hart.lease.held then trapHere ⟨exLease, (Instr.mvc a b).tval⟩ s
    else (s.onHart fun h => { h with lease := { h.lease with rows := clampCount (s.g a), cols := clampCount (s.g b) } }).retire 4

/-- LEASE_GRANT (R189): the first waiting core counting upward from the one after the last grantee; it is the last grantee from now on, even where an
interrupt withdraws the grant. Log entry 71. -/
def execLeaseGrant (c : Nat) (s : State) : Out :=
  let a := s.array c
  if a.holder.isSome || !a.resumes.isEmpty then .next s
  else match ((List.range 16).map fun k => c * 16 + (a.last + 1 + k) % 16).find? fun n => a.waiting.contains n with
  | none => .next s
  | some n =>
    let s := s.setArray c { a with last := n % 16, holder := some n, waiting := a.waiting.filter fun m => m != n }
    .next (s.modifyHart n fun h => { h with wait := some .leaseGranted })

/-- RESUME_GRANT (R189, R206): the lowest core whose parked batch waits; its commands enter acceptance order. -/
def execResumeGrant (c : Nat) (s : State) : Out :=
  let a := s.array c
  if a.holder.isSome then .next s
  else match ((List.range 16).map fun k => c * 16 + k).find? fun n => a.resumes.contains n with
  | none => .next s
  | some n =>
    let resumes := a.resumes.filter fun m => m != n
    match a.parks.find? fun p => p.core == n with
    | none => .next (s.setArray c { a with resumes := resumes })
    | some p =>
      let s := s.setArray c { a with
        holder := some n, resumes := resumes, parks := a.parks.filter fun q => q.core != n, queue := a.queue ++ p.cmds }
      .next (s.modifyHart n fun h => { h with
        otl := { h.otl with iss := h.otl.iss + BitVec.ofNat 32 p.cmds.length }
        lease := { h.lease with held := true, park := false, left := p.left, cols := p.cols, rows := p.rows } })

/-! ## Bytes a command touches (R201) -/

/-- The lowest byte of a run whose address breaks its form (R41, R42). -/
def badByte (am : AddrMode) (a n : Nat) : Option Nat :=
  match am with
  | .gl => if a + n ≤ 2 ^ 55 then none else some (max a (2 ^ 55))
  | .lo => if a + n ≤ 2 ^ 19 then none else some (max a (2 ^ 19))
  | .cb => if 2 ^ 23 ≤ a then some a else if a % 2 ^ 19 + n ≤ 2 ^ 19 then none else some ((a / 2 ^ 19 + 1) * 2 ^ 19)
  | .ci => if a + n ≤ 2 ^ 23 then none else some (max a (2 ^ 23))

/-- The candidate with the lowest address. -/
def lowest : List (Nat × Nat) → Option (Nat × Nat)
  | [] => none
  | p :: r =>
    match lowest r with
    | some q => if q.1 < p.1 then some q else some p
    | none => some p

/-- Pages translated for a command: the pages, and those that fail with their cause. -/
def mapPages (s : State) (station : Nat) (part : BitVec 16) (space : BitVec 20) (need : Need) :
    List Nat → (List PageMap × List (Nat × Nat)) × State
  | [] => (([], []), s)
  | p :: r =>
    let (t, s) := translate s station part space (p * 65536)
    let ((ok, bad), s) := mapPages s station part space need r
    match t with
    | none => ((ok, (p, exPage) :: bad), s)
    | some t =>
      if grants t.entry need then
        ((⟨p, t.place, keyOk s part (pteKey t.entry) (p * 65536) && tierOk s t.place 65536, t.entry⟩ :: ok, bad), s)
      else ((ok, (p, exPerm) :: bad), s)

/-- The failing bytes of the runs (start, length) of the current core, each with its exception, and the pages that serve the others (R201). -/
def findRuns (s : State) (am : AddrMode) (need : Need) (runs : List (Nat × Nat)) : (List (Nat × Nat) × List PageMap) × State :=
  let forms := runs.filterMap fun r => (badByte am r.1 r.2).map fun b => (b, exAddress)
  match am with
  | .gl =>
    let parts := (runs.map fun r => (r.1, min r.2 (2 ^ 55 - r.1))).flatMap fun r => runsOf r.1 r.2
    let ((ok, bad), s) := mapPages s (homeSlice s.cluster) s.part s.hart.spid need (parts.map fun r => r.1 / 65536).eraseDups
    let faults := parts.filterMap fun r => (bad.find? fun b => b.1 == r.1 / 65536).map fun b => (r.1, b.2)
    ((forms ++ faults, ok), s)
  | _ => ((forms, []), s)

/-- The pages, or the exception of the lowest failing byte (R201). Log entry 67. -/
def lowestFault (x : (List (Nat × Nat) × List PageMap) × State) : Except Exc (List PageMap) × State :=
  (match lowest x.1.1 with
    | some (b, code) => .error ⟨code, BitVec.ofNat 64 b⟩
    | none => .ok x.1.2, x.2)

/-- Step 5 of R201 for one set of runs. -/
def touchRuns (s : State) (am : AddrMode) (need : Need) (runs : List (Nat × Nat)) : Except Exc (List PageMap) × State :=
  lowestFault (findRuns s am need runs)

/-- The segments of an accepted command's access under the translations found at acceptance; a page that reports an error serves none of them (R364). -/
def cmdSegs (s : State) (c : Command) (am : AddrMode) (a n : Nat) : List Seg :=
  match am with
  | .gl => (runsOf a n).filterMap fun r =>
      (c.pages.find? fun p => p.page == r.1 / 65536).map fun p =>
        ⟨p.place + r.1 % 65536, r.2, p.ok && tierOk s (p.place + r.1 % 65536) r.2, p.entry⟩
  | am => localSegs c.core am a n

/-- The bytes of segments as a party of sector `sec` reads them; those of a segment whose data is uncorrectable are free values. -/
def readParts (sec : Nat) : List Seg → State → List Byte × State
  | [], s => ([], s)
  | g :: r, s =>
    let (bs, s) := if g.ok then (readSegs s sec [g], s) else s.freeBytes g.len
    let (l, s) := readParts sec r s
    (bs ++ l, s)

/-- An accepted command reads what the commands before it have written (R192). Bytes that come with an uncorrectable error, behind a refused key or
from a page that reports an error, are free values reported through ERR; the others are as they stand (R201, R364, R406). -/
def cmdRead (s : State) (c : Command) (am : AddrMode) (a n : Nat) : List Byte × State :=
  let l := cmdSegs s c am a n
  let cluster := clusterOf c.core
  let (bs, s) := readParts (sectorOf cluster) l (settleBy (fun n => clusterOf n == cluster) (sectorOf cluster) l s)
  (bs, if l.all Seg.ok then s else raise s c.core irqErr)

/-- An accepted command writes; what the core's streams have read ahead of those bytes is discarded (R178, R203). -/
def cmdWrite (s : State) (c : Command) (am : AddrMode) (a : Nat) (bs : List Byte) : State :=
  let l := cmdSegs s c am a bs.length
  let s := dropMeetingOf (writeSegs s c.core l bs) c.core (segRuns l)
  if l.all Seg.ok then s else raise s c.core irqErr

/-- A row address modulo 2⁶⁴. -/
def rowAddr (base pitch : Word) (r : Nat) : Nat := (base + BitVec.ofNat 64 r * pitch).toNat

/-- Bytes of `n` elements of a type, rounded up. -/
def elemBytes (t : ElemType) (n : Nat) : Nat := (n * t.elemBits + 7) / 8

/-- Bytes of a whole row (R184). -/
def rowBytes (t : ElemType) : Nat := 32 * t.elemBits

/-- The runs of bytes a load reads (R196). -/
def loadRuns (k : LoadKind) (ty : ElemType) (scl : Bool) (base pitch : Word) (rows cols : Nat) : List (Nat × Nat) :=
  let blocks := (cols + 15) / 16
  match k with
  | .mldt =>
    ((List.range cols).map fun c => (rowAddr base pitch c, elemBytes ty rows))
      ++ (if scl then (List.range blocks).map fun b => (rowAddr base pitch (256 + b), rows) else [])
  | _ =>
    ((List.range rows).map fun r => (rowAddr base pitch r, elemBytes ty cols))
      ++ (if scl then (List.range rows).map fun r => ((rowAddr base pitch r + rowBytes ty) % 2 ^ 64, blocks) else [])

def outElem : OutType → ElemType
  | .i8 => .i8 | .i32 => .i32 | .f32 => .f32 | .bf16 => .bf16 | .f16 => .f16 | .dm8 => .dm8 | .e4m3 => .e4m3

/-- The runs of bytes MST writes (R200). -/
def storeRuns (ot : OutType) (scl : Bool) (base pitch : Word) (rows cols : Nat) : List (Nat × Nat) :=
  let t := outElem ot
  ((List.range rows).map fun r => (rowAddr base pitch r, elemBytes t cols))
    ++ (if scl then (List.range rows).map fun r => ((rowAddr base pitch r + rowBytes t) % 2 ^ 64, (cols + 15) / 16) else [])

/-! ## Acceptance (R192, R201) -/

/-- A slot or tile as the ownership check names it. -/
inductive Named where
  | tile (t : Nat)
  | slot (n : Nat)
  deriving DecidableEq, Repr

def Named.number : Named → Nat | .tile t => t | .slot n => n
def ownsNamed (s : State) : Named → Bool | .tile t => ownsTile s t | .slot n => ownsSlot s n

/-- Step 3 of R201. -/
def ownExc (s : State) (l : List Named) : Option Exc :=
  (l.find? fun n => !ownsNamed s n).map fun n => ⟨exAccess, BitVec.ofNat 64 n.number⟩

/-- Step 4 of R201: a base or pitch that is no multiple of 64. -/
def alignExc (base pitch : Word) : Option Exc :=
  if base.toNat % 64 ≠ 0 then some ⟨exMisalign, base⟩ else if pitch.toNat % 64 ≠ 0 then some ⟨exMisalign, pitch⟩ else none

/-- A command is accepted: it takes a copy of LVC and its place in acceptance order and counts in OTL (R192, R195, R202). -/
def acceptCommand (s : State) (op : CmdOp) (rows cols : Nat) (pages : List PageMap) : State :=
  let a := s.array s.cluster
  let s := s.setArray s.cluster { a with nextId := a.nextId + 1, queue := a.queue ++ [⟨a.nextId, s.cur, op, rows, cols, pages, false⟩] }
  s.onHart fun h => { h with otl := h.otl.issue }

/-- One unit of LEFT is consumed; the lease ends at 0 (R189). -/
def consumeLeft (s : State) : State :=
  let s := s.onHart fun h => { h with lease := { h.lease with left := h.lease.left - 1 } }
  if s.hart.lease.left = 0 then endLease s else s

/-- What a lease command asks at issue: its prefix check, the exceptions of steps 3 and 4, the bytes of step 5 and its operation. -/
structure Lease where
  fits : Bool
  step3 : Option Exc
  step4 : Option Exc
  am   : AddrMode
  need : Need
  runs : List (Nat × Nat)
  op   : CmdOp
  rows : Nat
  cols : Nat

/-- A lease command cannot be issued: no lease is held, or no command of it is left (R124, R201). Log entry 52. -/
def noLease (h : Hart) : Bool := !h.lease.held || h.lease.left == 0

/-- A lease command at issue (R201). Log entry 52. -/
def leaseCommand (i : Instr) (l : State → Lease) (s : State) : Out :=
  issue i s fun s =>
    let c := l s
    if !c.fits then illegal i s
    else if resumePending s then s
    else if noLease s.hart then trapHere ⟨exLease, i.tval⟩ s
    else match c.step3, c.step4 with
    | some e, _ => trapHere e s
    | none, some e => trapHere e s
    | none, none =>
      match touchRuns s c.am c.need c.runs with
      | (.error e, s) => trapHere e s
      | (.ok pages, s) => (consumeLeft (acceptCommand s c.op c.rows c.cols pages)).retire 4

/-- Valid counts (R195). -/
def State.rows (s : State) : Nat := s.hart.lease.rows.toNat
def State.cols (s : State) : Nat := s.hart.lease.cols.toNat

/-- The load commands (R196). -/
def slotLoad (k : LoadKind) (a b : Reg) (am : AddrMode) (n : Fin 64) (s : State) : Lease :=
  let p := prefixOf s.hart.tsw
  { fits := loadAccepts p n
    step3 := ownExc s ((slotPair p.aty n).map .slot)
    step4 := alignExc (s.g a) (s.g b)
    am := am
    need := needR
    runs := loadRuns k p.aty (p.scl == 1) (s.g a) (s.g b) s.rows s.cols
    op := .load k p.aty (p.scl == 1) n (s.g a) (s.g b) am
    rows := s.rows
    cols := s.cols }

def execMld (a b : Reg) (am : AddrMode) (nt : Bool) (slot : Fin 64) (s : State) : Out :=
  leaseCommand (.mld a b am nt slot) (slotLoad .mld a b am slot) s
def execMldt (a b : Reg) (am : AddrMode) (nt : Bool) (slot : Fin 64) (s : State) : Out :=
  leaseCommand (.mldt a b am nt slot) (slotLoad .mldt a b am slot) s
def execMlds (a b : Reg) (am : AddrMode) (nt : Bool) (slot : Fin 64) (s : State) : Out :=
  leaseCommand (.mlds a b am nt slot) (slotLoad .mlds a b am slot) s

/-- `MST` (R200). -/
def execMst (ot : OutType) (a b : Reg) (am : AddrMode) (nt : Bool) (t : Fin 16) (s : State) : Out :=
  leaseCommand (.mst ot a b am nt t) (fun s =>
    let p := prefixOf s.hart.tsw
    { fits := storeAccepts p ot
      step3 := ownExc s [.tile t]
      step4 := alignExc (s.g a) (s.g b)
      am := am
      need := needW
      runs := storeRuns ot (p.scl == 1) (s.g a) (s.g b) s.rows s.cols
      op := .store ot (p.scl == 1) t (s.g a) (s.g b) am
      rows := s.rows
      cols := s.cols }) s

/-- `MZERO` (R197). -/
def execMzero (t : Fin 16) (s : State) : Out :=
  leaseCommand (.mzero t) (fun s =>
    ⟨true, ownExc s [.tile t], none, .lo, needR, [], .zero t, s.rows, s.cols⟩) s

/-- `MMA` (R198). -/
def execMma (t : Fin 16) (sa sb : Fin 64) (s : State) : Out :=
  leaseCommand (.mma t sa sb) (fun s =>
    let p := prefixOf s.hart.tsw
    ⟨mulAccepts p sa sb, ownExc s (.tile t :: (slotPair p.aty sa ++ slotPair p.bty sb).map .slot), none, .lo, needR, [],
      .mul p.aty p.bty (if p.cty = 4 then .i32 else .f32) (ScaleMode.ofCode p.scl) p.sp t sa sb, s.rows, s.cols⟩) s

/-! ## Slots (R184, R196) -/

/-- A zero pattern (R196). -/
def isZeroElem (t : ElemType) (x : Nat) : Bool :=
  match t with
  | .e4m3 => x % 128 == 0
  | .e2m3 => x % 32 == 0
  | .e2m1 => x % 8 == 0
  | .bf16 => x % 32768 == 0
  | _ => x == 0

/-- Rows as numbers, each from one run of bytes. -/
def readRows (s : State) (c : Command) (am : AddrMode) : List (Nat × Nat) → List Nat × State
  | [] => ([], s)
  | r :: t =>
    let (bs, s) := cmdRead s c am r.1 r.2
    let (l, s) := readRows s c am t
    (leNat bs :: l, s)

/-- Element `i` of a packed row. -/
def elemOf (t : ElemType) (row i : Nat) : Nat := row / 2 ^ (t.elemBits * i) % 2 ^ t.elemBits

/-- The 256 slot rows of a load, invalid positions 0. -/
def loadedRows (k : LoadKind) (ty : ElemType) (rows cols : Nat) (l : List Nat) : List Nat :=
  (List.range 256).map fun r =>
    if rows ≤ r then 0
    else match k with
    | .mldt => packLanes ty.elemBits (l.map fun x => elemOf ty x r)
    | _ => l.getD r 0 % 2 ^ (ty.elemBits * cols)

/-- The 16 scales of each row: 127 where none applies (R196). -/
def loadedScales (k : LoadKind) (scl : Bool) (rows cols : Nat) (l : List Nat) : List Nat :=
  (List.range 256).flatMap fun r => (List.range 16).map fun b =>
    if !scl || rows ≤ r || cols ≤ 16 * b then 127
    else match k with
    | .mldt => l.getD b 0 / 2 ^ (8 * r) % 256
    | _ => l.getD r 0 / 2 ^ (8 * b) % 256

/-- The 16 group bitmaps of a row. -/
def rowBitmaps (k : LoadKind) (ty : ElemType) (row : Nat) : Nat :=
  match k with
  | .mlds => packLanes 1 ((List.range 256).map fun i => ofBool (!isZeroElem ty (elemOf ty row i)))
  | _ => 2 ^ 256 - 1

/-- The rows of a slot, or of a pair, are written (R184). -/
def writeSlotRows (s : State) (c : Nat) (ty : ElemType) (slot : Nat) (rows : List Nat) : State :=
  (List.range 256).foldl (fun s r =>
    let x := rows.getD r 0
    match ty.elemBits with
    | 4 => { s with mem := s.mem.write (slotPlace c slot r) (toBytes 128 x) }
    | 16 =>
      let m := s.mem.write (slotPlace c slot r) (toBytes 256 x)
      { s with mem := m.write (slotPlace c (slot + 1) r) (toBytes 256 (x / 2 ^ 2048)) }
    | _ => { s with mem := s.mem.write (slotPlace c slot r) (toBytes 256 x) }) s

/-- The side store of a slot is written. Log entry 64. -/
def writeSide (c slot : Nat) (scales maps : List Nat) (s : State) : State :=
  let m := s.mem.write (scalePlace c slot 0) (scales.map fun x => BitVec.ofNat 8 x)
  { s with mem := m.write (bitmapPlace c slot 0) (maps.flatMap fun x => toBytes 32 x) }

/-- A load is performed (R196). Both slots of a bf16 pair get the pair's side store. Log entry 64. -/
def performLoad (s : State) (n : Nat) (c : Command) (k : LoadKind) (ty : ElemType) (scl : Bool) (slot : Nat) (base pitch : Word)
    (am : AddrMode) : State :=
  let runs := loadRuns k ty false base pitch c.rows c.cols
  let sruns := (loadRuns k ty scl base pitch c.rows c.cols).drop runs.length
  let (l, s) := readRows s c am runs
  let (sl, s) := readRows s c am sruns
  let rows := loadedRows k ty c.rows c.cols l
  let scales := loadedScales k scl c.rows c.cols sl
  let maps := rows.map (rowBitmaps k ty)
  (slotPair ty slot).foldl (fun s n' => writeSide n n' scales maps s) (writeSlotRows s n ty slot rows)

/-! ## Multiplying (R93–R95, R185, R198, R199) -/

/-- Row `r` of an operand as a number. -/
def slotRow (s : State) (c : Nat) (ty : ElemType) (slot r : Nat) : Nat :=
  leNat (s.mem.readN (slotPlace c slot r) (min 256 (rowBytes ty)))
    + (if ty = .bf16 then 2 ^ 2048 * leNat (s.mem.readN (slotPlace c (slot + 1) r) 256) else 0)

/-- The group bitmaps of a row, 256 bits (R184). -/
def slotBitmap (s : State) (c slot r : Nat) : Nat := leNat (s.mem.readN (bitmapPlace c slot r) 32)

/-- The scale codes of a row. -/
def slotScales (s : State) (c slot r : Nat) : List Nat := (s.mem.readN (scalePlace c slot r) 16).map BitVec.toNat

/-- The elements of a row, none where absent (R185). -/
def operandRow (s : State) (c : Nat) (ty : ElemType) (slot r : Nat) : List (Option Nat) :=
  let x := slotRow s c ty slot r
  let m := slotBitmap s c slot r
  (List.range 256).map fun i => if m.testBit i then some (elemOf ty x i) else none

/-- What a group of 16 products comes to before rounding (R93, R94). -/
structure Group where
  nan : Bool
  pos : Bool
  neg : Bool
  sum : Int
  exp : Int

/-- A product joins the group. -/
def Group.add (g : Group) (a b : FVal) : Group :=
  if a.isNan || b.isNan then { g with nan := true }
  else match mulExact a b with
  | none => { g with nan := true }
  | some (.inf s) => if s then { g with neg := true } else { g with pos := true }
  | some (.fin s m e) =>
    let k := min g.exp e
    let x : Int := g.sum * (2 ^ (g.exp - k).toNat : Nat) + (if s then -1 else 1) * (m * 2 ^ (e - k).toNat : Nat)
    { g with sum := x, exp := k }
  | some (.nan _) => { g with nan := true }

/-- The rounded group value p (R93, R94). -/
def Group.value (g : Group) (ca cb : Nat) : FVal :=
  if g.nan || ca == 255 || cb == 255 || (g.pos && g.neg) then fnan
  else if g.pos then .inf false
  else if g.neg then .inf true
  else f32 (fmtF32.round .rne (decide (g.sum < 0)) g.sum.natAbs 1 (g.exp + (ca : Int) - 127 + (cb : Int) - 127)).1

/-- One f32 output (R93): 16 groups in ascending order. -/
def matSum (aty bty : ElemType) (a b : List (Option Nat)) (sa sb : List Nat) (acc : Nat) : Nat :=
  ((List.range 16).foldl (fun (acc : FVal × Nat) g =>
    let pairs := ((a.drop (16 * g)).take 16).zip ((b.drop (16 * g)).take 16)
    let grp := pairs.foldl (fun (q : Group) p =>
      match p with
      | (some x, some y) => q.add (etValue aty x) (etValue bty y)
      | _ => q) ⟨false, false, false, 0, 0⟩
    let r := (fmtF32.addV .rne acc.1 (grp.value (sa.getD g 127) (sb.getD g 127))).1
    (f32 r, r)) (f32 acc, acc)).2

/-- One i32 output and whether it saturated (R95). -/
def intSum (aty bty : ElemType) (a b : List (Option Nat)) (acc : Nat) : Nat × Bool :=
  let r := (List.range 16).foldl (fun (acc : Int × Bool) g =>
    let pairs := ((a.drop (16 * g)).take 16).zip ((b.drop (16 * g)).take 16)
    let v := pairs.foldl (fun (q : Int) p =>
      match p with
      | (some x, some y) => q + etInt aty x * etInt bty y
      | _ => q) acc.1
    let w := clampInt (-2 ^ 31) (2 ^ 31 - 1) v
    (w, acc.2 || v != w)) (signedOf 32 acc, false)
  (intPattern 32 r.1, r.2)

/-- The valid outputs of a multiply, row by row, from accumulators `acc`; and whether any saturated. Log entry 64. -/
def product (s : State) (c : Nat) (aty bty : ElemType) (cty : AccType) (scl : ScaleMode) (sa sb rows cols : Nat) (acc : Nat → Nat → Nat) :
    List (List Nat) × Bool :=
  let bs := (List.range cols).map fun j => (operandRow s c bty sb j, if scl = .both || scl = .bOnly then slotScales s c sb j else [])
  let out := (List.range rows).map fun i =>
    let a := operandRow s c aty sa i
    let ca := if scl = .both || scl = .aOnly then slotScales s c sa i else []
    (bs.zip (List.range cols)).map fun p =>
      match cty with
      | .f32 => (matSum aty bty a p.1.1 ca p.1.2 (acc i p.2), false)
      | .i32 => intSum aty bty a p.1.1 (acc i p.2)
  (out.map fun r => r.map Prod.fst, out.any fun r => r.any Prod.snd)

/-- The word of a tile. -/
def tileWord (s : State) (c t i j : Nat) : Nat := leNat (s.mem.readN (tilePlace c t i + 4 * j) 4)

/-- Rows of tile words are written from element 0 of each row on. -/
def writeTile (s : State) (c t : Nat) (rows : List (List Nat)) : State :=
  (rows.zip (List.range rows.length)).foldl (fun s p =>
    { s with mem := s.mem.write (tilePlace c t p.2) (p.1.flatMap fun x => toBytes 4 x) }) s

/-- The metadata of a tile set. -/
def setMeta (s : State) (c t : Nat) (m : TileMeta) : State :=
  let a := s.array c
  s.setArray c { a with tileMeta := a.tileMeta.setIfInBounds t m }

/-- Cycles of array work are added (R399). -/
def addCycles (s : State) (c n : Nat) : State :=
  let a := s.array c
  s.setArray c { a with acyc := a.acyc + n }

/-- The group time of dense operands (R199). Log entry 78. -/
def groupTime (aty bty : ElemType) : Nat :=
  let short (t : ElemType) : Bool := t == .e2m3 || t == .e2m1 || t == .i4
  if aty = .bf16 then 64 else if short aty && short bty then 8 else 16

/-- The number of 1 bits. -/
def bitCount (n x : Nat) : Nat := ((List.range n).filter fun i => x.testBit i).length

/-- P(g) (R199): over all pairs of rows. Log entry 78. -/
def maxPairs (s : State) (c sa sb g : Nat) : Nat :=
  let maps (slot : Nat) : List Nat := (List.range 256).map fun r => slotBitmap s c slot r / 2 ^ (16 * g) % 65536
  let bs := (maps sb).eraseDups
  ((maps sa).eraseDups.flatMap fun x => bs.map fun y => bitCount 16 (x &&& y)).foldl max 0

/-- The cycles of an MMA (R199). Log entry 78. -/
def mulCycles (s : State) (c : Nat) (aty bty : ElemType) (sp : Bool) (sa sb : Nat) : Nat :=
  let t := groupTime aty bty
  if sp then ((List.range 16).map fun g => t * max 1 ((maxPairs s c sa sb g + 3) / 4) / 4).sum else 16 * t

def accCode : AccType → BitVec 4 | .i32 => 4 | .f32 => 8

/-- An MMA is performed (R198). -/
def performMul (s : State) (n : Nat) (c : Command) (aty bty : ElemType) (cty : AccType) (scl : ScaleMode) (sp : Bool) (tile sa sb : Nat) :
    State :=
  let (rows, sat) := product s n aty bty cty scl sa sb c.rows c.cols (tileWord s n tile)
  let old := ((s.array n).tileMeta[tile]?.getD ⟨0, false⟩).sat
  addCycles (setMeta (writeTile s n tile rows) n tile ⟨accCode cty, old || sat⟩) n (mulCycles s n aty bty sp sa sb)

/-- MZERO is performed (R197). -/
def performZero (s : State) (n tile : Nat) : State :=
  addCycles (setMeta (writeTile s n tile (List.replicate 256 (List.replicate 256 0))) n tile ⟨0, false⟩) n 16

/-! ## Storing (R200) -/

/-- A tile element as a value under the tile's ET. -/
def tileValue (et : BitVec 4) (x : Nat) : FVal :=
  if et = 8 then f32 x else if et = 4 then etValue .i32 x else fint 0

/-- A tile element converted without scales. -/
def storeElem (et : BitVec 4) (t : ElemType) (x : Nat) : Nat :=
  if et = 8 && t == .f32 then x
  else if et = 4 && t.isInt then (convert t .i32 .rne x).1
  else (etEncode t .rne (tileValue et x)).1

/-- A row of MST with scales: codes and scale bytes, packed as `VPACK` does. -/
def storeBlocks (et : BitVec 4) (t : ElemType) (l : List Nat) : List Nat × List Nat :=
  let blocks := (List.range ((l.length + 15) / 16)).map fun b =>
    packBlock t (((l.drop (16 * b)).take 16).map fun x => (true, tileValue et x))
  (blocks.flatMap fun b => b.1.map Prod.fst, blocks.map Prod.snd)

/-- MST is performed, rows in ascending order (R200). -/
def performStore (s : State) (n : Nat) (c : Command) (ot : OutType) (scl : Bool) (tile : Nat) (base pitch : Word) (am : AddrMode) : State :=
  let t := outElem ot
  let et := ((s.array n).tileMeta[tile]?.getD ⟨0, false⟩).et
  (List.range c.rows).foldl (fun s r =>
    let l := (List.range c.cols).map fun j => tileWord s n tile r j
    let a := rowAddr base pitch r
    if scl then
      let (codes, scales) := storeBlocks et t l
      let s := cmdWrite s c am a (toBytes (elemBytes t c.cols) (packLanes t.elemBits codes))
      cmdWrite s c am ((a + rowBytes t) % 2 ^ 64) (scales.map fun x => BitVec.ofNat 8 x)
    else cmdWrite s c am a (toBytes (elemBytes t c.cols) (packLanes t.elemBits (l.map (storeElem et t))))) s

/-- The cycles a load or MST occupies its port: at least 256, otherwise open (R192, R399). -/
def portCycles (s : State) (c : Nat) : State :=
  let (k, s) := s.draw
  addCycles s c (256 + k)

end Sys2Proof.Machine
end

