-- ==== Sys2Proof/Machine/Ephemeris.lean ====
section
/-! DEFINITION. The Ephemeris (R276–R292), and the steps of the array on accepted commands (R192, R202, R204). -/

namespace Sys2Proof.Machine

/-! ## Step streams (R276–R279, R283) -/

/-- The control word of a live copy (R277). -/
def StepStream.ctl (x : StepStream) : Nat :=
  x.theta.toNat + 2 ^ 16 * x.f.toNat + 2 ^ 24 * x.nbm.toNat + 2 ^ 36 * x.aty.code + 2 ^ 40 * x.bty.code + 2 ^ 44 * ofBool x.ci
    + 2 ^ 45 * ofBool x.scl + 2 ^ 46 * ofBool x.force + 2 ^ 47 * ofBool x.pendf

/-- NB (R277). -/
def StepStream.blocks (x : StepStream) : Nat := x.nbm.toNat + 1

/-- The 576 bytes of a stream record (R276). -/
def StepStream.record (x : StepStream) : List Byte :=
  wordBytes x.sigb ++ wordBytes x.outb ++ wordBytes x.sctr ++ toBytes 8 x.ctl ++ wordBytes x.step ++ toBytes 24 0 ++ toBytes 512 x.map.toNat

/-- The word at byte `o` of a record. -/
def recWord (bs : List Byte) (o : Nat) : Word := BitVec.ofNat 64 (leNat ((bs.drop o).take 8))

/-- The stream a record describes. -/
def StepStream.ofRecord (bs : List Byte) : StepStream :=
  let ctl := recWord bs 24
  { sigb := recWord bs 0, outb := recWord bs 8, sctr := recWord bs 16, theta := BitVec.ofNat 16 (bits ctl 0 16),
    f := BitVec.ofNat 8 (bits ctl 16 8), nbm := BitVec.ofNat 12 (bits ctl 24 12), aty := ElemType.ofCode (bits ctl 36 4),
    bty := ElemType.ofCode (bits ctl 40 4), ci := bit1 ctl 44, scl := bit1 ctl 45, force := bit1 ctl 46, pendf := bit1 ctl 47,
    step := recWord bs 32, map := BitVec.ofNat 4096 (leNat ((bs.drop 64).take 512)) }

/-- The accumulator type of a stream (R277). -/
def StepStream.cty (x : StepStream) : AccType := if x.ci then .i32 else .f32

/-- The reserved fields of a record are zero (R11, R276, R277). -/
def recordClean (bs : List Byte) : Bool := bits (recWord bs 24) 48 16 == 0 && leNat ((bs.drop 40).take 24) == 0

/-- A record `EBIND` accepts (R283). -/
def recordOk (s : State) (bs : List Byte) : Bool :=
  let x := StepStream.ofRecord bs
  let nb := x.blocks
  recordClean bs && x.sigb.toNat % 4096 == 0 && x.outb.toNat % 64 == 0
    && decide (x.sigb.toNat + 4096 * nb ≤ 2 ^ 55) && decide (x.outb.toNat + 262144 * nb ≤ 2 ^ 55)
    && refForm x.sctr && refKind x.sctr != 3 && (refKind x.sctr != 0 || bits x.sctr 0 3 == 0) && refReach s s.part s.userMode x.sctr
    && mulTypes x.aty x.bty x.cty.code (ofBool x.scl) && x.map.toNat / 2 ^ nb == 0

/-- The stream of an Ephemeris command. -/
def CmdOp.stream : CmdOp → Option (Fin 16)
  | .eld e _ _ _ _ _ => some e
  | .emma e _ _ _ _ => some e
  | .esig e _ _ _ _ => some e
  | _ => none

/-- A command of a stream is accepted or parked and has not retired. -/
def streamBusy (a : ArrayUnit) (e : Fin 16) : Bool :=
  (a.queue ++ a.parks.flatMap Park.cmds).any fun c => c.op.stream == some e

def State.stream (s : State) (e : Fin 16) : Option StepStream := (s.array s.cluster).eph[e]

def setStream (s : State) (c : Nat) (e : Fin 16) (x : Option StepStream) : State :=
  let a := s.array c
  s.setArray c { a with eph := a.eph.set e x }

/-- A `.lo` record offset (R236 step 2): `n` bytes, aligned to 64. -/
def recordExc (a : Word) (n : Nat) : Option Exc :=
  if !formOk .lo a.toNat n then some ⟨exAddress, a⟩ else if a.toNat % 64 ≠ 0 then some ⟨exMisalign, a⟩ else none

/-- `EBIND` (R283). -/
def execEbind (e : Fin 16) (a b c : Reg) (s : State) : Out :=
  issue (.ebind e a b c) s fun s =>
    match recordExc (s.g a) 576 with
    | some x => trapHere x s
    | none =>
      let l : List Seg := [⟨localPlace s.cur (s.g a).toNat, 576, true, 0⟩]
      let save (x : StepStream) (s : State) : State := s.store l x.record
      if 2 < (s.g b).toNat then (s.setG c 2).retire 4
      else if streamBusy (s.array s.cluster) e || ownAdd s l then s
      else match (s.g b).toNat, s.stream e with
      | 0, _ =>
        let bs := s.load l
        if recordOk s bs then ((setStream s s.cluster e (some (StepStream.ofRecord bs))).setG c 0).retire 4
        else (s.setG c 2).retire 4
      | _, none => (s.setG c 1).retire 4
      | 1, some x => ((save x s).setG c 0).retire 4
      | _, some x => ((setStream (save x s) s.cluster e none).setG c 0).retire 4

/-- An instruction on a bound stream: ACCESS with the stream number when it is not bound (R282). -/
def onStream (i : Instr) (e : Fin 16) (k : StepStream → State → State) (s : State) : Out :=
  issue i s fun s =>
    match s.stream e with
    | none => trapHere ⟨exAccess, BitVec.ofNat 64 e⟩ s
    | some x => k x s

/-- `EFORCE` (R289). -/
def execEforce (e : Fin 16) (s : State) : Out :=
  onStream (.eforce e) e (fun x s => (setStream s s.cluster e (some { x with pendf := true })).retire 4) s

/-- An ELD of the stream that the core issued has not decided (R287). Log entry 66. -/
def eldOpen (s : State) (e : Fin 16) : Bool :=
  let a := s.array s.cluster
  (a.queue ++ a.parks.flatMap Park.cmds).any fun c => c.core == s.cur && !c.begun && match c.op with
    | .eld f _ _ _ _ _ => f == e
    | _ => false

/-- `EMAP` (R287). -/
def execEmap (e : Fin 16) (a b c : Reg) (s : State) : Out :=
  onStream (.emap e a b c) e (fun x s =>
    if bits (s.g a) 6 58 ≠ 0 then trapHere ⟨exAccess, s.g a⟩ s
    else if eldOpen s e then s
    else ((s.setG b x.step).setG c (BitVec.ofNat 64 (x.map.toNat / 2 ^ (64 * (s.g a).toNat)))).retire 4) s

/-- The end of a step once its commands have retired (R286): the add at the homeroom, FORCE, PENDF and STEP. What streams have read ahead of the step
counter is discarded (R178). -/
def endStep (s : State) (e : Fin 16) (x : StepStream) (c : Reg) (key : Nat) (ok : Bool) : State :=
  let s := if ok then dropMeeting (counterAdd s key 1) [(ctrPlace key, 8)] else raise s s.cur irqErr
  let s := setStream s s.cluster e (some { x with force := x.pendf, pendf := false, step := x.step + 1 })
  (s.setG c (x.step + 1)).retire 4

/-- The commands of a step that have not retired. -/
def stepOpen (a : ArrayUnit) (ids : List Nat) : Bool := (a.queue ++ a.parks.flatMap Park.cmds).any fun c => ids.contains c.id

/-- `ESTEP` (R286). Of the checks of R218 only those of a KIND 00 step counter are made here; the others were made when the stream was bound (R279). -/
def execEstep (e : Fin 16) (c : Reg) (s : State) : Out :=
  onStream (.estep e c) e (fun x s =>
    match s.hart.wait with
    | some (.step ids key ok) => if stepOpen (s.array s.cluster) ids || releaseWaits s then s else endStep s e x c key ok
    | _ =>
      match reachRef s needRW true x.sctr with
      | (.error ex, s) => trapHere ex s
      | (.ok (.tag _), s) => s
      | (.ok (.at key ok _), s) =>
        let ids := ((s.array s.cluster).queue.filter fun q => q.op.stream == some e).map Command.id
        if ids.isEmpty && !releaseWaits s then endStep s e x c key ok
        else s.onHart fun h => { h with wait := some (.step ids key ok) }) s

/-! ## Commands (R284, R285, R288) -/

/-- Bits of a word that must be zero. -/
def anyBits (w : Word) (l : List (Nat × Nat)) : Bool := l.any fun p => bits w p.1 p.2 != 0

/-- The signed row pitch of a descriptor (R284). -/
def descPitch (w : Word) : Word := BitVec.ofInt 64 (signedOf 32 (bits w 32 32))

/-- The address mode of a descriptor. -/
def descAm (w : Word) : AddrMode := AddrMode.ofCode (bits w 24 2)

/-- The failing bytes and the pages of several sets of runs. Log entry 67. -/
def findAll (s : State) : List (AddrMode × Need × List (Nat × Nat)) → (List (Nat × Nat) × List PageMap) × State
  | [] => (([], []), s)
  | (am, need, runs) :: r =>
    let ((bad, ok), s) := findRuns s am need runs
    let ((bad', ok'), s) := findAll s r
    ((bad ++ bad', ok ++ ok'), s)

/-- Step 5 of R201 over every byte of a command: the lowest failing byte of all its sets of runs. Log entry 67. -/
def touchAll (s : State) (l : List (AddrMode × Need × List (Nat × Nat))) : Except Exc (List PageMap) × State := lowestFault (findAll s l)

/-- An Ephemeris command that needs the lease (R282): LEASE, then step 3 (an unbound stream, the descriptor, ownership), steps 4 and 5. -/
def ephCommand (i : Instr) (e : Fin 16) (step3 step4 : StepStream → Option Exc) (runs : StepStream → List (AddrMode × Need × List (Nat × Nat)))
    (op : CmdOp) (s : State) : State :=
  if resumePending s then s
  else if noLease s.hart then trapHere ⟨exLease, i.tval⟩ s
  else match s.stream e with
  | none => trapHere ⟨exAccess, BitVec.ofNat 64 e⟩ s
  | some x =>
    match step3 x, step4 x with
    | some ex, _ => trapHere ex s
    | none, some ex => trapHere ex s
    | none, none =>
      match touchAll s (runs x) with
      | (.error ex, s) => trapHere ex s
      | (.ok pages, s) => (consumeLeft (acceptCommand s op s.rows s.cols pages)).retire 4

/-- The block word's address and the signature bytes of block `b` (R278). -/
def sigAddr (x : StepStream) (b : Nat) : Nat := x.sigb.toNat + 4096 * b

/-- The output cache of block `b` (R278). -/
def outAddr (x : StepStream) (b : Nat) : Nat := x.outb.toNat + 262144 * b

/-- `ELD` (R284). -/
def execEld (e : Fin 16) (a b : Reg) (s : State) : Out :=
  issue (.eld e a b) s fun s =>
    let w := s.g b
    let n := bits w 16 6
    let blk := bits w 0 12
    let pitch := descPitch w
    ephCommand (.eld e a b) e
      (fun x => if anyBits w [(27, 5), (22, 2), (12, 4)] || x.blocks ≤ blk || (x.aty == .bf16 && n % 2 == 1) then some ⟨exAccess, w⟩
        else ownExc s ((slotPair x.aty n).map .slot))
      (fun _ => alignExc (s.g a) pitch)
      (fun x => [(descAm w, needR, loadRuns .mld x.aty x.scl (s.g a) pitch 256 256), (.gl, needRW, [(sigAddr x blk, 2056)])])
      (.eld e blk n (s.g a) pitch (descAm w)) s

/-- `EMMA` (R285). -/
def execEmma (e : Fin 16) (a b : Reg) (s : State) : Out :=
  issue (.emma e a b) s fun s =>
    let blk := bits (s.g a) 0 12
    let w := s.g b
    let t := bits w 12 4
    let sa := bits w 6 6
    let sb := bits w 0 6
    ephCommand (.emma e a b) e
      (fun x =>
        if bits (s.g a) 12 52 ≠ 0 || x.blocks ≤ blk then some ⟨exAccess, s.g a⟩
        else if bits w 16 48 ≠ 0 || ((x.aty == .bf16 || x.bty == .bf16) && (sa % 2 == 1 || sb % 2 == 1)) then some ⟨exAccess, w⟩
        else ownExc s (.tile t :: (slotPair x.aty sa ++ slotPair x.bty sb).map .slot))
      (fun _ => none)
      (fun x => [(.gl, needW, (List.range s.rows).map fun i => (outAddr x blk + 1024 * i, 4 * s.cols))])
      (.emma e blk t sa sb) s

/-- `ESIG` (R288): no lease. -/
def execEsig (e : Fin 16) (a b c : Reg) (s : State) : Out :=
  onStream (.esig e a b c) e (fun x s =>
    let w := s.g b
    let pitch := descPitch w
    let dst := s.g c
    if anyBits w [(27, 5), (0, 24)] then trapHere ⟨exAccess, w⟩ s
    else match alignExc (s.g a) pitch with
    | some ex => trapHere ex s
    | none =>
      if dst.toNat % 64 ≠ 0 then trapHere ⟨exMisalign, dst⟩ s
      else match touchAll s [(descAm w, needR, loadRuns .mld x.aty x.scl (s.g a) pitch 256 256), (.gl, needW, [(dst.toNat, 2048)])] with
      | (.error ex, s) => trapHere ex s
      | (.ok pages, s) => (acceptCommand s (.esig e (s.g a) pitch (descAm w) dst) 256 256 pages).retire 4) s

/-! ## Signatures and decisions (R280, R281) -/

/-- An element's f32 value (R280). -/
def sigElem (t : ElemType) (scale x : Nat) : Nat :=
  let v := etValue t x
  if scale = 255 || v.isNan then fmtF32.nan else (fmtF32.ofVal .rne (v.shift ((scale : Int) - 127))).1

/-- f32 add, rounded to nearest even. -/
def f32Add (a b : Nat) : Nat × Fl := fmtF32.addV .rne (f32 a) (f32 b)

/-- |x| of a pattern; a NaN stays canonical. -/
def f32Abs (a : Nat) : Nat := if (f32 a).isNan then fmtF32.nan else a % 2 ^ 31

/-- |a − b|, rounded. -/
def f32Dist (a b : Nat) : Nat := f32Abs (fmtF32.addV .rne (f32 a) (f32 b).neg).1

/-- The signature of a tile: S and A of each patch (R280). -/
def signature (t : ElemType) (rows scales : List Nat) : List (Nat × Nat) :=
  (List.range 256).map fun p =>
    let xs := (List.range 256).map fun k =>
      let r := 16 * (p / 16) + k / 16
      let c := 16 * (p % 16) + k % 16
      sigElem t (scales.getD (16 * r + p % 16) 127) (elemOf t (rows.getD r 0) c)
    ((pairSum f32Add 8 xs).1, (pairSum f32Add 8 (xs.map f32Abs)).1)

/-- A signature as the 2,048 bytes of a store block (R278). -/
def sigBytes (l : List (Nat × Nat)) : List Byte := l.flatMap fun p => toBytes 4 p.1 ++ toBytes 4 p.2

/-- The signature in a store block. -/
def sigOf (bs : List Byte) : List (Nat × Nat) :=
  (List.range 256).map fun p => (leNat ((bs.drop (8 * p)).take 4), leNat ((bs.drop (8 * p + 4)).take 4))

/-- The distance test (R281): D ≤ T, false for a NaN. -/
def unchanged (theta : BitVec 16) (new old : List (Nat × Nat)) : Bool :=
  let d := (new.zip old).map fun p => (f32Add (f32Dist p.1.1 p.2.1) (f32Dist p.1.2 p.2.2)).1
  let dd := f32 (pairSum f32Add 8 d).1
  let z := f32 (pairSum f32Add 8 (old.map Prod.snd)).1
  let t := f32 (fmtF32.mulV .rne (.fin false theta.toNat (-16)) z).1
  !dd.isNan && !t.isNan && ((dd.cmp t).1 || (dd.cmp t).2)

/-- The block is computed (R281); `w` is its block word. -/
def computes (x : StepStream) (w : Word) (new old : List (Nat × Nat)) : Bool :=
  !bit1 w 63 || x.force
    || (x.f != 0 && decide (x.f.toNat ≤ (x.step.toNat + 2 ^ 32 - bits w 0 32) % 2 ^ 32))
    || !unchanged x.theta new old

/-- The tile of ELD and ESIG as rows and scales (R284, R288). -/
def readTile (s : State) (c : Command) (x : StepStream) (base pitch : Word) (am : AddrMode) : List Nat × List Nat × State :=
  let runs := loadRuns .mld x.aty false base pitch 256 256
  let sruns := (loadRuns .mld x.aty x.scl base pitch 256 256).drop runs.length
  let (l, s) := readRows s c am runs
  let (sl, s) := readRows s c am sruns
  (loadedRows .mld x.aty 256 256 l, loadedScales .mld x.scl 256 256 sl, s)

/-- ELD is performed: the slot is loaded, the tile signed and the block decided in one step (R281, R284). -/
def performEld (s : State) (n : Nat) (c : Command) (e : Fin 16) (blk slot : Nat) (base pitch : Word) (am : AddrMode) : State :=
  match (s.array n).eph[e] with
  | none => s
  | some x =>
    let (rows, scales, s) := readTile s c x base pitch am
    let maps := rows.map (rowBitmaps .mld x.aty)
    let s := (slotPair x.aty slot).foldl (fun s n' => writeSide n n' scales maps s) (writeSlotRows s n x.aty slot rows)
    let new := signature x.aty rows scales
    let (bs, s) := cmdRead s c .gl (sigAddr x blk) 2056
    if computes x (recWord bs 2048) new (sigOf bs) then
      let word := 2 ^ 63 + x.step.toNat % 2 ^ 32
      let s := cmdWrite s c .gl (sigAddr x blk) (sigBytes new ++ toBytes 8 word)
      setStream s n e (some { x with map := x.map &&& ~~~(BitVec.ofNat 4096 (2 ^ blk)) })
    else setStream s n e (some { x with map := x.map ||| BitVec.ofNat 4096 (2 ^ blk) })

/-- EMMA is performed: skipped by the map, or multiplied from zero and written to the output cache; SAT is formed from 0 as well (R285). Log entry
64. -/
def performEmma (s : State) (n : Nat) (c : Command) (e : Fin 16) (blk tile sa sb : Nat) : State :=
  match (s.array n).eph[e] with
  | none => s
  | some x =>
    if x.map.getLsbD blk then addCycles s n 4
    else
      let (rows, sat) := product s n x.aty x.bty x.cty (if x.scl then .both else .none) sa sb c.rows c.cols fun _ _ => 0
      let s := setMeta (writeTile s n tile rows) n tile ⟨accCode x.cty, sat⟩
      let s := (rows.zip (List.range rows.length)).foldl
        (fun s p => cmdWrite s c .gl (outAddr x blk + 1024 * p.2) (p.1.flatMap fun v => toBytes 4 v)) s
      addCycles s n (16 + mulCycles s n x.aty x.bty false sa sb)

/-- ESIG is performed (R288). -/
def performEsig (s : State) (n : Nat) (c : Command) (e : Fin 16) (base pitch : Word) (am : AddrMode) (dst : Word) : State :=
  match (s.array n).eph[e] with
  | none => s
  | some x =>
    let (rows, scales, s) := readTile s c x base pitch am
    cmdWrite s c .gl dst.toNat (sigBytes (signature x.aty rows scales))

/-! ## Steps of the array -/

/-- What a command does (R196–R200, R284, R285, R288). Log entry 65. -/
def perform (s : State) (n : Nat) (c : Command) : State :=
  match c.op with
  | .load k ty scl slot base pitch am => portCycles (performLoad s n c k ty scl slot base pitch am) n
  | .store ot scl tile base pitch am => portCycles (performStore s n c ot scl tile base pitch am) n
  | .zero tile => performZero s n tile
  | .mul aty bty cty scl sp tile sa sb => performMul s n c aty bty cty scl sp tile sa sb
  | .eld e blk slot base pitch am => portCycles (performEld s n c e blk slot base pitch am) n
  | .emma e blk tile sa sb => performEmma s n c e blk tile sa sb
  | .esig e base pitch am dst => portCycles (performEsig s n c e base pitch am dst) n

/-- A core's replicated writes and adds are performed: what a command of the core must see (R203, R312). -/
def coreSettled (s : State) (n : Nat) : Bool := !(s.repl.any fun w => w.core == n) && !(s.adds.any fun a => a.core == n)

/-- ARRAY_COMMAND_BEGIN (R192): command k begins once every command before it has; its effect is one step. Log entry 65. -/
def execArrayCommandBegin (c k : Nat) (s : State) : Out :=
  let a := s.array c
  match a.queue[k]? with
  | none => .next s
  | some q =>
    if q.begun || !(a.queue.take k).all Command.begun || !coreSettled s q.core then .next s
    else
      let s := s.setArray c { a with queue := a.queue.set k { q with begun := true } }
      .next (perform s c q)

/-- TILE_COMMAND_RETIRE (R202): a command that has been performed retires. Log entry 65. -/
def execTileCommandRetire (c k : Nat) (s : State) : Out :=
  let a := s.array c
  match a.queue[k]? with
  | none => .next s
  | some q =>
    if !q.begun || s.repl.any (fun w => w.core == q.core) then .next s
    else
      let s := s.setArray c { a with
        queue := a.queue.eraseIdx k
        rdv := a.rdv.map fun r => (r.1, r.2.filter fun i => i != q.id) }
      .next (s.modifyHart q.core fun h => { h with otl := h.otl.retire })

/-- ARRAY_RDV_ADD (R204): the commands before a FORK.mb have retired. -/
def execArrayRdvAdd (c k : Nat) (s : State) : Out :=
  let a := s.array c
  match a.rdv[k]? with
  | some (n, []) =>
    let s := s.setArray c { a with rdv := a.rdv.eraseIdx k }
    .next (s.modifyHart n fun h => { h with rdv := h.rdv + 1 })
  | _ => .next s

end Sys2Proof.Machine
end

