-- ==== Sys2Proof/Machine/Copy.lean ====
section
/-! DEFINITION. Fault records (R361), the usage block (R399, R400), sending link messages (R386, R391), and the block-transfer engines
(R235–R251). -/

namespace Sys2Proof.Machine

/-! ## Fault records (R360, R361) -/

/-- The next number of a key. -/
def bump (l : List (Nat × Nat)) (k : Nat) : List (Nat × Nat) := insertA l k (lookupD l k 0 + 1)

/-- A fault record is written into the owner's ring: the ring and its sequence number, or none where the ring is full (R361). -/
def postFault (s : State) (part : BitVec 16) (unit serving : Nat) (x : Suspension) (off who : Nat) : Option (Nat × Nat) × State :=
  let m := ownerOf s part x.space x.va.toNat
  if 1024 ≤ (s.faults.filter fun r => r.slice == m).length then (none, s)
  else
    let seq := lookupD s.faultSeq m 0
    let words : List Word := [BitVec.ofNat 64 (unit + 16 * serving + 2 ^ 32 * seq), x.va, x.space.setWidth 64,
      BitVec.ofNat 64 (x.kind + 256 * x.cause), BitVec.ofNat 64 off, BitVec.ofNat 64 who]
    (some (m, seq), { s with faults := s.faults ++ [⟨m, seq, words⟩], faultSeq := bump s.faultSeq m })

/-- The service core takes the record of a suspension from its ring. -/
def takeRecord (s : State) (x : Suspension) : State :=
  match x.record with
  | some (m, n) => { s with faults := s.faults.filter fun r => !(r.slice == m && r.seq == n) }
  | none => s

/-- A suspension whose record has been written. -/
def Suspension.posted (x : Suspension) : Bool := x.record.isSome

/-! ## The usage block (R399, R400) -/

/-- The usage counters by number: ACYC, HBMA, HBMF, LINKB, COPYB, QSTAT, LOGW (R399). -/
def usagePlace (p : BitVec 16) (k : Nat) : Nat := descPlace p + 0x100 + 8 * k

/-- The usage of quota q: ACYC, held bytes, LINKB, COPYB. -/
def quotaUse (s : State) (p : BitVec 16) (q : Nat) : Word :=
  match q with
  | 0 => s.counter (usagePlace p 0)
  | 1 => s.counter (usagePlace p 1) - s.counter (usagePlace p 2)
  | 2 => s.counter (usagePlace p 3)
  | _ => s.counter (usagePlace p 4)

/-- Quota q is exhausted (R400). -/
def exhausted (s : State) (d : Descriptor) (q : Nat) : Bool :=
  d.qctl.getLsbD q && reached (quotaUse s d.part q) (d.lim.getD q 0)

/-- The lowest-numbered core of a partition. Log entry 77. -/
def firstCore (p : BitVec 16) : Nat := 16 * (nodeSpan p.toNat).1

/-- QSTAT follows the quotas: a newly exhausted one is reported by SVC on the partition's first core (R400). Log entry 77. -/
def checkQuotas (s : State) (p : BitVec 16) : State :=
  match descOf s p with
  | none => s
  | some d =>
    (List.range 4).foldl (fun s q =>
      let st := s.counter (usagePlace p 5)
      let on := bit1 st q
      if exhausted s d q then
        if on then s else raise (s.writeWord (usagePlace p 5) (st ||| BitVec.ofNat 64 (2 ^ q))) (firstCore p) irqSvc
      else if on then s.writeWord (usagePlace p 5) (st &&& ~~~(BitVec.ofNat 64 (2 ^ q))) else s) s

/-- An amount is added to a usage counter of a partition that has a descriptor. Log entry 77. -/
def addUsage (s : State) (p : BitVec 16) (k : Nat) (x : Nat) : State :=
  match descOf s p with
  | none => s
  | some _ => checkQuotas (counterAdd s (usagePlace p k) (BitVec.ofNat 64 x)) p

/-! ## Sending link messages (R385, R386, R391) -/

/-- The number of the chip (R30). -/
def chipNo (s : State) : BitVec 12 := (s.hartOf 0).chip

/-- The encryption domain of a partition (R398). -/
def domOf (s : State) (p : BitVec 16) : BitVec 6 := match descOf s p with | some d => d.dom | none => 0

/-- The flits of a message (R387). -/
def flitCount (n : Nat) : Nat := (n + 47) / 48

/-- Number n to a chip may be sent: the message 4,096 numbers before it has ended (R391). -/
def mayNumber (l : List OutMsg) (dst : BitVec 12) (n : BitVec 32) : Bool :=
  !l.any fun m => m.dst == dst && m.sseq != n && 4096 ≤ (n - m.sseq).toNat && (n - m.sseq).toNat < 2 ^ 31

/-- A message counts at every send (R399). -/
def countSend (s : State) (m : OutMsg) : State := addUsage s m.part 3 (64 * flitCount m.body.length)

/-- The number of the next message to a chip. -/
def nextNumber (s : State) (dst : BitVec 12) : BitVec 32 := match s.links.next.find? fun p => p.1 == dst with | some p => p.2 | none => 0

/-- A sequenced message is kept and sent, when the window allows (R391). -/
def sendMessage (s : State) (dst : BitVec 12) (part : BitVec 16) (kind : Nat) (chan : BitVec 8) (body : List Byte) (owner : MsgOwner) : State :=
  let n := nextNumber s dst
  let ok := mayNumber s.links.out dst n
  let m : OutMsg := ⟨dst, n, part, domOf s part, kind, chan, body, owner, 0, ok, false⟩
  let s := { s with links := { s.links with
    next := (dst, n + 1) :: s.links.next.filter fun p => p.1 != dst
    out := s.links.out ++ [m] } }
  if ok then countSend s m else s

/-- Messages that waited for the window are sent. -/
def pumpMessages (s : State) : State :=
  s.links.out.foldl (fun s m =>
    if !m.sent && mayNumber s.links.out m.dst m.sseq then
      let s := { s with links := { s.links with out := s.links.out.map fun x => if x = m then { m with sent := true } else x } }
      countSend s m
    else s) s

/-! ## Records (R238–R240, R249) -/

def cmdWord (w : List Word) (k : Nat) : Word := w.getD k 0
def recSrc (w : List Word) : Word := cmdWord w 0
def recDst (w : List Word) : Word := cmdWord w 1
def recAux (w : List Word) : Word := cmdWord w 2
def recCtl (w : List Word) : Word := cmdWord w 3
def recN (w : List Word) (k : Nat) : Nat := if k = 2 then bits (cmdWord w 5) 0 32 else bits (cmdWord w 4) (32 * k) 32
def recAmt (w : List Word) : Nat := bits (cmdWord w 5) 32 32
def recStride (w : List Word) (dst : Bool) (k : Nat) : Int :=
  signedOf 32 (bits (cmdWord w (if dst then 7 else 6)) (32 * (k - 1)) 32)
def recNdim (w : List Word) : Nat := bits (recCtl w) 11 2
def recE (w : List Word) : Nat := 2 ^ bits (recCtl w) 8 3
def recSam (w : List Word) : AddrMode := AddrMode.ofCode (bits (recCtl w) 0 2)
def recDam (w : List Word) : AddrMode := AddrMode.ofCode (bits (recCtl w) 2 2)
def recIam (w : List Word) : AddrMode := AddrMode.ofCode (bits (recCtl w) 4 2)
def recMsk (w : List Word) : Bool := bit1 (recCtl w) 13

/-- The count of dimension k: 1 beyond NDIM (R240). -/
def recCount (w : List Word) (k : Nat) : Nat := if k ≤ recNdim w then recN w k else 1

/-- The indexed commands. -/
def CopyOp.indexed : CopyOp → Bool | .gath | .scat => true | _ => false

/-- The number of elements (R241). -/
def elements (op : CopyOp) (w : List Word) : Nat :=
  if op.indexed then recN w 0 else recCount w 0 * recCount w 1 * recCount w 2

/-- The subscriptions. -/
def CopyOp.ring : CopyOp → Bool | .sub | .pub => true | _ => false

def ringTb (w : List Word) : Nat := bits (cmdWord w 3) 0 32
def ringQ (w : List Word) : Nat := bits (cmdWord w 3) 32 32
def ringNt (w : List Word) : Nat := (cmdWord w 4).toNat
def ringGam (w : List Word) : AddrMode := AddrMode.ofCode (bits (cmdWord w 7) 0 2)

/-- The nominal byte count (R241, R250). -/
def nominal (op : CopyOp) (w : List Word) : Nat := if op.ring then ringNt w * ringTb w else elements op w * recE w

/-- The amount added at completion (R245, R250). -/
def amount (op : CopyOp) (w : List Word) : Nat := if op.ring then nominal op w else if recAmt w = 0 then nominal op w else recAmt w

/-- Bytes of an address mode (R41). Log entry 54. -/
def modeLimit : AddrMode → Nat | .gl => 2 ^ 55 | .lo => 2 ^ 19 | _ => 2 ^ 23

/-- The lowest and highest byte of a range lie within the mode (R240). -/
def rangeForm (am : AddrMode) (lo hi : Int) : Bool := decide (0 ≤ lo) && decide (hi < modeLimit am)

/-- The range of element addresses (R240). -/
def rangeOk (w : List Word) (am : AddrMode) (base : Word) (dst : Bool) : Bool :=
  let ext (k : Nat) : Int := if k ≤ recNdim w then recStride w dst k * ((recN w k : Int) - 1) else 0
  let lo := (base.toNat : Int) + min (ext 1) 0 + min (ext 2) 0
  let hi := (base.toNat : Int) + ((recN w 0 : Int) - 1) * recE w + max (ext 1) 0 + max (ext 2) 0 + recE w - 1
  rangeForm am lo hi

/-- A plain range of `n` bytes; an empty one is allowed. -/
def spanOk (am : AddrMode) (a : Word) (n : Nat) : Bool := n == 0 || rangeForm am a.toNat ((a.toNat : Int) + n - 1)

/-- Counts and strides beyond NDIM are zero (R240). -/
def dimsOk (w : List Word) : Bool :=
  (List.range 3).all fun k => k ≤ recNdim w || (recN w k == 0 && recStride w false k == 0 && recStride w true k == 0)

def multiple (e : Nat) (x : Word) : Bool := x.toNat % e == 0

/-- The record of a copy command passes R240; `chip` is this chip. -/
def recordFits (op : CopyOp) (w : List Word) (chip : BitVec 12) : Bool :=
  let e := recE w
  let c := recCtl w
  let n := elements op w
  let here := bits (recAux w) 0 12 == chip.toNat
  let plain := bits c 4 2 == 0 && !recMsk w
  let strides := (recStride w false 1 % e == 0) && (recStride w false 2 % e == 0) && (recStride w true 1 % e == 0) && (recStride w true 2 % e == 0)
  let common := bits c 14 50 == 0 && recNdim w != 3 && bits c 8 3 != 7
  common && match op with
  | .copy =>
    plain && recAux w == 0 && dimsOk w && strides && multiple e (recSrc w) && multiple e (recDst w)
      && (n == 0 || (rangeOk w (recSam w) (recSrc w) false && rangeOk w (recDam w) (recDst w) true))
  | .fill =>
    plain && recSrc w == 0 && cmdWord w 6 == 0 && dimsOk w && strides && multiple e (recDst w)
      && (n == 0 || rangeOk w (recDam w) (recDst w) true)
  | .put | .get =>
    plain && bits (recAux w) 12 52 == 0 && dimsOk w && strides && multiple e (recSrc w) && multiple e (recDst w)
      && (if op = .put then recDam w == .gl else recSam w == .gl)
      && (n == 0 || (((op == .get && !here) || rangeOk w (recSam w) (recSrc w) false)
        && ((op == .put && !here) || rangeOk w (recDam w) (recDst w) true)))
  | .gath | .scat =>
    let x := recN w 1
    recNdim w == 0 && recN w 2 == 0 && multiple e (recSrc w) && multiple e (recDst w) && multiple (max e 4) (recAux w)
      && (op != .scat || cmdWord w 6 == 0)
      && (!recMsk w || (multiple e (cmdWord w 7) && spanOk (recDam w) (cmdWord w 7) ((n + 7) / 8)))
      && spanOk (recIam w) (recAux w) (4 * n)
      && (if op = .gath then spanOk (recSam w) (recSrc w) (x * e) && spanOk (recDam w) (recDst w) (n * e)
          else spanOk (recSam w) (recSrc w) (n * e) && spanOk (recDam w) (recDst w) (x * e))
  | _ => false

/-- A reference of a ring record (R249): KIND 00, 01 or 10, within reach. Log entry 68. -/
def ringRef (s : State) (r : Word) : Bool :=
  refForm r && refKind r != 3 && (refKind r != 0 || bits r 0 3 == 0) && refReach s s.part s.userMode r

/-- A ring record passes R249. Log entry 68. -/
def ringFits (s : State) (w : List Word) : Bool :=
  let tb := ringTb w
  let q := ringQ w
  let step := (cmdWord w 1).toInt
  let last := ((cmdWord w 0).toNat : Int) + ((ringNt w : Int) - 1) * step
  let tile (a : Int) : Bool := rangeForm (ringGam w) a (a + tb - 1)
  multiple 64 (cmdWord w 0) && multiple 64 (cmdWord w 1) && multiple 64 (cmdWord w 2)
    && tb % 64 == 0 && 64 ≤ tb && tb ≤ 65536 && 1 ≤ q && q ≤ 256 && (cmdWord w 2).toNat + q * tb ≤ 2 ^ 19
    && ringRef s (cmdWord w 5) && ringRef s (cmdWord w 6) && bits (cmdWord w 7) 3 61 == 0
    && (ringNt w == 0 || (tile (cmdWord w 0).toNat && tile last))

/-! ## Issue (R235, R236) -/

/-- The slice that owns the first byte of an operand; the cluster's home slice for local modes, pages outside HBM and pages without a
translation (R235). Log entry 69. -/
def servingOf (s : State) (am : AddrMode) (a : Word) : Nat × State :=
  let home := homeSlice s.cluster
  match am with
  | .gl =>
    match translate s home s.part s.hart.spid a.toNat with
    | (some p, s) => (if p.place < 2 ^ 50 then owningSlice p.place else home, s)
    | (none, s) => (home, s)
  | _ => (home, s)

/-- The operand that chooses the serving BTE (R235). The row of the command decides, also for an XGET that names this chip. Log entry 69. -/
def servingOperand (op : CopyOp) (w : List Word) : AddrMode × Word :=
  match op with
  | .copy | .gath | .put => (recSam w, recSrc w)
  | .scat | .fill | .get => (recDam w, recDst w)
  | .sub | .pub => (ringGam w, cmdWord w 0)

/-- Step 3 of R236: a completion reference that is not zero. -/
def completionExc (s : State) (r : Word) : Option Exc :=
  if r = 0 then none
  else if !refForm r then some ⟨exAddress, r⟩
  else if refKind r = 0 && bits r 0 3 ≠ 0 then some ⟨exMisalign, r⟩
  else if refKind r = 3 || !refReach s s.part s.userMode r then some ⟨exAccess, r⟩
  else none

/-- A snapshot as words. -/
def snapshot (bs : List Byte) : List Word := (List.range 8).map fun k => recWord bs (8 * k)

/-- The tag of a tag word (R236). -/
def tagWord (w : Word) : Option Nat := if bit1 w 6 then some (bits w 0 6) else none

/-- An engine command is sent (R236 step 6). -/
def sendCommand (s : State) (op : CopyOp) (w : List Word) (ref : Word) (tag : Option Nat) (acq rel ord : Bool) (sc : Scope) : State :=
  let (am, a) := servingOperand op w
  let (m, s) := servingOf s am a
  let c : Copy := { id := s.nextCopy, issuer := .core s.cur, slice := m, op := op, words := w, ref := ref, tag := tag, acq := acq, rel := rel,
                    ord := ord, sc := sc, space := s.hart.spid, part := s.part, stage := .fabric, pos := 0, idx := [], off := 0, fatal := none,
                    susp := none }
  let s := { s with copies := s.copies ++ [c], nextCopy := s.nextCopy + 1 }
  s.onHart fun h => { h with
    ocp := h.ocp.issue
    tagt := match tag with | some i => h.tagt.setIfInBounds i (h.tagt[i]?.getD 0 + 1) | none => h.tagt }

/-- A command of major 0x39, XSUB or XPUB (R236). -/
def engineCommand (i : Instr) (op : CopyOp) (a b c : Reg) (acq rel ord : Bool) (sc : Scope) (s : State) : Out :=
  issue i s fun s =>
    match recordExc (s.g a) 64 with
    | some e => trapHere e s
    | none =>
      match completionExc s (s.g b) with
      | some e => trapHere e s
      | none =>
        let l : List Seg := [⟨localPlace s.cur (s.g a).toNat, 64, true, 0⟩]
        if ownAdd s l then s
        else
          let w := snapshot (s.load l)
          if !(if op.ring then ringFits s w else recordFits op w s.hart.chip) then trapHere ⟨exRecord, s.g a⟩ s
          else if 64 ≤ s.hart.ocp.out then s
          else (sendCommand s op w (s.g b) (tagWord (s.g c)) acq rel ord sc).retire 4

def execXcopy (a b c : Reg) (sc : Scope) (acq rel : Bool) (s : State) : Out :=
  engineCommand (.xcopy a b c sc acq rel) .copy a b c acq rel false sc s
def execXgath (a b c : Reg) (sc : Scope) (acq rel : Bool) (s : State) : Out :=
  engineCommand (.xgath a b c sc acq rel) .gath a b c acq rel false sc s
def execXscat (a b c : Reg) (sc : Scope) (acq rel ord : Bool) (s : State) : Out :=
  engineCommand (.xscat a b c sc acq rel ord) .scat a b c acq rel ord sc s
def execXfill (a b c : Reg) (sc : Scope) (acq rel : Bool) (s : State) : Out :=
  engineCommand (.xfill a b c sc acq rel) .fill a b c acq rel false sc s
def execXput (a b c : Reg) (sc : Scope) (acq rel : Bool) (s : State) : Out :=
  engineCommand (.xput a b c sc acq rel) .put a b c acq rel false sc s
def execXget (a b c : Reg) (sc : Scope) (acq rel : Bool) (s : State) : Out :=
  engineCommand (.xget a b c sc acq rel) .get a b c acq rel false sc s
def execXsub (a b c : Reg) (sc : Scope) (s : State) : Out :=
  engineCommand (.xsub a b c sc) .sub a b c false true false sc s
def execXpub (a b c : Reg) (sc : Scope) (s : State) : Out :=
  engineCommand (.xpub a b c sc) .pub a b c false true false sc s

/-! ## Queries (R251) -/

/-- The element up to which a command has written: for XPUT and XGET none of the runs still under way counts (R251). -/
def Copy.reached (c : Copy) : Nat :=
  match c.op with
  | .put | .get => c.idx.foldl (fun m x => Nat.min m x.1) c.pos
  | _ => c.pos

/-- The byte offset a command has reached. -/
def Copy.offset (c : Copy) : Nat := if c.op.ring then c.pos else c.reached * recE c.words

/-- A query word. -/
def queryWord (st cause off : Nat) : Word := BitVec.ofNat 64 (st * 2 ^ 62 + cause * 2 ^ 48 + off % 2 ^ 48)

/-- The query word of a command that has not ended, as this chip has seen it. -/
def Copy.query (c : Copy) : Word :=
  match c.susp with
  | some x => queryWord 2 x.cause c.off
  | none => queryWord 1 0 c.offset

/-- The peer's engine has suspended a command of this chip at a page fault: it answers HELD for one of its messages (R248, R389). -/
def peerHeld (s : State) (id : Nat) : Bool := s.links.out.any fun m => m.owner == .copy id && m.held

/-- The query word of a command that has not ended. HELD does not say which fault stopped the peer: CAUSE is a free one of 1 and 2. Log entry 95. -/
def queryOf (s : State) (c : Copy) : Word × State :=
  if c.susp.isNone && peerHeld s c.id then
    let (perm, s) := s.flip
    (queryWord 2 (if perm then 2 else 1) c.offset, s)
  else (c.query, s)

/-- `XQUERY` (R251). -/
def execXquery (a b c : Reg) (s : State) : Out :=
  issue (.xquery a b c) s fun s =>
    let t := bits (s.g a) 0 6
    let n := s.hart.tagt[t]?.getD 0 - s.hart.tagc[t]?.getD 0
    let (q, s) := match s.copies.find? fun x => x.issuer == .core s.cur && x.tag == some t with
      | some x => queryOf s x
      | none => (lookupD s.hart.queries t 0, s)
    ((s.setG b n).setG c q).retire 4

/-! ## Running (R237, R242–R248) -/

/-- The core whose local memory a command names, and that its writes count for. -/
def Copy.core (c : Copy) : Nat := match c.issuer with | .core n => n | .node _ _ _ => Config.cores

def findCopy (s : State) (id : Nat) : Option Copy := s.copies.find? fun c => c.id == id

def setCopy (s : State) (c : Copy) : State := { s with copies := s.copies.map fun x => if x.id = c.id then c else x }

/-- COPY_COMMAND_ACCEPT (R237): the first command in the fabric for slice m enters its queue when a place is free. A command that has started holds its
place until it ends. Log entry 68. -/
def execCopyCommandAccept (m : Nat) (s : State) : Out :=
  if 1024 ≤ (s.copies.filter fun c => c.slice == m && c.stage != .fabric).length then .next s
  else match s.copies.find? fun c => c.slice == m && c.stage == .fabric with
  | some c => .next (setCopy s { c with stage := .queued })
  | none => .next s

/-- What stops an engine: a page fault, or an error it cannot get past. -/
inductive Stop where
  | fault (va kind cause : Nat)
  | err
  deriving DecidableEq, Repr

/-- An engine reads `n` bytes, or stops. -/
def copyRead (s : State) (c : Copy) (am : AddrMode) (a n : Nat) : Except Stop (List Byte) × State :=
  match partyRead s c.slice c.part c.space c.core am a n with
  | (.ok bs, s) => (.ok bs, s)
  | (.fault va k x, s) => (.error (.fault va k x), s)
  | (.err, s) => (.error .err, s)

/-- An engine writes, or stops. -/
def copyWrite (s : State) (c : Copy) (am : AddrMode) (a : Nat) (bs : List Byte) : Option Stop × State :=
  match partyWrite s c.slice c.part c.space c.core am a bs with
  | (.ok _, s) => (none, s)
  | (.fault va k x, s) => (some (.fault va k x), s)
  | (.err, s) => (some .err, s)

/-- The address of element p (R242). -/
def elemAddr (w : List Word) (base : Word) (dst : Bool) (p : Nat) : Nat :=
  let n0 := recCount w 0
  let n1 := recCount w 1
  (base + wordOfInt ((p % n0 * recE w : Nat) + (p / n0 % n1 : Nat) * recStride w dst 1 + (p / n0 / n1 : Nat) * recStride w dst 2)).toNat

/-- A fill pattern of `n` bytes (R242, R243). -/
def pattern (x : Word) (n : Nat) : List Byte := (List.range n).map fun j => BitVec.ofNat 8 (bits x (8 * (j % 8)) 8)

/-- The index of position p, if it has been read. -/
def keptIndex (c : Copy) (p : Nat) : Option Nat := (c.idx.find? fun x => x.1 == p).map (·.2)

/-- The index of position p: kept from before, or read once (R243). -/
def copyIndex (s : State) (c : Copy) (p : Nat) : Except Stop (Nat × Copy) × State :=
  match keptIndex c p with
  | some x => (.ok (x, c), s)
  | none =>
    match copyRead s c (recIam c.words) ((recAux c.words).toNat + 4 * p) 4 with
    | (.ok bs, s) => (.ok (leNat bs, { c with idx := c.idx ++ [(p, leNat bs)] }), s)
    | (.error e, s) => (.error e, s)

/-- An index that names no element (R243). -/
def badIndex (w : List Word) (x : Nat) : Bool := x == 0xFFFFFFFF || recN w 1 ≤ x

/-! ### What a command touches, and whether the order of its accesses can show (R244, R247) -/

/-- Bytes of a mode: those from the first number up to the second. -/
structure Range where
  am : AddrMode
  lo : Int
  hi : Int

/-- The range of elements in dimensions (R240). -/
def dimRange (c : Copy) (am : AddrMode) (base : Word) (dst : Bool) : Range :=
  let w := c.words
  let d (k : Nat) : Int := ((recCount w k : Int) - 1) * recStride w dst k
  let b : Int := base.toNat
  ⟨am, b + min 0 (d 1) + min 0 (d 2), b + recCount w 0 * recE w + max 0 (d 1) + max 0 (d 2)⟩

def plainRange (am : AddrMode) (base : Word) (n : Nat) : Range := ⟨am, base.toNat, (base.toNat : Int) + n⟩

/-- The bytes a command reads. -/
def readRanges (c : Copy) : List Range :=
  let w := c.words
  let list := plainRange (recIam w) (recAux w) (4 * recN w 0)
  match c.op with
  | .gath => [plainRange (recSam w) (recSrc w) (recN w 1 * recE w), list]
  | .scat => [plainRange (recSam w) (recSrc w) (recN w 0 * recE w), list]
  | .fill => []
  | _ => [dimRange c (recSam w) (recSrc w) false]

/-- The bytes a command writes, the mask included. -/
def writeRanges (c : Copy) : List Range :=
  let w := c.words
  let mask := if c.op.indexed && recMsk w then [plainRange (recDam w) (cmdWord w 7) ((recN w 0 + 7) / 8)] else []
  match c.op with
  | .gath => plainRange (recDam w) (recDst w) (recN w 0 * recE w) :: mask
  | .scat => plainRange (recDam w) (recDst w) (recN w 1 * recE w) :: mask
  | _ => [dimRange c (recDam w) (recDst w) true]

/-- The places of the 64 KiB pages of a range of global bytes. -/
def Range.pages (s : State) (c : Copy) (r : Range) : List Nat :=
  (List.range (r.hi.toNat / 65536 + 1 - r.lo.toNat / 65536)).filterMap fun k =>
    let va := (r.lo.toNat / 65536 + k) * 65536
    (walkPath s c.part c.space va).2.map fun x => pagePlace x.1 x.2 va

/-- Two ranges can have a byte of memory in common. Two local modes can name one byte by different addresses (R41), two global pages one frame. -/
def Range.meets (s : State) (c : Copy) (a b : Range) : Bool :=
  if a.am = b.am && a.lo < b.hi && b.lo < a.hi then true
  else match a.am, b.am with
  | .gl, .gl => (a.pages s c).any fun p => (b.pages s c).contains p
  | .gl, _ | _, .gl => false
  | x, y => x != y

/-- Elements of the destination can lie on one another: rows reach into one another (R242). -/
def rowsMeet (c : Copy) : Bool :=
  let w := c.words
  let row : Int := recCount w 0 * recE w
  let d1 : Int := (recStride w true 1).natAbs
  let d2 : Int := (recStride w true 2).natAbs
  let n1 : Int := recCount w 1
  (1 < n1 && d1 < row) || (1 < recCount w 2 && d2 < row + (n1 - 1) * d1)

/-- The order of the command's reads and writes can show in what it leaves, which the manual does not fix (R247). -/
def orderShows (s : State) (c : Copy) : Bool :=
  (c.op == .copy || c.op == .put || c.op == .get) && rowsMeet c
    || ((readRanges c).any fun r => (writeRanges c).any fun w => r.meets s c w)

/-- The granules of an element of 16 bytes or more, or of a scattered one, moved from `a` to `b` (R247): source, destination and length. -/
def granules (e a b : Nat) : List (Nat × Nat × Nat) :=
  if e ≤ 16 then [(a, b, e)] else (List.range (e / 16)).map fun k => (a + 16 * k, b + 16 * k, 16)

/-! ### Elements in sequence -/

/-- A move of granules. -/
def moveGranules (c : Copy) : List (Nat × Nat × Nat) → State → Option Stop × State
  | [], s => (none, s)
  | (a, b, n) :: r, s =>
    match copyRead s c (recSam c.words) a n with
    | (.error e, s) => (some e, s)
    | (.ok bs, s) =>
      match copyWrite s c (recDam c.words) b bs with
      | (some e, s) => (some e, s)
      | (none, s) => moveGranules c r s

/-- Each granule that an earlier position has written already is written again or left, at the engine's choice (R244). Log entry 75. -/
def chooseGranules : List (Nat × Nat × Nat) → State → List (Nat × Nat × Nat) × State
  | [], s => ([], s)
  | g :: r, s =>
    let (skip, s) := s.flip
    let (r, s) := chooseGranules r s
    (if skip then r else g :: r, s)

/-- One element of a command performed on this chip (R242–R244). -/
def copyElem (s : State) (c : Copy) (p : Nat) : Option Stop × Copy × State :=
  let w := c.words
  let e := recE w
  match c.op with
  | .fill =>
    let (r, s) := copyWrite s c (recDam w) (elemAddr w (recDst w) true p) (pattern (recAux w) e)
    (r, c, s)
  | .gath =>
    match copyIndex s c p with
    | (.error x, s) => (some x, c, s)
    | (.ok (x, c), s) =>
      let t := (recDst w).toNat + p * e
      if badIndex w x then
        let (r, s) := copyWrite s c (recDam w) t (pattern (cmdWord w 6) e)
        (r, c, s)
      else
        let (r, s) := moveGranules c (granules e ((recSrc w).toNat + x * e) t) s
        (r, c, s)
  | .scat =>
    match copyIndex s c p with
    | (.error x, s) => (some x, c, s)
    | (.ok (x, c), s) =>
      if badIndex w x then (none, c, s)
      else
        let g := granules e ((recSrc w).toNat + p * e) ((recDst w).toNat + x * e)
        let again := !c.ord && c.idx.any fun q => q.1 < p && q.2 == x
        let (g, s) := if again then chooseGranules g s else (g, s)
        let (r, s) := moveGranules c g s
        (r, c, s)
  | _ =>
    let (r, s) := moveGranules c (granules e (elemAddr w (recSrc w) false p) (elemAddr w (recDst w) true p)) s
    (r, c, s)

/-- The addresses of element p at its source and at its destination, for the commands that lay their elements out in sequence. -/
def srcAddr (c : Copy) (p : Nat) : Nat := elemAddr c.words (recSrc c.words) false p
def dstAddr (c : Copy) (p : Nat) : Nat :=
  if c.op = .gath then (recDst c.words).toNat + p * recE c.words else elemAddr c.words (recDst c.words) true p

/-- Several elements of the command share a granule: they are smaller than 16 bytes and follow one another at their destination (R247). -/
def sharesGranules (c : Copy) : Bool := decide (recE c.words < 16) && c.op != .scat

/-- How many elements from `p` on, at most one more than the fuel and none from `last` on, lie one after the other in the aligned 16 bytes of the first
(R247); `f` gives their addresses, `k` of them are counted already. -/
def groupLen (e : Nat) (f : Nat → Nat) (p last : Nat) : Nat → Nat → Nat
  | 0, k => k
  | n + 1, k => if p + k < last && f (p + k) == f p + k * e && f (p + k) / 16 == f p / 16 then groupLen e f p last n (k + 1) else k

/-- The elements from `p` on that are written with it as one granule. -/
def granuleLen (c : Copy) (p : Nat) : Nat := groupLen (recE c.words) (dstAddr c) p (elements c.op c.words) 15 1

/-- What `k` elements from position `p` on bring (R242, R243), and the command with the indices it has read. -/
def elemsBytes (c : Copy) (p : Nat) : Nat → State → Except Stop (List Byte) × Copy × State
  | 0, s => (.ok [], c, s)
  | k + 1, s =>
    let w := c.words
    let e := recE w
    let (one, c, s) : Except Stop (List Byte) × Copy × State := match c.op with
      | .fill => (.ok (pattern (recAux w) e), c, s)
      | .gath =>
        match copyIndex s c p with
        | (.error x, s) => (.error x, c, s)
        | (.ok (x, c), s) =>
          if badIndex w x then (.ok (pattern (cmdWord w 6) e), c, s)
          else
            let (r, s) := copyRead s c (recSam w) ((recSrc w).toNat + x * e) e
            (r, c, s)
      | _ =>
        let (r, s) := copyRead s c (recSam w) (srcAddr c p) e
        (r, c, s)
    match one with
    | .error x => (.error x, c, s)
    | .ok bs =>
      match elemsBytes c (p + 1) k s with
      | (.ok r, c, s) => (.ok (bs ++ r), c, s)
      | other => other

/-- The elements that share a destination granule from `c.pos` on, `k` of them, are written with it at once: where one cannot be read, none is written
(R247). -/
def copyGranule (s : State) (c : Copy) (k : Nat) : Option Stop × Copy × State :=
  match elemsBytes c c.pos k s with
  | (.error x, c, s) => (some x, c, s)
  | (.ok bs, c, s) =>
    let (r, s) := copyWrite s c (recDam c.words) (dstAddr c c.pos) bs
    (r, c, s)

/-- Elements from `c.pos` on, to the last; the command remembers how far it came. -/
def copyElems : Nat → State → Copy → Option Stop × Copy × State
  | 0, s, c => (none, c, s)
  | n + 1, s, c =>
    if elements c.op c.words ≤ c.pos then (none, c, s)
    else
      let k := if sharesGranules c then granuleLen c c.pos else 1
      match (if sharesGranules c then copyGranule s c k else copyElem s c c.pos) with
      | (none, c, s) => copyElems n s { c with pos := c.pos + k }
      | other => other

/-- The result mask (R243). -/
def copyMask (s : State) (c : Copy) : Option Stop × State :=
  if c.op.indexed && recMsk c.words then
    let n := recN c.words 0
    let m := packLanes 1 ((List.range n).map fun p => ofBool (badIndex c.words ((keptIndex c p).getD 0)))
    copyWrite s c (recDam c.words) (cmdWord c.words 7).toNat (toBytes ((n + 7) / 8) m)
  else (none, s)

/-! ### Elements in an order the manual does not fix (R244, R247) -/

/-- An access that a command still has to make: the index of a position, a granule to read and write, the elements smaller than a granule that lie in
one granule at their source, or one alone, to be read, a granule read and not written, the mask. -/
inductive CopyJob where
  | index (p : Nat)
  | move (p src dst n : Nat)
  | read (p k : Nat)
  | elem (p src : Nat)
  | put (p dst : Nat) (bs : List Byte)
  | mask (p : Nat)
  deriving DecidableEq, Repr

/-- The position a job belongs to. -/
def CopyJob.pos : CopyJob → Nat
  | .index p | .move p _ _ _ | .read p _ | .elem p _ | .put p _ _ | .mask p => p

/-- A destination granule that waits for its elements (R247): the first, their number, and those that have been read. -/
structure Want where
  p   : Nat
  k   : Nat
  got : List (Nat × List Byte)
  deriving DecidableEq, Repr

/-- Elements that have been read reach the granules they belong to. -/
def Want.take (x : Want) (l : List (Nat × List Byte)) : Want := { x with got := x.got ++ l.filter fun y => x.p ≤ y.1 && y.1 < x.p + x.k }

/-- A granule with all its elements is written next. -/
def Want.put (c : Copy) (x : Want) : Option CopyJob :=
  if x.got.length < x.k then none
  else some (.put x.p (dstAddr c x.p) ((List.range x.k).flatMap fun i => ((x.got.find? fun y => y.1 == x.p + i).map (·.2)).getD []))

/-- The groups of elements from `p` on that share a granule by the addresses `f`: first element and number. -/
def groupsFrom (c : Copy) (f : Nat → Nat) : Nat → Nat → List (Nat × Nat)
  | 0, _ => []
  | n + 1, p =>
    if elements c.op c.words ≤ p then []
    else
      let k := groupLen (recE c.words) f p (elements c.op c.words) 15 1
      (p, k) :: groupsFrom c f n (p + k)

/-- The jobs of a granule list. -/
def moveJobs (p : Nat) (l : List (Nat × Nat × Nat)) : List CopyJob := l.map fun g => .move p g.1 g.2.1 g.2.2

/-- The jobs of a command from its position on, in sequence. -/
def jobsOf (c : Copy) : List CopyJob :=
  let w := c.words
  let e := recE w
  let n := elements c.op w
  let l := if c.op.indexed then (List.range (n - c.pos)).map fun k => .index (c.pos + k)
    else if sharesGranules c then (groupsFrom c (srcAddr c) (n - c.pos) c.pos).map fun x => .read x.1 x.2
    else (List.range (n - c.pos)).flatMap fun k => moveJobs (c.pos + k) (granules e (srcAddr c (c.pos + k)) (dstAddr c (c.pos + k)))
  l ++ if c.op.indexed && recMsk w then [.mask n] else []

/-- The granules that elements smaller than one fill at the destination. -/
def wantsOf (c : Copy) : List Want :=
  if sharesGranules c then (groupsFrom c (dstAddr c) (elements c.op c.words - c.pos) c.pos).map fun x => ⟨x.1, x.2, []⟩ else []

/-- What a job leads to: the jobs that follow from it, the elements it has read for granules that wait, and the command with its indices. -/
structure Done where
  jobs : List CopyJob
  got  : List (Nat × List Byte)
  c    : Copy

/-- `k` elements of `e` bytes each from position p on. -/
def splitElems (e p k : Nat) (bs : List Byte) : List (Nat × List Byte) := (List.range k).map fun i => (p + i, (bs.drop (i * e)).take e)

/-- A job is done. -/
def copyJob (s : State) (c : Copy) (j : CopyJob) : Except Stop Done × State :=
  let w := c.words
  let e := recE w
  let read (a n : Nat) (f : List Byte → Done) : Except Stop Done × State :=
    match copyRead s c (recSam w) a n with
    | (.error x, s) => (.error x, s)
    | (.ok bs, s) => (.ok (f bs), s)
  let ended (x : Option Stop × State) : Except Stop Done × State :=
    match x with
    | (some x, s) => (.error x, s)
    | (none, s) => (.ok ⟨[], [], c⟩, s)
  match j with
  | .index p =>
    match copyIndex s c p with
    | (.error x, s) => (.error x, s)
    | (.ok (x, c), s) =>
      let fill := pattern (cmdWord w 6) e
      let gone := badIndex w x
      (.ok (match c.op, sharesGranules c with
        | .gath, true => if gone then ⟨[], [(p, fill)], c⟩ else ⟨[.elem p ((recSrc w).toNat + x * e)], [], c⟩
        | .gath, false => ⟨if gone then [.put p (dstAddr c p) fill] else moveJobs p (granules e ((recSrc w).toNat + x * e) (dstAddr c p)), [], c⟩
        | _, _ => ⟨if gone then [] else moveJobs p (granules e ((recSrc w).toNat + p * e) ((recDst w).toNat + x * e)), [], c⟩), s)
  | .move p a b n => read a n fun bs => ⟨[.put p b bs], [], c⟩
  | .read p k => read (srcAddr c p) (k * e) fun bs => ⟨[], splitElems e p k bs, c⟩
  | .elem p a => read a e fun bs => ⟨[], [(p, bs)], c⟩
  | .put _ b bs => ended (copyWrite s c (recDam w) b bs)
  | .mask _ => ended (copyMask s c)

/-- A job that cannot be taken before the ones of lower positions: under ORD a write to the destination, and the mask (R243, R244). -/
def CopyJob.inTurn (ord : Bool) : CopyJob → Bool
  | .put _ _ _ => ord
  | .mask _ => true
  | _ => false

/-- The lowest position of what is left to do. -/
def lowestLeft (c : Copy) (l : List CopyJob) (ws : List Want) : Nat :=
  (l.map CopyJob.pos ++ ws.map Want.p).foldl Nat.min (elements c.op c.words)

/-- The jobs in an order of the engine's choice; where one cannot be done, the lowest position left and what stopped it. A granule of elements smaller
than it is read and written at one moment each (R247). Log entry 75. -/
def runJobs : Nat → State → Copy → List CopyJob → List Want → Option Stop × Copy × State
  | 0, s, c, _, _ => (none, c, s)
  | n + 1, s, c, l, ws =>
    let (k, s) := s.draw
    let i := k % max 1 l.length
    let i := match l[i]?, l.head? with
      | some j, some h => if j.inTurn c.ord && h.pos < j.pos then 0 else i
      | _, _ => i
    match l[i]? with
    | none => (none, { c with pos := elements c.op c.words }, s)
    | some j =>
      match copyJob s c j with
      | (.error x, s) => (some x, { c with pos := lowestLeft c l ws }, s)
      | (.ok d, s) =>
        let ws := ws.map fun x => x.take d.got
        runJobs n s d.c (l.take i ++ d.jobs ++ ws.filterMap (Want.put c) ++ l.drop (i + 1)) (ws.filter fun x => (Want.put c x).isNone)

/-- Steps enough for every job of a command: an index, five for each granule, the mask. -/
def jobFuel (c : Copy) : Nat := 16 * elements c.op c.words + 4

/-- A command is performed by a peer chip as well (R242). -/
def remote (s : State) (c : Copy) : Bool :=
  (c.op == .put || c.op == .get) && bits (recAux c.words) 0 12 != (chipNo s).toNat

/-- The peer-side address of element p. -/
def peerAddr (c : Copy) (p : Nat) : Nat :=
  if c.op = .put then elemAddr c.words (recDst c.words) true p else elemAddr c.words (recSrc c.words) false p

/-- The elements from p on, at most `n`, whose peer bytes are contiguous and fit one message (R386). -/
def runFrom (c : Copy) (p : Nat) : Nat → Nat → Nat
  | 0, k => k
  | n + 1, k =>
    let e := recE c.words
    if (k + 1) * e ≤ 16368 && peerAddr c (p + k) = peerAddr c p + k * e then runFrom c p n (k + 1) else k

/-- The source bytes of a run of an XPUT. -/
def runBytes (s : State) (c : Copy) (p : Nat) : Nat → Except Stop (List Byte) × State
  | 0 => (.ok [], s)
  | k + 1 =>
    match copyRead s c (recSam c.words) (elemAddr c.words (recSrc c.words) false p) (recE c.words) with
    | (.error e, s) => (.error e, s)
    | (.ok bs, s) =>
      match runBytes s c (p + 1) k with
      | (.ok r, s) => (.ok (bs ++ r), s)
      | (.error e, s) => (.error e, s)

/-- The control word of a WRITE (R386): element size and count. Log entry 70. -/
def writeControl (e n : Nat) : Nat := e + 2 ^ 32 * n

/-- Messages for the elements from `c.pos` on (R386): one WRITE or READ for each run, remembered by its first element and the number of its message. -/
def sendRuns : Nat → State → Copy → Option Stop × Copy × State
  | 0, s, c => (none, c, s)
  | n + 1, s, c =>
    let total := elements c.op c.words
    if total ≤ c.pos then (none, c, s)
    else
      let k := max 1 (runFrom c c.pos (total - c.pos) 0)
      let e := recE c.words
      let dst := BitVec.ofNat 12 (bits (recAux c.words) 0 12)
      let a := peerAddr c c.pos
      let num := (nextNumber s dst).toNat
      let next := { c with pos := c.pos + k, idx := c.idx ++ [(c.pos, num)] }
      if c.op = .put then
        match runBytes s c c.pos k with
        | (.error x, s) => (some x, c, s)
        | (.ok bs, s) =>
          let s := sendMessage s dst c.part 0 0 (toBytes 8 a ++ toBytes 8 (writeControl e k) ++ bs) (.copy c.id)
          sendRuns n s next
      else
        let body := toBytes 8 a ++ toBytes 8 (k * e) ++ toBytes 8 (c.id * 2 ^ 32 + num)
        sendRuns n (sendMessage s dst c.part 1 0 body (.copy c.id)) next

/-- A hart of a core, or nothing for a transfer node. -/
def onIssuer (s : State) (c : Copy) (f : Hart → Hart) : State :=
  match c.issuer with
  | .core n => s.modifyHart n f
  | .node _ _ _ => s

/-- The end of a command: tag, OCP, the kept query word, usage (R245, R248, R251, R399). -/
def retireCopy (s : State) (c : Copy) (q : Word) : State :=
  let s := { s with copies := s.copies.filter fun x => x.id != c.id, roll := s.roll.filter fun e => e.waiter != .copy c.id,
                    wakes := s.wakes.filter fun e => e.waiter != .copy c.id }
  let s := addUsage s c.part 4 (nominal c.op c.words)
  onIssuer s c fun h => { h with
    ocp := h.ocp.retire
    tagc := match c.tag with | some i => h.tagc.setIfInBounds i (h.tagc[i]?.getD 0 + 1) | none => h.tagc
    queries := match c.tag with | some i => insertA h.queries i q | none => h.queries }

/-! ## Engines, graphs, nodes -/

def Engine.reset (p : BitVec 16) : Engine := ⟨p, 0, false, none, [], [], [], [], [], []⟩

def engineOf (s : State) (p : BitVec 16) : Engine :=
  match s.engines.find? fun e => e.part == p with
  | some e => e
  | none => Engine.reset p

def setEngine (s : State) (e : Engine) : State := { s with engines := e :: s.engines.filter fun x => x.part != e.part }

def onEngine (s : State) (p : BitVec 16) (f : Engine → Engine) : State := setEngine s (f (engineOf s p))

def Engine.graph (e : Engine) (slot : Nat) : Option Graph := e.graphs.find? fun g => g.slot == slot

def onGraph (s : State) (p : BitVec 16) (slot : Nat) (f : Graph → Graph) : State :=
  onEngine s p fun e => { e with graphs := e.graphs.map fun g => if g.slot = slot then f g else g }

def onNode (s : State) (p : BitVec 16) (slot node : Nat) (f : GNode → GNode) : State :=
  onGraph s p slot fun g => { g with nodes := g.nodes.modify node f }

/-- The end of a node's command is its node's outcome, which the engine then looks up (R331, R332). -/
def endNode (s : State) (c : Copy) (ok : Bool) : State :=
  match c.issuer with
  | .core _ => s
  | .node p slot node =>
    { onNode s (BitVec.ofNat 16 p) slot node fun n => { n with result := some ok } with
      agenda := s.agenda ++ [.event (.nodeComplete p slot node ok)] }

/-- A fatal end (R248): the completion counter is poisoned where it can be reached; a page fault on it suspends the command first (R430). -/
def endFatal (s : State) (c : Copy) (cause : Nat) : State :=
  let c := { c with fatal := some cause, stage := .moved }
  let finish (s : State) : State := endNode (retireCopy s c (queryWord 3 cause c.off)) c false
  if c.ref = 0 then finish s
  else match partyRef s c.slice c.part c.space needRW c.ref with
  | (.at key, s) => finish (counterPoison s key)
  | (.never _, s) => finish s
  | (.fault va kind x, s) => setCopy s { c with susp := some ⟨BitVec.ofNat 64 va, kind, x, c.space, none⟩ }

/-- The command stops (R248). -/
def stopCopy (s : State) (c : Copy) (x : Stop) : State :=
  match x with
  | .fault va kind cause => setCopy s { c with stage := .begun, off := c.offset, susp := some ⟨BitVec.ofNat 64 va, kind, cause, c.space, none⟩ }
  | .err => endFatal (setCopy s c) c 3

/-- An earlier command of the same issuer for the same BTE has not started (R237). -/
def startsLater (s : State) (c : Copy) : Bool :=
  s.copies.any fun x => x.id < c.id && x.slice == c.slice && x.issuer == c.issuer && (x.stage == .fabric || x.stage == .queued)

/-- Messages of a command have not ended. -/
def inFlight (s : State) (id : Nat) : Bool := s.links.out.any fun m => m.owner == .copy id

/-- The elements of a command that this chip performs. Log entry 75. -/
def runLocal (s : State) (c : Copy) : Option Stop × Copy × State :=
  if orderShows s c then runJobs (jobFuel c) s c (jobsOf c) (wantsOf c)
  else match copyElems (elements c.op c.words - c.pos) s c with
    | (none, c, s) =>
      let (r, s) := copyMask s c
      (r, c, s)
    | other => other

/-- The elements of a command that has started, or its messages. One that goes on after a suspension begins at the suspension offset, with fresh reads
(R248). Log entry 75. -/
def runCopy (s : State) (c : Copy) : State :=
  let far := remote s c
  let c := if far && c.stage == .begun then { c with pos := c.off / recE c.words, idx := [] } else c
  let (r, c, s) := if far then sendRuns (elements c.op c.words - c.pos) s c else runLocal s c
  match r with
  | some x => stopCopy s c x
  | none => setCopy s { c with stage := if far && (inFlight s c.id || !c.idx.isEmpty) then .remote else .moved }

/-- COPY_START (R237, R242–R244, R246): the serving BTE starts a queued command, or goes on with one that has been resumed. -/
def execCopyStart (id : Nat) (s : State) : Out :=
  match findCopy s id with
  | none => .next s
  | some c =>
    if c.susp.isSome || !(c.stage == .queued || (c.stage == .begun && !c.op.ring)) || (c.stage == .queued && startsLater s c)
      || (c.acq && c.stage == .queued && !coreSettled s c.core) || (remote s c && inFlight s id) then .next s
    else if c.op.ring then .next (setCopy s { c with stage := if ringNt c.words = 0 then .moved else .begun })
    else .next (runCopy s c)

/-- Who a copy's fault record names (R361): the core and its tag. A transfer node's command has no issuing core and no tag: 0. Log entry 76. -/
def Copy.faultWho (c : Copy) : Nat :=
  match c.issuer with
  | .core n => n + (match c.tag with | some t => t * 2 ^ 12 + 2 ^ 18 | none => 0)
  | .node _ _ _ => 0

/-- COPY_SUSPEND (R248, R361): the fault record of a suspended command is written; with the ring full it waits. -/
def execCopySuspend (id : Nat) (s : State) : Out :=
  match findCopy s id with
  | some c =>
    match c.susp with
    | some x =>
      if x.posted then .next s
      else
        let (r, s) := postFault s c.part (if c.op.ring then 1 else 0) c.slice x c.off c.faultWho
        .next (setCopy s { c with susp := some { x with record := r } })
    | none => .next s
  | none => .next s

/-- COPY_COMPLETE (R245, R430): a command whose elements are written makes its adds and retires; a fatal end under way is finished. One that is
suspended at its completion counter shows the suspension offset it had before, 0 where it had none. Log entry 76. -/
def execCopyComplete (id : Nat) (s : State) : Out :=
  match findCopy s id with
  | none => .next s
  | some c =>
    if c.stage != .moved || c.susp.isSome || s.repl.any (fun w => w.core == c.core) then .next s
    else match c.fatal with
    | some x => .next (endFatal s c x)
    | none =>
      let finish (s : State) : State := endNode (retireCopy s c (queryWord 0 0 0)) c true
      if c.ref = 0 then .next (finish s)
      else match partyRef s c.slice c.part c.space needRW c.ref with
      | (.at key, s) => .next (finish (counterAdd s key (BitVec.ofNat 64 (amount c.op c.words))))
      | (.never x, s) => .next (endNode (retireCopy s c (queryWord 3 x c.off)) c false)
      | (.fault va kind x, s) => .next (setCopy s { c with susp := some ⟨BitVec.ofNat 64 va, kind, x, c.space, none⟩ })

/-! ## Subscriptions (R250) -/

/-- Pieces of 64 bytes of the current tile. -/
def tilePieces : Nat → State → Copy → Option Stop × Copy × State
  | 0, s, c => (none, c, s)
  | n + 1, s, c =>
    let tb := max 1 (ringTb c.words)
    let i := c.pos / tb
    let o := c.pos % tb
    let slot := (cmdWord c.words 2).toNat + i % max 1 (ringQ c.words) * tb + o
    let tile := (cmdWord c.words 0 + BitVec.ofNat 64 i * cmdWord c.words 1 + BitVec.ofNat 64 o).toNat
    let gam := ringGam c.words
    let (ra, rb) := if c.op = .sub then ((gam, tile), (AddrMode.lo, slot)) else ((.lo, slot), (gam, tile))
    match copyRead s c ra.1 ra.2 64 with
    | (.error x, s) => (some x, c, s)
    | (.ok bs, s) =>
      match copyWrite s c rb.1 rb.2 bs with
      | (some x, s) => (some x, c, s)
      | (none, s) => tilePieces n s { c with pos := c.pos + 64 }

/-- The command suspends at a counter (R250, R430). -/
def suspendAt (s : State) (c : Copy) (va kind cause : Nat) : State :=
  setCopy s { c with off := c.offset, susp := some ⟨BitVec.ofNat 64 va, kind, cause, c.space, none⟩ }

/-- The FILL add of a finished tile (R250). -/
def fillAdd (s : State) (c : Copy) : State :=
  match partyRef s c.slice c.part c.space needRW (cmdWord c.words 5) with
  | (.at key, s) =>
    let done := ringNt c.words * ringTb c.words ≤ c.pos
    setCopy (counterAdd s key 1) { c with idx := [], stage := if done then .moved else .begun }
  | (.never x, s) => endFatal s c x
  | (.fault va kind x, s) => suspendAt s c va kind x

/-- A poisoned DRAIN ends the subscription, and FILL is poisoned with it (R250). Log entry 76. -/
def drainPoisoned (s : State) (c : Copy) : State :=
  match partyRef s c.slice c.part c.space needRW (cmdWord c.words 5) with
  | (.at key, s) => endFatal (counterPoison s key) c 0
  | (.never _, s) => endFatal s c 0
  | (.fault va kind x, s) => suspendAt s c va kind x

/-- The effective scope of a command at a counter: the larger of SC and the reference's default scope, judged from the issuing core (R245, R250). A
node's command is judged from the first cluster of the partition. -/
def copyScope (c : Copy) (key : Nat) : Scope :=
  match c.issuer with
  | .core n => effectiveScope n key (some c.sc)
  | .node p _ _ => effectiveScope (firstCore p) key (some c.sc)

/-- The pieces of a tile, then the FILL add. -/
def moveTile (s : State) (c : Copy) : State :=
  let tb := max 1 (ringTb c.words)
  match tilePieces ((tb - c.pos % tb) / 64) s c with
  | (some x, c, s) => stopCopy s c x
  | (none, c, s) => setCopy s { c with idx := [(0, 1)] }

/-- SUBSCRIPTION_TILE (R250): the wait on DRAIN, one tile, or the FILL add it still owes. -/
def execSubscriptionTile (id : Nat) (s : State) : Out :=
  match findCopy s id with
  | none => .next s
  | some c =>
    if !c.op.ring || c.stage != .begun || c.susp.isSome then .next s
    else if !c.idx.isEmpty then (if s.repl.any (fun w => w.core == c.core) then .next s else .next (fillAdd s c))
    else if c.pos % max 1 (ringTb c.words) ≠ 0 then .next (moveTile s c)
    else
      match partyRef s c.slice c.part c.space needR (cmdWord c.words 6) with
      | (.fault va kind x, s) => .next (suspendAt s c va kind x)
      | (.never x, s) => .next (endFatal s c x)
      | (.at key, s) =>
        let i := c.pos / max 1 (ringTb c.words)
        let thr : Word := BitVec.ofNat 64 (i + 1) - (if c.op = .sub then BitVec.ofNat 64 (ringQ c.words) else 0)
        match verdict s key thr with
        | none =>
          if s.roll.any (fun e => e.waiter == .copy id) || rollFull s key then .next s
          else .next (register s key (.copy id) thr (copyScope c key))
        | some st =>
          let s := withdraw s (.copy id)
          if st = 0 then .next (moveTile s c) else .next (drainPoisoned s c)

end Sys2Proof.Machine
end

