-- ==== Sys2Proof/Machine/Message.lean ====
section
/-! DEFINITION. Link messages at both ends: acknowledgements (R389, R391), the import table (R388), the de-duplication window (R390), and stream
messages to posted receives (R271, R272); layout entries, which a stopped stream needs (R255). -/

namespace Sys2Proof.Machine

/-! ## Layout entries (R254, R255) -/

def layWord (l : List Word) (k : Nat) : Word := l.getD k 0
def layP (l : List Word) : Nat := bits (layWord l 0) 48 8
def layQ (l : List Word) : Nat := bits (layWord l 0) 40 8

/-- An entry with V = 1 breaks no rule. -/
def layValid (l : List Word) : Bool :=
  let d := layWord l 0
  bits d 56 7 == 0 && bits d 25 15 == 0 && layP l ≤ 128 && layQ l ≤ 64 && 2 ≤ bits d 0 24
    && ((layWord l 1).toNat + 2 ^ 64 * (layWord l 2).toNat) / 2 ^ layP l == 0 && (layWord l 3).toNat / 2 ^ layQ l == 0

/-- A valid entry accepts a size. -/
def layFits (l : List Word) (size : Nat) : Bool :=
  let d := layWord l 0
  if bit1 d 24 then bits d 0 24 ≤ size && (layQ l == 0 || ((size : Int) - 1 - layP l) % layQ l == 0)
  else size == bits d 0 24

/-- Word w of an object is a pointer word. -/
def isPtr (l : List Word) (w : Nat) : Bool :=
  if w = 0 then false
  else if w ≤ layP l then (if w ≤ 64 then bit1 (layWord l 1) (w - 1) else bit1 (layWord l 2) (w - 65))
  else if 0 < layQ l then bit1 (layWord l 3) ((w - layP l - 1) % layQ l)
  else false

/-! ## Walks by id -/

/-- A walk, running or parked, changed by `f`. -/
def onWalk (s : State) (id : Nat) (f : Walk → Walk) : State :=
  let g (h : Hart) : Hart := { h with walk := h.walk.map fun w => if w.id = id then f w else w }
  { s with
    hart := g s.hart
    others := s.others.map fun p => (p.1, g p.2)
    parked := s.parked.map fun w => if w.id = id then f w else w }

def findWalk (s : State) (id : Nat) : Option Walk :=
  ((s.hart :: s.others.map (·.2)).filterMap (·.walk) ++ s.parked).find? fun w => w.id == id

/-- The messages of a walk that have not ended. -/
def walkMsgs (s : State) (id : Nat) : List OutMsg := s.links.out.filter fun m => m.owner == .walk id

/-- The index of an object already numbered (R258). -/
def indexOf (l : List (Word × Word)) (x : Word) : Option Nat := l.findIdx? fun p => p.1 == x

/-- The stream offset of the first pointer word of a frame that the walk has not examined: its data words left at the visit (R368). -/
def openWord (w : Walk) (f : Frame) : Option Nat :=
  match (List.range f.words.length).find? fun k => f.wpos ≤ k && isPtr f.first k with
  | some k => (indexOf w.seen f.addr).map fun i => w.starts.getD i 0 + 8 + 8 * k
  | none => none

/-- The leading entries of the stream whose every byte is acknowledged (R271). -/
def ackedObjects (s : State) (w : Walk) : Nat :=
  let flying := (walkMsgs s w.id).map fun m => leNat (m.body.take 8)
  let low := (flying ++ w.out.map (·.1) ++ w.stack.filterMap (openWord w)).foldl Nat.min w.length
  ((w.starts.tail ++ [w.length]).takeWhile fun e => e ≤ low).length - (if w.starts.isEmpty then 1 else 0)

/-! ## The end of a sequenced message at its source (R389, R391) -/

/-- A command with nothing under way any more has moved its elements (R242). -/
def copyMoved (s : State) (id : Nat) : State :=
  match findCopy s id with
  | none => s
  | some c => if c.stage == .remote && c.idx.isEmpty && !inFlight s id then setCopy s { c with stage := .moved } else s

/-- The acknowledgement of message n of a copy: the run of an XPUT is written (R242). -/
def copyAcked (s : State) (id : Nat) (n : BitVec 32) : State :=
  match findCopy s id with
  | none => s
  | some c => copyMoved (if c.op = .put then setCopy s { c with idx := c.idx.filter fun x => x.2 != n.toNat } else s) id

/-- A message ends its command fatally: CAUSE 3 FAULT, 4 LINK or 5 IMPORT for a copy (R251); status and results for a walk (R262). -/
def failOwner (s : State) (m : OutMsg) (cause : Nat) (info : List Word) : State :=
  match m.owner with
  | .reply => s
  | .copy id =>
    match findCopy s id with
    | some c => if c.fatal.isSome then s else endFatal s c cause
    | none => s
  | .walk id =>
    match findWalk s id with
    | none => s
    | some w =>
      if cause = 3 then
        match info with
        | [st, r0, r1] => onWalk s id fun w => { w with fail := some (st.toNat % 256, r0, r1) }
        | _ =>
          let (x, s) := s.draw
          onWalk s id fun w => { w with fail := some (7, BitVec.ofNat 64 x, 0) }
      else
        let n := ackedObjects s w
        onWalk s id fun w => { w with fail := some (8, BitVec.ofNat 64 n, 0) }

/-- A message leaves the list of those the source keeps. -/
def dropMessage (s : State) (m : OutMsg) : State :=
  pumpMessages { s with links := { s.links with out := s.links.out.filter fun x => !(x.dst == m.dst && x.sseq == m.sseq) } }

def findMessage (s : State) (dst : BitVec 12) (n : BitVec 32) : Option OutMsg := s.links.out.find? fun m => m.dst == dst && m.sseq == n

/-- An acknowledgement reaches the source (R389). -/
def ackReceived (s : State) (dst : BitVec 12) (n : BitVec 32) (status : Nat) (info : List Word) : State :=
  match findMessage s dst n with
  | none => s
  | some m =>
    match status with
    | 0 | 5 =>
      let s := dropMessage s m
      match m.owner with
      | .copy id => copyAcked s id n
      | _ => s
    | 1 => { s with links := { s.links with out := s.links.out.map fun x => if x = m then { m with retries := 0, held := true } else x } }
    | 3 => dropMessage (failOwner s m 5 []) m
    | 4 => dropMessage (failOwner s m 3 info) m
    | _ => s

/-! ## The receiver (R388–R390) -/

def windowOf (s : State) (src : BitVec 12) : Window :=
  match s.links.windows.find? fun w => w.src == src with
  | some w => w
  | none => ⟨src, 0, []⟩

/-- The base moves past leading recorded entries, at most to `limit`. -/
def Window.advance : Nat → BitVec 32 → Window → Window
  | 0, _, w => w
  | f + 1, limit, w =>
    if 0 < (limit - w.base).toInt && w.status.any (fun p => p.1 == w.base) then
      Window.advance f limit { w with base := w.base + 1, status := w.status.filter fun p => p.1 != w.base }
    else w

/-- The outcome of message n is recorded (R390). -/
def recordStatus (s : State) (src : BitVec 12) (n : BitVec 32) (status : Nat) (info : List Word) : State :=
  let w := windowOf s src
  let w := { w with status := (n, status, info) :: w.status.filter fun p => p.1 != n }
  { s with links := { s.links with windows := w :: s.links.windows.filter fun x => x.src != src } }

/-- The base of a source's window advances when its message n has been dealt with, whatever came of it (R390). -/
def advanceWindow (s : State) (src : BitVec 12) (n : BitVec 32) : State :=
  { s with links := { s.links with windows := s.links.windows.map fun w =>
    if w.src = src then Window.advance w.status.length (n - 4095) w else w } }

/-- A message is answered with an ACK: to a peer over the wire, to this chip's own source at once. Log entry 27. -/
def answer (s : State) (src : BitVec 12) (n : BitVec 32) (status : Nat) (info : List Word) : State :=
  let s := advanceWindow s src n
  if src = chipNo s then ackReceived s src n status info
  else { s with links := { s.links with control := s.links.control ++ [⟨src, false, n, status, info⟩] } }

/-- A message ends at the receiver: recorded and answered. -/
def conclude (s : State) (src : BitVec 12) (n : BitVec 32) (status : Nat) (info : List Word) : State :=
  answer (recordStatus s src n status info) src n status info

/-- The import entry that applies (R388): the lowest-numbered valid one. -/
def importFor (s : State) (src : BitVec 12) (part : BitVec 16) (dom : BitVec 6) : Option ImportEntry :=
  let fits (e : ImportEntry) : Bool := bit1 e.key 63 && bits e.key 48 12 == src.toNat && bits e.key 32 16 == part.toNat && bits e.key 24 6 == dom.toNat
  (s.links.imports.filter fits).foldl (fun o e => match o with
    | some b => if e.index < b.index || (e.index == b.index && e.part.toNat < b.part.toNat) then some e else o
    | none => some e) none

/-- What the window says of message n before it is admitted: an answer, or none. -/
def windowAnswer (s : State) (src : BitVec 12) (n : BitVec 32) : Option (Nat × List Word) :=
  let w := windowOf s src
  if 2 ^ 31 ≤ (n - w.base).toNat then some (5, [])
  else match w.status.find? fun p => p.1 == n with
  | some p => some p.2
  | none =>
    if s.links.held.any (fun h => h.src == src && h.sseq == n) || s.posts.any (fun p => p.chip == src && p.admitted.contains n) then some (1, [])
    else none

/-- The words of a stream message, with their offsets. -/
def streamWords (off : Nat) (n : BitVec 32) : Nat → List Byte → List (Nat × Word × BitVec 32)
  | 0, _ => []
  | f + 1, bs => if bs.isEmpty then [] else (off, BitVec.ofNat 64 (leNat (bs.take 8)), n) :: streamWords (off + 8) n f (bs.drop 8)

/-- A STREAM message with its header (R386, R388, R271): refused, not taken, or kept by the posted receive of its channel. Log entry 45. -/
def receiveStream (s : State) (src : BitVec 12) (part : BitVec 16) (dom : BitVec 6) (chan : BitVec 8) (n : BitVec 32) (body : List Byte) : State :=
  match windowAnswer s src n with
  | some (st, info) => answer s src n st info
  | none =>
    match importFor s src part dom with
    | none => conclude s src n 3 []
    | some e =>
      if !bit1 e.perm 4 || chan.toNat < bits e.perm 16 8 || bits e.perm 24 8 < chan.toNat then conclude s src n 3 []
      else if !(s.posts.any fun p => p.chan == chan && p.chip == src) then answer s src n 2 []
      else
        let ws := streamWords (leNat (body.take 8)) n (body.length / 8) (body.drop 8)
        let s := { s with posts := s.posts.map fun p =>
          if p.chan = chan ∧ p.chip = src then { p with pending := p.pending ++ ws, admitted := p.admitted ++ [n] } else p }
        if s.posts.any fun p => p.chan == chan && p.chip == src && p.susp.isSome then answer s src n 1 [] else s

/-- A message of this chip to itself does not leave the package (R271). -/
def loopback (s : State) (m : OutMsg) : State :=
  if m.sent && m.dst == chipNo s && m.kind == 4 then receiveStream s m.dst m.part m.dom m.chan m.sseq m.body else s

end Sys2Proof.Machine
end

