-- ==== Sys2Proof/Machine/Graph.lean ====
section
/-! DEFINITION. Object graphs (R252–R275, R368, R429): the walks of GCOPY, GSEND, GCMP, GHASH and GREL, one object a step; GLMAP; GRECV and the
delivery of streams. -/

namespace Sys2Proof.Machine

/-! ## Accesses of a walker (R263, R266, R429) -/

/-- Why a walk stops: an end with its status, RES0 and RES1 (R262), a page fault (R266), or nothing but the end of a piece, between two of which an
interrupt can part it (R264, R265). -/
inductive Halt where
  | stop (status : Nat) (r0 r1 : Word)
  | fault (va kind cause : Nat)
  | piece
  deriving DecidableEq, Repr

/-- Whom a walker serves: the issuing core, its partition and the space. -/
structure Party where
  core  : Nat
  part  : BitVec 16
  space : BitVec 20
  deriving DecidableEq, Repr

/-- The address of the first byte whose page the keys refuse (R406). -/
def firstRefused : Nat → List Seg → Option Nat
  | _, [] => none
  | va, g :: r => if g.ok then firstRefused (va + g.len) r else some va

/-- An access of a walker, at the station of the home slice. -/
def walkerAccess (s : State) (p : Party) (need : Need) (va n : Nat) : Except Halt (List Seg) × State :=
  match globalAccess s (homeSlice (clusterOf p.core)) p.part p.space need va n with
  | (.bad code a, s) => (.error (.fault a need.kind (if code = exPage then 1 else 2)), s)
  | (.ok l, s) =>
    match firstRefused va l with
    | some a => (.error (.stop 7 (BitVec.ofNat 64 a) 0), s)
    | none => (.ok l, s)

/-- The words of a byte list. -/
def wordsOf : Nat → List Byte → List Word
  | 0, _ => []
  | n + 1, bs => BitVec.ofNat 64 (leNat (bs.take 8)) :: wordsOf n (bs.drop 8)

/-- `n` words read by a walker, once `settle` has brought its sector's replica up to date. -/
def walkerReadAfter (settle : Nat → List Seg → State → State) (s : State) (p : Party) (va n : Nat) : Except Halt (List Word) × State :=
  match walkerAccess s p needR va (8 * n) with
  | (.error h, s) => (.error h, s)
  | (.ok l, s) =>
    let sec := homeSlice (clusterOf p.core) / 16
    let s := settle sec l s
    (.ok (wordsOf n (readSegs s sec l)), s)

/-- A read by a walker: its own earlier writes come first (R134, R263, R313). -/
def walkerRead (s : State) (p : Party) : Nat → Nat → Except Halt (List Word) × State := walkerReadAfter (settleOwn p.core) s p

/-- The read of an indivisible operation of a walker: the writes of every party to its bytes come first (R268, R275). Log entry 11. -/
def walkerClaim : State → Party → Nat → Nat → Except Halt (List Word) × State := walkerReadAfter settleMeeting

/-- Words written by a walker. -/
def walkerWrite (s : State) (p : Party) (va : Nat) (ws : List Word) : Except Halt Unit × State :=
  match walkerAccess s p needW va (8 * ws.length) with
  | (.error h, s) => (.error h, s)
  | (.ok l, s) => (.ok (), writeSegs s p.core l (ws.flatMap wordBytes))

/-- The bytes of a work region from `lo` up to `hi` take what the walker keeps there: its layout is the walker's own, so they are free values (R259).
Log entry 90. -/
def scratch (s : State) (p : Party) (work lo hi : Nat) : State :=
  match walkerAccess s p needRW (work + lo) (hi - lo) with
  | (.error _, s) => s
  | (.ok l, s) =>
    let (bs, s) := s.freeBytes (hi - lo)
    writeSegs s p.core l bs

/-- The value of a counter and its poison, for a walker. -/
def walkerCounter (s : State) (p : Party) (r : Word) : Except Halt (Word × Bool) × State :=
  match partyRef s (homeSlice (clusterOf p.core)) p.part p.space needR r with
  | (.at key, s) => (.ok (s.counter key, s.poisoned key), s)
  | (.never _, s) => (.error (.stop 7 r 0), s)
  | (.fault va kind cause, s) => (.error (.fault va kind cause), s)

/-- The place of a DONE counter. -/
def walkerRef (s : State) (p : Party) (r : Word) : Except Halt Nat × State :=
  match partyRef s (homeSlice (clusterOf p.core)) p.part p.space needRW r with
  | (.at key, s) => (.ok key, s)
  | (.never _, s) => (.error (.stop 7 r 0), s)
  | (.fault va kind cause, s) => (.error (.fault va kind cause), s)

/-- The canonical header (R270). -/
def canon (h : Word) : Word := h &&& ~~~0xFFFF1

/-- SIZE of a header (R252). -/
def sizeOf' (h : Word) : Nat := bits h 20 24

/-- COUNT of a header. -/
def countOf (h : Word) : Nat := bits h 4 16

/-- The arena record is accepted (R268). -/
def arenaFits (l : List Word) : Bool :=
  l.all (fun w => w.toNat % 8 == 0) && (l.getD 0 0).toNat ≤ (l.getD 2 0).toNat && (l.getD 2 0).toNat ≤ (l.getD 1 0).toNat

/-- The checks of the arena record: step 5 of R261. `n` objects are completed (R262). -/
def checkArena (s : State) (p : Party) (arena : Word) (n : Nat) : Except Halt Unit × State :=
  let bad : Halt := .stop 5 (BitVec.ofNat 64 n) 0
  if arena.toNat % 8 ≠ 0 ∨ 2 ^ 55 ≤ arena.toNat then (.error bad, s)
  else match walkerRead s p arena.toNat 4 with
    | (.error h, s) => (.error h, s)
    | (.ok l, s) => if arenaFits l then (.ok (), s) else (.error bad, s)

/-- An allocation of `n` words (R268): the address, or none where the arena is exhausted. -/
def allocate (s : State) (p : Party) (arena : Word) (n : Nat) : Except Halt (Option Word) × State :=
  match walkerClaim s p (arena.toNat + 8) 2 with
  | (.error h, s) => (.error h, s)
  | (.ok l, s) =>
    let limit := l.getD 0 0
    let cursor := l.getD 1 0
    if cursor.toNat + 8 * n ≤ limit.toNat then
      match walkerWrite s p (arena.toNat + 16) [cursor + BitVec.ofNat 64 (8 * n)] with
      | (.error h, s) => (.error h, s)
      | (.ok _, s) => (.ok (some cursor), s)
    else (.ok none, s)

/-! ## The walk (R258) -/

/-- The package and the walk in progress. -/
structure WalkEnv where
  s : State
  w : Walk

/-- A walk's computation: it may stop, and what it did before stays done. -/
abbrev WalkM := EStateM Halt WalkEnv

def Walk.party (w : Walk) : Party := ⟨w.core, w.part, w.space⟩

/-- An operation of the walker within the walk. -/
def doing {α : Type} (f : State → Party → Except Halt α × State) : WalkM α := do
  let e ← get
  let (r, s) := f e.s e.w.party
  set { e with s := s }
  match r with
  | .ok x => pure x
  | .error h => throw h

def walkHalt {α : Type} (status : Nat) (r0 r1 : Word) : WalkM α := throw (.stop status r0 r1)
def onWalkM (f : Walk → Walk) : WalkM Unit := modify fun e => { e with w := f e.w }
def getWalk : WalkM Walk := do return (← get).w
def readWords (va n : Nat) : WalkM (List Word) := doing fun s p => walkerRead s p va n
def claimWords (va n : Nat) : WalkM (List Word) := doing fun s p => walkerClaim s p va n
def writeWords (va : Nat) (ws : List Word) : WalkM Unit := doing fun s p => walkerWrite s p va ws

/-- The layout entry of a type (R256), read at its first use; none where the table has no such entry. -/
def layoutOf (t : Nat) : WalkM (Option (List Word)) := do
  let w ← getWalk
  if w.count ≤ t then pure none
  else match w.entries.find? fun p => p.1 == t with
    | some p => pure (some p.2)
    | none =>
      let l ← readWords (w.table.toNat + 32 * t) 4
      onWalkM fun w => { w with entries := (t, l) :: w.entries }
      pure (some l)

/-- The layout entry that the header `h` of the object at `y` names; the word at `at'` (0 for the root) holds y (R253, R255). -/
def layoutFor (h y at' : Word) : WalkM (List Word) := do
  match ← layoutOf (bits h 44 20) with
  | none => walkHalt 3 y at'
  | some l =>
    if !bit1 (layWord l 0) 63 then walkHalt 3 y at'
    else if !layValid l then walkHalt 4 h y
    else if !layFits l (sizeOf' h) then walkHalt 3 y at'
    else pure l

/-- The entry at hand, or the one read again after a resumption (R256). -/
def layoutAgain (l : List Word) (h y at' : Word) : WalkM (List Word) := if l.isEmpty then layoutFor h y at' else pure l

/-- Words of a pass in one piece (R264). -/
def pieceLen : Nat := 2048

/-- The pointer value y, held in the word at address `at'` (0 for the root), is followed (R253): the words of the object and its layout entry. The
object is read once, in one pass, a piece a step (R264). Log entry 53. -/
def object (y at' : Word) : WalkM (List Word × List Word) := do
  let w ← getWalk
  match w.pass.find? fun p => p.addr == y with
  | some p =>
    let h := p.words.headD 0
    let l ← layoutAgain p.layout h y at'
    let ws ← readWords (y.toNat + 8 * p.words.length) (Nat.min pieceLen (sizeOf' h - p.words.length))
    onWalkM fun w => { w with pass := w.pass.map fun q => if q.addr = y then ⟨y, p.words ++ ws, l⟩ else q }
    if sizeOf' h ≤ p.words.length + ws.length then pure (p.words ++ ws, l) else throw .piece
  | none =>
    if y.toNat % 8 ≠ 0 ∨ 2 ^ 55 ≤ y.toNat then walkHalt 3 y at'
    else
      let h := (← readWords y.toNat 1).headD 0
      if bit1 h 0 || sizeOf' h < 2 then walkHalt 3 y at'
      else
        let l ← layoutFor h y at'
        let ws ← readWords y.toNat (Nat.min pieceLen (sizeOf' h))
        onWalkM fun w => { w with pass := w.pass ++ [⟨y, ws, l⟩] }
        if sizeOf' h ≤ ws.length then pure (ws, l) else throw .piece

/-- The pass over the objects of a visit is done with. -/
def Walk.passed (w : Walk) : Walk := { w with pass := [] }

/-- Bytes of the work region for `perObject` an object and `perLevel` a stack level (R259). -/
def Walk.region (w : Walk) (perObject perLevel : Nat) : Nat := 64 + perObject * w.seen.length + perLevel * w.maxd

/-- The shares of an object and of a stack level in the work region (R259). -/
def regionShare (fn : Nat) : Nat × Nat := if fn = 4 then (32, 32) else if fn = 6 then (0, 16) else (16, 16)

/-- The work region has room for one object more and one stack level more (R259), and can be used. -/
def room : WalkM Unit := do
  let w ← getWalk
  let k := regionShare w.fn
  let need := 64 + k.1 * (w.seen.length + 1) + k.2 * Nat.max w.maxd (w.stack.length + 1)
  if w.wsize.toNat < need then walkHalt 6 (BitVec.ofNat 64 w.seen.length) 0
  else
    let _ ← doing fun s p => walkerAccess s p needRW w.work.toNat need

/-- What the walker keeps in its work region after a step. -/
def keepRegion (s : State) (w : Walk) : State :=
  let k := regionShare w.fn
  if w.maxd = 0 then s else scratch s w.party w.work.toNat 64 (w.region k.1 k.2)

/-- A frame goes on the stack. -/
def Walk.push (w : Walk) (f : Frame) : Walk := { w with stack := f :: w.stack, maxd := Nat.max w.maxd (w.stack.length + 1) }

/-- The guard counter, read with acquire (R264); 0 where there is none. -/
def guardValue : WalkM (Word × Bool) := do
  let w ← getWalk
  if w.guard = 0 then pure (0, false) else doing fun s p => walkerCounter s p w.guard

/-- The guard changed or is poisoned (R264). -/
def mutated : WalkM Bool := do
  let w ← getWalk
  let (v, bad) ← guardValue
  pure (w.gpoison || bad || v != w.gstart)

/-- The words of a copy, its target pointers replaced where they have copies (R269). -/
def copyWords (w : Walk) (y c : Word) (ws l : List Word) : List Word :=
  ws.mapIdx fun k x =>
    if k = 0 then canon x
    else if isPtr l k then
      if x = y then c else match w.seen.find? fun p => p.1 == x with | some p => p.2 | none => 0
    else x

/-- The pointer words of a copy with their targets. -/
def copyPtrs (c : Word) (ws l : List Word) : List (Word × Word) :=
  (ws.mapIdx fun k x => (k, x)).filterMap fun p =>
    if isPtr l p.1 && p.2 != 0 then some (c + BitVec.ofNat 64 (8 * p.1), p.2) else none

/-- The copy of an object: allocated once, written, and the words that waited for it patched (R269). -/
def makeCopy (y : Word) (ws l : List Word) : WalkM Unit := do
  let w ← getWalk
  let c ← match w.alloc with
    | some c => pure c
    | none =>
      match ← doing fun s p => allocate s p w.arena ws.length with
      | some c =>
        onWalkM fun w => { w with alloc := some c }
        pure c
      | none => walkHalt 5 (BitVec.ofNat 64 w.seen.length) 0
  writeWords c.toNat (copyWords w y c ws l)
  (w.ptrs.filter fun p => p.2 == y).forM fun p => writeWords p.1.toNat [c]
  onWalkM fun w => { w with alloc := none, ptrs := w.ptrs ++ copyPtrs c ws l, seen := w.seen ++ [(y, c)] }

/-- What leaves at the visit of an object that the stream gives place `start` (R368): its index word, its canonical header and its data words. -/
def visitParts (start i : Nat) (ws l : List Word) : List (Nat × Word) :=
  (start, BitVec.ofNat 64 i) :: (ws.mapIdx fun k x => (k, if k = 0 then canon x else x)).filterMap fun p =>
    if isPtr l p.1 then none else some (start + 8 + 8 * p.1, p.2)

/-- The first visit of an object, for GCOPY, GSEND and GHASH (R258). Log entry 53. -/
def visit (y at' : Word) : WalkM Unit := do
  let (ws, l) ← object y at'
  room
  let w ← getWalk
  let h := canon (ws.headD 0)
  if w.fn = 1 then makeCopy y ws l
  else if w.fn = 2 then
    onWalkM fun w => { w with
      seen := w.seen ++ [(y, 0)]
      starts := w.starts ++ [w.length]
      out := w.out ++ visitParts w.length w.seen.length ws l
      length := w.length + 8 * (ws.length + 1) }
  else
    onWalkM fun w => { w with
      seen := w.seen ++ [(y, 0)]
      recs := w.recs ++ [h :: List.replicate (ws.length - 1) 0] }
  onWalkM fun w => w.passed.push ⟨y, ws, 0, [], l, l, 1⟩

/-- Word `k` of the object numbered i is examined, which a pointer word must be before it can be sent or hashed (R270, R368): no word that left at the
visit leaves again. -/
def Walk.examine (w : Walk) (f : Frame) (i k : Nat) (x : Word) : Walk :=
  if w.fn = 2 then if isPtr f.first k then { w with out := w.out ++ [(w.starts.getD i 0 + 8 + 8 * k, x)] } else w
  else if w.fn = 5 then { w with recs := w.recs.modify i fun r => r.set k x }
  else w

/-- What a pointer word becomes: 0, or the target's index + 1 (R270). -/
def Walk.pointer (w : Walk) (y : Word) : Word :=
  if y = 0 then 0 else match indexOf w.seen y with | some i => BitVec.ofNat 64 (i + 1) | none => 0

/-- The frame of object x has examined the word before `k`. -/
def Walk.advance (w : Walk) (x : Word) (k : Nat) : Walk :=
  { w with stack := w.stack.map fun f => if f.addr = x then { f with wpos := k } else f }

/-- The words of a copy that the walk has not examined follow the layout entry read anew (R256, R269). -/
def recopy (f : Frame) (l : List Word) : WalkM Unit := do
  let w ← getWalk
  match w.seen.find? fun p => p.1 == f.addr with
  | some (_, c) =>
    let from' := c + BitVec.ofNat 64 (8 * f.wpos)
    let mine (x : Word) : Bool := from'.toNat ≤ x.toNat && x.toNat < c.toNat + 8 * f.words.length
    writeWords from'.toNat ((copyWords w f.addr c f.words l).drop f.wpos)
    onWalkM fun w => { w with ptrs := w.ptrs.filter (fun p => !mine p.1) ++ (copyPtrs c f.words l).filter fun p => mine p.1 }
  | none => pure ()

/-- The address of the word by which the walk came to the object above a stack, the last one examined of the object below it; 0 for the root. -/
def cameBy (below : List Frame) : Word :=
  match below with
  | g :: _ => g.addr + BitVec.ofNat 64 (8 * (g.wpos - 1))
  | [] => 0

/-- The layout entry of the object at the top of the stack, read again after a resumption (R256). Log entry 44. -/
def frameLayout (f : Frame) (below : List Frame) : WalkM (List Word) := do
  let l ← layoutAgain f.layout (f.words.headD 0) f.addr (cameBy below)
  if f.layout.isEmpty then
    let w ← getWalk
    if w.fn = 1 then recopy f l
    onWalkM fun w => { w with stack := w.stack.map fun g => if g.addr = f.addr then { g with layout := l } else g }
  pure l

/-- A step of the walk up to the next visit (R258); it answers whether the walk has ended. -/
def walkOn : Nat → WalkM Bool
  | 0 => pure true
  | n + 1 => do
    let w ← getWalk
    match w.stack with
    | [] => pure true
    | f :: r =>
      if f.words.length ≤ f.wpos then
        onWalkM fun w => { w with stack := r }
        walkOn n
      else
        let l ← frameLayout f r
        let x := f.words.getD f.wpos 0
        let i := (indexOf w.seen f.addr).getD 0
        let ptr := isPtr l f.wpos
        let new := ptr && x != 0 && (indexOf w.seen x).isNone
        if new then visit x (f.addr + BitVec.ofNat 64 (8 * f.wpos))
        onWalkM fun w => (w.examine f i f.wpos (if ptr then w.pointer x else x)).advance f.addr (f.wpos + 1)
        if new then pure false else walkOn n

/-- The words the walk may still pass over in one step. -/
def Walk.fuel (w : Walk) : Nat := (w.stack.map fun f => f.words.length + 1).sum + 1

/-! ## GCMP (R273) -/

/-- GCMP has found a difference. -/
def unequal {α : Type} (i k : Nat) : WalkM α := do
  let m ← mutated
  walkHalt (if m then 2 else 1) (BitVec.ofNat 64 i) (BitVec.ofNat 64 k)

/-- The index of an object of the second graph. -/
def index2 (l : List (Word × Word)) (y : Word) : Option Nat := l.findIdx? fun p => p.2 == y

/-- Pointer values of the two graphs that differ. -/
def differ (l : List (Word × Word)) (a b : Word) : Bool :=
  (a == 0) != (b == 0) || (a != 0 && indexOf l a != index2 l b)

/-- The first word at which two objects of one header differ. -/
def firstDiff (seen : List (Word × Word)) (l : List Word) (wx wy : List Word) : Option Nat :=
  (List.range wx.length).find? fun k =>
    k != 0 && (if isPtr l k then differ seen (wx.getD k 0) (wy.getD k 0) else wx.getD k 0 != wy.getD k 0)

/-- The visit of a pair of objects. -/
def visitPair (x y ax ay : Word) : WalkM Unit := do
  let (wx, l) ← object x ax
  let (wy, _) ← object y ay
  room
  let w ← getWalk
  let i := w.seen.length
  if canon (wx.headD 0) ≠ canon (wy.headD 0) then unequal i 0
  else match firstDiff (w.seen ++ [(x, y)]) l wx wy with
    | some k => unequal i k
    | none => onWalkM fun w => { w with seen := w.seen ++ [(x, y)] }.passed.push ⟨x, wx, y, wy, l, l, 1⟩

/-- A step of GCMP up to the next pair. -/
def compareOn : Nat → WalkM Bool
  | 0 => pure true
  | n + 1 => do
    let w ← getWalk
    match w.stack with
    | [] => pure true
    | f :: r =>
      if f.words.length ≤ f.wpos then
        onWalkM fun w => { w with stack := r }
        compareOn n
      else
        let l ← frameLayout f r
        let a := f.words.getD f.wpos 0
        let b := f.words2.getD f.wpos 0
        if !isPtr l f.wpos || a = 0 then
          onWalkM fun w => w.advance f.addr (f.wpos + 1)
          compareOn n
        else if differ w.seen a b then unequal ((indexOf w.seen f.addr).getD 0) f.wpos
        else if (indexOf w.seen a).isSome then
          onWalkM fun w => w.advance f.addr (f.wpos + 1)
          compareOn n
        else
          let o := BitVec.ofNat 64 (8 * f.wpos)
          visitPair a b (f.addr + o) (f.addr2 + o)
          onWalkM fun w => w.advance f.addr (f.wpos + 1)
          pure false

/-! ## GREL (R275) -/

/-- `Dec(x)`: one decrement, of the count as it stands; an object whose count reaches 0 goes on the stack. -/
def decrement (y at' : Word) : WalkM Unit := do
  let (ws, l) ← object y at'
  let h := (← claimWords y.toNat 1).headD 0
  if countOf h = 0xFFFF then onWalkM Walk.passed
  else if countOf h = 0 then walkHalt 11 y 0
  else
    if countOf h = 1 then room
    writeWords y.toNat [h - 16]
    onWalkM fun w => { w with decs := w.decs + 1 }.passed
    if countOf h = 1 then onWalkM fun w => w.push ⟨y, ws, 0, [], l, l, 1⟩

/-- An object is pushed on the free list of the arena: one push, so all it writes can be reached first. -/
def release (x : Word) : WalkM Unit := do
  let w ← getWalk
  let _ ← doing fun s p => walkerAccess s p needRW (w.arena.toNat + 24) 8
  let _ ← doing fun s p => walkerAccess s p needRW x.toNat 16
  let fl ← claimWords (w.arena.toNat + 24) 1
  let h ← claimWords x.toNat 1
  writeWords x.toNat [h.headD 0 ||| 1, fl.headD 0]
  writeWords (w.arena.toNat + 24) [x]
  onWalkM fun w => { w with freed := w.freed + 1 }

/-- A step of GREL up to the next decrement. -/
def releaseOn : Nat → WalkM Bool
  | 0 => pure true
  | n + 1 => do
    let w ← getWalk
    match w.stack with
    | [] => pure true
    | f :: r =>
      if f.words.length ≤ f.wpos then
        release f.addr
        onWalkM fun w => { w with stack := r }
        releaseOn n
      else
        let l ← frameLayout f r
        let y := f.words.getD f.wpos 0
        let live := isPtr l f.wpos && y != 0
        if live then decrement y (f.addr + BitVec.ofNat 64 (8 * f.wpos))
        onWalkM fun w => { w with stack := w.stack.map fun g => if g.addr = f.addr ∧ g.wpos = f.wpos then { g with wpos := f.wpos + 1 } else g }
        if live then pure false else releaseOn n

/-! ## Beginning and ending a walk (R259–R265) -/

/-- Two walk-record words name this walk (R265); reserved bits are zero (R11). -/
def recordNames (w : Walk) (l : List Word) : Bool :=
  let wid := l.getD 0 0
  bit1 wid 4 && bits wid 0 4 == w.fn && bits wid 32 20 == w.space.toNat && bits wid 52 12 == 0 && bits wid 5 27 == 0 && l.getD 1 0 == w.root

/-- An execution with RS = 1 goes on from its walk record; a walk that none was parked for is not checked. Log entries 43 and 44. -/
def takeUp : WalkM Unit := do
  let w ← getWalk
  let l ← readWords w.work.toNat 2
  if w.checked && recordNames w l then onWalkM fun w => { w with resume := false } else walkHalt 9 0 0

/-- The checks and reads before the first object: the arena record (R261 step 5), the walk record (R265), the guard (R264). -/
def begin' : WalkM Unit := do
  let w ← getWalk
  if w.fn = 1 ∨ w.fn = 3 ∨ w.fn = 6 then doing fun s p => checkArena s p w.arena (if w.fn = 6 then w.freed else w.seen.length)
  if w.resume then takeUp
  onWalkM fun w => { w with checked := true }
  let w ← getWalk
  if !w.begun then
    let (v, bad) ← guardValue
    onWalkM fun w => { w with gstart := v, gpoison := bad, begun := true }
    if w.fn == 4 && (w.root == 0) != (w.root2 == 0) then unequal 0 0

/-- The first visit of a walk, and its later steps; it answers whether the walk has ended. -/
def stepWalk : WalkM Bool := do
  let w ← getWalk
  let first := w.seen.isEmpty && w.stack.isEmpty && w.decs == 0 && !w.ended && w.root != 0
  match w.fn with
  | 4 =>
    if first then
      visitPair w.root w.root2 0 0
      pure false
    else compareOn w.fuel
  | 6 =>
    if first then
      decrement w.root 0
      onWalkM fun w => { w with ended := true }
      pure false
    else releaseOn w.fuel
  | _ =>
    if first then
      visit w.root 0
      pure false
    else walkOn w.fuel

/-- The counts of the copies (R269). -/
def setCounts (w : Walk) : WalkM Unit :=
  w.seen.forM fun p => do
    let n := (w.ptrs.filter fun q => q.2 == p.1).length + (if p.1 = w.root then 1 else 0)
    let h ← readWords p.2.toNat 1
    writeWords p.2.toNat [canon (h.headD 0) ||| BitVec.ofNat 64 (Nat.min n 0xFFFF * 16)]

/-- GHASH (R274): one word. -/
def hashWord (h x : Word) : Word :=
  let h := (h ^^^ x) * 0x8E3F5B27D4C196A5
  h ^^^ (h >>> 29)

/-- GHASH over the canonical records, ended by the object count. -/
def hashRecords (l : List (List Word)) (n : Nat) : Word :=
  let h := l.flatten.foldl hashWord 0x51D30E8AC47B2961
  let h := (h ^^^ BitVec.ofNat 64 n) * 0x8E3F5B27D4C196A5
  h ^^^ (h >>> 32)

/-- GSEND after its last object: the end record follows every other part, and DONE takes the object count once all is acknowledged (R271). -/
def endStream : WalkM (Option (Nat × Word × Word)) := do
  let w ← getWalk
  if !w.ended then
    let m ← mutated
    onWalkM fun w => { w with ended := true, gpoison := m }
    pure none
  else if !w.out.isEmpty then pure none
  else if w.sent ≤ w.length then
    onWalkM fun w => { w with out := [(w.length, 0xFFFFFFFF), (w.length + 8, BitVec.ofNat 64 w.seen.length)] }
    pure none
  else
    let e ← get
    if !(walkMsgs e.s w.id).isEmpty then pure none
    else
      if w.done ≠ 0 then
        let key ← doing fun s p => walkerRef s p w.done
        modify fun e => { e with s := counterAdd (settleRepl e.w.core e.s) key (BitVec.ofNat 64 w.seen.length) }
      pure (some (if w.gpoison then 2 else 0, BitVec.ofNat 64 w.seen.length, BitVec.ofNat 64 (w.length + 16)))

/-- The end of a walk that met no failure: status, RES0 and RES1. -/
def endOf : WalkM (Option (Nat × Word × Word)) := do
  let w ← getWalk
  if w.fn = 2 then endStream
  else
    if w.fn = 1 then setCounts w
    let m ← mutated
    let st := if m then 2 else 0
    let n := BitVec.ofNat 64 w.seen.length
    pure (some (match w.fn with
      | 1 => (st, (match w.seen with | p :: _ => p.2 | [] => 0), n)
      | 4 => (st, n, 0)
      | 5 => (st, hashRecords w.recs w.seen.length, n)
      | _ => (st, BitVec.ofNat 64 w.freed, BitVec.ofNat 64 w.decs)))

/-- One step of a walk: none while it goes on, otherwise its end. -/
def walkStep : WalkM (Option (Nat × Word × Word)) := do
  let w ← getWalk
  if !w.begun || w.resume then begin'
  let w ← getWalk
  if w.fn = 3 then pure (some (0, 0, 0))
  else if w.failed.isSome then pure none
  else if w.fn = 2 && w.ended then endStream
  else if ← stepWalk then endOf
  else pure none

/-! ## Sending (R271, R368) -/

/-- A part in its place among parts in stream order. -/
def insertPart (x : Nat × Word) : List (Nat × Word) → List (Nat × Word)
  | [] => [x]
  | y :: r => if x.1 ≤ y.1 then x :: y :: r else y :: insertPart x r

/-- Parts that lie together, up to 2,047 words a run: offset and words. -/
def partRuns : List (Nat × Word) → List (Nat × List Word)
  | [] => []
  | (o, x) :: r =>
    match partRuns r with
    | (o', ws) :: t => if o' = o + 8 ∧ ws.length < 2047 then (o, x :: ws) :: t else (o, [x]) :: (o', ws) :: t
    | [] => [(o, [x])]

/-- The channel and chip of PEER (R260). -/
def peerChip (w : Walk) : BitVec 12 := BitVec.ofNat 12 (bits w.peer 0 12)
def peerChan (w : Walk) : BitVec 8 := BitVec.ofNat 8 (bits w.peer 16 8)

/-- A STREAM message of a walk. -/
def sendStream (s : State) (w : Walk) (off : Nat) (ws : List Word) (owner : MsgOwner) : State :=
  let s := sendMessage s (peerChip w) w.part 4 (peerChan w) (toBytes 8 off ++ ws.flatMap wordBytes) owner
  match s.links.out.getLast? with
  | some m => loopback s m
  | none => s

/-- The runs of a walk are sent, as far as 64 KiB in flight allow. -/
def sendRunsOf (s : State) (w : Walk) : List (Nat × List Word) → State
  | [] => s
  | (o, ws) :: r =>
    let flying := ((walkMsgs s w.id).map fun m => m.body.length - 8).sum
    if flying = 0 ∨ flying + 8 * ws.length ≤ 65536 then
      let s := onWalk s w.id fun w => { w with sent := w.sent + 8 * ws.length, out := w.out.filter fun p => !(o ≤ p.1 && p.1 < o + 8 * ws.length) }
      sendRunsOf (sendStream s w o ws (.walk w.id)) w r
    else s

/-- What a step of GSEND has found is sent. -/
def flush (s : State) (w : Walk) : State := sendRunsOf s w (partRuns (w.out.foldr insertPart []))

/-! ## Ends -/

/-- The closing fence of a graph instruction of the current core (R263, R305): every write of the walker is performed at SC, and as an SC fence at
`.pkg` or more it finds every replicated write performed (R312). -/
def closingFence (s : State) (sc : Scope) : State := if scopeRank sc < scopeRank .pkg then settleRepl s.cur s else settleAll s

/-- The two result words and g[c] are written, and the instruction completes behind its closing fence (R262, R263). Log entry 42. -/
def graphDone (s : State) (sc : Scope) (blk : Nat) (c : Reg) (status : Nat) (r0 r1 : Word) : State :=
  let s := closingFence s sc
  let s := s.write (localPlace s.cur (blk + 0x30)) (wordBytes r0 ++ wordBytes r1)
  (dropAhead (s.setG c (BitVec.ofNat 64 status))).retire 4

/-- VALID ← 0 in the walk record (R265). -/
def clearValid (s : State) (w : Walk) : Except Halt Unit × State :=
  match walkerRead s w.party w.work.toNat 1 with
  | (.error h, s) => (.error h, s)
  | (.ok l, s) => walkerWrite s w.party w.work.toNat [l.headD 0 &&& ~~~16]

/-- The walk of the current core is over, its record no longer concerned. -/
def walkGone (s : State) (w : Walk) (x : Nat × Word × Word) : State :=
  graphDone (s.onHart fun h => { h with walk := none }) w.sc w.blk w.creg x.1 x.2.1 x.2.2

/-- The walk of the current core waits for a page (R266). -/
def walkWaits (s : State) (w : Walk) (va kind cause : Nat) : State :=
  s.onHart fun h => { h with walk := some { w with susp := some ⟨BitVec.ofNat 64 va, kind, cause, w.space, none⟩ } }

/-- A walk completes with its status: VALID ← 0 in its record, whose page is waited for (R262, R265, R266). Log entry 42. -/
def closeWalk (s : State) (w : Walk) (x : Nat × Word × Word) : State :=
  if !(w.checked || x.1 == 9) then walkGone s w x
  else match clearValid s w with
    | (.error (.fault va kind cause), s) => walkWaits s { w with closing := some x } va kind cause
    | (.error (.stop st r0 r1), s) => walkGone s w (st, r0, r1)
    | (_, s) => walkGone s w x

/-- What a failing sender still sends: the entries begun, and the abort record where the next entry would stand (R270). -/
def abortParts (w : Walk) (st : Nat) : List (Nat × Word) :=
  let cut := ((w.starts.filter fun o => w.out.any fun p => p.1 == o).head?).getD w.length
  (w.out.filter fun p => p.1 < cut) ++ [(cut, 0xFFFFFFFE), (cut + 8, BitVec.ofNat 64 st)]

/-- The end record has its place in the stream already. -/
def Walk.endPut (w : Walk) : Bool := decide (w.length < w.sent) || w.out.any fun p => w.length ≤ p.1

/-- What the walk of the current core has found is sent; one that has failed ends once its abort record is on its way. -/
def flushWalk (s : State) (w : Walk) : State :=
  let s := flush (s.onHart fun h => { h with walk := some w }) w
  match s.hart.walk with
  | some w =>
    match w.failed with
    | some x => if w.out.isEmpty then closeWalk s w x else s
    | none => s
  | none => s

/-- A walk fails on its own side (R262, R271): a sender first sends its abort record. -/
def failWalk (s : State) (w : Walk) (x : Nat × Word × Word) : State :=
  if w.fn = 2 ∧ x.1 ≠ 9 ∧ !w.endPut then flushWalk s { w with failed := some x, aborted := true, out := abortParts w x.1 }
  else closeWalk s w x

/-- A receive is posted behind the closing fence (R263, R272), or its channel is occupied. -/
def postReceive (s : State) (w : Walk) : State :=
  let s := closingFence (s.onHart fun h => { h with walk := none }) w.sc
  if s.posts.any fun p => p.chan == peerChan w then graphDone s w.sc w.blk w.creg 10 0 0
  else
    let p : Post := { id := s.nextCopy, core := w.core, chan := peerChan w, chip := peerChip w, part := w.part, space := w.space, sc := w.sc,
                      table := w.table, count := w.count, work := w.work, wsize := w.wsize, arena := w.arena, doneRef := w.done, slot := w.root,
                      pending := [], admitted := [], objs := [], next := 0, taken := 0, ptrs := [], patches := [], entries := [], fail := none,
                      susp := none }
    let s := { s with posts := s.posts ++ [p], nextCopy := s.nextCopy + 1 }
    let s := s.onHart fun h => { h with ocp := h.ocp.issue }
    (dropAhead (s.setG w.creg 0)).retire 4

/-- The walk goes on in its next step. -/
def walkAgain (s : State) (w : Walk) : State :=
  let s := keepRegion s w
  if w.fn = 2 then flushWalk s w else s.onHart fun h => { h with walk := some w }

/-- One step of the walk of the current core. -/
def runWalk (s : State) (w : Walk) : State :=
  match w.closing, w.fail, w.failed with
  | some _, some x, _ => walkGone s w x
  | some x, none, _ => closeWalk s w x
  | none, some x, o => closeWalk s w (o.getD x)
  | none, none, o =>
    if o.isSome && !w.aborted then failWalk s w (o.getD (7, 0, 0))
    else match walkStep.run ⟨s, w⟩ with
    | .ok none e => walkAgain e.s e.w
    | .ok (some x) e => if e.w.fn = 3 then postReceive e.s e.w else closeWalk e.s e.w x
    | .error (.stop st r0 r1) e => failWalk e.s e.w (st, r0, r1)
    | .error .piece e => walkAgain e.s e.w
    | .error (.fault va kind cause) e => walkWaits e.s e.w va kind cause

/-! ## The instructions -/

/-- A field of an operand block. -/
def blockWord (s : State) (blk off : Nat) : Word := s.mem.readWord (localPlace s.cur (blk + off))

/-- A counter reference of an operand block: 0, or of KIND 00, 01 or 10, well formed and within reach (R261 step 3). -/
def blockRef (s : State) (r : Word) : Bool := r == 0 || ringRef s r

/-- Step 3 of R261. `fn` says which fields are used (R260). -/
def blockOk (s : State) (fn blk : Nat) (root : Word) : Bool :=
  let work := blockWord s blk 0
  let wsize := blockWord s blk 8
  let third := blockWord s blk 0x10
  let guard := blockWord s blk 0x18
  let done := blockWord s blk 0x20
  let peer := blockWord s blk 0x28
  let sends := fn == 2 || fn == 3
  work.toNat % 64 == 0 && work.toNat < 2 ^ 55 && wsize.toNat % 64 == 0 && 64 ≤ wsize.toNat
    && (fn == 1 || fn == 3 || fn == 4 || fn == 6 || third == 0)
    && (fn != 3 || guard == 0) && (sends || done == 0) && (sends || peer == 0)
    && bits peer 12 4 == 0 && bits peer 24 40 == 0
    && blockRef s guard && blockRef s done
    && (fn != 3 || (root.toNat % 8 == 0 && root.toNat < 2 ^ 55))

/-- The binding of a space (R257). -/
def bindingOf (s : State) (part : BitVec 16) (space : BitVec 20) : Option Binding :=
  s.bindings.find? fun b => b.part == part && b.space == space

/-- The fence before a graph instruction holds it: every earlier access of the core is performed (R263). -/
def graphHeld (s : State) (sc : Scope) : Bool :=
  !(performed s true && loadsBack s true && (scopeRank sc < scopeRank .pkg || s.repl.isEmpty))

/-- A new walk of the current core. -/
def newWalk (s : State) (b : Binding) (fn : Nat) (root : Word) (blk : Nat) (c : Reg) (sc : Scope) : Walk where
  id := s.nextCopy
  fn := fn
  core := s.cur
  space := s.hart.spid
  part := s.part
  blk := blk
  creg := c
  sc := sc
  root := root
  root2 := if fn = 4 then blockWord s blk 0x10 else 0
  table := b.table
  count := b.count
  work := blockWord s blk 0
  wsize := blockWord s blk 8
  arena := if fn = 4 then 0 else blockWord s blk 0x10
  guard := blockWord s blk 0x18
  done := blockWord s blk 0x20
  peer := blockWord s blk 0x28
  resume := s.hart.tsw.rs && fn != 3
  checked := false
  begun := false
  ended := false
  gstart := 0
  gpoison := false
  seen := []
  stack := []
  pass := []
  maxd := 0
  entries := []
  alloc := none
  ptrs := []
  freed := 0
  decs := 0
  sent := 0
  length := 0
  out := []
  starts := []
  recs := []
  failed := none
  aborted := false
  closing := none
  fail := none
  susp := none

/-- A walk begins: with RS = 0 a parked walk of the same work region is forgotten (R265). Log entry 44. -/
def beginWalk (s : State) (w : Walk) : State :=
  let s := { s with
    nextCopy := s.nextCopy + 1
    parked := if w.resume then s.parked else s.parked.filter fun p => !(p.space == w.space && p.work == w.work) }
  runWalk s w

/-- The parked walk that an execution with RS = 1 continues (R265). -/
def parkedFor (s : State) (fn : Nat) (root work : Word) : Option Walk :=
  if s.hart.tsw.rs && fn != 3 then s.parked.find? fun p => p.space == s.hart.spid && p.work == work && p.fn == fn && p.root == root else none

/-- A parked walk is taken up with its binding and with the operand block read anew (R257, R260). Log entry 44. -/
def unpark (s : State) (p n : Walk) : State :=
  let s := match p.susp with | some x => takeRecord s x | none => s
  runWalk { s with parked := s.parked.filter fun q => q.id != p.id }
    { p with core := n.core, part := n.part, blk := n.blk, creg := n.creg, sc := n.sc, wsize := n.wsize, arena := n.arena, guard := n.guard,
             done := n.done, peer := n.peer, root2 := n.root2, resume := true, susp := none }

/-- A graph instruction other than GLMAP: the checks of R261, then its walk. -/
def graphInstr (i : Instr) (fn : Nat) (a b c : Reg) (sc : Scope) (s : State) : Out :=
  issue i s fun s =>
    match s.hart.walk with
    | some w => if w.susp.isSome then s else runWalk s w
    | none =>
      if graphHeld s sc then s
      else match recordExc (s.g b) 64 with
        | some e => trapHere e s
        | none =>
          let blk := (s.g b).toNat
          if !blockOk s fn blk (s.g a) then graphDone s sc blk c 12 0 0
          else match parkedFor s fn (s.g a) (blockWord s blk 0), bindingOf s s.part s.hart.spid with
            | some p, _ => unpark s p (newWalk s ⟨p.space, p.part, p.table, p.count⟩ fn (s.g a) blk c sc)
            | none, none => graphDone s sc blk c 13 0 0
            | none, some bd => beginWalk s (newWalk s bd fn (s.g a) blk c sc)

def execGcopy (a b c : Reg) (sc : Scope) (s : State) : Out := graphInstr (.gcopy a b c sc) 1 a b c sc s
def execGsend (a b c : Reg) (sc : Scope) (s : State) : Out := graphInstr (.gsend a b c sc) 2 a b c sc s
def execGrecv (a b c : Reg) (sc : Scope) (s : State) : Out := graphInstr (.grecv a b c sc) 3 a b c sc s
def execGcmp (a b c : Reg) (sc : Scope) (s : State) : Out := graphInstr (.gcmp a b c sc) 4 a b c sc s
def execGhash (a b c : Reg) (sc : Scope) (s : State) : Out := graphInstr (.ghash a b c sc) 5 a b c sc s
def execGrel (a b c : Reg) (sc : Scope) (s : State) : Out := graphInstr (.grel a b c sc) 6 a b c sc s

/-- The status of GLMAP (R257). -/
def mapStatus (s : State) (table : Word) (blk : Nat) : Nat :=
  let space := blockWord s blk 0
  let count := blockWord s blk 8
  let rest := (List.range 6).all fun k => blockWord s blk (0x10 + 8 * k) == 0
  if bits space 20 44 ≠ 0 ∨ !rest ∨ 2 ^ 20 < count.toNat ∨ (count ≠ 0 ∧ table.toNat % 32 ≠ 0) then 12
  else if (spaceEntry s s.part (BitVec.ofNat 20 space.toNat)).isNone then 12
  else if count ≠ 0 ∧ (bindingOf s s.part (BitVec.ofNat 20 space.toNat)).isNone ∧ 256 ≤ (s.bindings.filter fun b => b.part == s.part).length then 14
  else 0

/-- `GLMAP` (R257): the binding of a space changes in every walker. -/
def execGlmap (a b c : Reg) (sc : Scope) (s : State) : Out :=
  issue (.glmap a b c sc) s fun s =>
    if graphHeld s sc then s
    else match recordExc (s.g b) 64 with
      | some e => trapHere e s
      | none =>
        let blk := (s.g b).toNat
        let st := mapStatus s (s.g a) blk
        let space := BitVec.ofNat 20 (blockWord s blk 0).toNat
        let count := (blockWord s blk 8).toNat
        let keep := s.bindings.filter fun x => !(x.part == s.part && x.space == space)
        let s' := if st = 0 then { s with bindings := if count = 0 then keep else ⟨space, s.part, s.g a, count⟩ :: keep } else s
        (dropAhead (s'.setG c (BitVec.ofNat 64 st))).retire 4

/-! ## Parking (R265) -/

/-- ACC of a walk record; GHASH's is of the walker's own making. Log entry 43. -/
def parkAcc (s : State) (w : Walk) : Word × State :=
  match w.fn with
  | 2 => (BitVec.ofNat 64 w.sent, s)
  | 4 => ((match w.stack with | f :: _ => f.addr2 | [] => 0), s)
  | 5 =>
    let (x, s) := s.draw
    (BitVec.ofNat 64 x, s)
  | 6 => (BitVec.ofNat 64 w.freed, s)
  | _ => (0, s)

/-- The walk record (R265). Log entry 43. -/
def walkRecord (w : Walk) (acc : Word) : List Word :=
  [BitVec.ofNat 64 (w.space.toNat * 2 ^ 32 + 16 + w.fn), w.root, BitVec.ofNat 64 w.seen.length, BitVec.ofNat 64 w.stack.length,
    (match w.stack with | f :: _ => f.addr | [] => 0), BitVec.ofNat 64 (match w.stack with | f :: _ => f.wpos | [] => 0), w.gstart, acc]

/-- A walk as it lies parked, its record in memory: its layout entries are read again when it goes on (R256). -/
def Walk.park (w : Walk) : Walk :=
  { w with
    checked := true
    entries := []
    stack := w.stack.map fun f => { f with layout := [] }
    pass := w.pass.map fun p => { p with layout := [] } }

/-- The record of a walk of the current core cannot be written at its park (R265): the instruction ends with FAULT, without waiting for the page; a
sender does once its abort record is on its way (R270, R271). -/
def parkFails (s : State) (w : Walk) : State :=
  let w := { w with checked := false, susp := none }
  if w.closing.isSome then walkGone s w (7, w.work, 0)
  else if w.aborted then flushWalk s { w with failed := some (7, w.work, 0) }
  else failWalk s w (7, w.work, 0)

/-- The walk of the current core parks, and RS is set, or it ends because its record cannot be written (R265). A GRECV that waits for its arena record
is withdrawn; a walk not yet taken up again stays parked. -/
def parkWalk (s : State) (w : Walk) : State :=
  let clear (s : State) : State := s.onHart fun h => { h with walk := none }
  let rs (s : State) : State := s.onHart fun h => { h with tsw := { h.tsw with rs := true } }
  let drop (s : State) : State := match w.susp with | some x => takeRecord s x | none => s
  if w.fn = 3 then clear (drop s)
  else if w.resume then
    let s := drop s
    rs (clear (if w.checked then { s with parked := s.parked ++ [{ w with susp := none }] } else s))
  else
    let (acc, s) := parkAcc s w
    match walkerWrite s w.party w.work.toNat (walkRecord w acc) with
    | (.error _, s) => parkFails (drop s) w
    | (.ok _, s) =>
      let keep : Option Suspension := match w.susp with | some x => if x.posted then some x else none | none => none
      rs (clear { s with parked := s.parked ++ [{ w.park with susp := keep }] })

/-! ## Posted receives (R272) -/

structure PostEnv where
  s : State
  p : Post

abbrev PostM := EStateM Halt PostEnv

def Post.party (p : Post) : Party := ⟨p.core, p.part, p.space⟩

def pdoing {α : Type} (f : State → Party → Except Halt α × State) : PostM α := do
  let e ← get
  let (r, s) := f e.s e.p.party
  set { e with s := s }
  match r with
  | .ok x => pure x
  | .error h => throw h

def getPost : PostM Post := do return (← get).p
def onPost (f : Post → Post) : PostM Unit := modify fun e => { e with p := f e.p }
def postWrite (va : Word) (ws : List Word) : PostM Unit := pdoing fun s q => walkerWrite s q va.toNat ws
def postHalt {α : Type} (status : Nat) (r0 r1 : Word) : PostM α := throw (.stop status r0 r1)

/-- A stream word that has arrived. -/
def Post.word (p : Post) (off : Nat) : Option Word := (p.pending.find? fun x => x.1 == off).map fun x => x.2.1

/-- A stream word is taken. -/
def Post.take (p : Post) (off : Nat) : Post := { p with pending := p.pending.filter fun x => x.1 != off, taken := p.taken + 8 }

/-- The layout entry of a type of the receiver's space, which the header at stream offset `off` names. The object has no address yet: RES1 of a
BADTYPE is 0. Log entry 45. -/
def postLayout (h : Word) (off : Nat) : PostM (List Word) := do
  let p ← getPost
  let t := bits h 44 20
  if p.count ≤ t then postHalt 3 h (BitVec.ofNat 64 off)
  else
    let l ← match p.entries.find? fun e => e.1 == t with
      | some e => pure e.2
      | none =>
        let l ← pdoing fun s q => walkerRead s q (p.table.toNat + 32 * t) 4
        onPost fun p => { p with entries := (t, l) :: p.entries }
        pure l
    if !bit1 (layWord l 0) 63 then postHalt 3 h (BitVec.ofNat 64 off)
    else if !layValid l then postHalt 4 h 0
    else if sizeOf' h < 2 || !layFits l (sizeOf' h) then postHalt 3 h (BitVec.ofNat 64 off)
    else pure l

/-- Pointer words whose objects now have addresses are patched. -/
def patchAll : List (Word × Nat) → PostM Unit
  | [] => pure ()
  | (a, j) :: r => do
    let p ← getPost
    match p.objs[j]? with
    | some o =>
      postWrite a [o.addr]
      onPost fun p => { p with patches := p.patches.filter fun x => x.1 != a }
    | none => pure ()
    patchAll r

/-- The bytes of its work region that a receive needs for `n` objects (R259). -/
def postRegion (n : Nat) : Nat := 64 + 16 * n + 65536

/-- The next object is allocated: its index word is taken. Log entry 45. -/
def arrive (h : Word) : PostM Unit := do
  let p ← getPost
  let n := p.objs.length
  let l ← postLayout h (p.next + 8)
  if p.wsize.toNat < postRegion (n + 1) then postHalt 6 (BitVec.ofNat 64 n) 0
  let _ ← pdoing fun s q => walkerAccess s q needRW p.work.toNat (postRegion (n + 1))
  match ← pdoing fun s q => allocate s q p.arena (sizeOf' h) with
    | none => postHalt 5 (BitVec.ofNat 64 n) 0
    | some a =>
      onPost fun p => { p.take p.next with
        objs := p.objs ++ [⟨p.next, a, sizeOf' h, l⟩]
        next := p.next + 8 * (sizeOf' h + 1) }

/-- The object whose entry holds a stream offset. -/
def Post.objectAt (p : Post) (off : Nat) : Option Arrived := p.objs.find? fun o => o.start ≤ off && off < o.start + 8 * (o.size + 1)

/-- A word of an allocated object is written: the header with empty pointer words, a data word, or a pointer. -/
def placeWord (o : Arrived) (off : Nat) (x : Word) : PostM Unit := do
  let k := (off - o.start) / 8 - 1
  let a := o.addr + BitVec.ofNat 64 (8 * k)
  if k = 0 then
    postWrite a [canon x]
    ((List.range o.size).filter fun j => isPtr o.layout j).forM fun j => postWrite (o.addr + BitVec.ofNat 64 (8 * j)) [0]
  else if isPtr o.layout k && x != 0 then
    let p ← getPost
    let j := x.toNat - 1
    match p.objs[j]? with
    | some t => postWrite a [t.addr]
    | none => onPost fun p => { p with patches := p.patches ++ [(a, j)] }
    onPost fun p => { p with ptrs := p.ptrs ++ [(off, a, j)] }
  else postWrite a [x]
  onPost fun p => p.take off

/-- The end record: counts, root slot, DONE (R272). For a pointer word that names an index at or beyond the final count RES0 is the word and RES1 its
stream offset. Log entry 45. -/
def finishPost (count : Word) : PostM Unit := do
  let p ← getPost
  let n := p.objs.length
  if count.toNat ≠ n then postHalt 3 count (BitVec.ofNat 64 (p.next + 8))
  else match p.ptrs.find? fun x => n ≤ x.2.2 with
    | some x => postHalt 3 (BitVec.ofNat 64 (x.2.2 + 1)) (BitVec.ofNat 64 x.1)
    | none =>
      let key ← if p.doneRef = 0 then pure none else some <$> pdoing fun s q => walkerRef s q p.doneRef
      (p.objs.mapIdx fun j o => (j, o)).forM fun x => do
        let c := (p.ptrs.filter fun q => q.2.2 == x.1).length + (if x.1 = 0 then 1 else 0)
        let h ← pdoing fun s q => walkerRead s q x.2.addr.toNat 1
        postWrite x.2.addr [canon (h.headD 0) ||| BitVec.ofNat 64 (Nat.min c 0xFFFF * 16)]
      postWrite p.slot [match p.objs with | o :: _ => o.addr | [] => 0]
      match key with
      | some k => modify fun e => { e with s := counterAdd (settleRepl e.p.core e.s) k (BitVec.ofNat 64 n) }
      | none => pure ()

/-- What has arrived is taken, as far as it can be; it answers whether the receive is complete. -/
def takeStream : Nat → PostM Bool
  | 0 => pure false
  | f + 1 => do
    let p ← getPost
    patchAll p.patches
    let p ← getPost
    let v := p.word p.next
    let x := p.word (p.next + 8)
    let open' := (p.pending.filter fun q => q.1 < p.next).foldl (fun (o : Option (Nat × Word × BitVec 32)) q =>
      match o with | some b => if q.1 < b.1 then some q else some b | none => some q) none
    match open' with
    | some (off, y, _) =>
      match p.objectAt off with
      | some o => placeWord o off y
      | none => onPost fun p => p.take off
      takeStream f
    | none =>
      match v, x with
      | some 0xFFFFFFFE, some st => postHalt (st.toNat % 256) 0 0
      | some 0xFFFFFFFF, some c =>
        if p.taken = p.next then
          finishPost c
          pure true
        else pure false
      | some v, some h =>
        if v ≠ BitVec.ofNat 64 p.objs.length then postHalt 3 v (BitVec.ofNat 64 p.next)
        else
          arrive h
          takeStream f
      | some v, none =>
        if v = 0xFFFFFFFE ∨ v = 0xFFFFFFFF ∨ v = BitVec.ofNat 64 p.objs.length then pure false
        else postHalt 3 v (BitVec.ofNat 64 p.next)
      | none, _ => pure false

def setPost (s : State) (p : Post) : State := { s with posts := s.posts.map fun x => if x.id = p.id then p else x }

/-- A post leaves its channel and retires; the messages not yet acknowledged are. -/
def dropPost (s : State) (p : Post) (status : Nat) (info : List Word) : State :=
  let s := { s with posts := s.posts.filter fun x => x.id != p.id }
  let s := s.modifyHart p.core fun h => { h with ocp := h.ocp.retire }
  p.admitted.foldl (fun s n => conclude s p.chip n status info) s

/-- A failed receive poisons DONE, where it can be reached, and ends (R272, R430). -/
def failPost (s : State) (p : Post) (st : Nat) (r0 r1 : Word) : State :=
  let info := [BitVec.ofNat 64 st, r0, r1]
  if p.doneRef = 0 then dropPost s p 4 info
  else match partyRef s (homeSlice (clusterOf p.core)) p.part p.space needRW p.doneRef with
    | (.at key, s) => dropPost (counterPoison s key) p 4 info
    | (.never _, s) => dropPost s p 4 info
    | (.fault va kind cause, s) => setPost s { p with fail := some (st, r0, r1), susp := some ⟨BitVec.ofNat 64 va, kind, cause, p.space, none⟩ }

/-- The messages whose words have all been taken are acknowledged (R389, R390). Log entry 45. -/
def ackTaken (s : State) (p : Post) : State :=
  let open' (n : BitVec 32) : Bool := p.pending.any fun x => x.2.2 == n
  let s := setPost s { p with admitted := p.admitted.filter open' }
  (p.admitted.filter fun n => !open' n).foldl (fun s n => conclude s p.chip n 0 []) s

/-- A receive waits for a page: its messages are HELD (R266, R389). -/
def postWaits (s : State) (p : Post) (va kind cause : Nat) : State :=
  p.admitted.foldl (fun s n => answer s p.chip n 1 []) (setPost s { p with susp := some ⟨BitVec.ofNat 64 va, kind, cause, p.space, none⟩ })

/-- What has come too early waits in the work region, beside the visited map (R259, R272). -/
def keepEarly : PostM Unit := do
  let p ← getPost
  let n := Nat.min p.wsize.toNat (64 + 16 * p.objs.length + 8 * p.pending.length)
  if 64 < n then
    let _ ← pdoing fun s q => walkerAccess s q needRW p.work.toNat n
    modify fun e => { e with s := scratch e.s e.p.party p.work.toNat 64 n }

/-- One step of a receive: what has arrived is taken, and the rest kept. -/
def receiveStep : PostM Bool := do
  let p ← getPost
  let done ← takeStream (p.pending.length + 2)
  if !done then keepEarly
  pure done

/-- STREAM_DELIVER (R272): posted receive k takes what has arrived; what it has written is performed before it answers (R312). -/
def execStreamDeliver (k : Nat) (s : State) : Out :=
  match s.posts[k]? with
  | none => .next s
  | some p =>
    if p.susp.isSome then .next s
    else match p.fail with
    | some (st, r0, r1) => .next (failPost s p st r0 r1)
    | none =>
      match receiveStep.run ⟨s, p⟩ with
      | .ok true e => .next (dropPost (settleRepl p.core e.s) e.p 0 [])
      | .ok false e => .next (ackTaken (settleRepl p.core e.s) e.p)
      | .error (.stop st r0 r1) e => .next (failPost (settleRepl p.core e.s) e.p st r0 r1)
      | .error .piece e => .next (setPost e.s e.p)
      | .error (.fault va kind cause) e => .next (postWaits e.s e.p va kind cause)

/-! ## Fault records (R266, R361) -/

/-- The record of a suspended walk or receive is written; with the ring full it waits. -/
def postWalk (s : State) (w : Walk) : State :=
  match w.susp with
  | some x =>
    if x.posted then s
    else
      let off : Word := if w.fn = 3 then 0 else match w.stack with | f :: _ => f.addr | [] => w.root
      let (r, s) := postFault s w.part (if w.fn = 3 then 3 else 2) (homeSlice (clusterOf w.core)) x off.toNat w.core
      onWalk s w.id fun w => { w with susp := some { x with record := r } }
  | none => s

def postReceiveFault (s : State) (p : Post) : State :=
  match p.susp with
  | some x =>
    if x.posted then s
    else
      let (r, s) := postFault s p.part 3 (homeSlice (clusterOf p.core)) x p.taken p.core
      setPost s { p with susp := some { x with record := r } }
  | none => s

/-- A suspension without a record. -/
def unposted (x : Option Suspension) : Bool := match x with | some x => !x.posted | none => false

/-- WALK_SUSPEND (R266): the walker of a core writes the fault record of its walk, or of a posted receive. -/
def execWalkSuspend (core : Nat) (s : State) : Out :=
  match (s.hartOf core).walk.filter fun w => unposted w.susp, s.posts.find? fun p => p.core == core && unposted p.susp with
  | some w, _ => .next (postWalk s w)
  | none, some p => .next (postReceiveFault s p)
  | none, none => .next s

end Sys2Proof.Machine
end

