-- ==== Sys2Proof/Machine/System.lean ====
section
/-! DEFINITION. System instructions (R116–R123), control registers (R22–R40, R46), interrupts, the timer, arriving data and acknowledgements,
and the exceptions of fetching and decoding (R54, R115, R125–R133, R364). -/

namespace Sys2Proof.Machine

/-! ## Reading control registers (R119) -/

/-- COREID of a core (R30). -/
def coreId (n : Nat) (chip : BitVec 12) : Word :=
  let c := clusterOf n
  BitVec.ofNat 64 (n % 16 + c % 8 * 2 ^ 4 + c / 8 * 2 ^ 7 + sectorOf c * 2 ^ 12 + c * 2 ^ 16 + n * 2 ^ 24 + chip.toNat * 2 ^ 40)

/-- LSTAT (R32). -/
def LeaseRegs.lstat (l : LeaseRegs) : Word :=
  BitVec.ofNat 64 (l.left.toNat + 2 ^ 5 * ofBool l.held + 2 ^ 7 * ofBool l.park + 2 ^ 8 * l.pctx.toNat)

/-- SEQ (R34). -/
def Sequencer.word (q : Sequencer) : Word :=
  BitVec.ofNat 64 (q.count.toNat + 2 ^ 8 * ofBool q.capt + 2 ^ 9 * ofBool q.run + 2 ^ 12 * q.pos.toNat)

/-- SG of a stream (R35). -/
def Stream.geometry (st : Stream) : Word :=
  BitVec.ofNat 64 (ofBool st.en + 2 ^ 2 * ofBool st.dir + 2 ^ 4 * st.am.code + 2 ^ 6 * ofBool st.nt + 2 ^ 7 * ofBool st.exh
    + 2 ^ 32 * st.stride.toNat)

/-- A count register (R39). -/
def Count.word (c : Count) : Word := BitVec.ofNat 64 (c.ret.toNat + 2 ^ 32 * c.iss.toNat)

/-- `ControlRead(K)` (R119). DMEM reads the value in force, also while a written one waits for the next recess point (R31). Log entry 96. -/
def controlRead (s : State) (k : CtlReg) : Word :=
  let h := s.hart
  match k with
  | .tsw => h.tsw.word
  | .tsws => h.tsws.word
  | .tvec => h.trap.tvec
  | .tcause => BitVec.ofNat 64 (h.trap.code.toNat + 2 ^ 63 * ofBool h.trap.int)
  | .tval => h.trap.tval
  | .tepc => h.trap.tepc
  | .tscr => h.trap.tscr
  | .ipend => h.irq.pend.setWidth 64
  | .imask => h.irq.mask.setWidth 64
  | .cycle => h.irq.cycle
  | .timecmp => h.irq.timecmp
  | .spid => h.spid.setWidth 64
  | .dmem => h.dmem
  | .coreid => coreId s.cur h.chip
  | .treg => BitVec.ofNat 64 (ofBool h.tregEn + 2 * ofBool h.tregHalf)
  | .lstat => h.lease.lstat
  | .lctx => BitVec.ofNat 64 (h.lease.ctx.toNat + 2 ^ 8 * h.lease.hctx.toNat)
  | .lvc => BitVec.ofNat 64 (h.lease.rows.toNat + 2 ^ 16 * h.lease.cols.toNat)
  | .seq => h.seq.word
  | .sqi n => h.seq.sqi[n].setWidth 64
  | .sa j => h.streams[j].sa
  | .sn j => h.streams[j].sn
  | .sg j => h.streams[j].geometry
  | .old => h.old.word
  | .ost => h.ost.word
  | .ocp => h.ocp.word
  | .otl => h.otl.word
  | .rdv => h.rdv
  | .tagc i => h.tagc[i]
  | .tagt i => h.tagt[i]
  | .trdy => h.trdy

/-- `MFK` (R119). -/
def execMfk (d : Reg) (k : CtlReg) (s : State) : Out :=
  issue (.mfk d k) s fun s => (s.setG d (controlRead s k)).retire 4

/-! ## Writing control registers (R120) -/

/-- The sticky flags and RM of a word, written in every mode (R24). -/
def Tsw.writeUser (t : Tsw) (x : Word) : Tsw :=
  let y := Tsw.ofWord x t.mode
  { t with rm := y.rm, nv := y.nv, dz := y.dz, of := y.of, uf := y.uf, nx := y.nx }

/-- A write of TSW: GEN and IE in supervisor and firmware mode as well. -/
def Tsw.write (t : Tsw) (x : Word) : Tsw :=
  let y := Tsw.ofWord x t.mode
  let t' := t.writeUser x
  if t.mode = .user then t' else { t' with gen := y.gen, ie := y.ie }

/-- The mode the bits [1:0] of a word name; none for the reserved code (R15). -/
def Mode.ofCode (n : Nat) : Option Mode :=
  match n with
  | 0 => some .user
  | 1 => some .supervisor
  | 3 => some .firmware
  | _ => none

/-- A word with bits [1:0] clear. -/
def aligned4 (x : Word) : Word := x &&& ~~~3

/-- A clear of IPEND bits; TIMER stays set while CYCLE ≥ TIMECMP (R126). -/
def IrqRegs.clear (r : IrqRegs) (x : Word) : IrqRegs :=
  let p := r.pend &&& ~~~(BitVec.ofNat 6 x.toNat)
  { r with pend := if r.timecmp.toNat ≤ r.cycle.toNat then p ||| 4 else p }

/-- A write of TREG; the tag table clears where R47 says so. -/
def Hart.writeTreg (h : Hart) (x : Word) : Hart :=
  let en := bit1 x 0
  let half := bit1 x 1
  let wipe := h.tregEn && (!en || half != h.tregHalf)
  { h with tregEn := en, tregHalf := half, tagTable := if wipe then Vector.replicate 256 none else h.tagTable }

/-- A count register written whole. -/
def Count.ofWord (x : Word) : Count := ⟨BitVec.ofNat 32 (bits x 32 32), BitVec.ofNat 32 (bits x 0 32)⟩

/-- A count of rows or columns, brought into 1–256 (R33). -/
def clampLvc (n : Nat) : BitVec 9 := BitVec.ofNat 9 (min (max n 1) 256)

/-- A write of SEQ: a loop written as running waits for TRET (R36, R181); a write of CAPT is ignored (R180). Log entry 51. -/
def Sequencer.write (q : Sequencer) (x : Word) : Sequencer :=
  { q with pos := BitVec.ofNat 4 (bits x 12 4), run := bit1 x 9, count := BitVec.ofNat 5 (bits x 0 5), stopped := bit1 x 9 }

/-- A write of SG. -/
def Stream.writeGeometry (st : Stream) (x : Word) : Stream where
  sa := st.sa
  sn := st.sn
  stride := BitVec.ofNat 32 (bits x 32 32)
  exh := bit1 x 7
  nt := bit1 x 6
  am := AddrMode.ofCode (bits x 4 2)
  dir := bit1 x 2
  en := bit1 x 0
  ahead := []

/-- `ControlWrite(K, x)` in supervisor or firmware mode (R120, R23); TSW in every mode. TRDY and COREID but for CHIP cannot be written. A write of LSTAT
changes the core's registers only: a HELD it sets or clears takes or gives up no lease at the array, whose holder stays as it was (R32, R189). Log entry
94. -/
def controlWrite (k : CtlReg) (x : Word) (h : Hart) : Hart :=
  let fw := h.tsw.mode == .firmware
  match k with
  | .tsw => { h with tsw := h.tsw.write x }
  | .tsws => { h with tsws := Tsw.ofWord x ((Mode.ofCode (bits x 0 2)).getD h.tsws.mode) }
  | .tvec => { h with trap := { h.trap with tvec := aligned4 x } }
  | .tcause => { h with trap := { h.trap with int := bit1 x 63, code := BitVec.ofNat 16 x.toNat } }
  | .tval => { h with trap := { h.trap with tval := x } }
  | .tepc => { h with trap := { h.trap with tepc := aligned4 x } }
  | .tscr => { h with trap := { h.trap with tscr := x } }
  | .ipend => { h with irq := h.irq.clear x }
  | .imask => { h with irq := { h.irq with mask := BitVec.ofNat 6 x.toNat } }
  | .cycle => if fw then { h with irq := { h.irq with cycle := x } } else h
  | .timecmp => { h with irq := { h.irq with timecmp := x } }
  | .spid => { h with spid := BitVec.ofNat 20 x.toNat }
  | .dmem => { h with dmemNext := x }
  | .coreid => if fw then { h with chip := BitVec.ofNat 12 (bits x 40 12) } else h
  | .treg => h.writeTreg x
  | .lstat => { h with lease := { h.lease with
      pctx := BitVec.ofNat 8 (bits x 8 8), park := bit1 x 7, held := bit1 x 5, left := BitVec.ofNat 5 (bits x 0 5) } }
  | .lctx => { h with lease := { h.lease with hctx := BitVec.ofNat 8 (bits x 8 8), ctx := BitVec.ofNat 8 (bits x 0 8) } }
  | .lvc => { h with lease := { h.lease with rows := clampLvc (bits x 0 9), cols := clampLvc (bits x 16 9) } }
  | .seq => { h with seq := h.seq.write x }
  | .sqi n => { h with seq := { h.seq with sqi := h.seq.sqi.set n (BitVec.ofNat 32 x.toNat) } }
  | .sa j => h.onStream j fun st => { st with sa := x, ahead := [] }
  | .sn j => h.onStream j fun st => { st with sn := x, ahead := [] }
  | .sg j => h.onStream j fun st => st.writeGeometry x
  | .old => { h with old := Count.ofWord x }
  | .ost => { h with ost := Count.ofWord x }
  | .ocp => { h with ocp := Count.ofWord x }
  | .otl => { h with otl := Count.ofWord x }
  | .rdv => { h with rdv := x }
  | .tagc i => { h with tagc := h.tagc.set i x }
  | .tagt i => { h with tagt := h.tagt.set i x }
  | .trdy => h

/-- An MTK of LSTAT that writes PARK 0 while PARK is 1 discards the parked batch (R336). The add that a FORK.mb owes for discarded commands is never
made. Log entry 66. -/
def discardPark (s : State) (k : CtlReg) (x : Word) : State :=
  if k = .lstat ∧ s.hart.lease.park ∧ !bit1 x 7 then
    let a := s.array s.cluster
    s.setArray s.cluster { a with parks := a.parks.filter fun p => p.core != s.cur, resumes := a.resumes.filter fun n => n != s.cur }
  else s

/-- `MTK` (R120, R26): firmware mode in TSWS from supervisor mode takes the privilege trap, the reserved mode is illegal. A user-mode write of a
register without a W field has taken the privilege trap before (`gate`). A write of SPID discards what streams have read ahead and the word fetched
ahead under the old space (R16, R178). -/
def execMtk (k : CtlReg) (a : Reg) (s : State) : Out :=
  issue (.mtk k a) s fun s =>
    let x := s.g a
    if k == .tsws && bits x 0 2 == 2 then illegal (.mtk k a) s
    else if k == .tsws && bits x 0 2 == 3 && s.hart.tsw.mode == .supervisor then privileged (.mtk k a) s
    else
      let s := (discardPark s k x).onHart (controlWrite k x)
      (if k = .spid then (dropAhead s).onHart fun h => { h with ahead := none } else s).retire 4

/-! ## Traps by instruction -/

/-- `TRAP k` (R117): `TRAP 0` waits for the parked batch, the sequencer and the lease commands, and ends a held lease first. -/
def execTrap (k : BitVec 12) (s : State) : Out :=
  issue (.trap k) s fun s =>
    if k = 0 ∧ (s.hart.lease.park || s.hart.running || leaseBusy s) then s
    else
      let s := if k = 0 && s.hart.lease.held then endLease s else s
      takeTrap false exTrap (k.setWidth 64) (s.hart.pc + 4) s

/-- `BRK k` (R118). -/
def execBrk (k : BitVec 12) (s : State) : Out :=
  issue (.brk k) s fun s => takeTrap false exBreak (k.setWidth 64) s.hart.pc s

/-- `TRET` (R121). -/
def execTret (s : State) : Out := issue .tret s trapReturn

/-- `GENPUB` (R122). Log entry 79. -/
def execGenpub (a : Reg) (s : State) : Out :=
  issue (.genpub a) s fun s =>
    if s.hart.old.out ≠ 0 ∨ s.hart.ost.out ≠ 0 then s
    else
      let gnew : BitVec 24 := BitVec.ofNat 24 (s.g a).toNat
      let s := s.onHart fun h => { h with
        ahead := none
        tsw := { h.tsw with gen := if (gnew - h.tsw.gen).toNat < 2 ^ 23 then gnew else h.tsw.gen } }
      s.retire 4

/-- SLICE is requested and enabled (R123). -/
def sliceDue (h : Hart) : Bool := h.irq.pend.getLsbD irqSlice && h.irq.mask.getLsbD irqSlice && h.tsw.ie

/-- `YIELD` (R123): the recess point; a SLICE interrupt is taken after it. -/
def execYield (s : State) : Out :=
  issue .yield s fun s =>
    if s.hart.old.out ≠ 0 ∨ s.hart.ost.out ≠ 0 then s
    else
      let s := (s.onHart fun h => { h with dmem := h.dmemNext }).retire 4
      if sliceDue s.hart then takeTrap true irqSlice 0 s.hart.pc s else s

/-! ## Interrupts and time -/

/-- TAKE_INTERRUPT (R125): the first takeable interrupt; a walk in progress parks (R265), or ends first. -/
def execTakeInterrupt (s : State) : Out :=
  match takeable s.hart with
  | none => .next s
  | some b =>
    let s := match s.hart.walk with | some w => parkWalk s w | none => s
    .next (if s.hart.walk.isSome then s else takeTrap true b 0 s.hart.pc s)

/-- TIMER_COMPARE (R126): n cycles pass for every hart. -/
def execTimerCompare (n : Nat) (s : State) : Out :=
  .next { s with
    hart := s.hart.tick n
    others := s.others.map fun p => (p.1, p.2.tick n)
    mgmt := { s.mgmt with cycle := s.mgmt.cycle + BitVec.ofNat 64 n } }

/-! ## Data and acknowledgements (R39, R132, R133, R137, R364) -/

/-- LOAD_DATA_RETURN: the data of pending load k arrives, or poison. Log entry 10. -/
def execLoadDataReturn (k : Nat) (err : Bool) (s : State) : Out :=
  match s.hart.loads[k]? with
  | none => .next s
  | some l =>
    .next (s.onHart fun h => { h with loads := h.loads.eraseIdx k, old := h.old.retire }.fill l.dest l.addr l.data (l.bad || err))

/-- Every unit that a pending store writes has performed it: the writes it put into the replication sequence are applied in all three replicas
(R312). -/
def storeDone (s : State) (p : PendingStore) : Bool := !s.repl.any fun w => w.core == s.cur && p.first ≤ w.num && w.num < p.upto

/-- STORE_ACKNOWLEDGE (R137): pending store `x.k` retires once every unit has performed it, in any order among the stores; an error raises ERR. Log
entry 12. -/
def execStoreAcknowledge (x : StoreAck) (s : State) : Out :=
  match s.hart.stores[x.k]? with
  | none => .next s
  | some p =>
    if !storeDone s p then .next s
    else
      let s := s.onHart fun h => { h with stores := h.stores.eraseIdx x.k, ost := h.ost.retire }
      .next (if x.err then raise s s.cur irqErr else s)

/-! ## Fetching and decoding -/

/-- ILLEGAL_INSTRUCTION (R53, R54): a word that is no instruction; TVAL holds it, and the second word where one was fetched. -/
def execIllegalInstruction (w0 : BitVec 32) (w1 : Option (BitVec 32)) (s : State) : Out :=
  let high := match w1 with | some w => w.toNat | none => 0
  .next (trapHere ⟨exIllegal, BitVec.ofNat 64 (w0.toNat + 2 ^ 32 * high)⟩ s)

/-- FETCH_EXCEPTION (R52, R115, R129): at the first instruction of a handler the core stops, and the double fault is reported to slice 2d.
Log entry 28. -/
def execFetchException (va : Word) (s : State) : Out :=
  if s.hart.entering then .next { (s.onHart fun h => { h with halted := true }) with doubles := s.doubles ++ [s.cur] }
  else .next (trapHere ⟨exFetch, va⟩ s)

end Sys2Proof.Machine
end

