-- ==== Sys2Proof/Machine/Timetable.lean ====
section
/-! DEFINITION. The Timetable engine (R326–R332, R338): schedule record, intake, admission, and the ends of graphs. -/

namespace Sys2Proof.Machine

/-! ## Accesses of the engine (R326, R331, R430) -/

/-- Why an operation of the engine stops: a page fault in a space, met for node `node`; an error it cannot get past; a rejection (R330). -/
inductive EHalt where
  | fault (va kind cause node : Nat) (space : BitVec 20)
  | err
  | reject (code node : Nat)
  deriving DecidableEq, Repr

abbrev EngM := EStateM EHalt State

def engine {α : Type} (f : State → Except EHalt α × State) : EngM α := do
  let s ← get
  let (r, s) := f s
  set s
  match r with
  | .ok x => pure x
  | .error h => throw h

/-- The engine reads `n` bytes for a node of a partition. -/
def engRead (p : BitVec 16) (space : BitVec 20) (node va n : Nat) : EngM (List Byte) := engine fun s =>
  match partyRead s (firstSlice p) p space Config.cores .gl va n with
  | (.ok bs, s) => (.ok bs, s)
  | (.fault va k c, s) => (.error (.fault va k c node space), s)
  | (.err, s) => (.error .err, s)

/-- Words read by the engine. -/
def engWords (p : BitVec 16) (space : BitVec 20) (node va n : Nat) : EngM (List Word) := do
  return wordsOf n (← engRead p space node va (8 * n))

/-- Words written by the engine. -/
def engWrite (p : BitVec 16) (space : BitVec 20) (node va : Nat) (ws : List Word) : EngM Unit := engine fun s =>
  match partyWrite s (firstSlice p) p space Config.cores .gl va (ws.flatMap wordBytes) with
  | (.ok _, s) => (.ok (), s)
  | (.fault va k c, s) => (.error (.fault va k c node space), s)
  | (.err, s) => (.error .err, s)

/-- The place of a counter for the engine (R430). Log entry 73. -/
def engRef (p : BitVec 16) (space : BitVec 20) (node : Nat) (need : Need) (r : Word) : EngM Nat := engine fun s =>
  match partyRef s (firstSlice p) p space need r with
  | (.at key, s) => (.ok key, s)
  | (.fault va k c, s) => (.error (.fault va k c node space), s)
  | (.never _, s) => (.error .err, s)

/-! ## The schedule record (R326) -/

/-- The lowest space of a partition (R326). Log entry 14. -/
def lowestSpace (s : State) (p : BitVec 16) : Option (BitVec 20) :=
  (s.spaces.filter fun x => x.2.part == p).foldl (fun o x => match o with
    | some b => if x.1.toNat < b.toNat then some x.1 else some b
    | none => some x.1) none

/-- The lowest space, where the schedule record lies. -/
def homeSpace (p : BitVec 16) : EngM (BitVec 20) := do
  match lowestSpace (← get) p with
  | some x => pure x
  | none => throw .err

/-- The schedule record (R326) as words; one with a reserved bit set is rejected, like one that cannot be read (R11). -/
def schedule (p : BitVec 16) : EngM (List Word) := do
  match descOf (← get) p with
  | some d =>
    let r ← engWords p (← homeSpace p) 0 d.sched.toNat 8
    if bits (r.getD 7 0) 26 6 ≠ 0 then throw .err else pure r
  | none => throw .err

/-- An add of the engine to the counter at a place: a release of what it has written (R334, R338). -/
def engAdd (key : Nat) (x : Word) : EngM Unit := modify fun s => counterAdd (settleRepl Config.cores s) key x

/-- A counter is poisoned by the engine. -/
def engPoison (key : Nat) : EngM Unit := modify fun s => counterPoison (settleRepl Config.cores s) key

def schedCtl (r : List Word) : Word := r.getD 7 0
def schedQm (r : List Word) : Nat := bits (schedCtl r) 0 8
def schedPool (r : List Word) : Nat := bits (schedCtl r) 8 16 + 1
def schedLevel (r : List Word) : Nat := bits (schedCtl r) 24 2
def schedQuant (r : List Word) : Nat := bits (schedCtl r) 32 16
def schedForce (r : List Word) : Nat := bits (schedCtl r) 48 8
def schedStall (r : List Word) : Nat := bits (schedCtl r) 56 8

/-- A fault record of the engine (R361): the node and graph slot, or 1 in bit 20 while admitting or taking the ring. -/
def postEngine (s : State) (p : BitVec 16) (x : Suspension) (who : Nat) : Suspension × State :=
  let (r, s) := postFault s p 5 (firstSlice p) x 0 who
  ({ x with record := r }, s)

/-- A new suspension of the engine in the space of its fault (R331), its record written where the ring has a place. -/
def suspendEngine (s : State) (p : BitVec 16) (space : BitVec 20) (va kind cause who : Nat) : Suspension × State :=
  postEngine s p ⟨BitVec.ofNat 64 va, kind, cause, space, none⟩ who

/-! ## Intake (R326) -/

/-- The engine stops taking slots: SUBD is poisoned and SVC raised on core 0 of the partition. Log entry 73. -/
def stopIntake (s : State) (p : BitVec 16) : State :=
  let poison : EngM Unit := do
    let r ← schedule p
    let key ← engRef p (← homeSpace p) 0 needRW (r.getD 2 0)
    engPoison key
  let s := match poison.run s with | .ok _ s => s | .error _ s => s
  raise (onEngine s p fun e => { e with stopped := true, susp := none }) (firstCore p) irqSvc

/-- The next slot of the ring: its graph record, with SUBD advanced; none where SUBF has not reached it. -/
def takeSlot (p : BitVec 16) (j : Word) : EngM (Option (List Word)) := do
  let sp ← homeSpace p
  let r ← schedule p
  let subf ← engRef p sp 0 needR (r.getD 1 0)
  let s ← get
  if s.poisoned subf then throw .err
  else if !reached (s.counter subf) (j + 1) then pure none
  else
    let a ← engWords p sp 0 ((r.getD 0 0).toNat + 8 * (j.toNat % (schedQm r + 1))) 1
    let g ← engWords p sp 0 (a.headD 0).toNat 8
    let subd ← engRef p sp 0 needRW (r.getD 2 0)
    engAdd subd 1
    pure (some g)

/-- The value of SUBD once both counters are free of poison. -/
def resumeSlot (p : BitVec 16) : EngM (Option Word) := do
  let sp ← homeSpace p
  let r ← schedule p
  let subf ← engRef p sp 0 needR (r.getD 1 0)
  let subd ← engRef p sp 0 needR (r.getD 2 0)
  let s ← get
  pure (if s.poisoned subf || s.poisoned subd then none else some (s.counter subd))

/-- The lowest free graph slot. -/
def Engine.freeSlot (e : Engine) : Option Nat := (List.range 16).find? fun k => (e.graph k).isNone

/-- SUBMISSION_INTAKE (R326): the engine of a partition takes the next slot of the ring, or takes intake up again. Log entry 49. -/
def execSubmissionIntake (part : Nat) (s : State) : Out :=
  let p := BitVec.ofNat 16 part
  let e := engineOf s p
  if (descOf s p).isNone then .next s
  else match e.susp with
  | some x =>
    if x.posted then .next s
    else
      let (x, s) := postEngine s p x (2 ^ 20)
      .next (onEngine s p fun e => { e with susp := some x })
  | none =>
    if e.stopped then
      match (resumeSlot p).run s with
      | .ok (some v) s => .next (onEngine s p fun e => { e with stopped := false, taken := v })
      | .ok none s => .next s
      | .error _ s => .next s
    else match e.freeSlot with
    | none => .next s
    | some slot =>
      match (takeSlot p e.taken).run s with
      | .ok none s => .next s
      | .ok (some g) s =>
        .next (onEngine s p fun e => { e with
          taken := e.taken + 1
          graphs := e.graphs ++ [⟨slot, e.taken, g, false, [], false, none, none, 0⟩] })
      | .error (.fault va k c _ sp) s =>
        let (x, s) := suspendEngine s p sp va k c (2 ^ 20)
        .next (onEngine s p fun e => { e with susp := some x })
      | .error _ s => .next (stopIntake s p)

/-! ## The graph record (R328) -/

def Graph.w (g : Graph) (k : Nat) : Word := g.words.getD k 0
def Graph.space (g : Graph) : BitVec 20 := BitVec.ofNat 20 (g.w 6).toNat
def Graph.nn (g : Graph) : Nat := (g.w 1).toNat

/-- A completion reference: 0, or of KIND 00, 01 or 10 and of the right form. -/
def doneForm (r : Word) : Bool := r == 0 || addForm r

/-- An aligned global address. -/
def alignedGl (a : Word) (n : Nat) : Bool := a.toNat % n == 0 && a.toNat < 2 ^ 55

/-- The graph record's own fields (R330 step 1). -/
def graphRecordOk (g : Graph) : Bool :=
  alignedGl (g.w 0) 32 && 1 ≤ g.nn && g.nn ≤ 4096 && alignedGl (g.w 2) 4 && doneForm (g.w 3) && alignedGl (g.w 4) 16
    && bits (g.w 6) 28 4 == 0 && bits (g.w 6) 38 26 == 0 && g.w 7 == 0

/-! ## Nodes (R329) -/

/-- The 32-bit words of a byte list. -/
def halves : Nat → List Byte → List Nat
  | 0, _ => []
  | n + 1, bs => leNat (bs.take 4) :: halves n (bs.drop 4)

def loopFirst (n : GNode) : Nat := bits n.arg 0 12
def loopLast (n : GNode) : Nat := bits n.arg 16 12

/-- The fields of a node record that depend on its kind (R329, R330). -/
def nodeFields (nn : Nat) (kind : Nat) (arg aux : Word) (succ : List Nat) : Bool :=
  match kind with
  | 0 => alignedGl arg 64 && aux == 0
  | 1 => bits arg 12 52 == 0
  | 2 => alignedGl arg 64 && bits aux 0 4 ≤ 5 && bits aux 7 1 == 0 && bits aux 8 3 < 6 && bits aux 11 53 == 0
  | 3 => alignedGl arg 8 && succ.length == 2
  | 4 => bits arg 12 4 == 0 && bits arg 28 36 == 0 && bits arg 0 12 < nn && bits arg 16 12 < nn
  | 5 => alignedGl arg 8 && aux == 0 && !succ.isEmpty
  | 6 => arg == 0 && aux == 0
  | _ => false

/-- CTL of a cohort record (R333). -/
def cohCtl (c : List Word) : Word := c.getD 7 0
def cohGroups (c : List Word) : List Word := (c.drop 16).take (bits (cohCtl c) 0 4 + 1)
def grpOff (w : Word) : Nat := bits w 0 8
def grpMask (w : Word) : Nat := bits w 8 16

/-- Two groups on one cluster share a core. -/
def groupsClash : List Word → Bool
  | [] => false
  | w :: r => r.any (fun v => grpOff v == grpOff w && (grpMask v &&& grpMask w) != 0) || groupsClash r

/-- A cohort record breaks no rule of R333. -/
def cohortOk (c : List Word) : Bool :=
  alignedGl (c.getD 0 0) 4 && doneForm (c.getD 5 0)
    && bits (cohCtl c) 7 1 == 0 && bits (cohCtl c) 28 36 == 0 && bits (cohCtl c) 8 20 ≤ 524288
    && (List.range 8).all (fun k => c.getD (8 + k) 0 == 0)
    && (cohGroups c).all (fun w => grpMask w != 0 && bits w 24 8 == 0) && !groupsClash (cohGroups c)
    && ((c.drop 16).drop (bits (cohCtl c) 0 4 + 1)).all (· == 0)

/-- The least power of two that is at least `n`. -/
def pow2From (n : Nat) : Nat → Nat
  | 0 => 1
  | f + 1 => let k := pow2From n f; if n ≤ k then k else 2 * k

/-- The span of a cohort (R333). -/
def cohSpan (c : List Word) : Nat := pow2From (((cohGroups c).map grpOff).foldl Nat.max 0 + 1) 8

/-- A set list (R329): read and write ranges. -/
structure Ranges where
  reads  : List (Nat × Nat)
  writes : List (Nat × Nat)

/-- Read node i and what it names: RECORD checks (R330). -/
def admitNode (p : BitVec 16) (g : Graph) (i : Nat) : EngM (GNode × Option Ranges) := do
  let bad {α : Type} : EngM α := throw (.reject 1 i)
  let sp := g.space
  let r ← engWords p sp i ((g.w 0).toNat + 32 * i) 4
  let hdr := r.getD 0 0
  let arg := r.getD 1 0
  let aux := r.getD 2 0
  let sets := r.getD 3 0
  let kind := bits hdr 0 4
  let ns := bits hdr 16 16
  if bits hdr 4 12 ≠ 0 ∨ 4096 < ns then bad
  else
    let succ := halves ns (← engRead p sp i ((g.w 2).toNat + 4 * bits hdr 32 32) (4 * ns))
    if succ.any (fun j => g.nn ≤ j) || !nodeFields g.nn kind arg aux succ || !alignedGl sets 8 then bad
    else
      let ranges ← if sets = 0 then pure none else do
        let h := (← engWords p sp i sets.toNat 1).headD 0
        let nr := bits h 0 8
        let nw := bits h 8 8
        if bits h 16 48 ≠ 0 ∨ 16 < nr + nw then bad
        else
          let l ← engWords p sp i (sets.toNat + 8) (2 * (nr + nw))
          let pairs := (List.range (nr + nw)).map fun k => ((l.getD (2 * k) 0).toNat, (l.getD (2 * k + 1) 0).toNat)
          pure (some ⟨pairs.take nr, pairs.drop nr⟩)
      let rec' ← if kind = 0 then engWords p sp i arg.toNat 32 else if kind = 2 then engWords p sp i arg.toNat 8 else pure []
      if kind = 0 && !cohortOk rec' then bad
      else if kind = 2 && !(recSam rec' == .gl && recDam rec' == .gl && recIam rec' == .gl) then bad
      else pure (⟨kind, succ, arg, aux, if kind = 0 then rec' else [], .waiting, 0, false, 0, false, 0, none, none⟩, ranges)

/-- The nodes from i on. -/
def admitNodes (p : BitVec 16) (g : Graph) : Nat → Nat → EngM (List (GNode × Option Ranges))
  | 0, _ => pure []
  | n + 1, i => do
    let x ← admitNode p g i
    let r ← admitNodes p g n (i + 1)
    pure (x :: r)

/-- The edge from i to j is the back edge of a loop (R329). -/
def backEdge (ns : List GNode) (i j : Nat) : Bool :=
  match ns[j]? with
  | some n => n.kind == 4 && loopLast n == i
  | none => false

/-- The targets of the edges of node i that are no back edges. -/
def forward (ns : List GNode) (i : Nat) : List Nat :=
  match ns[i]? with
  | some n => n.succ.filter fun j => !backEdge ns i j
  | none => []

/-- What can be reached along edges from a set of nodes, in at most `fuel` rounds. -/
def reachable (edges : Nat → List Nat) : Nat → List Nat → List Nat → List Nat
  | 0, seen, _ => seen
  | f + 1, seen, front =>
    let new := ((front.flatMap edges).eraseDups).filter fun j => !seen.contains j
    if new.isEmpty then seen else reachable edges f (seen ++ new) new

/-- A path of one edge or more, of `n` at most, leads from i to j. -/
def pathTo (edges : Nat → List Nat) (n i j : Nat) : Bool :=
  let start := (edges i).eraseDups
  (reachable edges n start start).contains j

/-- Node k lies in the body of a LOOP node. -/
def inBody (n : GNode) (k : Nat) : Bool := loopFirst n ≤ k && k ≤ loopLast n

/-- Node i breaks a rule of loops (R330). -/
def loopBroken (ns : List GNode) (i : Nat) : Bool :=
  match ns[i]? with
  | none => false
  | some n =>
    if n.kind != 4 then false
    else
      let body := (List.range ns.length).filter (inBody n)
      let others := (List.range ns.length).filter fun k => !inBody n k && k != i
      let succOf (k : Nat) : List Nat := match ns[k]? with | some m => m.succ | none => []
      n.succ.length != 2 || n.succ.headD 0 != loopFirst n || loopLast n < loopFirst n || inBody n i
        || body.any (fun k => k != loopLast n && (succOf k).any fun j => !inBody n j)
        || (succOf (loopLast n)).any (fun j => j != i)
        || others.any (fun k => (succOf k).any (inBody n))
        || (List.range ns.length).any fun k => k != i && match ns[k]? with
            | some m => m.kind == 4 && loopFirst m ≤ loopLast n && loopFirst n ≤ loopLast m
                && !(loopFirst n ≤ loopFirst m && loopLast m ≤ loopLast n) && !(loopFirst m ≤ loopFirst n && loopLast n ≤ loopLast m)
            | none => false

/-- Two ranges share a byte. -/
def overlap (a b : Nat × Nat) : Bool := Nat.max a.1 b.1 < Nat.min (a.1 + a.2) (b.1 + b.2)

/-- Writes of one against reads or writes of the other. -/
def clash (a b : Ranges) : Bool :=
  a.writes.any (fun x => (b.reads ++ b.writes).any (overlap x)) || b.writes.any fun x => (a.reads ++ a.writes).any (overlap x)

/-- The smallest loop body that holds both nodes, or the whole graph. Log entry 48. -/
def commonBody (ns : List GNode) (i j : Nat) : Nat × Nat :=
  (ns.filter fun n => n.kind == 4 && inBody n i && inBody n j).foldl
    (fun b n => if loopLast n - loopFirst n < b.2 - b.1 then (loopFirst n, loopLast n) else b) (0, ns.length)

/-- A path joins two nodes: within the smallest body that holds both, which its own back edge leaves (R330). Log entry 48. -/
def joined (ns : List GNode) (i j : Nat) : Bool :=
  let b := commonBody ns i j
  let edges (k : Nat) : List Nat := match ns[k]? with
    | some n => n.succ.filter fun x => b.1 ≤ x && x ≤ b.2
    | none => []
  pathTo edges ns.length i j || pathTo edges ns.length j i

/-- Nodes i < j race (R330). Log entry 48. -/
def race (ns : List GNode) (rs : List (Option Ranges)) (i j : Nat) : Bool :=
  match rs[i]?, rs[j]? with
  | some (some a), some (some b) => clash a b && !joined ns i j
  | _, _ => false

/-- A cohort that the partition can never hold: its span, or its cores against the areas of the pool (R330, R333). -/
def neverPlaced (p : BitVec 16) (pool : Nat) (n : GNode) : Bool :=
  n.kind == 0 && (decide ((nodeSpan p.toNat).2 < cohSpan n.words)
    || decide (pool < ((cohGroups n.words).map fun w => ((List.range 16).filter (grpMask w).testBit).length).sum))

/-- Admission (R330): the nodes, or the first failure. -/
def admission (p : BitVec 16) (g : Graph) : EngM (List GNode) := do
  if !graphRecordOk g then throw (.reject 1 0)
  else if (spaceEntry (← get) p g.space).isNone then throw (.reject 2 0)
  else
    let l ← admitNodes p g g.nn 0
    let ns := l.map (·.1)
    let rs := l.map (·.2)
    let ids := List.range ns.length
    let firstBad (code : Nat) (f : Nat → Bool) : EngM Unit := match ids.find? f with | some i => throw (.reject code i) | none => pure ()
    let pool := schedPool (← schedule p)
    firstBad 2 fun i => match ns[i]? with | some n => neverPlaced p pool n | none => false
    firstBad 3 fun i => pathTo (forward ns) ns.length i i
    firstBad 4 (loopBroken ns)
    firstBad 5 fun i => ids.any fun j => i < j && race ns rs i j
    pure ns

/-! ## The end of a graph (R330, R338) -/

/-- The space of the status block and GDONE. -/
def endSpace (s : State) (p : BitVec 16) (g : Graph) : BitVec 20 :=
  if (spaceEntry s p g.space).isSome then g.space else (lowestSpace s p).getD 0

/-- The status block, then GDONE. Log entry 47. -/
def writeEnd (p : BitVec 16) (g : Graph) (status node : Nat) : EngM Unit := do
  let sp := endSpace (← get) p g
  engWrite p sp node (g.w 4).toNat [BitVec.ofNat 64 status, BitVec.ofNat 64 node]
  if g.w 3 ≠ 0 && doneForm (g.w 3) then
    let key ← engRef p sp node needRW (g.w 3)
    if status = 6 then engPoison key else engAdd key 1

/-- A graph leaves its slot. -/
def dropGraph (s : State) (p : BitVec 16) (slot : Nat) : State :=
  onEngine s p fun e => { e with graphs := e.graphs.filter fun g => g.slot != slot, pool := e.pool.filter fun x => x.1 != slot }

/-- A graph that is to end writes its end, or waits for a page. Log entry 47. -/
def finishGraph (s : State) (p : BitVec 16) (slot : Nat) : State :=
  match (engineOf s p).graph slot with
  | none => s
  | some g =>
    match g.ending with
    | none => s
    | some (st, node) =>
      if g.susp.isSome then s
      else match (writeEnd p g st node).run s with
      | .ok _ s => dropGraph s p slot
      | .error (.fault va k c _ sp) s =>
        let who := node + slot * 2 ^ 16 + (if g.admitted then 0 else 2 ^ 20)
        let (x, s) := suspendEngine s p sp va k c who
        onGraph s p slot fun g => { g with susp := some x, who := who }
      | .error _ s => dropGraph s p slot

/-- The SUBMIT command that waits for the graph of a ring slot learns its status (R380). Log entry 22. -/
def noteStatus (s : State) (p : BitVec 16) (num : Word) (status : Nat) : State :=
  let note (c : Running) : Running := if c.op = 1 ∧ c.a0 = num + 1 then { c with a1 := BitVec.ofNat 64 status } else c
  let onRegs (q : QueueRegs) : QueueRegs := if q.part = p then { q with running := q.running.map note } else q
  { s with ports := s.ports.map fun h => { h with queues := h.queues.map fun x => (x.1, onRegs x.2) } }

/-- A graph ends with a status. -/
def endGraph (s : State) (p : BitVec 16) (slot status node : Nat) : State :=
  let s := match (engineOf s p).graph slot with | some g => noteStatus s p g.num status | none => s
  finishGraph (onGraph s p slot fun g => { g with ending := some (status, node) }) p slot

end Sys2Proof.Machine
end

