-- ==== Sys2Proof/Machine/Cohort.lean ====
section
/-! DEFINITION. Nodes and cohorts (R331–R345): firing, placement, start images, the completion tree, transfer and service nodes, saved contexts,
slicing and the stall watchdog. -/

namespace Sys2Proof.Machine

/-! ## Edges (R331) -/

/-- An edge from i to j delivers. A back edge begins the next pass of its loop, or ends it. -/
def deliverEdge : Nat → List GNode → Nat → Nat × Bool → List GNode
  | 0, ns, _, _ => ns
  | f + 1, ns, i, (j, done) =>
    if backEdge ns i j then
      match ns[j]? with
      | some n =>
        if n.st != .running then ns
        else
          let k := n.pass + 1
          if k < n.aux.toNat then
            let ns := ns.mapIdx fun m x =>
              if m = j then { x with pass := k }
              else if inBody n m then { x with
                st := .waiting, arrived := 0, anyDone := false, pass := 0, posted := false, cohort := 0, result := none }
              else x
            deliverEdge f ns j (n.succ.getD 0 0, true)
          else
            deliverEdge f (ns.modify j fun x => { x with pass := k, st := .done }) j (n.succ.getD 1 0, true)
      | none => ns
    else ns.modify j fun x => { x with arrived := x.arrived + 1, anyDone := x.anyDone || done }

/-- The edges of node i deliver, each with its outcome. -/
def deliverAll (ns : List GNode) (i : Nat) (outs : List Bool) : List GNode :=
  match ns[i]? with
  | some n => (n.succ.zip outs).foldl (fun ns x => deliverEdge (ns.length + 1) ns i x) ns
  | none => ns

/-- The edges into node j that are no back edges. -/
def edgesInto (ns : List GNode) (j : Nat) : Nat :=
  ((List.range ns.length).map fun i => ((forward ns i).filter fun k => k == j).length).sum

/-- A node is still to run. -/
def GNode.open (n : GNode) : Bool := n.st == .waiting || n.st == .ready || n.st == .running

/-- A graph with no node left ends (R331, R338). -/
def settle (s : State) (p : BitVec 16) (slot : Nat) : State :=
  match (engineOf s p).graph slot with
  | none => s
  | some g =>
    if !g.admitted || g.ending.isSome || g.nodes.any GNode.open then s
    else if g.failed then endGraph s p slot 6 g.who else endGraph s p slot 0 0

/-- A node leaves the pool. -/
def leavePool (s : State) (p : BitVec 16) (slot node : Nat) : State :=
  onEngine s p fun e => { e with pool := e.pool.filter fun x => x != (slot, node) }

/-! ### Nodes that every edge has reached

A step that delivers edges first fires what earlier deliveries have made ready, so those that wait unfired became ready together: they join the pool
in the order of R332. -/

/-- Nodes of a graph that are not ready, since a loop has begun its next pass or ended, are not in the pool (R331, R332). -/
def trimPool (s : State) (p : BitVec 16) (slot : Nat) : State :=
  onEngine s p fun e => { e with pool := e.pool.filter fun x =>
    x.1 != slot || match (e.graph slot).bind fun g => g.nodes[x.2]? with | some n => n.st == .ready | none => false }

/-- Every edge into a waiting node has delivered. -/
def reachedNode (ns : List GNode) (j : Nat) (n : GNode) : Bool := n.st == .waiting && edgesInto ns j ≤ n.arrived

/-- A waiting node becomes ready: an edge was DONE, or it has no predecessor. -/
def becomesReady (ns : List GNode) (j : Nat) (n : GNode) : Bool := reachedNode ns j n && (n.anyDone || edgesInto ns j == 0)

/-- Nodes that only SKIP has reached are skipped, the lowest first, and deliver SKIP. -/
def skipNodes : Nat → List GNode → List GNode
  | 0, ns => ns
  | f + 1, ns =>
    match (List.range ns.length).find? fun j => match ns[j]? with | some n => reachedNode ns j n && !becomesReady ns j n | none => false with
    | none => ns
    | some j =>
      let outs := match ns[j]? with | some n => n.succ.map fun _ => false | none => []
      skipNodes f (deliverAll (ns.modify j fun n => { n with st := .skipped }) j outs)

/-- The nodes of a graph that can fire do (R331). -/
def fireGraph (s : State) (p : BitVec 16) (slot : Nat) : State :=
  match (engineOf s p).graph slot with
  | none => s
  | some g =>
    if !g.admitted || g.ending.isSome then s
    else
      let ns := skipNodes (2 * g.nodes.length) g.nodes
      let new := (List.range ns.length).filter fun j => match ns[j]? with | some n => becomesReady ns j n | none => false
      let s := trimPool (onGraph s p slot fun g => { g with nodes := ns }) p slot
      let s := onGraph s p slot fun g => { g with nodes := ns.mapIdx fun j n => if new.contains j then { n with st := .ready } else n }
      settle (onEngine s p fun e => { e with pool := e.pool ++ new.map fun j => (slot, j) }) p slot

/-- The nodes of every graph that can fire do, by graph slot and then by node (R332). -/
def fireAll (s : State) (p : BitVec 16) : State := (List.range 16).foldl (fun s k => fireGraph s p k) s

/-- A node is done, and its edges deliver. -/
def nodeDone (s : State) (p : BitVec 16) (slot node : Nat) (outs : List Bool) : State :=
  let s := fireAll s p
  let s := onGraph s p slot fun g => { g with nodes := deliverAll (g.nodes.modify node fun n => { n with st := .done }) node outs }
  settle (trimPool s p slot) p slot

/-- Every outgoing edge of a node delivers DONE. -/
def allDone (n : GNode) : List Bool := n.succ.map fun _ => true

/-- A node of a graph that has failed: what waits or is ready is dropped, and a LOOP, whose body is dropped, runs no longer. -/
def GNode.dropped (n : GNode) : GNode :=
  if n.st == .waiting || n.st == .ready || (n.st == .running && n.kind == 4) then { n with st := .dropped, susp := none } else n

/-- The fault records of the nodes of a graph that are dropped leave their rings. -/
def takeDropped (s : State) (p : BitVec 16) (slot : Nat) : State :=
  match (engineOf s p).graph slot with
  | some g => (g.nodes.filterMap fun n => if n.dropped.st == .dropped then n.susp else none).foldl takeRecord s
  | none => s

/-- A node fails, and the graph: its waiting and ready nodes are dropped. Log entry 47. -/
def failNode (s : State) (p : BitVec 16) (slot node : Nat) : State :=
  let s := takeDropped s p slot
  let s := onGraph s p slot fun g => { g with
    who := if g.failed then g.who else node
    failed := true
    nodes := (g.nodes.modify node fun n => { n with st := .failed, susp := none }).map GNode.dropped }
  settle (onEngine s p fun e => { e with pool := e.pool.filter fun x => x.1 != slot }) p slot

/-- A node waits for a page. -/
def suspendNode (s : State) (p : BitVec 16) (space : BitVec 20) (slot node va kind cause : Nat) : State :=
  let (x, s) := suspendEngine s p space va kind cause (node + slot * 2 ^ 16)
  onNode s p slot node fun n => { n with susp := some x }

/-- What stopped the engine at a node: a fault in the space the access was made in (R331). Log entry 73. -/
def nodeHalt (s : State) (p : BitVec 16) (slot node : Nat) (h : EHalt) : State :=
  match h with
  | .fault va k c _ space => suspendNode s p space slot node va k c
  | _ => failNode s p slot node

/-- The change that destroys the partition is under way (R401). -/
def destroying (s : State) (p : BitVec 16) : Option Change :=
  s.mgmt.change.filter fun c => c.state != .rung && c.entries.any fun x => x.op == 2 && x.node == p.toNat

/-- Its engine accepts no node meanwhile (R401). -/
def quiescing (s : State) (p : BitVec 16) : Bool := (destroying s p).isSome

/-- It is forced to be quiet (R402). -/
def forcedQuiet (s : State) (p : BitVec 16) : Bool := match destroying s p with | some c => c.force | none => false

/-- The engine accepts nodes of the partition (R400, R401). -/
def accepts (s : State) (p : BitVec 16) : Bool :=
  !quiescing s p && match descOf s p with
    | some d => !(exhausted s d 0 || exhausted s d 2 || exhausted s d 3)
    | none => true

/-- A node and its graph. -/
def findNode (s : State) (p : BitVec 16) (slot node : Nat) : Option (Graph × GNode) :=
  match (engineOf s p).graph slot with
  | some g => if g.admitted && g.ending.isNone then (g.nodes[node]?).map fun n => (g, n) else none
  | none => none

/-- The edges a control or MARK node delivers at its firing: a LOOP only its first edge. -/
def controlOuts (p : BitVec 16) (g : Graph) (i : Nat) (n : GNode) : EngM (List Bool) := do
  match n.kind with
  | 3 =>
    let w := (← engWords p g.space i n.arg.toNat 1).headD 0
    pure (if reached w n.aux then [true, false] else [false, true])
  | 4 => pure [n.aux != 0]
  | 5 =>
    let w := (← engWords p g.space i n.arg.toNat 1).headD 0
    pure ((List.range n.succ.length).map fun k => k == Nat.min w.toNat (n.succ.length - 1))
  | _ => pure (allDone n)

/-- A control node runs. -/
def runControl (s : State) (p : BitVec 16) (g : Graph) (slot i : Nat) (n : GNode) : State :=
  match (controlOuts p g i n).run s with
  | .error h s => nodeHalt s p slot i h
  | .ok outs s =>
    if n.kind = 4 then
      let s := fireAll s p
      trimPool (onGraph s p slot fun g => { g with nodes := deliverAll (g.nodes.modify i fun x => { x with st := .running, pass := 0 }) i outs })
        p slot
    else nodeDone s p slot i outs

/-- GRAPH_ADMIT (R330). -/
def execGraphAdmit (part slot : Nat) (s : State) : Out :=
  let p := BitVec.ofNat 16 part
  match (engineOf s p).graph slot with
  | none => .next s
  | some g =>
    if g.admitted || g.ending.isSome then .next s
    else match g.susp with
    | some x =>
      if x.posted then .next s
      else
        let (x, s) := postEngine s p x g.who
        .next (onGraph s p slot fun g => { g with susp := some x })
    | none =>
      match (admission p g).run s with
      | .ok ns s => .next (onGraph (fireAll s p) p slot fun g => { g with admitted := true, nodes := ns })
      | .error (.reject code node) s => .next (endGraph s p slot code node)
      | .error .err s => .next (endGraph s p slot 1 0)
      | .error (.fault va k c node sp) s =>
        let who := node + slot * 2 ^ 16 + 2 ^ 20
        let (x, s) := suspendEngine s p sp va k c who
        .next (onGraph s p slot fun g => { g with susp := some x, who := who })

/-- NODE_FIRE (R331): a node whose edges have all delivered becomes ready or is skipped, with those that became so together; a ready control node
runs. -/
def execNodeFire (part slot node : Nat) (s : State) : Out :=
  let p := BitVec.ofNat 16 part
  match findNode s p slot node with
  | none => .next s
  | some (g, n) =>
    if n.susp.isSome then .next s
    else match n.st with
    | .waiting => if reachedNode g.nodes node n then .next (fireAll s p) else .next s
    | .ready => if 3 ≤ n.kind && accepts s p then .next (runControl s p g slot node n) else .next s
    | _ => .next s

/-! ## Placement (R333) -/

/-- The first cluster and the number of clusters of a partition. -/
def partSpan (p : BitVec 16) : Nat × Nat := nodeSpan p.toNat

/-- The first item of the pool that waits for cores: a cohort node, or a saved context (R332). -/
def poolHead (e : Engine) : Option (Nat × Nat) :=
  e.pool.find? fun x => x.1 == 16 || match e.graph x.1 with
    | some g => (match g.nodes[x.2]? with | some n => n.kind == 0 | none => false)
    | none => false

/-- A core is free: no resident context. -/
def coreFree (e : Engine) (core : Nat) : Bool := !e.ctxs.any fun c => c.core == core && c.use != .saved

/-- The cores of a mask in a cluster. -/
def maskCores (cluster mask : Nat) : List Nat := ((List.range 16).filter fun n => mask.testBit n).map fun n => 16 * cluster + n

/-- The cores of a cohort placed at base cluster `b`, each with its group and GARG. -/
def cohCores (b : Nat) (c : List Word) : List (Nat × Nat × Nat) :=
  ((cohGroups c).mapIdx fun j w => (maskCores (b + grpOff w) (grpMask w)).map fun n => (n, j, bits w 32 32)).flatten

/-- A counter of a completion tree to be built: its cluster, threshold and parent (an index). -/
structure TreePlan where
  cluster : Nat
  thr     : Nat
  parent  : Option Nat

/-- One level of the tree: tops that share a key and are two or more get a parent. -/
def joinUp (key : Nat → Nat) (plan : List TreePlan) (tops : List Nat) : List TreePlan × List Nat :=
  let home (i : Nat) : Nat := match plan[i]? with | some t => t.cluster | none => 0
  let keys := (tops.map fun i => key (home i)).eraseDups
  keys.foldl (fun (acc : List TreePlan × List Nat) k =>
    let ch := tops.filter fun i => key (home i) == k
    if ch.length < 2 then (acc.1, acc.2 ++ ch)
    else
      let id := acc.1.length
      let plan := acc.1.mapIdx fun i t => if ch.contains i then { t with parent := some id } else t
      (plan ++ [⟨home (ch.headD 0), ch.length, none⟩], acc.2 ++ [id])) (plan, [])

/-- The completion tree of a cohort (R337): leaves by cluster, then die, sector and package nodes. -/
def treePlan (cores : List Nat) : List TreePlan :=
  let clusters := (List.range Config.clusters).filter fun c => cores.any fun n => clusterOf n == c
  let leaves := clusters.map fun c => (⟨c, (cores.filter fun n => clusterOf n == c).length, none⟩ : TreePlan)
  let (plan, tops) := joinUp (fun c => c / 8) leaves (List.range leaves.length)
  let (plan, tops) := joinUp sectorOf plan tops
  (joinUp (fun _ => 0) plan tops).1

/-- The TREE slots in use. -/
def usedTree (s : State) : List Nat := s.engines.flatMap fun e => e.tree.map (·.key)

/-- The lowest free TREE slot of a cluster. -/
def freeTree (used : List Nat) (c : Nat) : Option Nat :=
  ((List.range 16).map fun j => eventPlace c (4064 + j)).find? fun k => !used.contains k

/-- Places for the counters of a tree, or none where a homeroom has no slot left. -/
def treeKeys (used : List Nat) : List TreePlan → Option (List Nat)
  | [] => some []
  | t :: r =>
    match freeTree used t.cluster with
    | none => none
    | some k => (treeKeys (k :: used) r).map fun l => k :: l

/-- The areas of the context pool that hold no context. -/
def freeAreas (e : Engine) (r : List Word) : List Word :=
  ((List.range (schedPool r)).map fun i => r.getD 3 0 + BitVec.ofNat 64 (4096 * i)).filter fun a => !e.ctxs.any fun c => c.area == a

/-- The lowest base at which a cohort can be placed (R333). -/
def placeBase (s : State) (p : BitVec 16) (r c : List Word) : Option Nat :=
  let e := engineOf s p
  let (first, n) := partSpan p
  let span := cohSpan c
  let areas := (freeAreas e r).length
  ((List.range (n / span)).map fun k => first + k * span).find? fun b =>
    let cores := (cohCores b c).map (·.1)
    cores.all (coreFree e) && cores.length ≤ areas && (treeKeys (usedTree s) (treePlan cores)).isSome

/-! ## Starting (R334, R342) -/

/-- A KIND 01 reference (R208). -/
def eventRef (c i : Nat) : Word := BitVec.ofNat 64 (2 ^ 62 + c * 2 ^ 54 + i)

/-- The reference of an event-unit counter at a place. -/
def refOfPlace (k : Nat) : Word := eventRef ((k - 2 ^ 57) / 8 / 4096) ((k - 2 ^ 57) / 8 % 4096)

/-- The start image of a core (R334, R342): 512 words. -/
def startImage (g : Graph) (c : List Word) (gen : Word) (node core group garg : Nat) (tref : Word) : List Word :=
  let zeros (n : Nat) : List Word := List.replicate n 0
  let ctl := cohCtl c
  let st : Word := BitVec.ofNat 64 (ofBool (bit1 ctl 4) + 4 + gen.toNat % 2 ^ 24 * 2 ^ 40)
  [BitVec.ofNat 64 (32 * ofBool (bit1 ctl 5)), BitVec.ofNat 64 (node + group * 2 ^ 16 + g.slot * 2 ^ 32), tref, BitVec.ofNat 64 core] ++ zeros 4
    ++ [0, c.getD 1 0, c.getD 2 0, c.getD 3 0, c.getD 4 0, BitVec.ofNat 64 group, BitVec.ofNat 64 garg] ++ zeros 25
    ++ [st, st]
    ++ [g.w 5, 0, 0, c.getD 0 0, 0, BitVec.ofNat 64 (bits (g.w 6) 32 6), BitVec.allOnes 64]
    ++ [g.space.setWidth 64, c.getD 6 0, BitVec.ofNat 64 (bits (g.w 6) 20 8 + 0xFF00), 0]
    ++ [0, BitVec.ofNat 64 (256 + 256 * 2 ^ 16), 0]
    ++ zeros (1 + 5 + 9 + 24 + 33 + 256 + 128)

/-- Bytes of a place are zeroed by the device, and read so under every key. -/
def clearPlace (s : State) (a n : Nat) : State := untagLines { s with mem := s.mem.filter fun c => c.1 < a || a + n ≤ c.1 } a n

/-- Local memory at the start of a context (R334). -/
def clearLocal (s : State) (e : Engine) (g : Graph) (c : List Word) (core : Nat) : State :=
  let other := match e.lastSpace.find? fun x => x.1 == core with | some x => x.2 != g.space | none => false
  if other then clearPlace s (localPlace core 0) Config.localBytes
  else if bit1 (cohCtl c) 6 then clearPlace s (localPlace core 0) (bits (cohCtl c) 8 20)
  else s

/-- The value of a counter read by the engine. -/
def engCounter (p : BitVec 16) (space : BitVec 20) (node : Nat) (r : Word) : EngM Word := do
  let key ← engRef p space node needR r
  return (← get).counter key

/-- The dispatch word of a core (R326). -/
def dispatchWord (p : BitVec 16) (r : List Word) (core : Nat) : Nat := (r.getD 4 0).toNat + 8 * (core - firstCore p)

/-- Steps 1 and 2 of R334: every start image, then the dispatch words. -/
def writeStart (p : BitVec 16) (g : Graph) (node : Nat) (r c : List Word) (jobs : List (Nat × Nat × Nat × Word × Word)) : EngM Unit := do
  let sp ← homeSpace p
  let gen ← engCounter p sp node (r.getD 5 0)
  jobs.forM fun x => engWrite p sp node x.2.2.2.1.toNat (startImage g c gen node x.1 x.2.1 x.2.2.1 x.2.2.2.2)
  jobs.forM fun x => engWrite p sp node (dispatchWord p r x.1) [x.2.2.2.1]

/-- The dispatch and end counters of a core (R327). -/
def dispPlace (core : Nat) : Nat := eventPlace (clusterOf core) (4032 + core % 16)
def endcPlace (core : Nat) : Nat := eventPlace (clusterOf core) (4048 + core % 16)

/-- A tree counter is put at 0 with its poison clear, and its forward entry on the roll where there is a place (R337); no wait or wake of a cohort
that had the slot before is left. -/
def plantTree (s : State) (t : TreeNode) : State :=
  let s := counterInit (withdraw s (.forward t.key)) t.key 0
  match t.parent with
  | none => s
  | some k => if rollFull s t.key then s else register s t.key (.forward t.key) (BitVec.ofNat 64 t.thr) (defaultScope (homeOf t.key) k)

/-- The completion tree of a cohort at base `b` with the places of its counters. -/
def cohortTree (s : State) (c : List Word) (b : Nat) : List (TreePlan × Nat) :=
  let plan := treePlan ((cohCores b c).map (·.1))
  plan.zip ((treeKeys (usedTree s) plan).getD [])

/-- What is started on each core of a cohort at base `b`: core, group, GARG, area, and the reference of its leaf counter (R334). -/
def startJobs (s : State) (p : BitVec 16) (r c : List Word) (b : Nat) : List (Nat × Nat × Nat × Word × Word) :=
  let tree := cohortTree s c b
  let leafOf (core : Nat) : Word := match tree.find? fun x => x.1.cluster == clusterOf core with | some x => refOfPlace x.2 | none => 0
  ((cohCores b c).zip (freeAreas (engineOf s p) r)).map fun x => (x.1.1, x.1.2.1, x.1.2.2, x.2, leafOf x.1.1)

/-- A cohort is placed at base `b` (R333–R337). -/
def placeCohort (s : State) (p : BitVec 16) (g : Graph) (node : Nat) (r c : List Word) (b : Nat) : State :=
  let e := engineOf s p
  let cores := cohCores b c
  let planned := cohortTree s c b
  let keys := planned.map (·.2)
  let jobs := startJobs s p r c b
  match (writeStart p g node r c jobs).run s with
  | .error h s => nodeHalt s p g.slot node h
  | .ok _ s =>
    let id := s.nextCopy
    let tree := planned.map fun x => (⟨id, x.2, x.1.thr, x.1.parent.bind fun i => keys[i]?, false⟩ : TreeNode)
    let s := { s with nextCopy := id + 1 }
    let s := tree.foldl plantTree s
    let s := cores.foldl (fun s x => clearLocal s e g c x.1) s
    let ctxs := jobs.map fun x => (⟨x.1, x.2.2.2.1, id, .busy, bit1 (cohCtl c) 5, false, c.getD 6 0, g.space, x.2.1, x.2.2.2.2⟩ : Context)
    let s := onEngine s p fun e => { e with ctxs := e.ctxs ++ ctxs, tree := e.tree ++ tree }
    let s := onNode s p g.slot node fun n => { n with st := .running, cohort := id }
    let s := leavePool s p g.slot node
    cores.foldl (fun s x => counterAdd s (dispPlace x.1) 1) (settleRepl Config.cores s)

/-- COHORT_PLACE (R333, R334): the cohort at the head of the pool. -/
def execCohortPlace (part : Nat) (s : State) : Out :=
  let p := BitVec.ofNat 16 part
  match poolHead (engineOf s p) with
  | none => .next s
  | some (slot, node) =>
    match findNode s p slot node with
    | none => .next s
    | some (g, n) =>
      if n.susp.isSome || n.st != .ready || !accepts s p then .next s
      else match (schedule p).run s with
      | .error h s => .next (nodeHalt s p slot node h)
      | .ok r s =>
        match placeBase s p r n.words with
        | none => .next s
        | some b => .next (placeCohort s p g node r n.words b)

/-! ## The completion tree (R337) -/

/-- The tree counter at a place, with its engine's partition. -/
def treeAt (s : State) (key : Nat) : Option (BitVec 16 × TreeNode) :=
  s.engines.findSome? fun e => (e.tree.find? fun t => t.key == key).map fun t => (e.part, t)

/-- A reached or poisoned tree counter adds to its parent or poisons it. -/
def forwardTree (s : State) (key : Nat) (status : Word) : State :=
  match treeAt s key with
  | some (p, t) =>
    let s := onEngine s p fun e => { e with tree := e.tree.map fun x => if x.key = key then { x with fired := true } else x }
    match t.parent with
    | some k => if status = 0 then counterAdd s k 1 else counterPoison s k
    | none => s
  | none => s

/-- The forward entries that found no place on their rolls, which the engine polls. Log entry 49. -/
def polledTree (s : State) : List TreeNode :=
  s.engines.flatMap fun e => e.tree.filter fun t => t.parent.isSome && !t.fired
    && !(s.roll.any fun x => x.waiter == .forward t.key) && !(s.wakes.any fun x => x.waiter == .forward t.key)

/-- TREE_FORWARD (R337): wake k, or, counting on from the wakes, a forward entry that is polled. -/
def execTreeForward (k : Nat) (s : State) : Out :=
  match s.wakes[k]? with
  | some ⟨.forward key, st⟩ => .next (forwardTree { s with wakes := s.wakes.eraseIdx k } key st)
  | some _ => .next s
  | none =>
    match (polledTree s)[k - s.wakes.length]? with
    | some t =>
      match verdict s t.key (BitVec.ofNat 64 t.thr) with
      | some st => .next (forwardTree s t.key st)
      | none => .next s
    | none => .next s

/-- A cohort's counters are free once its root has ended and no context of it is left; what their forward entries wait for goes with them. -/
def purgeTree (s : State) (p : BitVec 16) : State :=
  let e := engineOf s p
  let ended (t : TreeNode) : Bool :=
    e.tree.any (fun x => x.cohort == t.cohort && x.parent.isNone && x.fired) && !e.ctxs.any fun c => c.cohort == t.cohort
  let s := (e.tree.filter ended).foldl (fun s t => withdraw s (.forward t.key)) s
  onEngine s p fun e => { e with tree := e.tree.filter fun t => !ended t }

/-! ## Services and transfers (R332) -/

/-- SERVICE_NODE_POST (R332). Log entry 56. -/
def execServiceNodePost (part slot node : Nat) (s : State) : Out :=
  let p := BitVec.ofNat 16 part
  match findNode s p slot node with
  | none => .next s
  | some (_, n) =>
    if n.kind != 1 || n.st != .ready || !accepts s p then .next s
    else .next (leavePool (onNode s p slot node fun n => { n with st := .running, posted := true }) p slot node)

/-- The command of a transfer node (R329). -/
def transferOp (aux : Word) : CopyOp :=
  match bits aux 0 4 with
  | 0 => .copy | 1 => .gath | 2 => .scat | 3 => .fill | 4 => .put | _ => .get

/-- The slice of the BTE that serves a command of the engine (R235). Log entry 69. -/
def engServing (p : BitVec 16) (space : BitVec 20) (op : CopyOp) (w : List Word) : EngM Nat := engine fun s =>
  match translate s (firstSlice p) p space (servingOperand op w).2.toNat with
  | (some q, s) => (.ok (if q.place < 2 ^ 50 then owningSlice q.place else firstSlice p), s)
  | (none, s) => (.ok (firstSlice p), s)

/-- The scopes by code (R68). -/
def scopeOf (n : Nat) : Scope :=
  match n with
  | 0 => .core | 1 => .clu | 2 => .die | 3 => .sec | 4 => .pkg | _ => .sys

/-- The snapshot of a transfer node and its BTE. -/
def transferOf (p : BitVec 16) (g : Graph) (node : Nat) (n : GNode) : EngM (List Word × Nat) := do
  let w ← engWords p g.space node n.arg.toNat 8
  let m ← engServing p g.space (transferOp n.aux) w
  pure (w, m)

/-- TRANSFER_NODE_ISSUE (R332): the snapshot is taken and the command issued, or the node fails. -/
def execTransferNodeIssue (part slot node : Nat) (s : State) : Out :=
  let p := BitVec.ofNat 16 part
  match findNode s p slot node with
  | none => .next s
  | some (g, n) =>
    if n.kind != 2 || n.st != .ready || n.susp.isSome || !accepts s p then .next s
    else match (transferOf p g node n).run s with
    | .error h s => .next (nodeHalt s p slot node h)
    | .ok (w, m) s =>
      let op := transferOp n.aux
      if !recordFits op w (chipNo s) then .next (failNode s p slot node)
      else
        let c : Copy := { id := s.nextCopy, issuer := .node part slot node, slice := m, op := op, words := w, ref := 0, tag := none,
                          acq := bit1 n.aux 4, rel := bit1 n.aux 5, ord := bit1 n.aux 6, sc := scopeOf (bits n.aux 8 3), space := g.space,
                          part := p, stage := .fabric, pos := 0, idx := [], off := 0, fatal := none, susp := none }
        let s := { s with copies := s.copies ++ [c], nextCopy := s.nextCopy + 1 }
        .next (leavePool (onNode s p slot node fun n => { n with st := .running }) p slot node)

/-! ## Completion (R331, R337) -/

/-- The root of a cohort's tree. -/
def rootOf (e : Engine) (id : Nat) : Option TreeNode := e.tree.find? fun t => t.cohort == id && t.parent.isNone

/-- The cohort's DONE receives 1, or poison. -/
def cohortDone (p : BitVec 16) (g : Graph) (node : Nat) (n : GNode) (ok : Bool) : EngM Unit := do
  let r := n.words.getD 5 0
  if r ≠ 0 then
    let key ← engRef p g.space node needRW r
    if ok then engAdd key 1 else engPoison key

/-- The root of a cohort's tree has ended, and is seen. -/
def rootFired (s : State) (p : BitVec 16) (cohort : Nat) : State :=
  purgeTree (onEngine s p fun e => { e with
    tree := e.tree.map fun t => if t.cohort = cohort ∧ t.parent.isNone then { t with fired := true } else t }) p

/-- The node of a cohort whose root has ended. -/
def completeCohort (s : State) (p : BitVec 16) (g : Graph) (node : Nat) (n : GNode) (ok : Bool) : State :=
  match (cohortDone p g node n ok).run s with
  | .ok _ s => if ok then nodeDone (rootFired s p n.cohort) p g.slot node (allDone n) else failNode (rootFired s p n.cohort) p g.slot node
  | .error (.fault va k c _ sp) s => suspendNode s p sp g.slot node va k c
  | .error _ s => failNode (rootFired s p n.cohort) p g.slot node

/-! ## Ends and saves seen by the engine (R335, R341) -/

/-- What the engine reads of an area: STATE, MOVE, DMEM, LSTAT. -/
def readArea (p : BitVec 16) (a : Word) : EngM (Nat × Bool × Word × Bool) := do
  let sp ← homeSpace p
  let st := (← engWords p sp 0 a.toNat 1).headD 0
  let dm := (← engWords p sp 0 (a.toNat + 0x190) 1).headD 0
  let ls := (← engWords p sp 0 (a.toNat + 0x1A8) 1).headD 0
  pure (bits st 0 4, bit1 st 5, dm, bit1 ls 7)

/-- A core goes to the idle loop (R335, R393). -/
def Hart.toIdle (h : Hart) (mode : Mode) (space : BitVec 20) : Hart :=
  { h with pc := resetPc, tsw := { h.tsw.clearPending with mode := mode }, spid := space, wait := none, walk := none, ahead := none,
           entering := false, halted := false }

/-- The idle loop of a partition's cores: its mode and space (R393). -/
def idleMode (s : State) (p : BitVec 16) : Mode × BitVec 20 := if p = 0 then (.firmware, 0) else (.supervisor, (lowestSpace s p).getD 0)

/-- STATE ← FAILED in an area, and the poison of its TREF (R335). -/
def failArea (p : BitVec 16) (a : Word) : EngM Unit := do
  let sp ← homeSpace p
  let w ← engWords p sp 0 a.toNat 3
  engWrite p sp 0 a.toNat [w.getD 0 0 &&& ~~~15 ||| 3]
  let key ← engRef p sp 0 needRW (w.getD 2 0)
  engPoison key

/-- The array forgets a context that has ended: its parked batch and what it owns (R336). -/
def releaseContext (s : State) (core : Nat) (ctx : BitVec 8) : State :=
  let c := clusterOf core
  let a := s.array c
  let mine (o : Option Owner) : Option Owner := if o = some ⟨core % 16, ctx⟩ then none else o
  s.setArray c { a with
    parks := a.parks.filter fun x => x.core != core
    resumes := a.resumes.filter fun n => n != core
    slots := a.slots.map mine
    tiles := a.tiles.map mine }

/-- The core of a context that has failed goes to the idle loop, its parked batch discarded and its ownership released (R335, R336). -/
def idleFailed (s : State) (p : BitVec 16) (core : Nat) : State :=
  let m := idleMode s p
  let s := releaseContext s core (s.hartOf core).lease.ctx
  let s := s.modifyHart core fun h => { h.toIdle m.1 m.2 with lease := { h.lease with park := false, hctx := 0xFF } }
  { s with doubles := s.doubles.filter fun k => k != core }

/-- The FAILED row for a core that has double-faulted, which the service kernel performs (R129, R335, R336): once its commands have retired, the
parked batch is discarded, its ownership released, its area marked, TREF poisoned and the ENDCn add made, a release of what was written (R309); the core
idles. Where a page fault keeps the area or TREF from it the row waits. Log entry 28. -/
def failDouble (s : State) (p : BitVec 16) (core : Nat) : State :=
  if (s.array (clusterOf core)).queue.any fun x => x.core == core then s
  else match (engineOf s p).ctxs.find? fun c => c.core == core && c.use != .saved with
  | none => idleFailed s p core
  | some c =>
    match (failArea p c.area).run s with
    | .error (.fault _ _ _ _ _) s => s
    | .ok _ s | .error _ s => counterAdd (settleRepl Config.cores (idleFailed s p core)) (endcPlace core) 1

/-- The running node of a cohort: its graph slot and index. -/
def cohortNode (e : Engine) (cohort : Nat) : Option (Nat × Nat) :=
  e.graphs.findSome? fun g => (g.nodes.findIdx? fun n => n.kind == 0 && n.st == .running && n.cohort == cohort).map fun i => (g.slot, i)

/-- Of a partition that is forced to be quiet, a cohort whose contexts have all been discarded has ended; its node fails (R402, R331). Log entry
35. -/
def forcedEnd (s : State) (p : BitVec 16) (cohort : Nat) : State :=
  let e := engineOf s p
  let reachedRoot := match rootOf e cohort with | some t => (verdict s t.key (BitVec.ofNat 64 t.thr)).isSome | none => false
  if !forcedQuiet s p || (e.ctxs.any fun c => c.cohort == cohort) || reachedRoot then s
  else match cohortNode e cohort with
  | some (slot, node) => failNode (rootFired s p cohort) p slot node
  | none => s

/-- ENDC_OBSERVE (R335): at an end add of a core the engine reads the area's STATE and frees the area, unless the context is saved; for a core that has
double-faulted the service kernel performs the FAILED row. Log entries 28 and 49. -/
def execEndcObserve (core : Nat) (s : State) : Out :=
  let p := partOfCluster s (clusterOf core)
  let e := engineOf s p
  let seen := match e.endc.find? fun x => x.1 == core with | some x => x.2 | none => 0
  if s.doubles.contains core then .next (failDouble s p core)
  else if s.counter (endcPlace core) = seen then .next s
  else
    let note (e : Engine) : Engine := { e with endc := (core, seen + 1) :: e.endc.filter fun x => x.1 != core }
    match e.ctxs.find? fun c => c.core == core && c.use != .saved with
    | none => .next (onEngine s p note)
    | some c =>
      match (readArea p c.area).run s with
      | .error _ s => .next s
      | .ok (st, mv, dm, pk) s =>
        let s := onEngine s p fun e => { note e with lastSpace := (core, c.space) :: e.lastSpace.filter fun x => x.1 != core }
        if st = 1 ∧ c.use = .again then
          .next (onEngine s p fun e => { e with
            ctxs := e.ctxs.map fun x => if x.area = c.area then { x with use := .busy, move := mv, dmem := dm, park := pk } else x })
        else if st = 1 ∧ !forcedQuiet s p then
          .next (onEngine (fireAll s p) p fun e => { e with
            ctxs := e.ctxs.map fun x => if x.area = c.area then { x with use := .saved, move := mv, dmem := dm, park := pk } else x
            pool := e.pool ++ [(16, c.area.toNat)] })
        else .next (forcedEnd (purgeTree (onEngine s p fun e => { e with ctxs := e.ctxs.filter fun x => x.area != c.area }) p) p c.cohort)

/-! ## What cores wait for (R343, R345) -/

/-- The instruction at the program counter of a core. -/
def instrAt (s : State) (core : Nat) : Option Instr :=
  let s := s.switch core
  match (fetchWord s s.hart.pc).1 with
  | some w => (match decodeFirst w with | .one (.ok i) => some i | _ => none)
  | none => none

/-- A handler saves its context after SLICE or PRE (R343). -/
def saving (h : Hart) : Bool := h.tsw.mode != .user && !h.tsw.ie && h.trap.int && h.trap.code.toNat ≤ 1

/-- A counter wait that has not ended: neither woken nor with an add still to be made. -/
def counterWait (h : Hart) : Bool := match h.wait with | some (.counter _ _ _ _ _) | some (.own _ _ _ _ _) => true | _ => false

/-- The wait of a core: kind, reference or mask, threshold. A held save waits for OCP, with OLD and OST done (R343). -/
def waitOf (s : State) (core : Nat) : Option (Nat × Word × Word) :=
  let h := s.hartOf core
  let g (r : Reg) : Word := if r = 0 then 0 else h.g[r]
  match instrAt s core with
  | some (.cwait a b _ _) => if counterWait h then some (0, g a, g b) else none
  | some (.cwaitt a b _ _) => if counterWait h then some (0, g a, g b) else none
  | some (.caw a _ c _) => if counterWait h then some (0, g a, g c) else none
  | some (.twany _ a) => if g a ≠ 0 ∧ h.trdy &&& g a = 0 then some (1, g a, 0) else none
  | some (.twall _ a) => if h.trdy &&& g a ≠ g a then some (1, g a, 0) else none
  | some (.join _ a) => if reached h.rdv (g a) then none else some (2, 0, g a)
  | some (.waitn ld st cp tl) =>
    if h.old.out ≤ ld.val && h.ost.out ≤ st.val && h.ocp.out ≤ cp.val && h.otl.out ≤ tl.val then none
    else some (if saving h && h.old.out == 0 && h.ost.out == 0 && decide (cp.val < h.ocp.out) then 5 else 3, 0, 0)
  | some (.mlease _) => if h.wait == some .lease then some (4, 0, 0) else none
  | _ => none

/-- A core is held in a save (R343). -/
def heldCore (s : State) (core : Nat) : Bool := match waitOf s core with | some (5, _) => true | _ => false

/-- A domain id at a level (R30, R339). -/
def domainAt (dmem : Word) (level : Nat) : Nat := bits dmem (16 * level) 16

/-- A context whose core is held in its save: it can resume there at once (R341, R343). -/
def heldContext (s : State) (c : Context) : Bool := c.use == .busy && heldCore s c.core

/-- The contexts that resume together with `c`: the saved and the held members of its domain; none while a member is still being saved (R339). -/
def together (s : State) (e : Engine) (level : Nat) (c : Context) : Option (List Context) :=
  let d := domainAt (if c.use == .saved then c.dmem else (s.hartOf c.core).dmem) level
  let member (x : Context) : Bool := domainAt (if x.use == .saved then x.dmem else (s.hartOf x.core).dmem) level == d
  let late (k : Nat) : Bool := (s.hartOf k).irq.pend.getLsbD irqSlice || (s.hartOf k).irq.pend.getLsbD irqPre || saving (s.hartOf k)
  if d = 0xFFFF then some [c]
  else if e.ctxs.any fun x => x.use != .saved && !heldContext s x && member x && late x.core then none
  else some (e.ctxs.filter fun x => (x.use == .saved || heldContext s x) && member x)

/-- A core on which a saved context may resume (R341). -/
def mayResume (e : Engine) (taken : List Nat) (c : Context) (core : Nat) : Bool :=
  coreFree e core && !taken.contains core && (core == c.core || (c.move && !c.park && clusterOf core == clusterOf c.core))

/-- Cores for contexts that resume together, or none. -/
def resumeCores (e : Engine) : List Nat → List Context → Option (List (Context × Nat))
  | _, [] => some []
  | taken, c :: r =>
    let cand := c.core :: (List.range 16).map fun n => clusterOf c.core * 16 + n
    match cand.find? (mayResume e taken c) with
    | none => none
    | some k => (resumeCores e (k :: taken) r).map fun l => (c, k) :: l

/-- The dispatch words of resumed contexts. -/
def writeResume (p : BitVec 16) (r : List Word) (l : List (Context × Nat)) : EngM Unit := do
  let sp ← homeSpace p
  l.forM fun x => engWrite p sp 0 (dispatchWord p r x.2) [x.1.area]

/-- What stops the engine at a context that resumes: a page fault of the schedule record or of a dispatch word suspends the context's node, and an
error fails it (R331). -/
def contextHalt (s : State) (p : BitVec 16) (c : Context) (h : EHalt) : State :=
  match cohortNode (engineOf s p) c.cohort with
  | some (slot, node) => nodeHalt s p slot node h
  | none => s

/-- The node of a context waits for a page. -/
def contextWaits (s : State) (p : BitVec 16) (c : Context) : Bool :=
  match cohortNode (engineOf s p) c.cohort with
  | some (slot, node) => match findNode s p slot node with | some (_, n) => n.susp.isSome | none => false
  | none => false

/-- The contexts go on with `c` among them: dispatch words, then the DISP adds (R334, R335, R341); one that was held is dispatched again on its core. -/
def dispatchAll (s : State) (p : BitVec 16) (r : List Word) (c : Context) (l : List (Context × Nat)) : State :=
  match (writeResume p r l).run s with
  | .error h s => contextHalt s p c h
  | .ok _ s =>
    let s := onEngine s p fun e => { e with
      ctxs := e.ctxs.map fun x => match l.find? fun y => y.1.area == x.area with
        | some y => { x with core := y.2, use := if x.use == .saved then .busy else .again }
        | none => x
      pool := e.pool.filter fun x => !(x.1 == 16 && l.any fun y => y.1.area.toNat == x.2) }
    l.foldl (fun s y => counterAdd s (dispPlace y.2) 1) (settleRepl Config.cores s)

/-- Context `c` resumes on `core` with its domain, all of it or none (R339): the members that are held on their own cores, the saved ones where they may
(R341). -/
def resumeContext (s : State) (p : BitVec 16) (c : Context) (core : Nat) : State :=
  if contextWaits s p c then s
  else match (schedule p).run s with
  | .error h s => contextHalt s p c h
  | .ok r s =>
    let e := engineOf s p
    match together s e (schedLevel r) c with
    | none => s
    | some l =>
      let rest := l.filter fun x => x.area != c.area
      let held := (rest.filter fun x => x.use != .saved).map fun x => (x, x.core)
      match resumeCores e [core] (rest.filter fun x => x.use == .saved) with
      | none => s
      | some l => dispatchAll s p r c ((c, core) :: (held ++ l))

/-- SAVED_CONTEXT_RESUME (R332, R341, R343): a held core's context, there at once (log entry 91), or the saved context at the head of the pool. Where
the engine accepts no nodes, the contexts of those that run go on (R400, R401), but not in a partition that is forced to be quiet (R402). -/
def execSavedContextResume (part core : Nat) (s : State) : Out :=
  let p := BitVec.ofNat 16 part
  let e := engineOf s p
  if forcedQuiet s p then .next s
  else match e.ctxs.find? fun c => c.core == core && heldContext s c with
  | some c => .next (resumeContext s p c c.core)
  | none =>
    match poolHead e with
    | some (16, a) =>
      match e.ctxs.find? fun c => c.area.toNat == a && c.use == .saved with
      | none => .next s
      | some c => if mayResume e [] c core then .next (resumeContext s p c core) else .next s
    | _ => .next s

/-! ## Slicing (R339) -/

/-- A cohort node of the pool waits for one of the cores (R339). -/
def wants (e : Engine) (p : BitVec 16) (cores : List Nat) (x : Nat × Nat) : Bool :=
  match (e.graph x.1).bind fun g => g.nodes[x.2]? with
  | none => false
  | some n =>
    n.kind == 0 &&
      (let span := cohSpan n.words
       ((List.range ((partSpan p).2 / span)).map fun k => (partSpan p).1 + k * span).any fun b =>
         (cohCores b n.words).any fun c => cores.contains c.1)

/-- The cores that are sliced with `core`: the resident cores of its domain at SLEV, or the core alone. -/
def domainCores (s : State) (e : Engine) (level core : Nat) : List Nat :=
  let d := domainAt (s.hartOf core).dmem level
  if d = 0xFFFF then [core]
  else (e.ctxs.filter fun c => c.use != .saved && domainAt (s.hartOf c.core).dmem level == d).map (·.core)

/-- SLICE_QUANTUM_EXPIRY (R339): the domain of a core has run for QUANT while a cohort waits for its cores. Log entry 34. -/
def execSliceQuantumExpiry (part core : Nat) (s : State) : Out :=
  let p := BitVec.ofNat 16 part
  match (schedule p).run s with
  | .error _ s => .next s
  | .ok r s =>
    let e := engineOf s p
    let cores := domainCores s e (schedLevel r) core
    if schedQuant r ≠ 0 ∧ !coreFree e core ∧ e.pool.any (wants e p cores) then .next (cores.foldl (fun s k => raise s k irqSlice) s)
    else .next s

/-- FORCE_WINDOW_EXPIRY (R339): a core that has not taken SLICE within FORCEW receives PRE. Log entry 34. -/
def execForceWindowExpiry (core : Nat) (s : State) : Out :=
  let p := partOfCluster s (clusterOf core)
  match (schedule p).run s with
  | .error _ s => .next s
  | .ok r s =>
    if schedForce r ≠ 0 ∧ !coreFree (engineOf s p) core ∧ (s.hartOf core).irq.pend.getLsbD irqSlice then .next (raise s core irqPre) else .next s

/-! ## The stall watchdog (R345) -/

/-- The stall report: header, then up to 127 entries. Log entry 50. -/
def stallReport (cycle : Word) (l : List (Nat × Nat × Word × Word)) : List Word :=
  [BitVec.ofNat 64 l.length, cycle, 0, 0] ++ (l.take 127).flatMap fun x => [BitVec.ofNat 64 (x.1 + x.2.1 * 2 ^ 12), x.2.2.1, x.2.2.2, 0]

/-- The waiting cores of a partition in ascending order, or none where a resident core does not wait. -/
def allWaiting (s : State) (e : Engine) : Option (List (Nat × Nat × Word × Word)) :=
  let cores := (List.range Config.cores).filter fun k => e.ctxs.any fun c => c.core == k && c.use != .saved
  let l := cores.map fun k => (waitOf s k).map fun w => (k, w)
  if l.all Option.isSome then some (l.filterMap id) else none

/-- A transfer or service node of the partition runs. -/
def othersRunning (e : Engine) : Bool :=
  e.graphs.any fun g => g.nodes.any fun n => n.st == .running && (n.kind == 1 || n.kind == 2)

/-- The pool holds a cohort node that cannot be placed. -/
def stuckCohort (s : State) (p : BitVec 16) (r : List Word) : Bool :=
  let e := engineOf s p
  e.pool.any fun x => match (e.graph x.1).bind fun g => g.nodes[x.2]? with
    | some n => n.kind == 0 && (placeBase s p r n.words).isNone
    | none => false

/-- The stall report is written. Log entry 50. -/
def writeStall (p : BitVec 16) (r : List Word) (ws : List Word) : EngM Unit := do
  engWrite p (← homeSpace p) 0 (r.getD 6 0).toNat ws
  modify (settleRepl Config.cores)

/-- STALL_WATCHDOG_EXPIRY (R345): a partition stalled for its period. Log entry 34. -/
def execStallWatchdogExpiry (part : Nat) (s : State) : Out :=
  let p := BitVec.ofNat 16 part
  match (schedule p).run s with
  | .error _ s => .next s
  | .ok r s =>
    let e := engineOf s p
    match allWaiting s e with
    | some ((k, w) :: rest) =>
      if schedStall r = 0 || othersRunning e || !stuckCohort s p r then .next s
      else match (writeStall p r (stallReport (s.hartOf k).irq.cycle ((k, w) :: rest))).run s with
      | .ok _ s => .next (raise s k irqStall)
      | .error _ s => .next s
    | _ => .next s

end Sys2Proof.Machine
end

