-- ==== Sys2Proof/Machine/Fp.lean ====
section
/-! DEFINITION. Scalar floating point (R107–R111). -/

namespace Sys2Proof.Machine

/-- The scalar operand of a type (R18, R107). -/
def scalarOf (t : FType) (x : Word) : Nat := x.toNat % 2 ^ ((ftFmt t).eb + (ftFmt t).mb + 1)

/-- The value of a scalar operand. -/
def scalarVal (t : FType) (x : Word) : FVal := (ftFmt t).decode (scalarOf t x)

/-- An instruction that writes a result into g[d], the rest of the register zero (R18), and raises its flags (R80). -/
def fpWrites (i : Instr) (d : Reg) (f : State → Nat × Fl) (s : State) : Out :=
  issue i s fun s => ((s.setG d (BitVec.ofNat 64 (f s).1)).raiseFl (f s).2).retire 4

def execFadd (t : FType) (d a b : Reg) (s : State) : Out :=
  fpWrites (.fadd t d a b) d (fun s => (ftFmt t).addV s.hart.tsw.rm (scalarVal t (s.g a)) (scalarVal t (s.g b))) s
def execFsub (t : FType) (d a b : Reg) (s : State) : Out :=
  fpWrites (.fsub t d a b) d (fun s => (ftFmt t).addV s.hart.tsw.rm (scalarVal t (s.g a)) (scalarVal t (s.g b)).neg) s
def execFmul (t : FType) (d a b : Reg) (s : State) : Out :=
  fpWrites (.fmul t d a b) d (fun s => (ftFmt t).mulV s.hart.tsw.rm (scalarVal t (s.g a)) (scalarVal t (s.g b))) s
def execFfma (t : FType) (d a b : Reg) (s : State) : Out :=
  fpWrites (.ffma t d a b) d
    (fun s => (ftFmt t).fmaV s.hart.tsw.rm (scalarVal t (s.g a)) (scalarVal t (s.g b)) (scalarVal t (s.g d))) s
def execFdiv (t : FType) (d a b : Reg) (s : State) : Out :=
  fpWrites (.fdiv t d a b) d (fun s => (ftFmt t).divV s.hart.tsw.rm (scalarVal t (s.g a)) (scalarVal t (s.g b))) s
def execFsqrt (t : FType) (d a : Reg) (s : State) : Out :=
  fpWrites (.fsqrt t d a) d (fun s => (ftFmt t).sqrtV s.hart.tsw.rm (scalarVal t (s.g a))) s
def execFmin (t : FType) (d a b : Reg) (s : State) : Out :=
  fpWrites (.fmin t d a b) d (fun s => (ftFmt t).minMax false (scalarOf t (s.g a)) (scalarOf t (s.g b))) s
def execFmax (t : FType) (d a b : Reg) (s : State) : Out :=
  fpWrites (.fmax t d a b) d (fun s => (ftFmt t).minMax true (scalarOf t (s.g a)) (scalarOf t (s.g b))) s

/-- The condition of FCMP among those of VCMP (R110, R160). -/
def fcondOf : FCond → VCond
  | .eq => .eq | .lt => .lt | .le => .le | .un => .un

def execFcmp (c : FCond) (t : FType) (d a b : Reg) (s : State) : Out :=
  fpWrites (.fcmp c t d a b) d
    (fun s => let r := fcompare (fcondOf c) (scalarVal t (s.g a)) (scalarVal t (s.g b)); (ofBool r.1, r.2)) s

/-- FCVT (R111): an integer result of 32 bits is sign- or zero-extended. -/
def scalarConvert (t u : ElemType) (rm : Round) (x : Word) : Nat × Fl :=
  let r := convert t u rm (x.toNat % 2 ^ u.laneBits)
  if t == .i32 then ((BitVec.ofInt 64 (signedOf 32 r.1)).toNat, r.2) else r

def execFcvt (t u : ElemType) (d a : Reg) (s : State) : Out :=
  fpWrites (.fcvt t u d a) d (fun s => scalarConvert t u s.hart.tsw.rm (s.g a)) s

end Sys2Proof.Machine
end

