-- ==== Sys2Proof/Machine/Service.lean ====
section
/-! DEFINITION. The service kernel: code loading (R346, R347, R72–R74), service requests and station invalidation (R359, R362, R363), and the
replicas of a replicated page (R312). -/

namespace Sys2Proof.Machine

/-! ## Accesses of the service core of slice m -/

def svcRead (m : Nat) (p : BitVec 16) (space : BitVec 20) (va n : Nat) : EngM (List Byte) := engine fun s =>
  match partyRead s m p space Config.cores .gl va n with
  | (.ok bs, s) => (.ok bs, s)
  | (.fault va k c, s) => (.error (.fault va k c 0 space), s)
  | (.err, s) => (.error .err, s)

def svcWords (m : Nat) (p : BitVec 16) (space : BitVec 20) (va n : Nat) : EngM (List Word) := do
  return wordsOf n (← svcRead m p space va (8 * n))

def svcWrite (m : Nat) (p : BitVec 16) (space : BitVec 20) (va : Nat) (bs : List Byte) : EngM Unit := engine fun s =>
  match partyWrite s m p space Config.cores .gl va bs with
  | (.ok _, s) => (.ok (), s)
  | (.fault va k c, s) => (.error (.fault va k c 0 space), s)
  | (.err, s) => (.error .err, s)

def svcRef (m : Nat) (p : BitVec 16) (space : BitVec 20) (need : Need) (r : Word) : EngM Nat := engine fun s =>
  match partyRef s m p space need r with
  | (.at key, s) => (.ok key, s)
  | (.fault va k c, s) => (.error (.fault va k c 0 space), s)
  | (.never _, s) => (.error .err, s)

/-- What an operation of the service core leaves, where a failure changes nothing more. -/
def attempt (s : State) (m : EngM Unit) : State := match m.run s with | .ok _ s => s | .error _ s => s

/-! ## Table pages (R353, R354) -/

/-- A frame is zeroed, and is no longer one that a destroyed partition has left (R404). -/
def zeroFrame (s : State) (place : Nat) : State :=
  let s := clearPlace s place 65536
  { s with mgmt := { s.mgmt with released := s.mgmt.released.filter fun x => x != place } }

/-- A frame is given out: one that a destroyed partition has left is zeroed first (R404). Log entry 15. -/
def giveFrame (s : State) (place : Nat) : State := if s.mgmt.released.contains place then zeroFrame s place else s

/-- The frames that hold a page: those of its replicas with it (R356). -/
def frameCopies (e : Word) (f : Nat) : List Nat := if pteRepl e then [f, f + 2 ^ 40, f + 2 ^ 41] else [f]

/-- The table page that the entry at `slot` names, or a new empty one in frame `tf`. -/
def childTable (s : State) (slot tf : Nat) : Option (Nat × Nat × State) :=
  let e := s.mem.readWord slot
  match tableEntry e with
  | some q => some (q, tf, s)
  | none =>
    if pteV e || !(tf * 65536 < 2 ^ 50 && isPlace (tf * 65536) 65536) then none
    else some (tf * 65536, tf + 1, (zeroFrame s (tf * 65536)).writeWord slot (BitVec.ofNat 64 (tf * 65536 + 1)))

/-- A page without a valid entry gets one; missing table pages come from the frames from `tf` on. -/
def mapPage (s : State) (p : BitVec 16) (space : BitVec 20) (va : Nat) (entry : Word) (tf : Nat) : Option (Nat × State) := do
  let se ← spaceEntry s p space
  let (q1, tf, s) ← childTable s (se.root.toNat * 65536 + 8 * (va / 2 ^ 42)) tf
  let (q2, tf, s) ← childTable s (q1 + 8 * (va / 2 ^ 29 % 2 ^ 13)) tf
  let slot := q2 + 8 * (va / 2 ^ 16 % 2 ^ 13)
  if pteV (s.mem.readWord slot) then none else some (tf, s.writeWord slot entry)

/-- A frame holds what space 0 still shows of a destroyed partition (R404), and is not given out. Log entry 20. -/
def keptFrame (s : State) (place : Nat) : Bool := s.mgmt.kept.any fun x => !pteHh x.2.2 && pteFrame x.2.2 == place

/-- `n` pages from `va` get entries with the attributes `ent` and the frames from `f` on. -/
def grantPages (p : BitVec 16) (space : BitVec 20) (ent : Word) : Nat → State → Nat → Nat → Nat → Option (Nat × State)
  | 0, s, _, _, tf => some (tf, s)
  | n + 1, s, va, f, tf =>
    let entry := ent ||| BitVec.ofNat 64 (f * 65536)
    if !leafOk entry 65536 || (!pteHh entry && (frameCopies entry (f * 65536)).any (keptFrame s)) then none
    else
      let s := if pteHh entry then s else (frameCopies entry (f * 65536)).foldl giveFrame s
      match mapPage s p space va entry tf with
      | some (tf, s) => grantPages p space ent n s (va + 65536) (f + 1) tf
      | none => none

/-- The level-2 entry that maps a page: its place and the entry. -/
def leafSlot (s : State) (p : BitVec 16) (space : BitVec 20) (va : Nat) : Option (Nat × Word) :=
  match walkPath s p space va with
  | ([_, _, q], some (e, false)) => some (q + 8 * (va / 2 ^ 16 % 2 ^ 13), e)
  | _ => none

/-- The entry that maps a page: its place, the entry, and whether it maps 512 MiB. -/
def entrySlot (s : State) (p : BitVec 16) (space : BitVec 20) (va : Nat) : Option (Nat × Word × Bool) :=
  match walkPath s p space va with
  | ([_, q], some (e, true)) => some (q + 8 * (va / 2 ^ 29 % 2 ^ 13), e, true)
  | ([_, _, q], some (e, false)) => some (q + 8 * (va / 2 ^ 16 % 2 ^ 13), e, false)
  | _ => none

/-! ### Pages that the service kernel gives in answer to a fault (R361–R363)

A `frame` operand names the first frame for pages, 2³⁶ times the first frame for new table pages, and for a host-homed page 2⁷² plus 2⁷³ times its
port. Log entry 15. -/

def pageFrame (frame : Nat) : Nat := frame % 2 ^ 36
def tableFrame (frame : Nat) : Nat := frame / 2 ^ 36 % 2 ^ 36

/-- The lowest key id of a partition. Log entry 17. -/
def lowestKey (s : State) (p : BitVec 16) : Nat := ((List.range 64).find? fun k => keyOk s p k 0).getD 0

/-- The entry of a page that the kernel gives: R, W and RC, with X for a fetch. Log entry 17. -/
def kernelEntry (s : State) (p : BitVec 16) (x : Bool) (frame : Nat) : Word :=
  BitVec.ofNat 64 (0x107 + (if x then 8 else 0) + lowestKey s p * 2 ^ 52
    + if frame.testBit 72 then 0x80 + frame / 2 ^ 73 % 4 * 2 ^ 58 else 0)

/-- The kernel maps the missing page of an address; none where it cannot. Log entry 17. -/
def kernelMap (s : State) (p : BitVec 16) (space : BitVec 20) (va : Nat) (x : Bool) (frame : Nat) : Option State :=
  (grantPages p space (kernelEntry s p x frame) 1 s (va / 65536 * 65536) (pageFrame frame) (tableFrame frame)).map (·.2)

/-- The addresses of `n` pages. -/
def pageList (va n : Nat) : List Nat := (List.range n).map fun i => va + 65536 * i

/-! ## Station invalidation (R359) -/

/-- Every station drops the entries of a page. -/
def dropPage (s : State) (space : BitVec 20) (va : Nat) : State :=
  { s with stations := s.stations.filter fun c => !(c.space == space && c.page == (if c.big then va / 2 ^ 29 else va / 2 ^ 16)) }

/-- Some access to the `n` bytes from `place` that was accepted under an old entry has not been performed: one of a lease or Ephemeris command (R201,
R286), also of a batch that a cluster image holds (R344), a counter add on its way, the add an ESTEP waits to make, or a replicated write (R312). -/
def placeBusy (s : State) (place n : Nat) : Bool :=
  let within (a k : Nat) : Bool := a < place + n && place < a + k
  let waits (h : Hart) : Bool := match h.wait with | some (.step _ key _) => within (ctrPlace key) 8 | _ => false
  let commands := (s.arrays.flatMap fun a => a.2.queue ++ a.2.parks.flatMap (·.cmds)) ++ s.parkStore.flatMap (·.cmds)
  (commands.any fun c => c.pages.any fun g => within g.place 65536)
    || (s.adds.any fun a => within (ctrPlace a.key) 8) || waits s.hart || (s.others.any fun h => waits h.2)
    || s.repl.any fun w => within w.place w.data.length

/-- The bytes that an entry for the page of `va` maps: place and number. -/
def mappedBytes (e : Word) (big : Bool) (va : Nat) : Nat × Nat :=
  if big then (pagePlace e true (va / 2 ^ 29 * 2 ^ 29), 2 ^ 29) else (pagePlace e false va, 65536)

/-- What cached entries of a page and its entry in the tables map. -/
def knownPlaces (s : State) (p : BitVec 16) (space : BitVec 20) (va : Nat) : List (Nat × Nat) :=
  (s.stations.filterMap fun c =>
    if c.space == space && c.page == (if c.big then va / 2 ^ 29 else va / 2 ^ 16) then some (mappedBytes c.entry c.big va) else none)
    ++ match entrySlot s p space va with | some (_, e, big) => [mappedBytes e big va] | none => []

/-- The pages have no access left that was accepted under an entry of theirs: the station invalidation of a change made now completes (R359). Log
entry 16. -/
def pagesQuiet (s : State) (p : BitVec 16) (space : BitVec 20) (vas : List Nat) : Bool :=
  (vas.flatMap (knownPlaces s p space)).all fun x => !placeBusy s x.1 x.2

/-! ## Requests (R362) -/

def reqOp (r : List Word) : Nat := (r.getD 0 0).toNat
def reqVa (r : List Word) : Nat := (r.getD 1 0).toNat
def reqSpace (r : List Word) : BitVec 20 := BitVec.ofNat 20 (r.getD 2 0).toNat
def reqArg (r : List Word) : Word := r.getD 3 0
def reqCount (r : List Word) : Nat := bits (reqArg r) 0 32
def reqEnt (r : List Word) : Word := r.getD 4 0
def reqReply (r : List Word) : Word := r.getD 5 0
def reqRes (r : List Word) : Word := r.getD 6 0

/-- The FILLED or DRAINED word of slice m's request ring (R398). -/
def ringCounter (d : Descriptor) (m k : Nat) : Word := d.reqb + BitVec.ofNat 64 (0xC0000 + 16 * m + 8 * k)

/-- The next request of a ring, if FILLED has passed DRAINED. Log entry 14. -/
def nextRequest (p : BitVec 16) (m : Nat) : EngM (Option (List Word)) := do
  match descOf (← get) p with
  | none => pure none
  | some d =>
    let sp ← homeSpace p
    let filled ← svcRef m p sp needR (ringCounter d m 0)
    let drained ← svcRef m p sp needR (ringCounter d m 1)
    let s ← get
    let n := s.counter drained
    if reached (s.counter filled) (n + 1) then
      let r ← svcWords m p sp (d.reqb.toNat + 0x4000 * m + 64 * (n.toNat % 256)) 8
      pure (some r)
    else pure none

/-- The place is taken from the ring. -/
def drainRequest (p : BitVec 16) (m : Nat) : EngM Unit := do
  match descOf (← get) p with
  | none => pure ()
  | some d =>
    let key ← svcRef m p (← homeSpace p) needRW (ringCounter d m 1)
    engAdd key 1

/-- The entry's low 16 bits and KEY (R362). -/
def entMask : Word := BitVec.ofNat 64 (0xFFFF + 63 * 2 ^ 52)

/-- The fields of a request are right: its operation, space, argument and entry, and the reserved word. -/
def requestOk (s : State) (p : BitVec 16) (r : List Word) : Bool :=
  let op := reqOp r
  let last := reqVa r + 65536 * reqCount r
  let e := reqEnt r
  1 ≤ op && op ≤ 4 && bits (r.getD 2 0) 20 44 == 0 && (spaceEntry s p (reqSpace r)).isSome && r.getD 7 0 == 0
    && addForm (reqReply r) && refReach s p false (reqReply r) && alignedGl (reqRes r) 8
    && if op = 1 then bits (reqArg r) 3 61 == 0 && reqVa r < 2 ^ 55
       else bits (reqArg r) 32 32 == 0 && reqVa r % 65536 == 0 && last ≤ 0x7FFFFFFFFF0000
         && (op == 3 || (e &&& ~~~entMask == 0 && pteV e && pteLeaf e && pteOrd e != 3 && bits e 12 4 == 0 && pteKey e != 0 && keyOk s p (pteKey e) 0
           && !(pteHh e && pteRepl e)))

/-- The result word, then the add to REPLY with release, and the place leaves the ring (R363). Log entry 14. -/
def answerRequest (s : State) (p : BitVec 16) (m : Nat) (r : List Word) (code : Nat) : State :=
  let sp := reqSpace r
  let s := if alignedGl (reqRes r) 8 then attempt s (svcWrite m p sp (reqRes r).toNat (toBytes 8 code)) else s
  let s :=
    if addForm (reqReply r) && refReach s p false (reqReply r) then
      attempt s (do let key ← svcRef m p sp needRW (reqReply r); engAdd key 1)
    else s
  attempt s (drainRequest p m)

/-- The next request of slice m's ring is served when it names operation `op`; `body` answers its code once it is performed. A request with a
wrong field is refused by whichever service takes it. -/
def serve (m part op : Nat) (body : BitVec 16 → List Word → State → Option Nat × State) (s : State) : Out :=
  let p := BitVec.ofNat 16 part
  match (nextRequest p m).run s with
  | .ok (some r) s =>
    if requestOk s p r then
      if reqOp r ≠ op then .next s
      else
        let (code, s) := body p r s
        match code with
        | some c => .next (answerRequest s p m r c)
        | none => .next s
    else .next (answerRequest s p m r 2)
  | .ok none s => .next s
  | .error _ s => .next s

/-- The HBM quota is exhausted (R400). -/
def hbmExhausted (s : State) (p : BitVec 16) : Bool := match descOf s p with | some d => exhausted s d 1 | none => false

/-- A map of so many bytes would reach the HBM limit (R400). -/
def hbmReached (s : State) (p : BitVec 16) (bytes : Nat) : Bool :=
  match descOf s p with
  | some d => d.qctl.getLsbD 1 && reached (quotaUse s p 1 + BitVec.ofNat 64 bytes) (d.lim.getD 1 0)
  | none => false

/-- OP 2: pages are mapped (R362, R400). A page that is mapped already refuses the request; frames that cannot hold the pages leave it waiting.
Log entry 16. -/
def mapRequest (frame : Nat) (p : BitVec 16) (r : List Word) (s : State) : Option Nat × State :=
  let n := reqCount r
  let hh := pteHh (reqEnt r)
  if (pageList (reqVa r) n).any (fun va => (walkPath s p (reqSpace r) va).2.isSome) then (some 2, s)
  else if hbmExhausted s p || (!hh && hbmReached s p (65536 * n)) then (some 2, s)
  else match grantPages p (reqSpace r) (reqEnt r) n s (reqVa r) (pageFrame frame) (tableFrame frame) with
    | none => (none, s)
    | some (_, s) => (some 0, if hh then s else addUsage s p 1 (65536 * n))

/-- SERVICE_MAP (R363). -/
def execServiceMap (m part frame : Nat) (s : State) : Out := serve m part 2 (mapRequest frame) s

/-- OP 1: a fault is serviced (R362): a page found mapped with what the access needs is done; a missing page is mapped where the kernel gives a
frame; the others are fatal. Log entry 17. -/
def faultRequest (frame : Option Nat) (p : BitVec 16) (r : List Word) (s : State) : Option Nat × State :=
  let a := reqArg r
  match (walkPath s p (reqSpace r) (reqVa r)).2 with
  | some (e, _) =>
    if (!bit1 a 0 || pteR e) && (!bit1 a 1 || pteW e) && (!bit1 a 2 || pteX e) then (some 0, s) else (some 1, s)
  | none =>
    match frame with
    | none => (some 1, s)
    | some f =>
      match kernelMap s p (reqSpace r) (reqVa r) (bit1 a 2) f with
      | none => (none, s)
      | some s => (some 0, s)

/-- SERVICE_FAULT (R363). Log entry 17. -/
def execServiceFault (m part : Nat) (frame : Option Nat) (s : State) : Out := serve m part 1 (faultRequest frame) s

/-- Every station drops the entries of pages (R359). -/
def dropPages (s : State) (space : BitVec 20) (vas : List Nat) : State := vas.foldl (fun s va => dropPage s space va) s

/-- A leaf's bytes count as held: its page lies in HBM or the second tier (R399). Log entry 18. -/
def heldBytes (e : Word) : Nat := if pteHh e then 0 else 65536

/-- The entry of a page is cleared. Log entry 18. -/
def clearEntry (p : BitVec 16) (space : BitVec 20) (s : State) (va : Nat) : State :=
  match entrySlot s p space va with
  | some (a, _) => s.writeWord a 0
  | none => s

/-- OP 3: pages are unmapped, once no access under their entries is left, so that the invalidation completes with it (R359). Log entries 16 and
18. -/
def unmapRequest (p : BitVec 16) (r : List Word) (s : State) : Option Nat × State :=
  let sp := reqSpace r
  let vas := pageList (reqVa r) (reqCount r)
  if vas.any fun va => match walkPath s p sp va with | (_, some (_, true)) => true | _ => false then (some 2, s)
  else if !pagesQuiet s p sp vas then (none, s)
  else
    let n := (vas.filterMap fun va => (leafSlot s p sp va).map fun x => heldBytes x.2).sum
    let s := dropPages (vas.foldl (clearEntry p sp) s) sp vas
    (some 0, if n = 0 then s else addUsage s p 2 n)

/-- SERVICE_UNMAP (R363, R359). -/
def execServiceUnmap (m part : Nat) (s : State) : Out := serve m part 3 unmapRequest s

/-- The entry of a page takes new attributes. -/
def newAttributes (old ent : Word) : Word := (old &&& ~~~entMask) ||| ent

def setEntry (p : BitVec 16) (space : BitVec 20) (ent : Word) (s : State) (va : Nat) : State :=
  match leafSlot s p space va with
  | some (a, e) => if newAttributes e ent = e then s else s.writeWord a (newAttributes e ent)
  | none => s

/-- The frames that a page takes with new attributes and did not have before: those of its replicas, or the frame of a page that was host-homed. -/
def newFrames (old e : Word) : List Nat :=
  if pteHh e then [] else (frameCopies e (pteFrame e)).filter fun f => pteHh old || !(frameCopies old (pteFrame old)).contains f

/-- The frames that the pages take with new attributes. -/
def framesTaken (s : State) (p : BitVec 16) (space : BitVec 20) (ent : Word) (vas : List Nat) : List Nat :=
  vas.flatMap fun va => match leafSlot s p space va with | some (_, e) => newFrames e (newAttributes e ent) | none => []

/-- OP 4: the attributes of mapped pages change, with a station invalidation (R359). A frame that a page takes with them is given out as for a map,
zeroed where a destroyed partition had it (R404). Log entry 16. -/
def attributeRequest (p : BitVec 16) (r : List Word) (s : State) : Option Nat × State :=
  let sp := reqSpace r
  let vas := pageList (reqVa r) (reqCount r)
  let frames := framesTaken s p sp (reqEnt r) vas
  if vas.any fun va => match leafSlot s p sp va with | some (_, e) => !leafOk (newAttributes e (reqEnt r)) 65536 | none => true then (some 2, s)
  else if frames.any (keptFrame s) then (some 2, s)
  else if !pagesQuiet s p sp vas then (none, s)
  else (some 0, dropPages (vas.foldl (setEntry p sp (reqEnt r)) (frames.foldl giveFrame s)) sp vas)

/-- SERVICE_CHANGE_ATTRIBUTES (R363, R359). -/
def execServiceChangeAttributes (m part : Nat) (s : State) : Out := serve m part 4 attributeRequest s

/-! ## Loading (R72–R74, R346) -/

/-- `n` bytes of an image from offset `o`, as a number. -/
def imgField (h : List Byte) (o n : Nat) : Nat := leNat ((h.drop o).take n)

/-- Two ranges of bytes meet. -/
def rangesMeet (a n b k : Nat) : Bool := overlap (a, n) (b, k)

/-- BOUNDS (R74) for the header `h` of an image of `size` bytes, with the bytes from the kernel name on. A TEXTSIZE that is not a multiple of 4
(R72) is rejected with it, for which R74 names no code: log entry 19. -/
def boundsOk (h : List Byte) (size : Nat) (name : List Byte) : Bool :=
  let entry := imgField h 0x10 8
  let tx := imgField h 0x18 4
  let ts := imgField h 0x1C 4
  let dof := imgField h 0x20 4
  let ds := imgField h 0x24 4
  let no := imgField h 0x2C 4
  tx + ts ≤ size && dof + ds ≤ size && !rangesMeet 0 64 tx ts && !rangesMeet 0 64 dof ds && !rangesMeet tx ts dof ds
    && tx % 64 == 0 && ts % 4 == 0 && dof % 8 == 0 && entry % 4 == 0 && entry < ts && no < ds
    && (name.take (Nat.min 64 (ds - no))).any (· == 0)

/-- The first rule of R74 that a header breaks, or 0. Of an image shorter than its header the missing bytes read 0 for the checks before BOUNDS,
which it then fails: log entry 19. -/
def headerCode (h : List Byte) (size : Nat) (name : List Byte) : Nat :=
  if imgField h 0 4 ≠ 0x59444C42 then 1
  else if imgField h 4 2 ≠ 1 then 2
  else if imgField h 6 2 ≠ 3 then 3
  else if imgField h 8 8 / 2 ^ 8 ≠ 0 then 4
  else if size < 64 || !boundsOk h size name then 5
  else if 524288 < imgField h 0x28 4 then 6
  else if imgField h 0x30 16 ≠ 0 then 7
  else 0

/-- Where a LOAD has come: the code of a rejected image, or its sections read. -/
structure Loading where
  code  : Nat
  entry : Nat
  local' : Nat
  text  : List Byte
  data  : List Byte

/-- The image of a request block is read and checked (R346). The kernel name is read with the header, before any check: log entry 19. -/
def readImage (m : Nat) (p : BitVec 16) (space : BitVec 20) (blk : List Word) : EngM Loading := do
  let img := (blk.getD 0 0).toNat
  let size := (blk.getD 1 0).toNat
  let text := (blk.getD 2 0).toNat
  let data := (blk.getD 3 0).toNat
  if text % 65536 ≠ 0 ∨ data % 64 ≠ 0 then pure ⟨8, 0, 0, [], []⟩
  else
    let h ← svcRead m p space img (Nat.min 64 size)
    let nameAt := imgField h 0x20 4 + imgField h 0x2C 4
    let name ← svcRead m p space (img + nameAt) (Nat.min 64 (size - nameAt))
    let c := headerCode h size name
    if c ≠ 0 then pure ⟨c, 0, 0, [], []⟩
    else
      let t ← svcRead m p space (img + imgField h 0x18 4) (imgField h 0x1C 4)
      let d ← svcRead m p space (img + imgField h 0x20 4) (imgField h 0x24 4)
      pure ⟨0, imgField h 0x10 8, imgField h 0x28 4, t, d⟩

/-- Bytes of the service kernel go to a mapped page. -/
def placeBytes (s : State) (p : BitVec 16) (space : BitVec 20) (va : Nat) (bs : List Byte) : State :=
  match globalAccess s (firstSlice p) p space ⟨false, false⟩ va bs.length with
  | (.ok l, s) => writeSegs s Config.cores l bs
  | (_, s) => s

/-- A page of the text gets X (R346): its entry takes the permission, with a station invalidation of the page (R359), or it gets an entry with the
next frame. Log entry 19. -/
def textPage (p : BitVec 16) (space : BitVec 20) (key : Word) (o : Option (Nat × Nat × State)) (va : Nat) : Option (Nat × Nat × State) :=
  match o with
  | none => none
  | some (f, tf, s) =>
    match walkPath s p space va with
    | ([_, q], some (e, true)) => some (f, tf, dropPage (s.writeWord (q + 8 * (va / 2 ^ 29 % 2 ^ 13)) (e ||| 8)) space va)
    | ([_, _, q], some (e, false)) => some (f, tf, dropPage (s.writeWord (q + 8 * (va / 2 ^ 16 % 2 ^ 13)) (e ||| 8)) space va)
    | _ => (grantPages p space (0x10B ||| key) 1 s va f tf).map fun x => (f + 1, x.1, x.2)

/-- A page of the data gets an entry with the next frame. Log entry 19. -/
def dataPage (p : BitVec 16) (space : BitVec 20) (key : Word) (o : Option (Nat × Nat × State)) (va : Nat) : Option (Nat × Nat × State) :=
  match o with
  | none => none
  | some (f, tf, s) => (grantPages p space (0x107 ||| key) 1 s va f tf).map fun x => (f + 1, x.1, x.2)

/-- Text and data are placed: every page of the text can be executed, and those pages of the data that have none get a page. Log entry 19. -/
def placeImage (s : State) (p : BitVec 16) (space : BitVec 20) (frame : Nat) (text data : Nat) (l : Loading) : Option State :=
  let key : Word := BitVec.ofNat 64 (lowestKey s p * 2 ^ 52)
  let n := (l.text.length + 65535) / 65536
  match (pageList text n).foldl (textPage p space key) (some (pageFrame frame, tableFrame frame, s)) with
  | none => none
  | some (f, tf, s) =>
    let first := data / 65536 * 65536
    let pages := pageList first ((data + l.data.length + 65535) / 65536 - data / 65536)
    match (pages.filter fun va => (walkPath s p space va).2.isNone).foldl (dataPage p space key) (some (f, tf, s)) with
    | none => none
    | some (_, _, s) =>
      let s := placeBytes (placeBytes s p space text l.text) p space data l.data
      some { s with images := ⟨p, space, BitVec.ofNat 64 text, n, BitVec.ofNat 64 data, pages⟩ :: s.images }

/-- The generation of a partition (R346). -/
def genc (p : BitVec 16) (add : Word) : EngM Word := do
  let r ← schedule p
  let key ← engRef p (← homeSpace p) 0 needRW (r.getD 5 0)
  if add ≠ 0 then engAdd key add
  return (← get).counter key

/-- A service node of number `k` that is posted: its graph and node. -/
def postedService (s : State) (p : BitVec 16) (slot node k : Nat) : Option (Graph × GNode) :=
  match findNode s p slot node with
  | some (g, n) => if n.kind == 1 && n.st == .running && n.posted && bits n.arg 0 12 == k then some (g, n) else none
  | none => none

/-- The results of a request block. -/
def writeBlock (p : BitVec 16) (space : BitVec 20) (a : Nat) (ws : List Word) : EngM Unit :=
  svcWrite (firstSlice p) p space a (ws.flatMap wordBytes)

/-- A routine met a page it cannot use: the kernel services it where it is missing, and the routine goes on in a later step (none); otherwise it fails
with 255 (R331). Log entry 19. -/
def routineFault (p : BitVec 16) (frame : Option Nat) (h : EHalt) (s : State) : Option Nat × State :=
  match h, frame with
  | .fault va _ 1 _ space, some f =>
    match kernelMap s p space va false f with
    | some s => (none, s)
    | none => (some 255, s)
  | _, _ => (some 255, s)

/-- LOAD (R346) of the request block at `a`. The schedule record and GENC are read first, before the header is checked: where they cannot be read it
ends with 255, whatever the header holds (log entry 19). It comes to 0 with the image placed, the code of R74 or 8, or 255 where a page fails it; none
while it goes on: a page has been serviced, or the frames given do not serve. -/
def load (p : BitVec 16) (space : BitVec 20) (a frame : Nat) (s : State) : Option Nat × State :=
  let m := firstSlice p
  match (genc p 0).run s with
  | .error h s => routineFault p (some frame) h s
  | .ok u s =>
    match (do let blk ← svcWords m p space a 8; let l ← readImage m p space blk; pure (blk, l) : EngM (List Word × Loading)).run s with
    | .error h s => routineFault p (some frame) h s
    | .ok (blk, l) s =>
      if l.code ≠ 0 then
        match (writeBlock p space (a + 0x20) [BitVec.ofNat 64 l.code]).run s with
        | .ok _ s => (some l.code, s)
        | .error h s => routineFault p (some frame) h s
      else match placeImage s p space frame (blk.getD 2 0).toNat (blk.getD 3 0).toNat l with
      | none => (none, s)
      | some t =>
        match (writeBlock p space (a + 0x20) [0, blk.getD 2 0 + BitVec.ofNat 64 l.entry, u, BitVec.ofNat 64 l.local']).run t with
        | .ok _ t => (some 0, settleRepl Config.cores t)
        | .error h _ => routineFault p (some frame) h s

/-- SERVICE_LOAD (R346). -/
def execServiceLoad (part slot node frame : Nat) (s : State) : Out :=
  let p := BitVec.ofNat 16 part
  match postedService s p slot node 0 with
  | none => .next s
  | some (g, n) =>
    match load p g.space n.aux.toNat frame s with
    | (none, s) => .next s
    | (some code, s) => if code = 0 then .next (nodeDone s p slot node (allDone n)) else .next (failNode s p slot node)

/-! ## Unloading (R347) -/

/-- Reached, modulo 2²⁴. -/
def reached24 (v t : BitVec 24) : Bool := (v - t).toNat < 2 ^ 23

/-- The cores of a partition. -/
def partCores (p : BitVec 16) : List Nat := (List.range (16 * (partSpan p).2)).map fun i => 16 * (partSpan p).1 + i

/-- Every core and every saved area of the partition has reached generation u. -/
def generationsReached (p : BitVec 16) (u : BitVec 24) : EngM Bool := do
  let s ← get
  let sp ← homeSpace p
  let saved := (engineOf s p).ctxs.filter fun c => c.use == .saved
  let ws ← saved.mapM fun c => svcWords (firstSlice p) p sp (c.area.toNat + 0x140) 1
  pure ((partCores p).all (fun k => reached24 (s.hartOf k).tsw.gen u) && ws.all fun w => reached24 (BitVec.ofNat 24 (bits (w.headD 0) 40 24)) u)

/-- What becomes of the pages of loaded code: unmapped, still in use, or unknown, where no LOAD has placed text at the address. -/
inductive Unmapped where
  | done | busy | unknown
  deriving DecidableEq, Repr

/-- The pages of loaded code are unmapped, those of its text and of its data (R347). Log entry 19. -/
def unloadImage (s : State) (p : BitVec 16) (space : BitVec 20) (text : Word) : Unmapped × State :=
  match s.images.find? fun i => i.part == p && i.space == space && i.text == text with
  | none => (.unknown, s)
  | some i =>
    let vas := pageList i.text.toNat i.pages ++ i.dataAt
    if !pagesQuiet s p space vas then (.busy, s)
    else
      let s := dropPages (vas.foldl (clearEntry p space) s) space vas
      (.done, { s with images := s.images.filter fun x => x != i })

/-- The generation a posted UNLOAD waits for, taken by an add of 1 to GENC: the node's pass count keeps it, one higher. A missing page is serviced. -/
def unloadBegin (s : State) (p : BitVec 16) (slot node : Nat) (frame : Option Nat) : State :=
  match (genc p 1).run s with
  | .ok u s => onNode s p slot node fun n => { n with pass := u.toNat % 2 ^ 24 + 1 }
  | .error h s =>
    match routineFault p frame h s with
    | (none, s) => s
    | (some _, s) => failNode s p slot node

/-- UNLOAD of the request block at `a` goes on (R347): it waits for generation u, unmaps and answers; none while it goes on, otherwise its code: 8
where LOCALR, which is reserved (R346, R11), is not zero, or where it names no loaded text (log entry 19). -/
def unload (p : BitVec 16) (space : BitVec 20) (a : Nat) (frame : Option Nat) (u : BitVec 24) (s : State) : Option Nat × State :=
  let answer (blk : List Word) (code : Nat) (s t : State) : Option Nat × State :=
    match (writeBlock p space (a + 0x20) (if code = 0 then [0, blk.getD 5 0, u.setWidth 64] else [BitVec.ofNat 64 code])).run t with
    | .ok _ t => (some code, settleRepl Config.cores t)
    | .error h _ => routineFault p frame h s
  match (generationsReached p u).run s with
  | .error h s => routineFault p frame h s
  | .ok false s => (none, s)
  | .ok true s =>
    match (svcWords (firstSlice p) p space a 8).run s with
    | .error h s => routineFault p frame h s
    | .ok blk s =>
      if blk.getD 7 0 ≠ 0 then answer blk 8 s s
      else match unloadImage s p space (blk.getD 2 0) with
      | (.busy, s) => (none, s)
      | (.unknown, t) => answer blk 8 s t
      | (.done, t) => answer blk 0 s t

/-- SERVICE_UNLOAD (R347): a step of the routine. -/
def execServiceUnload (part slot : Nat) (node : Served) (s : State) : Out :=
  let p := BitVec.ofNat 16 part
  let frame := node.frame
  let node := node.num
  match postedService s p slot node 1 with
  | none => .next s
  | some (g, n) =>
    if n.pass = 0 then .next (unloadBegin s p slot node frame)
    else match unload p g.space n.aux.toNat frame (BitVec.ofNat 24 (n.pass - 1)) s with
    | (none, s) => .next s
    | (some 0, s) => .next (nodeDone s p slot node (allDone n))
    | (some _, s) => .next (failNode s p slot node)

/-! ## Replicas (R312) -/

/-- REPLICA_APPLY (R312): the replica of sector k applies the next write of the sequence; a write that all three have applied is done.
Log entry 11. -/
def execReplicaApply (k : Fin 3) (s : State) : Out :=
  match s.repl[s.applied[k]]? with
  | none => .next s
  | some w => .next (dropApplied (applyUpTo k (w.num + 1) (s.repl.drop s.applied[k]) s))

end Sys2Proof.Machine
end

