-- ==== Sys2Proof/Machine/Reset.lean ====
section
/-! DEFINITION. Power, bring-up and reset of the package (R409–R411). -/

namespace Sys2Proof.Machine

/-- The dump region: 4 GiB at offset 0 of slice 0 (R418). -/
def dumpBytes : Nat := 2 ^ 32

/-- A byte is zeroed by a reset that completes bring-up step `done` (R410 step 6): those of the clusters, and of HBM outside a kept dump. Power-on
finds no package memory at all. The command window goes with its queues (R382). Memory behind the CXL ports stays. -/
def zeroed (done : Nat) (keepDump powerOn : Bool) (a : Nat) : Bool :=
  if a < 2 ^ 50 then !(keepDump && a < dumpBytes) && (6 ≤ done || powerOn)
  else if a < 2 ^ 56 then false
  else 2 ^ 62 ≤ a || 6 ≤ done || powerOn

/-- A hart after a reset: the chip number stays what step 8 sets it to. Log entry 25. -/
def Hart.afterReset (h : Hart) : Hart := { Hart.reset with chip := h.chip }

/-- CODE of a failing step (R410): where the table names a number of a part, the one given within the parts there are. -/
def failCode (k : Nat) (c : BitVec 16) : BitVec 16 :=
  BitVec.ofNat 16 (match k with
    | 1 => c.toNat % 120
    | 2 | 4 | 6 => c.toNat % Config.slices
    | 3 => 1 + c.toNat % 2
    | 7 => 4 + c.toNat % 4
    | 8 => c.toNat % 24
    | _ => 0)

/-- The expanders that step 7 enumerates, the second tier mapped up to 16 TB in all (R384). Log entry 41. -/
def mapTiers (v : Vector Expander 4) : Vector Expander 4 :=
  let before (i : Nat) : Nat := ((v.toList.take i).map (·.capacity)).sum
  v.mapFinIdx fun i x _ => { x with mapped := min x.capacity (Config.tierBytes - before i), keys := true }

/-- New key pairs for every key id (R410 step 5), but for key id 0 where the dump region is kept (R419). Number 64 stands for what the device writes
of its own, which no page names (log entry 37). -/
def freshKeys (m : Management) (keepDump : Bool) : List (Nat × Nat) :=
  (List.range 65).map fun k => (k, lookupD m.keyGens k 0 + if keepDump && k == 0 then 0 else 1)

/-- Management after the steps up to `done` (R409, R410): what the steps left out would set stays. DUMP and KEEP survive a device reset, the measures
(R415) every reset. Log entries 24 and 25. -/
def Management.afterReset (m : Management) (powerOn keepDump : Bool) (done : Nat) (fail : Option (BitVec 16)) : Management :=
  let r := Management.reset
  { r with
    code := fail.getD 0
    step := BitVec.ofNat 8 done
    fail := fail.isSome
    ready := fail.isNone
    dump := m.dump && !powerOn
    keep := m.keep && !powerOn
    islands := if 1 ≤ done || powerOn then r.islands else m.islands
    measures := m.measures
    lver := if 9 ≤ done || powerOn then 0 else m.lver
    nodes := if 9 ≤ done then r.nodes else if powerOn then [] else m.nodes
    descs := if 9 ≤ done || powerOn then [] else m.descs
    keyGens := if 5 ≤ done then freshKeys m keepDump else m.keyGens }

/-- Bring-up (R410): every operation in flight is abandoned, and the steps run up to the one that fails. Log entries 25 and 39. -/
def bringUp (powerOn : Bool) (fail : Option (Nat × BitVec 16)) (s : State) : State :=
  let fail := fail.filter fun x => 1 ≤ x.1 && x.1 ≤ 9
  let done := match fail with | some (k, _) => k - 1 | none => 9
  let keepDump := !powerOn && s.mgmt.keep
  let z := zeroed done keepDump powerOn
  { State.reset with
    hart := (s.hartOf 0).afterReset
    others := (s.others.filter fun x => x.1 != 0).map fun x => (x.1, x.2.afterReset)
    agenda := s.agenda
    draws := s.draws
    mem := s.mem.filter fun c => !z c.1
    lines := s.lines.filter fun x => !z (128 * x.1)
    sealed := s.sealed && done < 6 && !powerOn
    spaces := if 9 ≤ done then State.reset.spaces else if powerOn then [] else s.spaces
    tiers := if 7 ≤ done then mapTiers s.tiers else s.tiers.map fun x => { x with mapped := 0, keys := false }
    mgmt := s.mgmt.afterReset powerOn keepDump done (fail.map fun x => failCode x.1 x.2) }

/-- POWER_ON_RESET (R410). Log entry 3. -/
def execPowerOnReset (fail : Option (Nat × BitVec 16)) (s : State) : Out := .next (bringUp true fail s)

/-- DEVICE_RESET (R411): there is none while power is off (R409). Log entries 3 and 24. -/
def execDeviceReset (fail : Option (Nat × BitVec 16)) (s : State) : Out := if s.mgmt.power then .next (bringUp false fail s) else .next s

/-- POWER_OFF (R409): all package state is lost; what lies behind the CXL ports is not the package's. -/
def execPowerOff (s : State) : Out :=
  let there (a : Nat) : Bool := 2 ^ 50 ≤ a && a < 2 ^ 56
  .next { State.reset with
    hart := (s.hartOf 0).afterReset
    others := (s.others.filter fun x => x.1 != 0).map fun x => (x.1, x.2.afterReset)
    agenda := s.agenda
    draws := s.draws
    mem := s.mem.filter fun c => there c.1
    lines := s.lines.filter fun x => there (128 * x.1)
    spaces := []
    tiers := s.tiers.map fun x => { x with mapped := 0, keys := false }
    mgmt := { s.mgmt.afterReset true false 0 none with ready := false, power := false } }

/-- Bring-up is complete and no fatal error has stopped the package. -/
def State.alive (s : State) : Bool := s.mgmt.power && s.mgmt.ready && !s.mgmt.fatal

end Sys2Proof.Machine
end

