-- ==== Sys2Proof/Machine/Host.lean ====
section
/-! DEFINITION. The host ports (R375–R384): memory through decoders, the command window, completions, and TDISP. -/

namespace Sys2Proof.Machine

/-! ## Ports and queues -/

def State.onPort (s : State) (p : HostPort) (f : HostPortState → HostPortState) : State := { s with ports := s.ports.set p (f s.ports[p]) }

def State.queue (s : State) (p : HostPort) (q : Queue) : QueueRegs := lookupD s.ports[p].queues q.val QueueRegs.reset

def State.onQueue (s : State) (p : HostPort) (q : Queue) (f : QueueRegs → QueueRegs) : State :=
  s.onPort p fun h => { h with queues := insertA h.queues q.val (f (lookupD h.queues q.val QueueRegs.reset)) }

/-- The home slice of a port (R375). Log entry 41. -/
def portSlice (p : HostPort) : Nat := 6 * p.val

/-- The place of a register of a queue (R377). -/
def queuePlace (p : HostPort) (q : Queue) (a : Nat) : Nat := windowPlace p.val (q.val * 0x10000 + a)

/-- A queue accepts stores (R383, R410). -/
def acceptsStores (s : State) (p : HostPort) (q : Queue) : Bool :=
  s.mgmt.ready && (s.queue p q).bound && match s.ports[p].tdisp with
    | .unlocked => (s.queue p q).part == 0
    | .locked => false
    | .run => true
    | .error => false

/-! ## Host accesses to memory (R376) -/

def decSize (d : BitVec 192) : Nat := field d.toNat 2 14 * 2 ^ 28
def decBase (d : BitVec 192) : Nat := field d.toNat 16 48 * 65536
def decVbase (d : BitVec 192) : Nat := field d.toNat 105 55
def decSpace (d : BitVec 192) : BitVec 20 := BitVec.ofNat 20 (field d.toNat 160 20)

/-- The range of a decoder is HDM-DB (R376). -/
def decDb (d : BitVec 192) : Bool := d.toNat.testBit 1

/-- The decoder whose window holds an access. -/
def decoderOf (h : HostPortState) (hpa n : Nat) : Option (BitVec 192) :=
  h.decoders.toList.find? fun d => decBase d ≤ hpa && hpa + n ≤ decBase d + decSize d

/-- The space and the virtual address of an access through the decoders. -/
def decode' (h : HostPortState) (hpa n : Nat) : Option (BitVec 20 × Nat) :=
  (decoderOf h hpa n).map fun d => (decSpace d, decVbase d + (hpa - decBase d))

/-- The partition of a space, where it is bound to the port. -/
def boundPart (s : State) (p : HostPort) (space : BitVec 20) : Option (BitVec 16) :=
  match s.spaces.find? fun x => x.1 == space with
  | some x => if s.ports[p].parts.contains x.2.part then some x.2.part else none
  | none => none

/-- Host accesses are served: not while READY is 0 (R410) nor in ERROR (R383). -/
def portServes (s : State) (p : HostPort) : Bool := s.alive && s.ports[p].tdisp != .error

/-- The segments of a host access, or none with the fault reported (R361, R376). -/
def hostAccess (s : State) (p : HostPort) (need : Need) (hpa n : Nat) : Option (List Seg) × State :=
  if !portServes s p then (none, s)
  else match decode' s.ports[p] hpa n with
  | none => (none, s)
  | some (space, va) =>
    let part := (boundPart s p space).getD (s.ports[p].parts.headD 0)
    match (if (boundPart s p space).isSome && va + n ≤ 2 ^ 55 then globalAccess s (portSlice p) part space need va n else (.bad exPage va, s)) with
    | (.ok l, s) => (if l.all Seg.ok then some l else none, s)
    | (.bad code a, s) =>
      (none, (postFault s part 4 (portSlice p) ⟨BitVec.ofNat 64 a, need.kind, if code = exPage then 1 else 2, space, none⟩ 0 p.val).2)

/-- What a host has read from its port. -/
def answered (s : State) (p : HostPort) (x : Option (List Byte)) : State := s.onPort p fun h => { h with answer := x }

/-- Bytes a host writes through a decoder (R376) are written, or dropped. -/
def hostWrite (p : HostPort) (hpa : Nat) (data : List Byte) (s : State) : State :=
  match hostAccess s p needW hpa data.length with
  | (some l, s) => writeSegs s Config.cores l data
  | (none, s) => s

/-- A read-modify-write of the host that leaves `data` where it finds `old` (R316): in an HDM-DB range one indivisible step; in another its read has
gone before, and this is its write. Log entry 23. -/
def hostAtomic (p : HostPort) (hpa : Nat) (data old : List Byte) (s : State) : State :=
  if !((decoderOf s.ports[p] hpa data.length).map decDb).getD false then hostWrite p hpa data s
  else match hostAccess s p needRW hpa data.length with
  | (some l, s) =>
    let s := settleMeeting 0 l s
    let found := readSegs s 0 l
    answered (if found = old then writeSegs s Config.cores l data else s) p (some found)
  | (none, s) => answered s p none

/-- HOST_MEM_WRITE (R376, R316). -/
def execHostMemWrite (p : HostPort) (hpa : Nat) (data : HostData) (s : State) : Out :=
  match data with
  | .bytes new => .next (hostWrite p hpa new s)
  | .update old new => .next (hostAtomic p hpa new old s)

/-! ## Registers (R376, R377, R383, R409) -/

/-- BSTAT (R409). -/
def Management.bstat (m : Management) : Word :=
  BitVec.ofNat 64 (m.code.toNat * 2 ^ 16 + m.step.toNat * 2 ^ 8 + ofBool m.dump * 8 + ofBool m.fatal * 4 + ofBool m.fail * 2 + ofBool m.ready)

/-- DCTL as it reads (R409): RESET reads 0. -/
def Management.dctl (m : Management) : Word := BitVec.ofNat 64 (ofBool m.keep * 2)

/-- QBIND as the host reads it (R377). -/
def QueueRegs.qbind (q : QueueRegs) : Word := BitVec.ofNat 64 (2 ^ 63 * ofBool q.bound + q.part.toNat * 2 ^ 32 + q.space.toNat)

/-- A read of a register of the command window (R377): all ones where the queue is unbound or the interface is in ERROR (R383); what a register that the
host only writes reads as, the manual does not say: free bytes. Log entry 23. -/
def windowRead (s : State) (p : HostPort) (q : Queue) (w : Option Word) : List Byte × State :=
  if !(s.queue p q).bound || s.ports[p].tdisp == .error then (List.replicate 8 255, s)
  else match w with
  | some w => (wordBytes w, s)
  | none => s.freeBytes 8

/-- The bytes of a register that a host reads. -/
def registerRead (s : State) (p : HostPort) (r : HostReg) : List Byte × State :=
  let h := s.ports[p]
  match r with
  | .bar0 => (wordBytes h.bar0, s)
  | .decoder i => (toBytes 24 h.decoders[i].toNat, s)
  | .memEnable => (wordBytes (BitVec.ofNat 64 (ofBool h.memEn)), s)
  | .cmdf q => windowRead s p q (some (s.counter (queuePlace p q 0x40)))
  | .cplc q => windowRead s p q (some (s.queue p q).cplc)
  | .cmdd q => windowRead s p q (some (s.queue p q).cmdd)
  | .cplseq q => windowRead s p q (some (s.queue p q).cplseq)
  | .qbind q => windowRead s p q (some (s.queue p q).qbind)
  | .cpla q => windowRead s p q none
  | .cpln q => windowRead s p q none
  | .ring q _ => windowRead s p q none
  | .bstat => (wordBytes s.mgmt.bstat, s)
  | .dctl => (wordBytes s.mgmt.dctl, s)

/-- HOST_MEM_READ (R376): the answer is the bytes, or poison; of a register, its value (R377, R409), and nothing while power is off. -/
def execHostMemRead (p : HostPort) (hpa : HostPlace) (n : Nat) (s : State) : Out :=
  match hpa with
  | .mem hpa =>
    let (l, s) := hostAccess s p needR hpa n
    let s := settleOwn Config.cores 0 (l.getD []) s
    .next (answered s p (l.map (readSegs s 0)))
  | .reg r =>
    if !s.mgmt.power then .next (answered s p none)
    else
      let (bs, s) := registerRead s p r
      .next (answered s p (some bs))

/-- The interface drops to ERROR where it is locked or runs. -/
def dropInterface (s : State) (p : HostPort) : State :=
  match s.ports[p].tdisp with
  | .locked | .run => s.onPort p fun h => { h with tdisp := .error }
  | _ => s

/-- The fields of a decoder a host can write (R376). -/
def decMask : Nat := (2 ^ 20 - 1) * 2 ^ 160 + (2 ^ 39 - 1) * 2 ^ 121 + (2 ^ 48 - 1) * 2 ^ 16 + (2 ^ 14 - 1) * 4 + 2

/-- A store to a counter or slot of the command window. Log entry 23. -/
def windowStore (s : State) (p : HostPort) (q : Queue) (a : Nat) (v : Word) : State :=
  if acceptsStores s p q then s.writeWord (queuePlace p q a) v else s

/-- Completion-ring sizes (R377). Log entry 23. -/
def ringSizeOk (n : Nat) : Bool := 16 ≤ n && n ≤ 4096 && 2 ^ Nat.log2 n == n

/-- CMDF_WRITE (R379, R214): the counter word takes the value, and its roll is evaluated. -/
def execCmdfWrite (p : HostPort) (q : Queue) (v : Word) (s : State) : Out := .next (windowStore s p q 0x40 v)

/-- DCTL (R409): KEEP is kept, and RESET resets the device at once. Log entry 39. -/
def writeDctl (s : State) (v : Nat) : State :=
  let s := { s with mgmt := { s.mgmt with keep := v.testBit 1 } }
  if v.testBit 0 then bringUp false none s else s

/-- HOST_REGISTER_WRITE (R376, R377, R383, R409): nothing while power is off. Log entry 23. -/
def execHostRegisterWrite (p : HostPort) (r : HostReg) (v : BitVec 192) (s : State) : Out :=
  if !s.mgmt.power then .next s else
  let w : Word := v.setWidth 64
  let unlocked := s.ports[p].tdisp == .unlocked
  match r with
  | .bar0 => .next (if unlocked then s.onPort p fun h => { h with bar0 := BitVec.ofNat 64 (w.toNat / 2 ^ 22 * 2 ^ 22) } else dropInterface s p)
  | .decoder i => .next (if unlocked then s.onPort p fun h => { h with decoders := h.decoders.set i (v &&& BitVec.ofNat 192 decMask) } else dropInterface s p)
  | .memEnable => .next (if unlocked then s.onPort p fun h => { h with memEn := w.toNat.testBit 0 } else s)
  | .cmdf q => .next (windowStore s p q 0x40 w)
  | .cplc q => .next (if acceptsStores s p q then s.onQueue p q fun x => { x with cplc := w } else s)
  | .cpla q => .next (if s.mgmt.ready && unlocked && (s.queue p q).bound && w.toNat % 4096 == 0 then s.onQueue p q fun x => { x with cpla := w } else s)
  | .cpln q => .next (if s.mgmt.ready && unlocked && (s.queue p q).bound && ringSizeOk w.toNat then s.onQueue p q fun x => { x with cpln := w } else s)
  | .ring q a => .next (if a % 8 == 0 && a < 32768 then windowStore s p q (0x8000 + a) w else s)
  | .dctl => .next (writeDctl s w.toNat)
  | .qbind _ | .cmdd _ | .cplseq _ | .bstat => .next s

/-! ## TDISP (R383) -/

/-- The windows of two decoders meet. -/
def windowsMeet (a b : BitVec 192) : Bool := overlap (decBase a, decSize a) (decBase b, decSize b)

/-- The decoders pass R376. -/
def decodersPass (s : State) (p : HostPort) : Bool :=
  let l := s.ports[p].decoders.toList.filter fun d => decSize d != 0
  l.all (fun d => (boundPart s p (decSpace d)).isSome) && (List.range l.length).all fun i => (List.range i).all fun j =>
    match l[i]?, l[j]? with
    | some a, some b => !windowsMeet a b
    | _, _ => true

/-- An answer in the DOE mailbox: 0, or 1 for an error. -/
def mailbox (s : State) (p : HostPort) (ws : List Word) : State := s.onPort p fun h => { h with doe := ws }

/-- LOCK_INTERFACE_REQUEST (R383, R376). -/
def execLockInterfaceRequest (p : HostPort) (s : State) : Out :=
  if s.ports[p].tdisp == .unlocked && decodersPass s p then .next (mailbox (s.onPort p fun h => { h with tdisp := .locked }) p [0])
  else .next (mailbox s p [1])

/-- START_INTERFACE_REQUEST (R383). -/
def execStartInterfaceRequest (p : HostPort) (s : State) : Out :=
  if s.ports[p].tdisp == .locked then .next (mailbox (s.onPort p fun h => { h with tdisp := .run }) p [0]) else .next (mailbox s p [1])

/-- The queues of a port are cleared, with QBIND as `keep` says. -/
def clearQueues (s : State) (p : HostPort) (keep : Bool) : State :=
  let s := clearPlace s (windowPlace p.val 0) (2 ^ 22)
  let s := { s with poison := s.poison.filter fun k => k < windowPlace p.val 0 || windowPlace p.val (2 ^ 22) ≤ k }
  let clear (x : QueueRegs) : QueueRegs :=
    if keep then { QueueRegs.reset with bound := x.bound, part := x.part, space := x.space } else QueueRegs.reset
  s.onPort p fun h => { h with queues := h.queues.map fun x => (x.1, clear x.2) }

/-- STOP_INTERFACE_REQUEST (R383): the bindings stay, which only a bell changes (R403). Log entry 40. -/
def execStopInterfaceRequest (p : HostPort) (s : State) : Out :=
  if s.ports[p].tdisp == .unlocked then .next (mailbox s p [1])
  else .next (mailbox ((clearQueues s p true).onPort p fun h => { h with tdisp := .unlocked }) p [0])

/-- BAR0, the decoders and every QBIND (R383). -/
def interfaceReport (s : State) (p : HostPort) : List Word :=
  let h := s.ports[p]
  h.bar0 :: (h.decoders.toList.flatMap fun d => (List.range 3).map fun k => BitVec.ofNat 64 (field d.toNat (64 * k) 64))
    ++ (List.finRange 64).map fun q => (s.queue p q).qbind

/-- GET_DEVICE_INTERFACE_REPORT (R383). -/
def execGetDeviceInterfaceReport (p : HostPort) (s : State) : Out := .next (mailbox s p (interfaceReport s p))

/-- IDE_INTEGRITY_FAILURE (R383). -/
def execIdeIntegrityFailure (p : HostPort) (s : State) : Out := .next (dropInterface s p)

/-- CXL_FUNCTION_LEVEL_RESET (R411): the port's interface and queues are reset as by a device reset, QBIND to 0 with them (R377). -/
def execCxlFunctionLevelReset (p : HostPort) (s : State) : Out := .next ((clearQueues s p false).onPort p fun h => { h with tdisp := .unlocked })

/-- SPDM_MESSAGE (R375, R407): the host sets up the IDE keys, or reads the attestation certificate. -/
def execSpdmMessage (p : HostPort) (keys : Bool) (s : State) : Out :=
  if keys then .next (s.onPort p fun h => { h with keys := true, doe := [0] }) else .next (mailbox s p Config.certificate)

/-! ## The second tier (R384, R364) -/

/-- A command that has not ended works on pages of host memory or of the second tier. Log entry 41. -/
def copyFar (s : State) (c : Copy) : Bool :=
  let ranges := (if c.op == .get then [] else readRanges c) ++ (if c.op == .put then [] else writeRanges c)
  c.fatal.isNone && c.susp.isNone && c.stage != .fabric
    && (c.op.ring || ranges.any fun r => r.am == .gl && (r.pages s c).any fun a => 2 ^ 50 ≤ a && a < 2 ^ 56)

/-- A walk meets an error that it cannot get past at an address (R266): it ends with FAULT. -/
def walkError (w : Walk) (va : Word) : Walk :=
  if w.closing.isSome then { w with fail := some (7, va, 0) } else { w with failed := some (7, va, 0) }

/-- Pending load k of a core gets no data from host memory or the second tier. -/
def loadFails (s : State) (core k : Nat) : State :=
  let h := s.hartOf core
  match h.loads[k]? with
  | some l =>
    if farPage s (partOfCluster s (clusterOf core)) h.spid l.addr.toNat then
      s.modifyHart core fun h => { h with loads := h.loads.set k { l with bad := true } }
    else s
  | none => s

/-- The oldest store of a core to host memory or the second tier fails. -/
def storeFails (s : State) (core : Nat) : State :=
  match (s.hartOf core).stores.find? PendingStore.far with
  | some p => raise (s.modifyHart core fun h => { h with stores := h.stores.erase p, ost := h.ost.retire }) core irqErr
  | none => s

/-- CXL_COMPLETION_TIMEOUT (R384, R364): a load from host memory or the second tier will poison its register, a store raises ERR; a command, a walk or a
receive that is at work there ends fatally. A page of host memory or of the second tier begins to report an error to every access: a tile or Ephemeris
command, a counter read, a link message, the Timetable engine meet it as they meet any uncorrectable data; or it answers again. Log entry 41. -/
def execCxlCompletionTimeout (core : CxlParty) (isStore : Bool) (k : Nat) (s : State) : Out :=
  match core with
  | .core n => .next (if isStore then storeFails s n else loadFails s n k)
  | .copy id =>
    match findCopy s id with
    | some c => if copyFar s c then .next (endFatal s c 3) else .next s
    | none => .next s
  | .walk id va =>
    match findWalk s id with
    | some w =>
      if farPage s w.part w.space va.toNat && w.susp.isNone && w.fail.isNone && w.failed.isNone then .next (onWalk s id fun w => walkError w va)
      else .next s
    | none => .next s
  | .post id va =>
    match s.posts.find? fun p => p.id == id with
    | some p => if farPage s p.part p.space va.toNat && p.susp.isNone && p.fail.isNone then .next (failPost s p 7 va 0) else .next s
    | none => .next s
  | .page a => if 2 ^ 50 ≤ a && a < 2 ^ 56 then .next { s with dark := a / 65536 * 65536 :: s.dark } else .next s
  | .back a => .next { s with dark := s.dark.filter fun b => b != a / 65536 * 65536 }

/-! ## Commands (R378, R379) -/

/-- The next record of a queue: its number and words, where CMDF covers it and completions leave room (R379, R380). -/
def nextRecord (s : State) (p : HostPort) (q : Queue) : Option (Word × List Word) :=
  let r := s.queue p q
  let j := r.cmdd
  if r.bound && s.alive && reached (s.counter (queuePlace p q 0x40)) (j + 1) && j.toNat < r.cplc.toNat + r.cpln.toNat + 512 then
    some (j, (List.range 8).map fun k => s.mem.readWord (queuePlace p q (0x8000 + 64 * (j.toNat % 512) + 8 * k)))
  else none

def cmdSeqOk (j : Word) (w : List Word) : Bool := w.getD 0 0 == j
def cmdOp (w : List Word) : Nat := bits (w.getD 1 0) 0 16
def cmdA0 (w : List Word) : Word := w.getD 2 0
def cmdA1 (w : List Word) : Word := w.getD 3 0

/-- Reserved fields are zero and the operation exists. -/
def cmdFormOk (w : List Word) : Bool := bits (w.getD 1 0) 16 48 == 0 && [4, 5, 6, 7].all (fun k => w.getD k 0 == 0) && cmdOp w ≤ 3

/-- Services of the management service core (R332). -/
def mgmtService (n : Nat) : Bool := 2 ≤ n && n ≤ 5

/-- A management service asked for on a queue of another partition (R332). -/
def cmdServiceOk (r : QueueRegs) (w : List Word) : Bool := !(cmdOp w == 3 && mgmtService (bits (cmdA0 w) 0 12) && r.part != 0)

/-- The reference of an ADD lies within the partition (R378). -/
def cmdAddOk (s : State) (r : QueueRegs) (w : List Word) : Bool :=
  !(cmdOp w == 2) || (addForm (cmdA0 w) && refReach s r.part false (cmdA0 w))

/-- What a record is refused with, if it is. -/
def cmdRefusal (s : State) (r : QueueRegs) (j : Word) (w : List Word) : Option Nat :=
  if !cmdSeqOk j w then some 2
  else if !(cmdFormOk w && cmdServiceOk r w && cmdAddOk s r w) then some 3
  else none

/-- The record that is next and has operation `op`, none refused. -/
def nextCommand (s : State) (p : HostPort) (q : Queue) (op : Nat) : Option (Word × List Word) :=
  match nextRecord s p q with
  | some (j, w) => if (cmdRefusal s (s.queue p q) j w).isNone && cmdOp w == op then some (j, w) else none
  | none => none

/-- A completion joins those that wait for their slot. -/
def complete (s : State) (p : HostPort) (q : Queue) (seq : Word) (status detail : Nat) (result : Word) : State :=
  s.onQueue p q fun x => { x with waiting := x.waiting ++ [⟨seq, BitVec.ofNat 64 (status % 256 + 256 * detail), result⟩] }

/-- The record is taken: CMDD advances. -/
def taken (s : State) (p : HostPort) (q : Queue) : State := s.onQueue p q fun x => { x with cmdd := x.cmdd + 1 }

/-- COMMAND_NOP (R378). -/
def execCommandNop (p : HostPort) (q : Queue) (s : State) : Out :=
  match nextCommand s p q 0 with
  | some (j, _) => .next (complete (taken s p q) p q j 0 0 0)
  | none => .next s

/-- COMMAND_REFUSED (R379): the record completes SEQERR or REFUSED without acting. -/
def execCommandRefused (p : HostPort) (q : Queue) (s : State) : Out :=
  match nextRecord s p q with
  | some (j, w) =>
    match cmdRefusal s (s.queue p q) j w with
    | some c => .next (complete (taken s p q) p q j c 0 0)
    | none => .next s
  | none => .next s

/-- COMMAND_ADD (R378): the add with release at `.sys`; a counter that cannot be reached fails the command. -/
def execCommandAdd (p : HostPort) (q : Queue) (s : State) : Out :=
  match nextCommand s p q 2 with
  | some (j, w) =>
    let r := s.queue p q
    match (svcRef (portSlice p) r.part r.space needRW (cmdA0 w)).run s with
    | .ok key s => .next (complete (counterAdd (settleRepl Config.cores (taken s p q)) key (cmdA1 w)) p q j 0 0 0)
    | .error _ s => .next (complete (taken s p q) p q j 1 0 0)
  | none => .next s

/-- The graph record's address goes into the submission ring as software puts it there (R326): none while the ring is full, otherwise the value
SUBD reaches when the engine has taken it. Log entry 22. -/
def submit (m : Nat) (p : BitVec 16) (a : Word) : EngM (Option Word) := do
  let sp ← homeSpace p
  match descOf (← get) p with
  | none => throw .err
  | some d =>
    let r ← svcWords m p sp d.sched.toNat 8
    let subf ← svcRef m p sp needRW (r.getD 1 0)
    let subd ← svcRef m p sp needR (r.getD 2 0)
    let s ← get
    let f := s.counter subf
    if reached (s.counter subd) (f + 1 - BitVec.ofNat 64 (schedQm r + 1)) then
      svcWrite m p sp ((r.getD 0 0).toNat + 8 * (f.toNat % (schedQm r + 1))) (wordBytes a)
      engAdd subf 1
      pure (some (f + 1))
    else pure none

/-- A command goes on after its record is taken. -/
def running (s : State) (p : HostPort) (q : Queue) (j : Word) (op : Nat) (a0 a1 : Word) (frame : Nat) : State :=
  (taken s p q).onQueue p q fun x => { x with running := x.running ++ [⟨j, op, a0, a1, frame⟩] }

/-- COMMAND_SUBMIT (R378). It waits while the ring is full. Log entry 22. -/
def execCommandSubmit (p : HostPort) (q : Queue) (s : State) : Out :=
  match nextCommand s p q 1 with
  | some (j, w) =>
    match (submit (portSlice p) (s.queue p q).part (cmdA0 w)).run s with
    | .ok (some t) s => .next (running s p q j 1 t 0 0)
    | .ok none s => .next s
    | .error _ s => .next (complete (taken s p q) p q j 1 0 0)
  | none => .next s

/-! ## Completions (R380) -/

/-- SUBD of a partition has passed a taken record, or is poisoned. Log entry 22. -/
def submitted (m : Nat) (p : BitVec 16) (t : Word) : EngM (Option Bool) := do
  let sp ← homeSpace p
  match descOf (← get) p with
  | none => pure (some false)
  | some d =>
    let r ← svcWords m p sp d.sched.toNat 8
    let subd ← svcRef m p sp needR (r.getD 2 0)
    let s ← get
    pure (if reached (s.counter subd) t then some true else if s.poisoned subd then some false else none)

/-- Whether a command that goes on has ended: its status and detail (R380). -/
def ended (p : HostPort) (r : QueueRegs) (c : Running) (s : State) : Option (Nat × Nat) × State :=
  if c.op = 1 then
    match (submitted (portSlice p) r.part c.a0).run s with
    | .ok o s => (o.map fun ok => if ok then (0, c.a1.toNat) else (1, 0), s)
    | .error _ s => (none, s)
  else if bits c.a0 0 12 = 1 then
    match unload r.part r.space c.a1.toNat (some c.frame) (BitVec.ofNat 24 (bits c.a0 12 24)) s with
    | (o, s) => (o.map fun code => (if code = 0 then 0 else 1, code), s)
  else (none, s)

/-- The commands of a queue that have ended join the completions. -/
def harvest (p : HostPort) (q : Queue) (s : State) : State :=
  (s.queue p q).running.foldl (fun s c =>
    match ended p (s.queue p q) c s with
    | (some (status, detail), s) =>
      complete (s.onQueue p q fun x => { x with running := x.running.filter fun y => y != c }) p q c.seq status detail 0
    | (none, s) => s) s

/-- Completions of the queue reach host memory (R383): in ERROR they are discarded. -/
inductive Delivery where
  | write | discard | wait
  deriving DecidableEq, Repr

def delivery (s : State) (p : HostPort) (q : Queue) : Delivery :=
  match s.ports[p].tdisp with
  | .run => .write
  | .unlocked => if (s.queue p q).part = 0 then .write else .wait
  | .locked => .wait
  | .error => .discard

/-- Host memory of a port. -/
def toHost (s : State) (p : HostPort) (a : Nat) (ws : List Word) : State := s.write (hostPlace p.val (a % 2 ^ 52)) (ws.flatMap wordBytes)

/-- The first waiting completion takes its slot: the record, CPLW, then CPLSEQ, after the service core's own writes (R381). -/
def writeCompletion (s : State) (p : HostPort) (q : Queue) (c : Completion) : State :=
  let r := s.queue p q
  let i := r.cplw
  let s := settleRepl Config.cores s
  let s := toHost s p (r.cpla.toNat + 64 + 32 * (i.toNat % r.cpln.toNat)) [i, c.seq, c.status, c.result]
  let s := toHost s p r.cpla.toNat [i + 1]
  s.onQueue p q fun x => { x with cplw := i + 1, cplseq := i, waiting := x.waiting.tail }

/-- COMPLETION_WRITE (R380): commands that have ended join the completions, and the first one is written when CPLC leaves room. -/
def execCompletionWrite (p : HostPort) (q : Queue) (s : State) : Out :=
  let s := harvest p q s
  let r := s.queue p q
  match r.waiting with
  | [] => .next s
  | c :: _ =>
    match delivery s p q with
    | .wait => .next s
    | .discard => .next (s.onQueue p q fun x => { x with waiting := x.waiting.tail })
    | .write => if r.cplw.toNat < r.cplc.toNat + r.cpln.toNat then .next (writeCompletion s p q c) else .next s

/-! ## Management services (R332) and restarts (R382) -/

/-- The command that asked for service `n` with argument `a1`. -/
def serviceCommand (s : State) (n : Nat) (a1 : Word) : Option (HostPort × Queue × Running) :=
  (List.finRange 4).findSome? fun p => (List.finRange 64).findSome? fun q =>
    ((s.queue p q).running.find? fun c => c.op == 3 && bits c.a0 0 12 == n && c.a1 == a1).map fun c => (p, q, c)

/-- A management service completes the command that asked for it, if one did. Log entry 32. -/
def finishService (s : State) (n : Nat) (a1 : Word) (status detail : Nat) : State :=
  match serviceCommand s n a1 with
  | some (p, q, c) => complete (s.onQueue p q fun x => { x with running := x.running.filter fun y => y != c }) p q c.seq status detail 0
  | none => s

/-- Every command of a queue that was taken and not ended, and that `f` selects, completes FAILED. -/
def failRunning (f : Running → Bool) (p : HostPort) (s : State) (q : Queue) : State :=
  ((s.queue p q).running.filter f).foldl (fun s c => complete s p q c.seq 1 0 0)
    (s.onQueue p q fun x => { x with running := x.running.filter fun c => !f c })

/-- SERVICE_KERNEL_INSTANCE_RESTART (R382): the commands the instance of slice m had taken fail; a change that waits for quiet, and a
save under way, go with the management service core. -/
def execServiceKernelInstanceRestart (m : Nat) (s : State) : Out :=
  let mgmt (c : Running) : Bool := c.op == 3 && mgmtService (bits c.a0 0 12)
  let s := (List.finRange 4).foldl (fun s p => (List.finRange 64).foldl (failRunning (fun c => if mgmt c then m == 0 else m == portSlice p) p) s) s
  .next (if m = 0 then
      { s with mgmt := { s.mgmt with change := s.mgmt.change.filter fun c => c.state != .quiescing, saving := none } }
    else s)

end Sys2Proof.Machine
end

