-- ==== Sys2Proof/Machine/Link.lean ====
section
/-! DEFINITION. Yelex links: flits, reassembly, admission, retries (R385–R391). -/

namespace Sys2Proof.Machine

/-! ## Performing a message (R386, R388) -/

/-- What an admitted message comes to: an ACK status with its further words, or a page fault at its target. -/
inductive Performed where
  | ack (status : Nat)
  | held (x : Suspension)
  deriving DecidableEq, Repr

def IMPORT : Nat := 3
def FAULT : Nat := 4

/-- The slice whose BTE performs a message: the owner of its first target byte (R388). For a byte outside HBM or without a translation it is the first
slice of the partition: the rule of R235 for such an operand names the issuing cluster, and there is none on this chip. Log entry 69. -/
def targetSlice (s : State) (part : BitVec 16) (space : BitVec 20) (va : Nat) : Nat :=
  match (walkPath s part space va).2 with
  | some (e, b) => if pagePlace e b va < 2 ^ 50 then owningSlice (pagePlace e b va) else firstSlice part
  | none => firstSlice part

/-- The space a message's addresses are taken in. -/
def ImportEntry.space (e : ImportEntry) : BitVec 20 := BitVec.ofNat 20 e.tgt.toNat

/-- A word of a body. -/
def bodyWord (b : List Byte) (k : Nat) : Word := BitVec.ofNat 64 (leNat ((b.drop (8 * k)).take 8))

/-- The element size and count of a WRITE or DATA agree with its data. Log entry 70. -/
def controlOk (b : List Byte) : Bool :=
  16 ≤ b.length && bits (bodyWord b 1) 0 32 * bits (bodyWord b 1) 32 32 == b.length - 16

def heldAt (space : BitVec 20) (va kind cause : Nat) : Performed := .held ⟨BitVec.ofNat 64 va, kind, cause, space, none⟩

/-- A WRITE under an import entry (R242, R386), released at `.sys` before it is answered (R246, R388). Log entry 26. -/
def performWrite (s : State) (e : ImportEntry) (b : List Byte) : Performed × State :=
  let a := (bodyWord b 0).toNat
  let data := b.drop 16
  if !controlOk b || 2 ^ 55 < a + data.length || 2 ^ 55 ≤ a then (.ack IMPORT, s)
  else
    let m := targetSlice s e.part e.space a
    match partyWrite s m e.part e.space Config.cores .gl a data with
    | (.ok _, s) => (.ack 0, settleRepl Config.cores s)
    | (.fault va k c, s) => (heldAt e.space va k c, s)
    | (.err, s) => (.ack FAULT, s)

/-- A READ is answered with DATA (R386). Log entries 26 and 27. -/
def performRead (s : State) (src : BitVec 12) (e : ImportEntry) (b : List Byte) : Performed × State :=
  let a := (bodyWord b 0).toNat
  let n := (bodyWord b 1).toNat
  if b.length ≠ 24 ∨ n = 0 ∨ 16368 < n ∨ 2 ^ 55 < a + n then (.ack IMPORT, s)
  else
    let m := targetSlice s e.part e.space a
    match partyRead s m e.part e.space Config.cores .gl a n with
    | (.ok bs, s) => (.ack 0, sendMessage s src e.part 2 0 (toBytes 8 (bodyWord b 2).toNat ++ toBytes 8 (writeControl 1 n) ++ bs) .reply)
    | (.fault va k c, s) => (heldAt e.space va k c, s)
    | (.err, s) => (.ack FAULT, s)

/-- An ADD at a counter's homeroom (R386, R388, R430): it releases the writes that came before it (R319). -/
def performAdd (s : State) (e : ImportEntry) (b : List Byte) : Performed × State :=
  let r := bodyWord b 0
  if b.length ≠ 16 ∨ !(addForm r && refReach s e.part false r) then (.ack IMPORT, s)
  else
    match partyRef s (targetSlice s e.part e.space r.toNat) e.part e.space needRW r with
    | (.at key, s) => (.ack 0, counterAdd (settleRepl Config.cores s) key (bodyWord b 1))
    | (.fault va k c, s) => (heldAt e.space va k c, s)
    | (.never _, s) => (.ack FAULT, s)

/-- The elements of an XGET's run are written from its DATA (R242, R386), in ascending order where rows of the destination lie on one another (R247).
Log entry 75. -/
def writeRun (c : Copy) : Nat → State → Nat → List Byte → Option Stop × State
  | 0, s, _, _ => (none, s)
  | n + 1, s, p, bs =>
    let e := recE c.words
    match copyWrite s c (recDam c.words) (elemAddr c.words (recDst c.words) true p) (bs.take e) with
    | (none, s) => writeRun c n s (p + 1) (bs.drop e)
    | (some x, s) => (some x, s)

/-- The command a DATA message is for. -/
def dataCopy (s : State) (body : List Byte) : Option Copy := findCopy s ((bodyWord body 0).toNat / 2 ^ 32)

/-- DATA of an outstanding READ of this chip (R386, R388), released at `.sys` before it is answered (R312). Where the command's own write meets a page
fault, the command is suspended at the offset up to which it has written (R248), and the message is held. Log entry 27. -/
def performData (s : State) (src : BitVec 12) (b : List Byte) : Performed × State :=
  let num := (bodyWord b 0).toNat % 2 ^ 32
  let data := b.drop 16
  match dataCopy s b with
  | none => (.ack IMPORT, s)
  | some c =>
    match c.idx.find? fun x => x.2 == num with
    | none => (.ack IMPORT, s)
    | some (p, _) =>
      if c.op != .get || bits (recAux c.words) 0 12 != src.toNat || c.fatal.isSome || !controlOk b || data.length % recE c.words != 0 then
        (.ack IMPORT, s)
      else match writeRun c (data.length / recE c.words) s p data with
      | (none, s) => (.ack 0, copyMoved (setCopy (settleRepl c.core s) { c with idx := c.idx.filter fun x => x.2 != num }) c.id)
      | (some (.fault va k x), s) =>
        (heldAt c.space va k x, if c.susp.isSome then s else stopCopy s c (.fault va k x))
      | (some .err, s) => (.ack FAULT, endFatal s c 3)

/-- A message that an import entry admits is performed. Log entry 26. -/
def performUnder (s : State) (e : ImportEntry) (f : Flit) (body : List Byte) : Performed × State :=
  match f.kind.toNat with
  | 0 => performWrite s e body
  | 1 => performRead s f.src e body
  | _ => performAdd s e body

/-- The entry under which a message other than DATA and STREAM is admitted (R388), if one admits it. -/
def admits (s : State) (f : Flit) : Option ImportEntry :=
  match importFor s f.src f.part f.dom with
  | some e => if bit1 e.perm f.kind.toNat then some e else none
  | none => none

/-- An admitted message other than STREAM is performed under the entry that admitted it; DATA has none. -/
def performMessage (s : State) (e : Option ImportEntry) (f : Flit) (body : List Byte) : Performed × State :=
  if f.kind.toNat = 2 then performData s f.src body
  else match e with
  | none => (.ack IMPORT, s)
  | some e => performUnder s e f body

/-- The partition and space a held message's target lies in. -/
def targetSpace (s : State) (h : Held) : BitVec 16 × BitVec 20 :=
  match h.entry, dataCopy s h.body with
  | some e, _ => (e.part, e.space)
  | none, some c => (c.part, c.space)
  | none, none => (0, 0)

/-- The fault record of a message held at a page fault: a copy's, of the slice that performs it (R361, R389). Which core of the peer issued the
command and how far it has come are not known on this chip: offset and issuer are 0. For DATA the record is that of its command. Log entry 76. -/
def postHeld (s : State) (h : Held) : Held × State :=
  if h.flit.kind.toNat = 2 then (h, s)
  else
    let (part, space) := targetSpace s h
    let (r, s) := postFault s part 0 (targetSlice s part space h.susp.va.toNat) h.susp 0 0
    ({ h with susp := { h.susp with record := r } }, s)

def findHeld (s : State) (src : BitVec 12) (n : BitVec 32) : Option Held := s.links.held.find? fun h => h.src == src && h.sseq == n

def dropHeld (s : State) (src : BitVec 12) (n : BitVec 32) : State :=
  { s with links := { s.links with held := s.links.held.filter fun h => !(h.src == src && h.sseq == n) } }

/-- A message is performed; at a page fault it is held, with its record, and the source told so. -/
def performOrHold (s : State) (e : Option ImportEntry) (f : Flit) (body : List Byte) : State :=
  match performMessage s e f body with
  | (.ack st, s) => conclude s f.src f.sseq st []
  | (.held x, s) =>
    let (h, s) := postHeld s ⟨f.src, f.sseq, f, body, e, x⟩
    answer { s with links := { s.links with held := s.links.held ++ [h] } } f.src f.sseq 1 []

/-- A complete sequenced message is admitted (R388–R390). -/
def admitMessage (s : State) (f : Flit) (body : List Byte) : State :=
  if f.kind.toNat = 4 then receiveStream s f.src f.part f.dom f.chan f.sseq body
  else match windowAnswer s f.src f.sseq with
  | some (st, info) => answer s f.src f.sseq st info
  | none => performOrHold s (admits s f) f body

/-! ## Flits (R385, R387) -/

/-- A flit the link drops as if lost: it fails authentication, holds a reserved field or kind, has no place in a message, or is for another chip. -/
def flitBad (s : State) (f : Flit) : Bool :=
  !f.authentic || !f.reservedZero || 7 ≤ f.kind.toNat || f.len == 0 || 16384 < f.len || f.off % 48 != 0 || f.len ≤ f.off || f.dst != chipNo s
    || !s.alive

/-- Headers agree apart from OFF. -/
def sameHeader (f g : Flit) : Bool :=
  f.part == g.part && f.dom == g.dom && f.kind == g.kind && f.chan == g.chan && f.len == g.len

/-- The 48 bytes of a payload. -/
def payload48 (f : Flit) : List Byte := (f.payload ++ List.replicate 48 0).take 48

/-- A service core is told of a message (R387, R391). Log entry 28. -/
def report (s : State) (chip : BitVec 12) (n : BitVec 32) : State := { s with links := { s.links with reports := s.links.reports ++ [(chip, n)] } }

/-- A flit of a sequenced message is placed; the message is admitted once it is whole. -/
def placeFlit (s : State) (f : Flit) : State :=
  let mine (x : Partial) : Bool := x.first.src == f.src && x.first.sseq == f.sseq
  let x := match s.links.partials.find? mine with | some x => x | none => ⟨f, [], false⟩
  let x := { x with
    spoiled := x.spoiled || !sameHeader x.first f
    parts := if x.parts.any (fun y => y.1 == f.off) then x.parts else x.parts ++ [(f.off, payload48 f)] }
  let rest := s.links.partials.filter fun y => !mine y
  let offs := (List.range (flitCount x.first.len)).map fun k => 48 * k
  if offs.all fun o => x.parts.any fun y => y.1 == o then
    let s := { s with links := { s.links with partials := rest } }
    if x.spoiled then s
    else admitMessage s x.first ((offs.flatMap fun o => match x.parts.find? fun y => y.1 == o with | some y => y.2 | none => []).take x.first.len)
  else { s with links := { s.links with partials := rest ++ [x] } }

/-- FLIT_RECEIVE (R385–R391): an ACK reaches its message, a FAIL the service core, any other flit its message. -/
def execFlitReceive (f : Flit) (s : State) : Out :=
  if flitBad s f then .next s
  else if f.kind.toNat = 5 then
    let b := payload48 f
    .next (ackReceived s f.src f.sseq (leNat (b.take 1)) (if 25 ≤ f.len then (List.range 3).map fun k => bodyWord (b.drop 1) k else []))
  else if f.kind.toNat = 6 then .next (report s f.src (BitVec.ofNat 32 (leNat ((payload48 f).take 4))))
  else .next (placeFlit s f)

/-- REASSEMBLY_TIMEOUT (R387): a message still incomplete is dropped and reported. -/
def execReassemblyTimeout (src : BitVec 12) (sseq : BitVec 32) (s : State) : Out :=
  let mine (x : Partial) : Bool := x.first.src == src && x.first.sseq == sseq
  if s.links.partials.any mine then .next (report { s with links := { s.links with partials := s.links.partials.filter fun x => !mine x } } src sseq)
  else .next s

/-! ## Retries (R391) -/

/-- A message of this chip ends unheard: its command ends fatally with CAUSE 4, it is reported, and one FAIL goes out. -/
def exhaust (s : State) (m : OutMsg) : State :=
  let s := report (failOwner s m 4 []) m.dst m.sseq
  dropMessage { s with links := { s.links with control := s.links.control ++ [⟨m.dst, true, m.sseq, 0, []⟩] } } m

/-- MESSAGE_RETRY_TIMEOUT (R391): the message is sent again, or is exhausted after seven retries. -/
def execMessageRetryTimeout (dst : BitVec 12) (sseq : BitVec 32) (s : State) : Out :=
  match findMessage s dst sseq with
  | none => .next s
  | some m =>
    if !m.sent then .next s
    else if 7 ≤ m.retries then .next (exhaust s m)
    else
      let m' := { m with retries := m.retries + 1 }
      let s := countSend { s with links := { s.links with out := s.links.out.map fun x => if x = m then m' else x } } m'
      .next (loopback s m')

/-- A held message waits: for its record and its page, or, with DATA, for its command to go on. -/
def heldWaits (s : State) (h : Held) : Bool :=
  if h.flit.kind.toNat = 2 then ((dataCopy s h.body).bind (·.susp)).isSome else !h.susp.posted

/-- HELD_MESSAGE_RESUME (R389, R403, R430): the service core has serviced the page, and the held message is performed under the entry that admitted
it. -/
def execHeldMessageResume (src : BitVec 12) (sseq : BitVec 32) (s : State) : Out :=
  match findHeld s src sseq with
  | none => .next s
  | some h =>
    if !heldWaits s h then .next (performOrHold (dropHeld (takeRecord s h.susp) src sseq) h.entry h.flit h.body)
    else
      let (h', s) := postHeld s h
      .next { s with links := { s.links with held := s.links.held.map fun x => if x = h then h' else x } }

end Sys2Proof.Machine
end

