-- ==== Sys2Proof/Machine/Layout.lean ====
section
/-! DEFINITION. The layout of partitions (R392–R408): change lists, quiet, the bell, usage records. -/

namespace Sys2Proof.Machine

/-! ## The operations on the layout (R392–R395) -/

def roleOf (s : State) (n : Nat) : Option Role := (s.mgmt.nodes.find? fun x => x.1 == n).map (·.2)

/-- The nodes `drop` leave the layout and the nodes `add` join it, IDLE. -/
def reshape (s : State) (drop add : List Nat) : State :=
  { s with mgmt := { s.mgmt with nodes := s.mgmt.nodes.filter (fun x => !drop.contains x.1) ++ add.map fun n => (n, Role.idle) } }

def setRole (s : State) (n : Nat) (r : Role) : State :=
  { s with mgmt := { s.mgmt with nodes := s.mgmt.nodes.map fun x => if x.1 = n then (n, r) else x } }

/-- A node of a sector (R392). -/
def sectorNode (n : Nat) : Bool := 1 ≤ n % 128 && n < 384

/-- The children of a sector node that is no leaf. -/
def childNodes (n : Nat) : Option (Nat × Nat) :=
  if sectorNode n && n % 128 < 64 then some (n / 128 * 128 + 2 * (n % 128), n / 128 * 128 + 2 * (n % 128) + 1) else none

def sectorRoots : List Nat := [1, 129, 257]

/-! ## Descriptors and tables (R398, R388, R352, R406) -/

/-- The descriptor a CREATE entry gives (R396, R398): 56 bytes, the limits 0 until a LIMITS operation. Log entry 29. -/
def newDescriptor (w : List Word) (lver : Word) : Descriptor where
  part := BitVec.ofNat 16 (w.getD 0 0).toNat
  dom := BitVec.ofNat 6 (bits (w.getD 0 0) 16 6)
  sched := w.getD 1 0
  reqb := w.getD 2 0
  keys := w.getD 3 0
  log := w.getD 4 0
  logn := w.getD 5 0
  qctl := BitVec.ofNat 4 (w.getD 6 0).toNat
  lim := [0, 0, 0, 0]
  lver := lver

/-- The words of a descriptor in its page (R398). -/
def Descriptor.words (d : Descriptor) : List Word :=
  [BitVec.ofNat 64 (d.part.toNat + d.dom.toNat * 2 ^ 16), d.sched, d.reqb, d.keys, d.log, d.logn, d.qctl.setWidth 64]
    ++ (List.range 4).map (fun k => d.lim.getD k 0) ++ [d.lver, 0, 0, 0, 0]

/-- Key ids of a mask that another partition holds, or that this change has revoked (R405, R406). Log entry 29. -/
def keysTaken (s : State) (old : List Nat) (p : BitVec 16) (keys : Word) : Bool :=
  (List.range 64).any fun k => bit1 keys k &&
    (s.mgmt.descs.any (fun d => d.part != p && bit1 d.keys k) || (s.mgmt.revoked.contains k && !old.contains k))

/-- The rules of a descriptor (R398). -/
def descriptorOk (n : Nat) (w : List Word) : Bool :=
  bits (w.getD 0 0) 0 16 == n && bits (w.getD 0 0) 22 42 == 0 && !bit1 (w.getD 3 0) 0 && (w.getD 4 0).toNat % 4096 == 0
    && 16 ≤ (w.getD 5 0).toNat && (w.getD 5 0).toNat ≤ 65536 && bits (w.getD 6 0) 4 60 == 0

/-- A descriptor is put in force, and written into its page. -/
def setDescriptor (s : State) (d : Descriptor) : State :=
  let s := { s with mgmt := { s.mgmt with descs := d :: s.mgmt.descs.filter fun x => x.part != d.part } }
  s.write (descPlace d.part) (d.words.flatMap wordBytes)

/-- The entries listed in a table page: their indices and values. -/
def listedEntries (s : State) (page : Nat) : List Word :=
  ((s.mem.filter fun c => page ≤ c.1 && c.1 < page + 65536).map fun c => (c.1 - page) / 8).eraseDups.map fun i => s.mem.readWord (page + 8 * i)

/-- The 64 KiB frames of a space: those it maps, with those of replicas (R356), host-homed pages apart, and those of its table pages. -/
def framesOf (s : State) (root : Nat) : List Nat :=
  let leaf (e : Word) (n : Nat) : List Nat :=
    if pteV e && pteLeaf e && !pteHh e then (pageList (pteFrame e) n).flatMap (frameCopies e) else []
  let tables (l : List Word) : List Nat := l.filterMap tableEntry
  let t1 := tables (listedEntries s root)
  let l1 := t1.flatMap (listedEntries s)
  root :: t1 ++ tables l1 ++ l1.flatMap (fun e => leaf e 8192) ++ ((tables l1).flatMap (listedEntries s)).flatMap fun e => leaf e 1

/-- The spaces of a partition. -/
def spacesOf (s : State) (p : BitVec 16) : List (BitVec 20 × SpaceEntry) := s.spaces.filter fun x => x.2.part == p

/-- A space is given or taken: stations drop its translations (R403). -/
def dropSpace (s : State) (space : BitVec 20) : State :=
  { s with spaces := s.spaces.filter (fun x => x.1 != space), stations := s.stations.filter fun c => c.space != space }

/-- New key pairs for key ids that were revoked (R406). -/
def renewKeys (s : State) (keys : List Nat) : State :=
  { s with mgmt := { s.mgmt with keyGens := keys.foldl (fun l k => insertA l k (lookupD l k 0 + 1)) s.mgmt.keyGens } }

/-- The key mask of a partition: an id removed is revoked, an id given that was revoked is installed with a new key pair (R395, R406). Log entry 30. -/
def setKeys (s : State) (d : Descriptor) (keys : Word) : State :=
  let gone := (List.range 64).filter fun k => bit1 d.keys k && !bit1 keys k
  let s := renewKeys s (s.mgmt.revoked.filter fun k => bit1 keys k)
  let s := { s with mgmt := { s.mgmt with revoked := (s.mgmt.revoked ++ gone).eraseDups.filter fun k => !bit1 keys k } }
  setDescriptor s { d with keys := keys }

/-- The place of the log slot of a partition's next usage record (R407), and the entry of its page. -/
def logPlace (s : State) (d : Descriptor) (seq : Word) : Option (Nat × Word) :=
  let va := d.log.toNat + 256 * (seq.toNat % d.logn.toNat)
  match lowestSpace s d.part with
  | some sp => (walkPath s d.part sp va).2.map fun x => (pagePlace x.1 x.2 va + va % 65536, x.1)
  | none => none

def chainOf (s : State) (p : BitVec 16) : Chain :=
  match s.mgmt.chains.find? fun c => c.part == p with
  | some c => c
  | none => ⟨p, 0, 0⟩

/-- The entry by which space 0 shows the page of an address of another space: to read, under key 0. -/
def showEntry (e : Word) (big : Bool) (va : Nat) : Word :=
  BitVec.ofNat 64 ((if big then pteFrame e + va % 2 ^ 29 / 65536 * 65536 else pteFrame e) + 0x103
    + if pteHh e then 0x80 + pteHport e * 2 ^ 58 else 0)

/-- The pages of a destroyed partition that space 0 shows: its descriptor page with the usage block, and its log (R404). Log entry 20. -/
def keptPages (s : State) (d : Descriptor) : List (BitVec 16 × Nat × Word) :=
  let first := d.log.toNat / 65536
  let n := (d.log.toNat + 256 * d.logn.toNat + 65535) / 65536 - first
  let log := (List.range n).filterMap fun k =>
    let va := (first + k) * 65536
    match lowestSpace s d.part with
    | some sp => (walkPath s d.part sp va).2.map fun x => (d.part, 0x7FFE000000 + 512 * d.part.toNat + k, showEntry x.1 x.2 va)
    | none => none
  (d.part, 0x7FFF000000 + d.part.toNat, BitVec.ofNat 64 (descPlace d.part + 0x103)) :: log

/-- The frames of the spaces of a partition. -/
def partFrames (s : State) (p : BitVec 16) : List Nat := (spacesOf s p).flatMap fun x => framesOf s (x.2.root.toNat * 65536)

/-- Frames that a destroyed partition has left are remembered until they are zeroed (R404). -/
def leaveFrames (s : State) (frames : List Nat) : State :=
  { s with mgmt := { s.mgmt with released := (s.mgmt.released ++ frames).eraseDups } }

/-- What a destroyed partition loses (R404): its descriptor, spaces, key ids, import entries and bindings. Its frames are remembered until they are
zeroed; its usage block and log stay readable in space 0. The batches that park records of its clusters' images stand for are lost with its spaces (log
entry 92). -/
def dissolve (s : State) (d : Descriptor) : State :=
  let p := d.part
  let s := leaveFrames s (partFrames s p)
  let kept := keptPages s d
  let s := kept.foldl (fun s x => untagLines s (pteFrame x.2.2) 65536) s
  let s := (spacesOf s p).foldl (fun s x => dropSpace s x.1) s
  let m : Management := { s.mgmt with
    descs := s.mgmt.descs.filter fun x => x.part != p
    kept := kept ++ s.mgmt.kept.filter fun x => x.1 != p }
  let s : State := { s with
    mgmt := m
    engines := s.engines.filter fun e => e.part != p
    bindings := s.bindings.filter fun b => b.part != p
    images := s.images.filter fun i => i.part != p
    parkStore := s.parkStore.map fun (x : Park) => if nodeCovers p.toNat (clusterOf x.core) then { x with cmds := [] } else x
    links := { s.links with imports := s.links.imports.filter fun e => e.part != p } }
  { s with ports := s.ports.map fun h => { h with
    parts := h.parts.filter fun x => x != p
    queues := h.queues.map fun x => if x.2.part = p then (x.1, QueueRegs.reset) else x } }

/-- The cores of a node go to the idle loop in a mode and space (R393). -/
def idleCores (s : State) (n : Nat) (mode : Mode) (space : BitVec 20) : State :=
  (partCores (BitVec.ofNat 16 n)).foldl (fun s k => s.modifyHart k fun h => h.toIdle mode space) s

/-- The memories of a cluster are zeroed (R410 step 6). -/
def clearCluster (s : State) (c : Nat) : State :=
  let s := clearPlace (clearPlace s (localPlace (16 * c) 0) (16 * Config.localBytes)) (eventPlace c 0) 32768
  let s := clearPlace (clearPlace s (slotPlace c 0 0) (2 ^ 22)) (tilePlace c 0 0) (2 ^ 22)
  let s := clearPlace (clearPlace s (scalePlace c 0 0) (2 ^ 18)) (bitmapPlace c 0 0) (2 ^ 19)
  { s with poison := s.poison.filter fun k => k < eventPlace c 0 || eventPlace (c + 1) 0 ≤ k }

/-- The island of a cluster (R2) is gated (R412). -/
def gatedCluster (s : State) (c : Nat) : Bool := match s.mgmt.islands[c / 2]? with | some x => x.gate | none => false

/-- A compute-die island gets power again: the memories of its two clusters are zeroed (R414), their arrays and cores are as after a reset, in the idle
loop. Log entry 85. -/
def ungateIsland (s : State) (i : Nat) : State :=
  let cs := [2 * i, 2 * i + 1]
  let s := cs.foldl clearCluster s
  let cores := cs.flatMap fun c => (List.range 16).map fun n => 16 * c + n
  let s := cores.foldl (fun s k => s.modifyHart k Hart.afterReset) { s with arrays := s.arrays.filter fun a => !cs.contains a.1 }
  let on (x : Island) : Island := { x with gate := false }
  { s with mgmt := { s.mgmt with islands := s.mgmt.islands.mapFinIdx fun k x _ => if k = i then on x else x } }

/-- The clusters of a node whose island is gated get power again before the node is created (R414). -/
def ungate (s : State) (n : Nat) : State :=
  (((List.range Config.clusters).filter fun c => nodeCovers n c && gatedCluster s c).map (· / 2)).eraseDups.foldl ungateIsland s

/-- The descriptor page of a new partition (R397): usage block zero, the idle loop, whose code the manual does not print, at 0x1000. Log entry 20. -/
def newPage (s : State) (p : BitVec 16) : State :=
  let s := clearPlace s (descPlace p) 65536
  let (bs, s) := s.freeBytes 4096
  s.write (descPlace p + 0x1000) bs

/-- The reserved fields of 256 import entries of four words are zero (R388, R11). -/
def importsOk (w : List Word) : Bool :=
  (List.range 256).all fun i =>
    let k := w.getD (4 * i) 0
    let perm := w.getD (4 * i + 2) 0
    bits k 0 24 == 0 && bits k 30 2 == 0 && bits k 60 3 == 0 && bits (w.getD (4 * i + 1) 0) 20 44 == 0
      && !bit1 perm 2 && bits perm 5 11 == 0 && bits perm 32 32 == 0 && w.getD (4 * i + 3) 0 == 0

/-- The valid import entries of a partition from 256 entries of four words (R388). -/
def importTable (p : BitVec 16) (w : List Word) : List ImportEntry :=
  (List.range 256).filterMap fun i =>
    if bit1 (w.getD (4 * i) 0) 63 then some ⟨p, i, w.getD (4 * i) 0, w.getD (4 * i + 1) 0, w.getD (4 * i + 2) 0⟩ else none

/-- The words beyond `k` of an entry are zero. -/
def restZero (w : List Word) (k : Nat) : Bool := (w.drop k).all (· == 0)

/-- One operation of a change list (R395) against the layout that the operations before it have produced: none where a check fails. `old` are the
key ids revoked by earlier changes. Log entry 29. -/
def applyEntry (old : List Nat) (s : State) (e : ChangeEntry) : Option State :=
  let n := e.node
  let w := e.words
  let p := BitVec.ofNat 16 n
  let idle (k : Nat) : Bool := roleOf s k == some .idle
  if !e.ok then none
  else match e.op with
  | 1 =>
    if idle n && descriptorOk n w && !keysTaken s old p (w.getD 3 0) then
      let d := newDescriptor w (s.mgmt.lver + 1)
      let s := setRole (newPage (ungate s n) p) n .active
      let s := { s with mgmt := { s.mgmt with
        chains := s.mgmt.chains.filter fun c => c.part != p
        kept := s.mgmt.kept.filter fun x => x.1 != p } }
      some (setKeys s { d with keys := 0 } d.keys)
    else none
  | 2 =>
    match roleOf s n, descOf s p with
    | some .active, some d => if restZero w 0 then some (idleCores (setRole (dissolve s d) n .idle) n .firmware 0) else none
    | _, _ => none
  | 3 =>
    match childNodes n with
    | some (a, b) => if idle n && restZero w 0 then some (reshape s [n] [a, b]) else none
    | none => none
  | 4 =>
    match childNodes n with
    | some (a, b) => if idle a && idle b && restZero w 0 then some (reshape s [a, b] [n]) else none
    | none => none
  | 5 => if sectorRoots.all idle && restZero w 0 then some (reshape s sectorRoots [384]) else none
  | 6 => if idle 384 && restZero w 0 then some (reshape s [384] sectorRoots) else none
  | 7 =>
    match descOf s p with
    | some d =>
      if bits (w.getD 0 0) 4 60 == 0 && restZero w 5 then
        some (setDescriptor s { d with qctl := BitVec.ofNat 4 (w.getD 0 0).toNat, lim := (w.drop 1).take 4, lver := s.mgmt.lver + 1 })
      else none
    | none => none
  | 8 =>
    match descOf s p with
    | some _ =>
      if !importsOk w then none
      else some { s with links := { s.links with imports := s.links.imports.filter (fun x => x.part != p) ++ importTable p w } }
    | none => none
  | 9 =>
    match descOf s p with
    | some d =>
      if !bit1 (w.getD 0 0) 0 && restZero w 1 && !keysTaken s old p (w.getD 0 0) then
        some (setKeys s { d with lver := s.mgmt.lver + 1 } (w.getD 0 0))
      else none
    | none => none
  | 10 =>
    let x := w.getD 0 0
    let sp := BitVec.ofNat 20 x.toNat
    let root := bits (w.getD 1 0) 16 36
    if (descOf s p).isNone || bits x 21 43 != 0 || !restZero w 2 || sp == 0 then none
    else
      let own := match s.spaces.find? fun y => y.1 == sp with | some y => some (y.2.part == p) | none => none
      if !bit1 x 20 then (if own == some true then some (dropSpace s sp) else none)
      else if own != some false && bits (w.getD 1 0) 0 16 == 0 && bits (w.getD 1 0) 52 12 == 0 && root * 65536 < 2 ^ 50
          && isPlace (root * 65536) 65536 then
        let s := dropSpace s sp
        some { s with spaces := (sp, ⟨p, BitVec.ofNat 36 root⟩) :: s.spaces }
      else none
  | _ => none

/-- The operations in order: the number of the first one that fails, or the state with all of them done. -/
def applyAll (old : List Nat) : Nat → State → List ChangeEntry → Except Nat State
  | _, s, [] => .ok s
  | k, s, e :: r =>
    match applyEntry old s e with
    | some s => applyAll old (k + 1) s r
    | none => .error k

/-! ## Asking for a change (R396, R401, R402) -/

/-- An entry of a list of 512 words. -/
def listEntry (l : List Word) (e : Nat) : ChangeEntry :=
  let w := l.getD (8 + 8 * e) 0
  ⟨bits w 0 4, bits w 16 16, (List.range 7).map fun k => l.getD (9 + 8 * e + k) 0, bits w 4 12 == 0 && bits w 32 32 == 0⟩

/-- The header of a list is right. -/
def listOk (l : List Word) : Bool :=
  let n := (l.getD 0 0).toNat
  let d := (l.getD 1 0).toNat
  1 ≤ n && n ≤ 62 && 1 ≤ d && d ≤ 10000000 && bits (l.getD 2 0) 1 63 == 0 && [3, 4, 5, 6, 7].all fun k => l.getD k 0 == 0

/-- An IMPORT entry takes the words of its table into the shadow. -/
def fillImport (e : ChangeEntry) : EngM ChangeEntry := do
  if e.op = 8 then
    let w ← svcWords 0 0 0 (e.words.getD 0 0).toNat 1024
    pure { e with words := w, ok := e.ok && restZero e.words 1 }
  else pure e

/-- The change list at an address of space 0, with FORCE; none where its header is wrong. Log entry 32. -/
def readList (a : Word) : EngM (Option (List ChangeEntry × Bool)) := do
  let l ← svcWords 0 0 0 a.toNat 512
  if listOk l then
    let es ← ((List.range (l.getD 0 0).toNat).map (listEntry l)).mapM fillImport
    pure (some (es, bit1 (l.getD 2 0) 0))
  else pure none

/-- The partitions a change destroys. -/
def destroyed (c : Change) : List (BitVec 16) := (c.entries.filter fun e => e.op == 2).map fun e => BitVec.ofNat 16 e.node

/-- Step 1 of R402: an admitted graph fails; it ends when what runs has ended (R331). Log entry 35. -/
def forceGraph (p : BitVec 16) (s : State) (g : Graph) : State :=
  if !g.admitted || g.ending.isSome || g.failed then s
  else
    let s := takeDropped s p g.slot
    settle (onGraph s p g.slot fun g => { g with failed := true, nodes := g.nodes.map GNode.dropped }) p g.slot

/-- Step 2: PRE on every core with a context. -/
def forceCores (p : BitVec 16) (s : State) : State :=
  ((engineOf s p).ctxs.filter fun c => c.use != .saved).foldl (fun s c => raise s c.core irqPre) s

/-- Step 2: a saved context is discarded. Log entry 35. -/
def discardSaved (p : BitVec 16) (s : State) : State :=
  let gone := (engineOf s p).ctxs.filter fun c => c.use == .saved
  let s := onEngine s p fun e => { e with
    ctxs := e.ctxs.filter fun c => c.use != .saved
    pool := e.pool.filter fun x => x.1 != 16 }
  (gone.map (·.cohort)).eraseDups.foldl (fun s k => forcedEnd s p k) (purgeTree s p)

/-- Step 3: commands and walks end with CAUSE 4, receives are poisoned; parked walks go with their contexts. Log entry 35. -/
def forceUnits (p : BitVec 16) (s : State) : State :=
  let s := (s.copies.filter fun c => c.part == p && c.fatal.isNone).foldl (fun s c =>
    endFatal (match c.susp with | some x => takeRecord s x | none => s) { c with susp := none } 4) s
  let running := ((s.hart :: s.others.map (·.2)).filterMap (·.walk)).filter fun w => w.part == p && w.fail.isNone
  let parked := s.parked.filter fun w => w.part == p
  let s := (running ++ parked).foldl (fun s w => match w.susp with | some x => takeRecord s x | none => s) s
  let s := running.foldl (fun s w =>
    let n := ackedObjects s w
    onWalk s w.id fun w => { w with susp := none, fail := some (8, BitVec.ofNat 64 n, 0) }) s
  let s := { s with parked := s.parked.filter fun w => w.part != p }
  (s.posts.filter fun x => x.part == p && x.fail.isNone).foldl (fun s x =>
    failPost (match x.susp with | some y => takeRecord s y | none => s) { x with susp := none } 8 0 0) s

/-- Step 4: link messages are abandoned. -/
def forceLinks (p : BitVec 16) (s : State) : State :=
  let s := (s.links.out.filter fun m => m.part == p).foldl exhaust s
  let gone := s.links.held.filter fun h => (targetSpace s h).1 == p
  let s := gone.foldl (fun s h => takeRecord s h.susp) s
  { s with links := { s.links with held := s.links.held.filter fun h => !gone.contains h } }

/-- FORCE ends what a partition has outstanding (R402). -/
def forceQuiet (s : State) (p : BitVec 16) : State :=
  forceLinks p (forceUnits p (discardSaved p ((engineOf s p).graphs.foldl (forceGraph p) s)))

/-- LAYOUT (R396, R401): the list is copied and checked; a change that passes waits for quiet. One change is driven at a time.
Log entries 32 and 33. -/
def execLayout (list : Word) (s : State) : Out :=
  if s.mgmt.change.isSome then .next s
  else match (readList list).run s with
  | .error _ s => .next (finishService s 2 list 1 0)
  | .ok none s => .next (finishService s 2 list 3 0)
  | .ok (some (es, force)) s =>
    match applyAll s.mgmt.revoked 0 s es with
    | .error k => .next (finishService s 2 list 1 (1 + k))
    | .ok _ =>
      let c : Change := ⟨.quiescing, es, force, some list, s.mgmt.nodes, []⟩
      let s := { s with mgmt := { s.mgmt with change := some c } }
      .next (if force then (destroyed c).foldl forceQuiet ((destroyed c).foldl (fun s p => forceCores p s) s) else s)

/-! ## Quiet (R401) -/

/-- No request is in a ring of the partition. -/
def ringsEmpty (s : State) (p : BitVec 16) : Bool :=
  match descOf s p, lowestSpace s p with
  | some d, some sp =>
    let heads (m : Nat) : EngM (Nat × Nat) := do
      let f ← svcRef m p sp needR (ringCounter d m 0)
      let g ← svcRef m p sp needR (ringCounter d m 1)
      pure (f, g)
    (List.range Config.slices).all fun m =>
      match (heads m).run s with
      | .ok (f, g) _ => s.counter f == s.counter g
      | .error _ _ => true
  | _, _ => true

/-- A partition is quiet. -/
def quiet (s : State) (p : BitVec 16) : Bool :=
  let e := engineOf s p
  let walks := (s.hart :: s.others.map (·.2)).filterMap (·.walk) ++ s.parked
  !(e.graphs.any (·.admitted)) && e.ctxs.isEmpty && !(s.copies.any fun c => c.part == p) && !(walks.any fun w => w.part == p)
    && !(s.posts.any fun x => x.part == p) && !(s.links.out.any fun m => m.part == p)
    && !(s.links.held.any fun h => (targetSpace s h).1 == p) && ringsEmpty s p

/-- PARTITION_QUIET (R401): every DESTROY node is quiet, and the Meridian die is asked to ring the bell. With FORCE, what has begun since is ended
first (R402). -/
def execPartitionQuiet (s : State) : Out :=
  match s.mgmt.change with
  | some c =>
    if c.state != .quiescing then .next s
    else
      let s := if c.force then (destroyed c).foldl forceQuiet s else s
      if (destroyed c).all (quiet s) then .next { s with mgmt := { s.mgmt with change := some { c with state := .ringing } } } else .next s
  | none => .next s

/-- A change completes the command that asked for it, where one did. -/
def finishChange (s : State) (c : Change) (status detail : Nat) : State :=
  let s := { s with mgmt := { s.mgmt with change := none } }
  match c.list with
  | some a => finishService s 2 a status detail
  | none => s

/-- QUIESCE_DEADLINE (R401): the change completes with BUSY. -/
def execQuiesceDeadline (s : State) : Out :=
  match s.mgmt.change with
  | some c =>
    if c.state == .quiescing then .next (finishChange s c 1 0xFFFF) else .next s
  | none => .next s

/-! ## Usage records (R407, R408) -/

/-- Bytes 0x00–0x7F of a record. -/
def recordHead (s : State) (p : BitVec 16) (why : Nat) (seq : Word) (prev : BitVec 384) : List Byte :=
  ([seq, BitVec.ofNat 64 (p.toNat + why * 2 ^ 16), s.mgmt.lver, s.mgmt.cycle]
    ++ (List.range 5).map (fun k => s.counter (usagePlace p k)) ++ [0]).flatMap wordBytes ++ (toBytes 48 prev.toNat).reverse

/-- The record: its head, the signature, and zeros. -/
def usageRecord (head : List Byte) : List Byte := head ++ (toBytes 96 (Config.ecdsaSign head).toNat).reverse ++ List.replicate 32 0

/-- The bytes of a record go to its slot through the entry of its page, on a replicated one in their place of the sequence and performed before anything
that follows (R312, R313): the last record of a partition shows in space 0 (R404), another under its page's key. -/
def placeRecord (s : State) (why : Nat) (bs : List Byte) (x : Nat × Word) : State :=
  let s := settleRepl Config.cores (writeSeg s Config.cores ⟨x.1, bs.length, true, x.2⟩ bs)
  if why = 3 then (frameCopies x.2 x.1).foldl (fun s a => untagLines s a 256) s else s

/-- A record is written at a place and chained, and LOGW receives its add. -/
def writeRecord (s : State) (p : BitVec 16) (why : Nat) (place : Option (Nat × Word)) : State :=
  let c := chainOf s p
  let head := recordHead s p why c.seq c.prev
  let s := match place with | some x => placeRecord s why (usageRecord head) x | none => s
  let s := { s with mgmt := { s.mgmt with chains := ⟨p, c.seq + 1, Config.sha384 head⟩ :: s.mgmt.chains.filter fun x => x.part != p } }
  counterAdd s (usagePlace p 6) 1

/-- The record of a partition that has a descriptor. Log entry 31. -/
def recordFor (s : State) (d : Descriptor) (why : Nat) : State := writeRecord s d.part why (logPlace s d (chainOf s d.part).seq)

/-! ## The bell (R403, R404) -/

/-- The array cycles of a cluster reach ACYC (R399). -/
def gatherAcyc (s : State) (c : Nat) : State :=
  let a := s.array c
  if a.acyc = 0 then s else addUsage (s.setArray c { a with acyc := 0 }) (partOfCluster s c) 0 a.acyc

/-- The partitions the bell creates get their cores to the idle loop. -/
def startIdle (s : State) (e : ChangeEntry) : State :=
  if e.op = 1 && roleOf s e.node == some .active then
    idleCores s e.node .supervisor ((lowestSpace s (BitVec.ofNat 16 e.node)).getD 0)
  else s

/-- The cores of a partition that hold no context go on in its lowest space (R393), where a bell has changed which one that is. -/
def moveIdle (before : State) (s : State) (d : Descriptor) : State :=
  let sp := (lowestSpace s d.part).getD 0
  let idle (k : Nat) : Bool := !(engineOf s d.part).ctxs.any fun c => c.core == k && c.use != .saved
  if sp = (lowestSpace before d.part).getD 0 then s
  else ((partCores d.part).filter idle).foldl (fun s k => s.modifyHart k fun h => { h with spid := sp, ahead := none }) s

/-- A change creates a partition on the node of one that it destroys. -/
def recreated (c : Change) (p : BitVec 16) : Bool := c.entries.any fun e => e.op == 1 && e.node == p.toNat

/-- The last record of a destroyed partition whose node the same bell creates again is written in the bell's step, before the new partition's page
and chain take the place of its own. Log entry 31. -/
def lastRecord (c : Change) (s : State) (x : Descriptor × Option (Nat × Word)) : State :=
  if recreated c x.1.part then
    let v := s.mgmt.lver
    let s := writeRecord { s with mgmt := { s.mgmt with lver := v + 1 } } x.1.part 3 x.2
    { s with mgmt := { s.mgmt with lver := v } }
  else s

/-- A binding takes effect (R376, R377): a queue that is bound anew begins with its registers and slots at 0. Log entry 40. -/
def bindPort (s : State) (b : PortBinding) : State :=
  match b with
  | .queue p q dest =>
    let s := clearPlace s (queuePlace p q 0) 65536
    let s := { s with poison := s.poison.filter fun k => k != queuePlace p q 0x40 }
    s.onQueue p q fun _ => match dest with
      | some (part, space) => { QueueRegs.reset with bound := true, part := part, space := space }
      | none => QueueRegs.reset
  | .part p part bound => s.onPort p fun h => { h with parts := h.parts.filter (fun x => x != part) ++ if bound then [part] else [] }

/-- The tick of LVER, with which every table is replaced by its shadow (R403). Log entries 31 and 84. -/
def ring (s : State) (c : Change) : State :=
  let s := (List.range Config.clusters).foldl gatherAcyc s
  let gone := (destroyed c).eraseDups.filterMap fun p => (descOf s p).map fun d => (d, logPlace s d (chainOf s p).seq)
  let s := gone.foldl (lastRecord c) s
  let old := s
  let s := match applyAll s.mgmt.revoked 0 s c.entries with
    | .ok s => leaveFrames s ((destroyed c).flatMap (partFrames old))
    | .error _ => s
  let s := s.mgmt.descs.foldl (moveIdle old) (c.entries.foldl startIdle s)
  let s := s.mgmt.shadow.foldl bindPort s
  let s := { s with mgmt := { s.mgmt with lver := s.mgmt.lver + 1, shadow := [], change := some { c with state := .rung, gone := gone } } }
  s.mgmt.descs.foldl (fun s d => checkQuotas s d.part) s

/-- BELL (R403): the bell of the change that rings; without a change, one that only new bindings ask for. Log entries 31, 40 and 84. -/
def execBell (s : State) : Out :=
  match s.mgmt.change with
  | some c => if c.state == .ringing then .next (ring s c) else .next s
  | none => if s.mgmt.shadow.isEmpty then .next s else .next (ring s ⟨.ringing, [], false, none, s.mgmt.nodes, []⟩)

/-- BELL, its preparation (R403): the management service core writes a binding into the shadow. Log entry 40. -/
def execBindingShadow (x : PortBinding) (s : State) : Out :=
  .next { s with mgmt := { s.mgmt with shadow := s.mgmt.shadow ++ [x] } }

/-- BELL_ACKNOWLEDGED (R401, R408): the bell records are written and the change completes. Log entry 31. -/
def execBellAcknowledged (s : State) : Out :=
  match s.mgmt.change with
  | some c =>
    if c.state != .rung then .next s
    else
      let s := c.gone.foldl (fun s x => if recreated c x.1.part then s else writeRecord s x.1.part 3 x.2) s
      let s := s.mgmt.descs.foldl (fun s d =>
        recordFor s d (if c.before.any fun x => x.1 == d.part.toNat && x.2 == .active && !(c.gone.any fun y => y.1.part == d.part) then 1 else 2)) s
      .next (finishChange s c 0 0)
  | none => .next s

/-- USAGE_RECORD_PERIODIC (R408): a record for every ACTIVE partition. -/
def execUsageRecordPeriodic (s : State) : Out := .next (s.mgmt.descs.foldl (fun s d => recordFor s d 0) s)

/-- ACYC_GATHER (R399). -/
def execAcycGather (c : Nat) (s : State) : Out := .next (gatherAcyc s c)

end Sys2Proof.Machine
end

