-- ==== Sys2Proof/Machine/Manage.lean ====
section
/-! DEFINITION. Power islands, ageing, fatal errors and the dump, checkpoints (R412–R420). -/

namespace Sys2Proof.Machine

/-! ## Regions of storage -/

/-- `n` bytes are copied from place `a` to place `b`. -/
def Memory.copyTo (m : Memory) (a n b : Nat) : Memory :=
  m.filter (fun c => c.1 < b) ++ (m.filter fun c => a ≤ c.1 && c.1 < a + n).map (fun c => (c.1 - a + b, c.2)) ++ m.filter fun c => b + n ≤ c.1

/-- The key pairs of the lines of a region go with its bytes, which are copied as ciphertext (R420); of memory that no key encrypts nothing goes. -/
def copyLines (l : List (Nat × LineKey)) (a n b : Nat) : List (Nat × LineKey) :=
  l.filter (fun x => 128 * x.1 + 128 ≤ b || b + n ≤ 128 * x.1)
    ++ (l.filter fun x => a ≤ 128 * x.1 && 128 * x.1 + 128 ≤ a + n && b < 2 ^ 52).map fun x => (x.1 - a / 128 + b / 128, x.2)

/-- A region is copied; the counters it reaches are evaluated. -/
def copyRegion (s : State) (a n b : Nat) : State :=
  evaluate { s with mem := s.mem.copyTo a n b, lines := copyLines s.lines a n b } fun e =>
    isGlobalPlace (ctrPlace e.key) && ctrPlace e.key < b + n && b < ctrPlace e.key + 8

/-! ## Images of clusters (R344) -/

/-- An ownership entry (R48) in the image: valid in bit 0, the core in [4:1], the context id in [12:5]. -/
def ownerWord (o : Option Owner) : Word := match o with | some x => BitVec.ofNat 64 (1 + 2 * (x.core % 16) + 32 * x.ctx.toNat) | none => 0
def ownerOfWord (w : Word) : Option Owner := if bit1 w 0 then some ⟨bits w 1 4, BitVec.ofNat 8 (bits w 5 8)⟩ else none

/-- A tag-table entry (R47) in the image: the address with valid in bit 0. -/
def tagEntry (t : Option (BitVec 45)) : Word := match t with | some x => BitVec.ofNat 64 (x.toNat * 1024 + 1) | none => 0
def tagOfEntry (w : Word) : Option (BitVec 45) := if bit1 w 0 then some (BitVec.ofNat 45 (bits w 10 45)) else none

def imageBytes : Nat := 0x1100000

/-- A park record, whose contents are the array's own (R344): 1 plus the number of the batch kept for it, or 0. Log entry 92. -/
def parkTokens (s : State) (a : ArrayUnit) : List Word :=
  (List.range 16).map fun n =>
    match a.parks.findIdx? fun x => x.core % 16 == n with
    | some i => BitVec.ofNat 64 (1 + s.parkStore.length + i)
    | none => 0

/-- The image of a cluster at a place (R344). -/
def clusterImage (s : State) (c b : Nat) : State :=
  let a := s.array c
  let bound := packLanes 1 (a.eph.toList.map fun x => ofBool x.isSome)
  let poison := packLanes 1 ((List.range 4096).map fun i => ofBool (s.poisoned (eventPlace c i)))
  let ws (o : Nat) (l : List Word) (s : State) : State := s.write (b + o) (l.flatMap wordBytes)
  let s := clearPlace s b imageBytes
  let s := ws 0 [BitVec.ofNat 64 c, (partOfCluster s c).setWidth 64] s
  let s := ws 0x40 ((a.slots.toList ++ a.tiles.toList).map ownerWord) s
  let s := ws 0x300 (a.tileMeta.toList.map fun t => BitVec.ofNat 64 (t.et.toNat * 2 ^ 12 + ofBool t.sat)) s
  let s := ws 0x380 [BitVec.ofNat 64 a.last, BitVec.ofNat 64 bound] s
  let s := s.write (b + 0x400) (toBytes 512 poison)
  let s := s.write (b + 0x800) ((parkTokens s a).flatMap fun w => wordBytes w ++ List.replicate 504 0)
  let s := { s with parkStore := s.parkStore ++ a.parks }
  let s := copyRegion s (eventPlace c 0) 32768 (b + 0x4000)
  let s := s.write (b + 0xC000) (a.eph.toList.flatMap fun x => match x with | some y => y.record | none => List.replicate 576 0)
  let s := ws 0x10000 ((List.range 16).flatMap fun n => (s.hartOf (16 * c + n)).tagTable.toList.map tagEntry) s
  let s := (List.range 64).foldl (fun s n => copyRegion (copyRegion s (scalePlace c n 0) 4096 (b + 0x18000 + 12288 * n)) (bitmapPlace c n 0) 8192
    (b + 0x18000 + 12288 * n + 4096)) s
  let s := copyRegion s (slotPlace c 0 0) (2 ^ 22) (b + 0x100000)
  let s := copyRegion s (tilePlace c 0 0) (2 ^ 22) (b + 0x500000)
  copyRegion s (localPlace (16 * c) 0) (2 ^ 23) (b + 0x900000)

/-! ## Fatal errors (R417) and the dump (R418) -/

def causeCode : FatalCause → Nat
  | .state => 1 | .thermal => 2 | .bell => 3 | .fwdog => 4 | .power => 5

/-- NODE and TREF of the context on a core (R342): its node, group and graph slot, and its tree leaf; 0 where the core is idle. Log entry 36. -/
def dumpHeader (s : State) (core : Nat) : Word × Word :=
  match s.engines.findSome? fun e => (e.ctxs.find? fun c => c.core == core && c.use != .saved).map fun c => (e, c) with
  | some (e, c) =>
    match cohortNode e c.cohort with
    | some (slot, node) => (BitVec.ofNat 64 (node + c.group * 2 ^ 16 + slot * 2 ^ 32), c.tref)
    | none => (0, c.tref)
  | none => (0, 0)

/-- A core's context in the layout of R342, ST SAVED, with the header's NODE and TREF. -/
def contextWords (s : State) (core : Nat) (node tref : Word) : List Word :=
  let s := s.switch core
  let zeros (n : Nat) : List Word := List.replicate n 0
  let r := controlRead s
  let h := s.hart
  let v8 (x : V512) : List Word := (List.range 8).map fun k => BitVec.ofNat 64 (field x.toNat (64 * k) 64)
  let pairs (l : List (BitVec 32)) : List Word := (List.range 8).map fun k => BitVec.ofNat 64 ((l.getD (2 * k) 0).toNat + 2 ^ 32 * (l.getD (2 * k + 1) 0).toNat)
  [1, node, tref, BitVec.ofNat 64 core] ++ zeros 4 ++ (0 :: h.g.toList.tail)
    ++ [h.tsw.word, h.tsw.word] ++ [h.trap.tvec, r .tcause, h.trap.tval, h.pc, h.trap.tscr, r .imask, r .timecmp]
    ++ [r .spid, r .dmem, r .lctx, 0] ++ [r .lstat, r .lvc, 0] ++ [r .treg] ++ [r .old, r .ost, r .ocp, r .otl, r .rdv]
    ++ r .seq :: pairs h.seq.sqi.toList
    ++ (List.finRange 8).map (fun j => r (.sa j)) ++ (List.finRange 8).map (fun j => r (.sn j)) ++ (List.finRange 8).map (fun j => r (.sg j))
    ++ zeros 33 ++ h.v.toList.flatMap v8 ++ h.tagc.toList ++ h.tagt.toList

/-- The contexts of the dump. -/
def dumpContexts (s : State) : State :=
  (List.range Config.cores).foldl (fun s k =>
    let x := dumpHeader s k
    s.write (0x1000 + 4096 * k) ((contextWords s k x.1 x.2).flatMap wordBytes)) s

/-- A slice's record: its fault ring, then indices and heads in a form the manual does not give: free bytes. Log entry 36. -/
def dumpSlice (s : State) (m : Nat) : State :=
  let a := 0x1000000 + 0x20000 * m
  let s := (s.faults.filter fun r => r.slice == m).foldl (fun s r =>
    s.write (a + 64 * (r.seq % 1024)) ((r.words ++ [0, 0]).flatMap wordBytes)) (clearPlace s a 65536)
  let (bs, s) := s.freeBytes 65536
  s.write (a + 65536) bs

/-- LVER of the last bell completed (R418): the bell whose acknowledgements are still out has ticked already (R403). -/
def Management.lastBell (m : Management) : Word :=
  match m.change with
  | some c => if c.state = .rung then m.lver - 1 else m.lver
  | none => m.lver

/-- The die or slice of a fatal error's origin (R418), a free value where the error names none. Log entry 36. -/
def originOf (s : State) (origin : Option Nat) : Word × State :=
  match origin with
  | some n => (BitVec.ofNat 64 n, s)
  | none =>
    let (x, s) := s.draw
    (BitVec.ofNat 64 x, s)

/-- Firmware writes the dump under key id 0, VALID last, and sets BSTAT.DUMP (R417, R418). -/
def writeDump (s : State) (cause : FatalCause) (origin : Option Nat) : State :=
  let s := dumpContexts (clearPlace s 0 4096)
  let s := (List.range Config.slices).foldl dumpSlice s
  let s := (List.range Config.clusters).foldl (fun s c => clusterImage s c (0x2000000 + imageBytes * c)) s
  let (x, s) := originOf s origin
  let s := s.write 0 ([0x504D5544, 1, BitVec.ofNat 64 (causeCode cause), s.mgmt.cycle, s.mgmt.lastBell, x].flatMap wordBytes)
  let s := tagLines s 0 0 dumpBytes
  { s with mgmt := { s.mgmt with dump := true } }

/-- A fatal error stops the package (R417). -/
def fatal (s : State) (cause : FatalCause) (origin : Option Nat) : State :=
  if s.mgmt.fatal then s
  else
    let s := { s with mgmt := { s.mgmt with fatal := true }, ports := s.ports.map fun h => { h with tdisp := .error } }
    if cause = .power then s else writeDump s cause origin

/-- FATAL_ERROR (R417): the step names no origin. -/
def execFatalError (cause : FatalCause) (s : State) : Out := .next (fatal s cause none)

/-- FIRMWARE_WATCHDOG_EXPIRY (R417): the management service core is that of slice 0. -/
def execFirmwareWatchdogExpiry (s : State) : Out := .next (fatal s .fwdog (some 0))

/-- The die of an island (R2): for a base-die island the compute die that its pair lies beside. -/
def islandDie (n : Nat) : Nat := if n < 96 then n / 4 else n - 96

/-! ## Islands (R412, R413) -/

/-- The package draws more than 16 kW (R413); PWR counts in units of 0.25 W (R412). -/
def overPower (v : Vector Island 120) : Bool := decide (64000 < (v.toList.map fun i => i.pwr.toNat).sum)

/-- The sensors of an island give a reading (R412); it is hot from 105 °C until it falls below 100 °C (R413). -/
def Island.sense (i : Island) (temp : BitVec 8) (pwr : BitVec 16) : Island :=
  { i with temp := temp, pwr := pwr, hot := 105 ≤ temp.toNat || (i.hot && 100 ≤ temp.toNat) }

/-- OP goes up by 1 (R413). -/
def Island.slower (i : Island) : Island := { i with op := if i.op = 7 then 7 else i.op + 1 }

/-- A compute-die island whose clusters all lie in IDLE nodes, which alone may be gated (R414). -/
def mayGate (s : State) (n : Nat) : Bool :=
  n < 96 && [2 * n, 2 * n + 1].all fun c => s.mgmt.nodes.any fun x => x.2 == .idle && nodeCovers x.1 c

def onIsland (s : State) (n : Fin 120) (f : Island → Island) : State :=
  { s with mgmt := { s.mgmt with islands := s.mgmt.islands.set n (f s.mgmt.islands[n]) } }

/-- THERMAL_THROTTLE (R412–R414): a reading of the sensors, at which firmware raises OP where the island is hot or the package draws too much; or a
write of GATE or OP by the management service core. Log entry 85. -/
def execThermalThrottle (island : Fin 120) (x : IslandEvent) (s : State) : Out :=
  match x with
  | .reading temp pwr =>
    let s := onIsland s island fun i => i.sense temp pwr
    let s := if s.mgmt.islands[island].hot || overPower s.mgmt.islands then onIsland s island Island.slower else s
    .next (if 115 ≤ temp.toNat then fatal s .thermal (some (islandDie island.val)) else s)
  | .gate true => .next (if mayGate s island.val then onIsland s island fun i => { i with gate := true } else s)
  | .gate false => .next (if s.mgmt.islands[island].gate then ungateIsland s island.val else s)
  | .op k =>
    let i := s.mgmt.islands[island]
    .next (if (i.hot || overPower s.mgmt.islands) && k < i.op then s else onIsland s island fun i => { i with op := k })

/-! ## Ageing (R415, R416) -/

/-- AGEING_MEASUREMENT (R415): a measure joins the last 30 of its island. -/
def execAgeingMeasurement (island : Fin 120) (drift : Int) (ecc : Int × Int) (s : State) : Out :=
  let l := lookupD s.mgmt.measures island.val []
  .next { s with mgmt := { s.mgmt with measures := insertA s.mgmt.measures island.val (((drift, ecc) :: l).take 30) } }

/-- The slope of the straight line fitted to measures a day apart, latest first: numerator and denominator. Log entry 38. -/
def slope (l : List Int) : Int × Int :=
  let n : Int := l.length
  let l := l.reverse
  let xs := (List.range l.length).map fun k => (k : Int)
  let dot (a b : List Int) : Int := ((a.zip b).map fun p => p.1 * p.2).sum
  if l.length < 2 then (0, 1) else (n * dot xs l - xs.sum * l.sum, n * dot xs xs - xs.sum * xs.sum)

/-- The days until a measure that stands at `now` reaches its limit, in whole days, at most 65,535. Log entry 38. -/
def daysTo (limit now : Int) (sl : Int × Int) : Nat :=
  if limit ≤ now then 0 else if sl.1 ≤ 0 then 65535 else min 65535 ((limit - now) * sl.2 / sl.1).toNat

/-- The days until one of an island's measures, latest first, reaches its limit. -/
def daysLeft (limit : Int) (l : List Int) : Nat := daysTo limit (l.headD 0) (slope l)

/-- The predicted end of life of an island (R415): of its drift or of either memory. -/
def endOfLife (l : List (Int × Int × Int)) : Nat :=
  min (daysLeft 30000 (l.map (·.1))) (min (daysLeft 4096 (l.map (·.2.1))) (daysLeft 4096 (l.map (·.2.2))))

/-- The entry of an island in the health report (R416). Log entry 38. -/
def healthEntry (s : State) (n : Fin 120) : List Byte :=
  let i := s.mgmt.islands[n]
  let l := lookupD s.mgmt.measures n.val []
  let now := l.headD (0, 0, 0)
  let sl := slope (l.map (·.1))
  toBytes 2 n.val ++ [i.op.setWidth 8, i.temp] ++ toBytes 2 (BitVec.ofInt 16 now.1).toNat ++ toBytes 2 (BitVec.ofInt 16 (100 * sl.1 / sl.2)).toNat
    ++ toBytes 4 (BitVec.ofInt 32 (now.2.1 + now.2.2)).toNat ++ toBytes 2 (endOfLife l) ++ [0, 0]

/-- HEALTH (R416): the report is written at a space-0 address. Log entry 33. -/
def execHealth (a1 : Word) (s : State) : Out :=
  let bs := (List.finRange 120).flatMap (healthEntry s) ++ List.replicate 128 0
  match (svcWrite 0 0 0 a1.toNat bs).run s with
  | .ok _ s => .next (finishService s 3 a1 0 0)
  | .error _ s => .next (finishService s 3 a1 1 0)

/-! ## Checkpoints (R420) -/

/-- Some node is ACTIVE. -/
def anyActive (s : State) : Bool := s.mgmt.nodes.any fun n => n.2 == .active

def stackBytes : Nat := 64000000000

/-- The second-tier place of stack m's copy, and with m = 48 of the trailer: the stacks go to the four ports in turn, each at its own offset. Log
entry 37. -/
def checkpointPlace (a1 : Word) (m : Nat) : Nat := 2 ^ 50 + m % 4 * 2 ^ 48 + bits a1 16 32 * 65536 + stackBytes * m

/-- The 48 copies and the trailer lie in what the expanders map (R384). Log entry 37. -/
def checkpointFits (s : State) (a1 : Word) : Bool :=
  (List.range 48).all (fun m => tierOk s (checkpointPlace a1 m) stackBytes) && tierOk s (checkpointPlace a1 48) 64

/-- The trailer of a checkpoint is written, under the device's own number of the pairs in force (log entry 37). -/
def writeTrailer (s : State) (a1 : Word) (valid : Word) : State :=
  let t := checkpointPlace a1 48
  (tagLines s 64 t 64).write t (([0x54534B43, s.mgmt.lver, valid] ++ List.replicate 5 0).flatMap wordBytes)

/-- One step of a save (R420): stack `k` is copied, or, after the last one, VALID is set. -/
def saveStep (s : State) (a1 : Word) (k : Nat) : State :=
  if k < Config.slices then
    let s := copyRegion s (k * 2 ^ 36) stackBytes (checkpointPlace a1 k)
    { s with mgmt := { s.mgmt with saving := some (a1, k + 1) } }
  else finishService { writeTrailer s a1 1 with mgmt := { s.mgmt with saving := none } } 4 a1 0 0

/-- CHECKPOINT_SAVE (R420): the first step puts the trailer there with VALID 0, each further one copies a stack, and the last sets VALID, so that an
error which stops a save leaves it 0. Log entries 33 and 37. -/
def execCheckpointSave (a1 : Word) (s : State) : Out :=
  if bit1 a1 0 then .next s
  else match s.mgmt.saving with
  | some (a, k) => if a = a1 then .next (saveStep s a1 k) else .next s
  | none =>
    if anyActive s then .next (finishService s 4 a1 3 0)
    else if !checkpointFits s a1 then .next (finishService s 4 a1 1 0)
    else .next { writeTrailer s a1 0 with mgmt := { s.mgmt with saving := some (a1, 0) } }

/-- The checkpoint was taken under the key pairs in force (R420): the trailer carries their number. Log entry 37. -/
def samePairs (s : State) (a1 : Word) : Bool :=
  match s.lineKey (checkpointPlace a1 48 / 128) with
  | some t => t.key == 64 && t.gen == s.keyGen 64
  | none => false

/-- CHECKPOINT_RESTORE (R420): without the pairs of the save the restored bytes are unreadable. Log entry 37. -/
def execCheckpointRestore (a1 : Word) (s : State) : Out :=
  if !bit1 a1 0 then .next s
  else if anyActive s then .next (finishService s 4 a1 3 0)
  else
    let t := checkpointPlace a1 48
    if !checkpointFits s a1 || s.mem.readWord t != 0x54534B43 || s.mem.readWord (t + 16) != 1 then .next (finishService s 4 a1 1 0)
    else
      let old := !samePairs s a1
      let s := (List.range Config.slices).foldl (fun s m => copyRegion s (checkpointPlace a1 m) stackBytes (m * 2 ^ 36)) s
      .next (finishService { s with sealed := old } 4 a1 0 0)

/-! ## Reading the dump (R419) -/

/-- Bytes of the dump go to the segments of the destination. -/
def dumpTo (s : State) (a : Nat) : List Seg → State
  | [] => s
  | g :: r =>
    let s :=
      if pteRepl g.entry then writeSeg s Config.cores g (s.mem.readN a g.len)
      else tagLines (copyRegion s a g.len g.place) (pteKey g.entry) g.place g.len
    dumpTo s (a + g.len) r

/-- DUMPREAD (R419). -/
def execDumpread (a1 : Word) (s : State) : Out :=
  if anyActive s then .next (finishService s 5 a1 3 0)
  else match (svcWords 0 0 0 a1.toNat 2).run s with
  | .error _ s => .next (finishService s 5 a1 1 0)
  | .ok w s =>
    let o := (w.getD 0 0).toNat
    let va := (w.getD 1 0).toNat
    if o % 2 ^ 26 ≠ 0 ∨ dumpBytes ≤ o ∨ 2 ^ 55 < va + 2 ^ 26 then .next (finishService s 5 a1 3 0)
    else match globalAccess s 0 0 0 needW va (2 ^ 26) with
    | (.bad _ _, s) => .next (finishService s 5 a1 1 0)
    | (.ok l, s) =>
      if !l.all Seg.ok then .next (finishService s 5 a1 1 0)
      else
        let s := dumpTo s o l
        .next (finishService { s with mgmt := { s.mgmt with dump := s.mgmt.dump && o != 0xFC000000 } } 5 a1 0 0)

end Sys2Proof.Machine
end

