-- ==== Sys2Proof/Machine/Scalar.lean ====
section
/-! DEFINITION. Integer, address and branch instructions (R99–R105, R112–R114). -/

namespace Sys2Proof.Machine

/-! ## Values (R100–R104) -/

/-- DIV (R100, R101): truncated toward zero; a divisor of 0 gives all ones, and −2⁶³ ÷ −1 wraps to −2⁶³. -/
def divSigned (a b : Word) : Word := if b = 0 then BitVec.allOnes 64 else BitVec.ofInt 64 (Int.tdiv a.toInt b.toInt)

/-- DIVN (R100, R101). -/
def divUnsigned (a b : Word) : Word := if b = 0 then BitVec.allOnes 64 else BitVec.ofNat 64 (a.toNat / b.toNat)

/-- REM (R100, R101): the sign of a; a divisor of 0 gives a. -/
def remSigned (a b : Word) : Word := if b = 0 then a else BitVec.ofInt 64 (Int.tmod a.toInt b.toInt)

/-- REMN (R100, R101). -/
def remUnsigned (a b : Word) : Word := if b = 0 then a else BitVec.ofNat 64 (a.toNat % b.toNat)

/-- Bits [127:64] of the signed product (R100). -/
def mulHighSigned (a b : Word) : Word := BitVec.ofInt 64 (a.toInt * b.toInt / 2 ^ 64)

/-- Bits [127:64] of the unsigned product (R100). -/
def mulHighUnsigned (a b : Word) : Word := BitVec.ofNat 64 (a.toNat * b.toNat / 2 ^ 64)

/-- A shift count: bits [5:0] (R100). -/
def shiftCount (b : Word) : Nat := b.toNat % 64

/-- 1 or 0. -/
def truth (b : Bool) : Word := if b then 1 else 0

def minSigned (a b : Word) : Word := if a.toInt ≤ b.toInt then a else b
def maxSigned (a b : Word) : Word := if a.toInt ≤ b.toInt then b else a
def minUnsigned (a b : Word) : Word := if a.toNat ≤ b.toNat then a else b
def maxUnsigned (a b : Word) : Word := if a.toNat ≤ b.toNat then b else a

/-- The 0 bits above the highest 1 bit; 64 for 0 (R100). -/
def clz (a : Word) : Word := BitVec.ofNat 64 (if a = 0 then 64 else 63 - Nat.log2 a.toNat)

/-- The 0 bits below the lowest 1 bit; 64 for 0 (R100). -/
def ctz (a : Word) : Word :=
  BitVec.ofNat 64 ((List.range 64).takeWhile fun i => !a.toNat.testBit i).length

/-- The number of 1 bits (R100). -/
def popc (a : Word) : Word := BitVec.ofNat 64 ((List.range 64).filter fun i => a.toNat.testBit i).length

/-- The field of w + 1 bits at p, zero-extended (R102). -/
def fieldOf (a : Word) (p w : Nat) : Nat := a.toNat / 2 ^ p % 2 ^ (w + 1)

/-- BINS (R102): the field of `t` at p replaced by the low bits of a. -/
def insertField (t a : Word) (p w : Nat) : Word :=
  BitVec.ofNat 64 (t.toNat % 2 ^ p + 2 ^ p * (a.toNat % 2 ^ (w + 1)) + 2 ^ (p + w + 1) * (t.toNat / 2 ^ (p + w + 1)))

/-! ## Major 0x01 (R100–R102) -/

def execAdd (d a b : Reg) (s : State) : Out := writesG (.add d a b) d (fun s => s.g a + s.g b) s
def execSub (d a b : Reg) (s : State) : Out := writesG (.sub d a b) d (fun s => s.g a - s.g b) s
def execMul (d a b : Reg) (s : State) : Out := writesG (.mul d a b) d (fun s => s.g a * s.g b) s
def execMulh (d a b : Reg) (s : State) : Out := writesG (.mulh d a b) d (fun s => mulHighSigned (s.g a) (s.g b)) s
def execMulhn (d a b : Reg) (s : State) : Out := writesG (.mulhn d a b) d (fun s => mulHighUnsigned (s.g a) (s.g b)) s
def execDiv (d a b : Reg) (s : State) : Out := writesG (.div d a b) d (fun s => divSigned (s.g a) (s.g b)) s
def execDivn (d a b : Reg) (s : State) : Out := writesG (.divn d a b) d (fun s => divUnsigned (s.g a) (s.g b)) s
def execRem (d a b : Reg) (s : State) : Out := writesG (.rem d a b) d (fun s => remSigned (s.g a) (s.g b)) s
def execRemn (d a b : Reg) (s : State) : Out := writesG (.remn d a b) d (fun s => remUnsigned (s.g a) (s.g b)) s
def execAnd (d a b : Reg) (s : State) : Out := writesG (.and d a b) d (fun s => s.g a &&& s.g b) s
def execOr (d a b : Reg) (s : State) : Out := writesG (.or d a b) d (fun s => s.g a ||| s.g b) s
def execXor (d a b : Reg) (s : State) : Out := writesG (.xor d a b) d (fun s => s.g a ^^^ s.g b) s
def execSll (d a b : Reg) (s : State) : Out := writesG (.sll d a b) d (fun s => s.g a <<< shiftCount (s.g b)) s
def execSrl (d a b : Reg) (s : State) : Out := writesG (.srl d a b) d (fun s => s.g a >>> shiftCount (s.g b)) s
def execSra (d a b : Reg) (s : State) : Out := writesG (.sra d a b) d (fun s => (s.g a).sshiftRight (shiftCount (s.g b))) s
def execSlli (d a : Reg) (sh : Fin 64) (s : State) : Out := writesG (.slli d a sh) d (fun s => s.g a <<< sh.val) s
def execSrli (d a : Reg) (sh : Fin 64) (s : State) : Out := writesG (.srli d a sh) d (fun s => s.g a >>> sh.val) s
def execSrai (d a : Reg) (sh : Fin 64) (s : State) : Out := writesG (.srai d a sh) d (fun s => (s.g a).sshiftRight sh.val) s
def execSlt (d a b : Reg) (s : State) : Out := writesG (.slt d a b) d (fun s => truth (decide ((s.g a).toInt < (s.g b).toInt))) s
def execSltn (d a b : Reg) (s : State) : Out := writesG (.sltn d a b) d (fun s => truth (decide ((s.g a).toNat < (s.g b).toNat))) s
def execMin (d a b : Reg) (s : State) : Out := writesG (.min d a b) d (fun s => minSigned (s.g a) (s.g b)) s
def execMax (d a b : Reg) (s : State) : Out := writesG (.max d a b) d (fun s => maxSigned (s.g a) (s.g b)) s
def execMinn (d a b : Reg) (s : State) : Out := writesG (.minn d a b) d (fun s => minUnsigned (s.g a) (s.g b)) s
def execMaxn (d a b : Reg) (s : State) : Out := writesG (.maxn d a b) d (fun s => maxUnsigned (s.g a) (s.g b)) s
def execClz (d a : Reg) (s : State) : Out := writesG (.clz d a) d (fun s => clz (s.g a)) s
def execCtz (d a : Reg) (s : State) : Out := writesG (.ctz d a) d (fun s => ctz (s.g a)) s
def execPopc (d a : Reg) (s : State) : Out := writesG (.popc d a) d (fun s => popc (s.g a)) s

def execExts (d a : Reg) (p : Fin 64) (w : Fin 32) (s : State) : Out :=
  writesG (.exts d a p w) d (fun s => BitVec.ofInt 64 (signedOf (w.val + 1) (fieldOf (s.g a) p.val w.val))) s
def execExtn (d a : Reg) (p : Fin 64) (w : Fin 32) (s : State) : Out :=
  writesG (.extn d a p w) d (fun s => BitVec.ofNat 64 (fieldOf (s.g a) p.val w.val)) s
def execBins (d a : Reg) (p : Fin 64) (w : Fin 32) (s : State) : Out :=
  writesG (.bins d a p w) d (fun s => insertField (s.g d) (s.g a) p.val w.val) s

/-! ## Immediate forms (R103–R105) -/

def execAddi (d a : Reg) (imm : BitVec 16) (s : State) : Out := writesG (.addi d a imm) d (fun s => s.g a + imm.signExtend 64) s
def execAndi (d a : Reg) (imm : BitVec 16) (s : State) : Out := writesG (.andi d a imm) d (fun s => s.g a &&& imm.setWidth 64) s
def execOri (d a : Reg) (imm : BitVec 16) (s : State) : Out := writesG (.ori d a imm) d (fun s => s.g a ||| imm.setWidth 64) s
def execXori (d a : Reg) (imm : BitVec 16) (s : State) : Out := writesG (.xori d a imm) d (fun s => s.g a ^^^ imm.setWidth 64) s
def execSlti (d a : Reg) (imm : BitVec 16) (s : State) : Out :=
  writesG (.slti d a imm) d (fun s => truth (decide ((s.g a).toInt < imm.toInt))) s
def execLih (d : Reg) (imm : BitVec 20) (s : State) : Out := writesG (.lih d imm) d (fun _ => imm.signExtend 64 * 65536) s
def execAddpc (d : Reg) (imm : BitVec 20) (s : State) : Out := writesG (.addpc d imm) d (fun s => s.hart.pc + imm.signExtend 64 * 4) s

/-- LI48 (R105): the next instruction lies at PC + 8. -/
def execLi48 (d : Reg) (imm : BitVec 48) (s : State) : Out :=
  issue (.li48 d imm) s fun s => (s.setG d (imm.signExtend 64)).retire 8

/-! ## Branches and jumps (R112–R114) -/

/-- A conditional branch (R112). -/
def branch (i : Instr) (taken : State → Bool) (off : BitVec 14) (s : State) : Out :=
  issue i s fun s => s.finish (if taken s then s.hart.pc + off.signExtend 64 * 4 else s.hart.pc + 4)

def execBeq (a b : Reg) (off : BitVec 14) (s : State) : Out := branch (.beq a b off) (fun s => s.g a == s.g b) off s
def execBne (a b : Reg) (off : BitVec 14) (s : State) : Out := branch (.bne a b off) (fun s => s.g a != s.g b) off s
def execBlt (a b : Reg) (off : BitVec 14) (s : State) : Out := branch (.blt a b off) (fun s => decide ((s.g a).toInt < (s.g b).toInt)) off s
def execBge (a b : Reg) (off : BitVec 14) (s : State) : Out := branch (.bge a b off) (fun s => decide ((s.g b).toInt ≤ (s.g a).toInt)) off s
def execBltn (a b : Reg) (off : BitVec 14) (s : State) : Out := branch (.bltn a b off) (fun s => decide ((s.g a).toNat < (s.g b).toNat)) off s
def execBgen (a b : Reg) (off : BitVec 14) (s : State) : Out := branch (.bgen a b off) (fun s => decide ((s.g b).toNat ≤ (s.g a).toNat)) off s

/-- JAL (R113). -/
def execJal (d : Reg) (off : BitVec 21) (s : State) : Out :=
  issue (.jal d off) s fun s => (s.setG d (s.hart.pc + 4)).finish (s.hart.pc + off.signExtend 64 * 4)

/-- JALR (R114): g[a] is read before g[d] is written; a target with bits [1:0] raises MISALIGN. -/
def execJalr (d a : Reg) (imm : BitVec 16) (s : State) : Out :=
  issue (.jalr d a imm) s fun s =>
    let t := s.g a + imm.signExtend 64 * 4
    if t.toNat % 4 != 0 then trapHere ⟨exMisalign, t⟩ s
    else (s.setG d (s.hart.pc + 4)).finish t

end Sys2Proof.Machine
end

