-- ==== Sys2Proof/Machine/Switch.lean ====
section
/-! DEFINITION. The partition switch (R50, R292, R344), and what service numbers come to as nodes and as commands (R331, R332, R378). -/

namespace Sys2Proof.Machine

/-! ## Saving and restoring clusters (R344)

The service kernel defines the numbers of its own services (R332): the model's saves the clusters of the partition to images that lie one after another
from the address in the argument, and restores them from there. Log entry 92. -/

/-- Where an image is put together: no storage lies there. -/
def imagePlace : Nat := 2 ^ 63

/-- The start condition (R344): every context of the partition is SAVED, no core is held, and no command of its arrays is left outside a parked
batch. -/
def mayImage (s : State) (p : BitVec 16) : Bool :=
  (engineOf s p).ctxs.all (fun c => c.use == .saved)
    && (List.range (partSpan p).2).all fun k => (s.array ((partSpan p).1 + k)).queue.isEmpty

/-- The bytes from a place go to the parts of an access. -/
def pushRegion (s : State) (b : Nat) : List Seg → State
  | [] => s
  | g :: r =>
    let s :=
      if pteRepl g.entry then writeSeg s Config.cores g (s.mem.readN b g.len)
      else tagLines (copyRegion s b g.len g.place) (pteKey g.entry) g.place g.len
    pushRegion s (b + g.len) r

/-- The parts of an access, as their pages show them to a party of sector `sec` (R311), go to a place. -/
def pullRegion (sec : Nat) (s : State) (b : Nat) : List Seg → State
  | [] => s
  | g :: r =>
    let a := readPlace sec g
    let shown := !s.sealed && s.lines.all fun x => 128 * x.1 + 128 ≤ a || a + g.len ≤ 128 * x.1
      || (List.range 128).all fun i => s.clear (pteKey g.entry) (128 * x.1 + i)
    let s := if shown then copyRegion s a g.len b else s.write b (s.readKeyed (pteKey g.entry) a g.len)
    pullRegion sec s (b + g.len) r

/-- What a step of a routine comes to: it is done, or fails with a fault. -/
abbrev Routine := EngM Unit

/-- The pages of an image, through the BTE of the partition's first slice. -/
def imageSegs (p : BitVec 16) (space : BitVec 20) (need : Need) (va : Nat) : EngM (List Seg) := engine fun s =>
  if 2 ^ 55 < va + imageBytes then (.error .err, s)
  else match globalAccess s (firstSlice p) p space need va imageBytes with
  | (.ok l, s) => (if l.all Seg.ok then .ok l else .error .err, s)
  | (.bad code a, s) => (.error (.fault a need.kind (if code = exPage then 1 else 2) 0 space), s)

/-- A cluster is saved to an image. -/
def saveCluster (p : BitVec 16) (space : BitVec 20) (c va : Nat) : Routine := do
  let l ← imageSegs p space needW va
  modify fun s => clearPlace (pushRegion (clusterImage s c imagePlace) imagePlace l) imagePlace imageBytes

/-- The words of an image. -/
def imageWords (s : State) (o n : Nat) : List Word := (List.range n).map fun k => s.mem.readWord (imagePlace + o + 8 * k)

/-- The 576 bytes of stream record e of an image. -/
def imageRecord (s : State) (e : Nat) : List Byte := s.mem.readN (imagePlace + 0xC000 + 576 * e) 576

/-- The reserved fields of an image are zero (R11): of the metadata words (R49), of the arbiter's word and the mask, and of the records of bound streams
(R276, R277). -/
def imageClean (s : State) : Bool :=
  let last := imageWords s 0x380 2
  (imageWords s 0x300 16).all (fun w => bits w 16 48 == 0 && bits w 1 11 == 0)
    && bits (last.getD 0 0) 4 60 == 0 && bits (last.getD 1 0) 16 48 == 0
    && (List.range 16).all fun e => !bit1 (last.getD 1 0) e || recordClean (imageRecord s e)

/-- The array of a cluster as an image has it. -/
def imageArray (s : State) (c : Nat) : ArrayUnit :=
  let own := (imageWords s 0x40 80).map ownerOfWord
  let last := imageWords s 0x380 2
  let tokens := (List.range 16).filterMap fun n => (imageWords s (0x800 + 512 * n) 1).head?
  let record (e : Nat) : StepStream := StepStream.ofRecord (imageRecord s e)
  { s.array c with
    slots := Vector.ofFn fun n => own.getD n.val none
    tiles := Vector.ofFn fun n => own.getD (64 + n.val) none
    tileMeta := Vector.ofFn fun n =>
      let w := s.mem.readWord (imagePlace + 0x300 + 8 * n.val)
      ⟨BitVec.ofNat 4 (bits w 12 4), bit1 w 0⟩
    last := bits (last.getD 0 0) 0 4
    parks := tokens.filterMap fun w => if w = 0 then none else s.parkStore[w.toNat - 1]?
    eph := Vector.ofFn fun e => if bit1 (last.getD 1 0) e.val then some (record e.val) else none }

/-- The tag tables of a cluster's cores as an image has them. -/
def imageTags (s : State) (n : Nat) : Vector (Option (BitVec 45)) 256 :=
  Vector.ofFn fun i => tagOfEntry (s.mem.readWord (imagePlace + 0x10000 + 2048 * n + 8 * i.val))

/-- The poison of a cluster's event-unit counters as an image has it. -/
def imagePoison (s : State) (c : Nat) : List Nat :=
  s.poison.filter (fun k => k < eventPlace c 0 || eventPlace (c + 1) 0 ≤ k)
    ++ ((List.range 4096).filter fun i => (s.mem.readN (imagePlace + 0x400 + i / 8) 1).any fun b => b.getLsbD (i % 8)).map (eventPlace c)

/-- The batches that a restored array has taken over are kept for their image no longer. Log entry 92. -/
def dropTaken (l : List Park) (taken : List Park) : List Park := l.map fun x => if taken.contains x then { x with cmds := [] } else x

/-- A cluster takes what an image holds. -/
def loadCluster (s : State) (c : Nat) : State :=
  let a := imageArray s c
  let s := { s.setArray c a with poison := imagePoison s c, parkStore := dropTaken s.parkStore a.parks }
  let s := (List.range 16).foldl (fun s n => s.modifyHart (16 * c + n) fun h => { h with tagTable := imageTags s n }) s
  let s := copyRegion s (imagePlace + 0x4000) 32768 (eventPlace c 0)
  let s := (List.range 64).foldl (fun s n =>
    copyRegion (copyRegion s (imagePlace + 0x18000 + 12288 * n) 4096 (scalePlace c n 0)) (imagePlace + 0x18000 + 12288 * n + 4096) 8192
      (bitmapPlace c n 0)) s
  let s := copyRegion s (imagePlace + 0x100000) (2 ^ 22) (slotPlace c 0 0)
  let s := copyRegion s (imagePlace + 0x500000) (2 ^ 22) (tilePlace c 0 0)
  copyRegion s (imagePlace + 0x900000) (2 ^ 23) (localPlace (16 * c) 0)

/-- A cluster is restored from an image of its own. -/
def restoreCluster (p : BitVec 16) (space : BitVec 20) (c va : Nat) : Routine := do
  let l ← imageSegs p space needR va
  let sec := firstSlice p / 16
  modify fun s => pullRegion sec (settleOwn Config.cores sec l s) imagePlace l
  let w := imageWords (← get) 0 2
  if w.getD 0 0 ≠ BitVec.ofNat 64 c ∨ w.getD 1 0 ≠ p.setWidth 64 ∨ !imageClean (← get) then throw .err
  modify fun s => clearPlace (loadCluster s c) imagePlace imageBytes

/-- The clusters of a partition, one image after another. -/
def switchClusters (p : BitVec 16) (space : BitVec 20) (restore : Bool) (va : Nat) : Routine :=
  (List.range (partSpan p).2).forM fun k =>
    (if restore then restoreCluster else saveCluster) p space ((partSpan p).1 + k) (va + imageBytes * k)

/-- The services of a partition switch: none while it cannot start or a missing page has been serviced, for which a command is given frames, otherwise
whether it is done. Where it cannot finish, nothing has changed but for pages mapped. -/
def switchService (p : BitVec 16) (space : BitVec 20) (number va : Nat) (frame : Option Nat) (s : State) : Option Bool × State :=
  if !mayImage s p then (none, s)
  else match (switchClusters p space (number == Config.serviceRestore) va).run s with
  | .ok _ t => (some true, settleRepl Config.cores t)
  | .error h _ =>
    match frame with
    | none => (some false, s)
    | some f =>
      match routineFault p (some f) h s with
      | (none, s) => (none, s)
      | (some _, s) => (some false, s)

def switchNumber (n : Nat) : Bool := n == Config.serviceSave || n == Config.serviceRestore

/-! ## Nodes and commands -/

/-- NODE_COMPLETE (R331): a running cohort whose root is reached or poisoned; a partition switch, or a service routine of the service kernel's own that
reports `ok` (a reserved number and services 2–5 fail); a transfer whose command has ended. Log entries 56 and 92. -/
def execNodeComplete (part slot node : Nat) (ok : Bool) (s : State) : Out :=
  let p := BitVec.ofNat 16 part
  match findNode s p slot node with
  | none => .next s
  | some (g, n) =>
    if n.st != .running || n.susp.isSome then .next s
    else match n.kind with
    | 0 =>
      match rootOf (engineOf s p) n.cohort with
      | none => .next s
      | some t =>
        match verdict s t.key (BitVec.ofNat 64 t.thr) with
        | some st => .next (completeCohort s p g node n (st == 0))
        | none => .next s
    | 1 =>
      let number := bits n.arg 0 12
      if number < 2 then .next s
      else if switchNumber number then
        match switchService p g.space number n.aux.toNat none s with
        | (none, s) => .next s
        | (some true, s) => .next (nodeDone s p slot node (allDone n))
        | (some false, s) => .next (failNode s p slot node)
      else if ok && 16 ≤ number then .next (nodeDone s p slot node (allDone n))
      else .next (failNode s p slot node)
    | 2 =>
      match n.result with
      | some true => .next (nodeDone s p slot node (allDone n))
      | some false => .next (failNode s p slot node)
      | none => .next s
    | _ => .next s

/-- COMMAND_SERVICE (R378, R332): LOAD and a partition switch run with the frames that `result` names, and the record is taken once they end; UNLOAD and
the management services go on after it is taken; a service of the kernel's own reports `ok`, `detail` and `result`; a reserved number fails. -/
def execCommandService (p : HostPort) (q : Queue) (ok : Bool) (detail : BitVec 56) (result : Word) (s : State) : Out :=
  match nextCommand s p q 3 with
  | none => .next s
  | some (j, w) =>
    let r := s.queue p q
    let n := bits (cmdA0 w) 0 12
    if n = 0 then
      match load r.part r.space (cmdA1 w).toNat result.toNat s with
      | (none, s) => .next s
      | (some c, s) => .next (complete (taken s p q) p q j (if c = 0 then 0 else 1) c 0)
    else if n = 1 then
      match (genc r.part 1).run s with
      | .ok u s => .next (running s p q j 3 (BitVec.ofNat 64 (1 + 2 ^ 12 * (u.toNat % 2 ^ 24))) (cmdA1 w) result.toNat)
      | .error h s =>
        match routineFault r.part (some result.toNat) h s with
        | (none, s) => .next s
        | (some c, s) => .next (complete (taken s p q) p q j 1 c 0)
    else if mgmtService n then .next (running s p q j 3 (cmdA0 w) (cmdA1 w) 0)
    else if n < 16 then .next (complete (taken s p q) p q j 1 0 0)
    else if switchNumber n then
      match switchService r.part r.space n (cmdA1 w).toNat (some result.toNat) s with
      | (none, s) => .next s
      | (some done, s) => .next (complete (taken s p q) p q j (if done then 0 else 1) 0 0)
    else .next (complete (taken s p q) p q j (if ok then 0 else 1) detail.toNat result)

end Sys2Proof.Machine
end

