-- ==== Sys2Proof/Machine/Units.lean ====
section
/-! DEFINITION. Suspended units: their records, and how the service core resumes them or ends them fatally (R248, R266, R326, R330, R331, R430).
A unit is named by its code of R361 and a number: a command, a walk, a posted receive, or for the Timetable engine its partition plus 65,536 times
0 for the ring, 1 + 8192·slot for a graph, 2 + 8192·slot + node for a node. A held message is unit 0 with 2⁴⁴ + 2³² times its source plus its
number. -/

namespace Sys2Proof.Machine

/-- The parts of an engine's number. Log entry 13. -/
def unitPart (id : Nat) : BitVec 16 := BitVec.ofNat 16 (id % 65536)
def unitSel (id : Nat) : Nat := id / 65536
def unitSlot (id : Nat) : Nat := (unitSel id - 1) / 8192
def unitNode (id : Nat) : Nat := (unitSel id - 1) % 8192 - 1
def unitIsGraph (id : Nat) : Bool := (unitSel id - 1) % 8192 == 0

/-- A held message by its number. Log entry 13. -/
def heldById (s : State) (id : Nat) : Option Held :=
  if id < 2 ^ 44 then none else findHeld s (BitVec.ofNat 12 (id / 2 ^ 32 % 4096)) (BitVec.ofNat 32 (id % 2 ^ 32))

/-- The suspension of a node. -/
def nodeSusp (s : State) (p : BitVec 16) (slot node : Nat) : Option Suspension :=
  (((engineOf s p).graph slot).bind fun g => g.nodes[node]?).bind (·.susp)

/-! ## Resuming -/

def resumeCopy (s : State) (id : Nat) : State :=
  match findCopy s id with
  | some c => match c.susp with
    | some x => if x.posted then setCopy (takeRecord s x) { c with susp := none } else s
    | none => s
  | none => s

def resumeWalk (s : State) (id : Nat) : State :=
  match findWalk s id with
  | some w => match w.susp with
    | some x => if x.posted then onWalk (takeRecord s x) id fun w => { w with susp := none } else s
    | none => s
  | none => s

def resumePost (s : State) (id : Nat) : State :=
  match s.posts.find? fun p => p.id == id with
  | some p => match p.susp with
    | some x => if x.posted then setPost (takeRecord s x) { p with susp := none } else s
    | none => s
  | none => s

def resumeIntake (s : State) (p : BitVec 16) : State :=
  match (engineOf s p).susp with
  | some x => if x.posted then onEngine (takeRecord s x) p fun e => { e with susp := none } else s
  | none => s

def resumeGraph (s : State) (p : BitVec 16) (slot : Nat) : State :=
  match ((engineOf s p).graph slot).bind (·.susp) with
  | some x => if x.posted then finishGraph (onGraph (takeRecord s x) p slot fun g => { g with susp := none }) p slot else s
  | none => s

def resumeNode (s : State) (p : BitVec 16) (slot node : Nat) : State :=
  match nodeSusp s p slot node with
  | some x => if x.posted then onNode (takeRecord s x) p slot node fun n => { n with susp := none } else s
  | none => s

/-- The oldest record of a slice that reports a host access (R361). -/
def hostRecord (s : State) (m : Nat) : Option FaultRecord :=
  s.faults.find? fun r => r.slice == m && bits (r.words.getD 0 0) 0 4 == 4

/-- What a suspended unit waits for. -/
def suspension (s : State) (unit id : Nat) : Option Suspension :=
  let p := unitPart id
  match unit with
  | 0 | 1 => match heldById s id with | some h => some h.susp | none => (findCopy s id).bind (·.susp)
  | 2 => (findWalk s id).bind (·.susp)
  | 3 => (s.posts.find? fun y => y.id == id).bind (·.susp)
  | 5 =>
    if unitSel id = 0 then (engineOf s p).susp
    else if unitIsGraph id then ((engineOf s p).graph (unitSlot id)).bind (·.susp)
    else nodeSusp s p (unitSlot id) (unitNode id)
  | _ => none

/-- The record of a suspension in its ring. -/
def recordOf (s : State) (x : Suspension) : Option FaultRecord :=
  x.record.bind fun k => s.faults.find? fun r => r.slice == k.1 && r.seq == k.2

/-- The service core maps the page that a record names as missing (R361, R365). Log entry 17. -/
def mapRecorded (s : State) (r : FaultRecord) (frame : Nat) : State :=
  let space := BitVec.ofNat 20 (r.words.getD 2 0).toNat
  match s.spaces.find? fun x => x.1 == space with
  | some x => if bits (r.words.getD 3 0) 8 8 = 1 then (kernelMap s x.2.part space (r.words.getD 1 0).toNat false frame).getD s else s
  | none => s

/-- The service core looks at a host access's record (R361): it takes the record from its ring, and with a frame maps the missing page, or it leaves
the page as it is. -/
def resumeHost (s : State) (m : Nat) (frame : Option Nat) : State :=
  match hostRecord s m with
  | none => s
  | some r =>
    let s := match frame with | some f => mapRecorded s r f | none => s
    { s with faults := s.faults.erase r }

/-- With a frame, the service core of the owner first maps the missing page that a unit waits for. -/
def serviceFirst (s : State) (unit id : Nat) (frame : Option Nat) : State :=
  match frame, (suspension s unit id).bind (recordOf s) with
  | some f, some r => mapRecorded s r f
  | _, _ => s

/-- UNIT_RESUME (R248, R266, R326, R330, R331, R361, R430): a suspended unit whose record is written goes on where it stopped; unit 4 names a slice
whose service core looks at a host access's record. -/
def execUnitResume (unit : Nat) (id : Served) (s : State) : Out :=
  let s := serviceFirst s unit id.num id.frame
  let frame := id.frame
  let id := id.num
  match unit with
  | 4 => .next (resumeHost s id frame)
  | 0 | 1 => .next (resumeCopy s id)
  | 2 => .next (resumeWalk s id)
  | 3 => .next (resumePost s id)
  | 5 =>
    if unitSel id = 0 then .next (resumeIntake s (unitPart id))
    else if unitIsGraph id then .next (resumeGraph s (unitPart id) (unitSlot id))
    else .next (resumeNode s (unitPart id) (unitSlot id) (unitNode id))
  | _ => .next s

/-! ## Fatal ends -/

/-- A command ends fatally with the cause of its fault (R248); at a completion counter that cannot be reached nothing is poisoned through it
(R430). Log entry 76. -/
def fatalCopy (s : State) (id : Nat) : State :=
  match findCopy s id with
  | some c => match c.susp with
    | some x =>
      if !x.posted then s
      else
        let s := takeRecord s x
        let c := { c with susp := none }
        if c.stage = .moved then endNode (retireCopy s c (queryWord 3 x.cause c.off)) c false
        else endFatal (setCopy s c) c x.cause
    | none => s
  | none => s

def fatalWalk (s : State) (id : Nat) : State :=
  match findWalk s id with
  | some w => match w.susp with
    | some x => if x.posted then onWalk (takeRecord s x) id fun w => walkError { w with susp := none } x.va else s
    | none => s
  | none => s

/-- A receive ends with FAULT; a DONE reference that cannot be reached is not poisoned (R430). -/
def fatalPost (s : State) (id : Nat) : State :=
  match s.posts.find? fun p => p.id == id with
  | some p => match p.susp with
    | some x =>
      if !x.posted then s
      else
        let s := takeRecord s x
        if x.va = p.doneRef then dropPost s p 4 [7, x.va, 0] else setPost s { p with susp := none, fail := some (7, x.va, 0) }
    | none => s
  | none => s

def fatalIntake (s : State) (p : BitVec 16) : State :=
  match (engineOf s p).susp with
  | some x => if x.posted then stopIntake (takeRecord s x) p else s
  | none => s

/-- An admission that ends with RECORD at the node it was reading, or a graph's end that is given up (R330, R430). -/
def fatalGraph (s : State) (p : BitVec 16) (slot : Nat) : State :=
  match (engineOf s p).graph slot with
  | some g => match g.susp with
    | some x =>
      if !x.posted then s
      else
        let s := onGraph (takeRecord s x) p slot fun g => { g with susp := none }
        if g.ending.isSome then dropGraph s p slot else endGraph s p slot 1 (g.who % 65536)
    | none => s
  | none => s

/-- A node fails; the root of a cohort whose DONE could not be reached has ended (R337, R430). -/
def fatalNode (s : State) (p : BitVec 16) (slot node : Nat) : State :=
  match nodeSusp s p slot node with
  | some x =>
    if !x.posted then s
    else
      let s := takeRecord s x
      let s := match findNode s p slot node with
        | some (_, n) => if n.kind = 0 ∧ n.st = .running then rootFired s p n.cohort else s
        | none => s
      failNode s p slot node
  | none => s

/-- A held message ends with FAULT. -/
def fatalHeld (s : State) (h : Held) : State :=
  if heldWaits s h then s else conclude (dropHeld (takeRecord s h.susp) h.src h.sseq) h.src h.sseq FAULT []

/-- UNIT_FATAL (R248, R266, R326, R330, R331, R430). -/
def execUnitFatal (unit id : Nat) (s : State) : Out :=
  match unit with
  | 0 | 1 => match heldById s id with
    | some h => .next (fatalHeld s h)
    | none => .next (fatalCopy s id)
  | 2 => .next (fatalWalk s id)
  | 3 => .next (fatalPost s id)
  | 5 =>
    if unitSel id = 0 then .next (fatalIntake s (unitPart id))
    else if unitIsGraph id then .next (fatalGraph s (unitPart id) (unitSlot id))
    else .next (fatalNode s (unitPart id) (unitSlot id) (unitNode id))
  | 4 => .next (resumeHost s id none)
  | _ => .next s

/-! ## Records that waited for a place (R361, R430) -/

/-- The engine's record for its ring. -/
def postIntake (s : State) (p : BitVec 16) : State :=
  match (engineOf s p).susp with
  | some x =>
    if x.posted then s
    else
      let (x, s) := postEngine s p x (2 ^ 20)
      onEngine s p fun e => { e with susp := some x }
  | none => s

/-- The engine's record for a graph. -/
def postGraph (s : State) (p : BitVec 16) (slot : Nat) : State :=
  match (engineOf s p).graph slot with
  | some g => match g.susp with
    | some x =>
      if x.posted then s
      else
        let (x, s) := postEngine s p x g.who
        onGraph s p slot fun g => { g with susp := some x }
    | none => s
  | none => s

/-- The engine's record for a node. -/
def postNode (s : State) (p : BitVec 16) (slot node : Nat) : State :=
  match nodeSusp s p slot node with
  | some x =>
    if x.posted then s
    else
      let (x, s) := postEngine s p x (node + slot * 2 ^ 16)
      onNode s p slot node fun n => { n with susp := some x }
  | none => s

/-- PARTY_COUNTER_SUSPEND (R430, R361): the fault record of a unit that waits at a counter is written where the ring has a place. -/
def execPartyCounterSuspend (unit id : Nat) (s : State) : Out :=
  match unit with
  | 0 | 1 => execCopySuspend id s
  | 2 => match findWalk s id with
    | some w => .next (postWalk s w)
    | none => .next s
  | 3 => match s.posts.find? fun p => p.id == id with
    | some p => .next (postReceiveFault s p)
    | none => .next s
  | 5 =>
    if unitSel id = 0 then .next (postIntake s (unitPart id))
    else if unitIsGraph id then .next (postGraph s (unitPart id) (unitSlot id))
    else .next (postNode s (unitPart id) (unitSlot id) (unitNode id))
  | _ => .next s

end Sys2Proof.Machine
end

