-- ==== Sys2Proof/Machine/Dispatch.lean ====
section
/-! DEFINITION. The dispatch of every instruction and step to its meaning, in the order of the syntax. -/

namespace Sys2Proof.Machine

def exec (i : Instr) (s : State) : Host.Outcome State Fault Refusal :=
  match i with
  | .add d a b => Sys2Proof.Machine.execAdd d a b s
  | .sub d a b => Sys2Proof.Machine.execSub d a b s
  | .mul d a b => Sys2Proof.Machine.execMul d a b s
  | .mulh d a b => Sys2Proof.Machine.execMulh d a b s
  | .mulhn d a b => Sys2Proof.Machine.execMulhn d a b s
  | .div d a b => Sys2Proof.Machine.execDiv d a b s
  | .divn d a b => Sys2Proof.Machine.execDivn d a b s
  | .rem d a b => Sys2Proof.Machine.execRem d a b s
  | .remn d a b => Sys2Proof.Machine.execRemn d a b s
  | .and d a b => Sys2Proof.Machine.execAnd d a b s
  | .or d a b => Sys2Proof.Machine.execOr d a b s
  | .xor d a b => Sys2Proof.Machine.execXor d a b s
  | .sll d a b => Sys2Proof.Machine.execSll d a b s
  | .srl d a b => Sys2Proof.Machine.execSrl d a b s
  | .sra d a b => Sys2Proof.Machine.execSra d a b s
  | .slli d a sh => Sys2Proof.Machine.execSlli d a sh s
  | .srli d a sh => Sys2Proof.Machine.execSrli d a sh s
  | .srai d a sh => Sys2Proof.Machine.execSrai d a sh s
  | .slt d a b => Sys2Proof.Machine.execSlt d a b s
  | .sltn d a b => Sys2Proof.Machine.execSltn d a b s
  | .min d a b => Sys2Proof.Machine.execMin d a b s
  | .max d a b => Sys2Proof.Machine.execMax d a b s
  | .minn d a b => Sys2Proof.Machine.execMinn d a b s
  | .maxn d a b => Sys2Proof.Machine.execMaxn d a b s
  | .clz d a => Sys2Proof.Machine.execClz d a s
  | .ctz d a => Sys2Proof.Machine.execCtz d a s
  | .popc d a => Sys2Proof.Machine.execPopc d a s
  | .exts d a p w => Sys2Proof.Machine.execExts d a p w s
  | .extn d a p w => Sys2Proof.Machine.execExtn d a p w s
  | .bins d a p w => Sys2Proof.Machine.execBins d a p w s
  | .addi d a imm => Sys2Proof.Machine.execAddi d a imm s
  | .andi d a imm => Sys2Proof.Machine.execAndi d a imm s
  | .ori d a imm => Sys2Proof.Machine.execOri d a imm s
  | .xori d a imm => Sys2Proof.Machine.execXori d a imm s
  | .slti d a imm => Sys2Proof.Machine.execSlti d a imm s
  | .lih d imm => Sys2Proof.Machine.execLih d imm s
  | .addpc d imm => Sys2Proof.Machine.execAddpc d imm s
  | .jal d off => Sys2Proof.Machine.execJal d off s
  | .jalr d a imm => Sys2Proof.Machine.execJalr d a imm s
  | .beq a b off => Sys2Proof.Machine.execBeq a b off s
  | .bne a b off => Sys2Proof.Machine.execBne a b off s
  | .blt a b off => Sys2Proof.Machine.execBlt a b off s
  | .bge a b off => Sys2Proof.Machine.execBge a b off s
  | .bltn a b off => Sys2Proof.Machine.execBltn a b off s
  | .bgen a b off => Sys2Proof.Machine.execBgen a b off s
  | .fadd t d a b => Sys2Proof.Machine.execFadd t d a b s
  | .fsub t d a b => Sys2Proof.Machine.execFsub t d a b s
  | .fmul t d a b => Sys2Proof.Machine.execFmul t d a b s
  | .ffma t d a b => Sys2Proof.Machine.execFfma t d a b s
  | .fdiv t d a b => Sys2Proof.Machine.execFdiv t d a b s
  | .fsqrt t d a => Sys2Proof.Machine.execFsqrt t d a s
  | .fmin t d a b => Sys2Proof.Machine.execFmin t d a b s
  | .fmax t d a b => Sys2Proof.Machine.execFmax t d a b s
  | .fcmp c t d a b => Sys2Proof.Machine.execFcmp c t d a b s
  | .fcvt t u d a => Sys2Proof.Machine.execFcvt t u d a s
  | .ldI8 d base am oa nt off => Sys2Proof.Machine.execLdI8 d base am oa nt off s
  | .ldI16 d base am oa nt off => Sys2Proof.Machine.execLdI16 d base am oa nt off s
  | .ldI32 d base am oa nt off => Sys2Proof.Machine.execLdI32 d base am oa nt off s
  | .ld64 d base am oa nt off => Sys2Proof.Machine.execLd64 d base am oa nt off s
  | .ldN8 d base am oa nt off => Sys2Proof.Machine.execLdN8 d base am oa nt off s
  | .ldN16 d base am oa nt off => Sys2Proof.Machine.execLdN16 d base am oa nt off s
  | .ldN32 d base am oa nt off => Sys2Proof.Machine.execLdN32 d base am oa nt off s
  | .st8 d base am oa nt off => Sys2Proof.Machine.execSt8 d base am oa nt off s
  | .st16 d base am oa nt off => Sys2Proof.Machine.execSt16 d base am oa nt off s
  | .st32 d base am oa nt off => Sys2Proof.Machine.execSt32 d base am oa nt off s
  | .st64 d base am oa nt off => Sys2Proof.Machine.execSt64 d base am oa nt off s
  | .lbf sx d a b w => Sys2Proof.Machine.execLbf sx d a b w s
  | .sbf d a b w => Sys2Proof.Machine.execSbf d a b w s
  | .atomAdd d a b w64 am oa sc => Sys2Proof.Machine.execAtomAdd d a b w64 am oa sc s
  | .atomAnd d a b w64 am oa sc => Sys2Proof.Machine.execAtomAnd d a b w64 am oa sc s
  | .atomOr d a b w64 am oa sc => Sys2Proof.Machine.execAtomOr d a b w64 am oa sc s
  | .atomXor d a b w64 am oa sc => Sys2Proof.Machine.execAtomXor d a b w64 am oa sc s
  | .atomMin d a b w64 am oa sc => Sys2Proof.Machine.execAtomMin d a b w64 am oa sc s
  | .atomMax d a b w64 am oa sc => Sys2Proof.Machine.execAtomMax d a b w64 am oa sc s
  | .atomSwp d a b w64 am oa sc => Sys2Proof.Machine.execAtomSwp d a b w64 am oa sc s
  | .atomCas d a b w64 am oa sc => Sys2Proof.Machine.execAtomCas d a b w64 am oa sc s
  | .fenceAcq sc all => Sys2Proof.Machine.execFenceAcq sc all s
  | .fenceRel sc all => Sys2Proof.Machine.execFenceRel sc all s
  | .fenceSc sc all => Sys2Proof.Machine.execFenceSc sc all s
  | .tlook d a => Sys2Proof.Machine.execTlook d a s
  | .tset a b => Sys2Proof.Machine.execTset a b s
  | .tclr a => Sys2Proof.Machine.execTclr a s
  | .vld128 d base am oa nt off => Sys2Proof.Machine.execVld128 d base am oa nt off s
  | .vld256 d base am oa nt off => Sys2Proof.Machine.execVld256 d base am oa nt off s
  | .vld512 d base am oa nt off => Sys2Proof.Machine.execVld512 d base am oa nt off s
  | .vst128 d base am oa nt off => Sys2Proof.Machine.execVst128 d base am oa nt off s
  | .vst256 d base am oa nt off => Sys2Proof.Machine.execVst256 d base am oa nt off s
  | .vst512 d base am oa nt off => Sys2Proof.Machine.execVst512 d base am oa nt off s
  | .vlds vd ga gb mk et => Sys2Proof.Machine.execVlds vd ga gb mk et s
  | .vsts vd ga gb mk et => Sys2Proof.Machine.execVsts vd ga gb mk et s
  | .vldx vd ga vb mk et => Sys2Proof.Machine.execVldx vd ga vb mk et s
  | .vstx vd ga vb mk et => Sys2Proof.Machine.execVstx vd ga vb mk et s
  | .vatomAdd vd va am mk et => Sys2Proof.Machine.execVatomAdd vd va am mk et s
  | .vatomAnd vd va am mk et => Sys2Proof.Machine.execVatomAnd vd va am mk et s
  | .vatomOr vd va am mk et => Sys2Proof.Machine.execVatomOr vd va am mk et s
  | .vatomXor vd va am mk et => Sys2Proof.Machine.execVatomXor vd va am mk et s
  | .vatomMin vd va am mk et => Sys2Proof.Machine.execVatomMin vd va am mk et s
  | .vatomMax vd va am mk et => Sys2Proof.Machine.execVatomMax vd va am mk et s
  | .vatomSwp vd va am mk et => Sys2Proof.Machine.execVatomSwp vd va am mk et s
  | .vadd vd va vb mk et => Sys2Proof.Machine.execVadd vd va vb mk et s
  | .vsub vd va vb mk et => Sys2Proof.Machine.execVsub vd va vb mk et s
  | .vmul vd va vb mk et => Sys2Proof.Machine.execVmul vd va vb mk et s
  | .vfma vd va vb mk et => Sys2Proof.Machine.execVfma vd va vb mk et s
  | .vmin vd va vb mk et => Sys2Proof.Machine.execVmin vd va vb mk et s
  | .vmax vd va vb mk et => Sys2Proof.Machine.execVmax vd va vb mk et s
  | .vand vd va vb mk lw => Sys2Proof.Machine.execVand vd va vb mk lw s
  | .vor vd va vb mk lw => Sys2Proof.Machine.execVor vd va vb mk lw s
  | .vxor vd va vb mk lw => Sys2Proof.Machine.execVxor vd va vb mk lw s
  | .vsel vd va vb m lw => Sys2Proof.Machine.execVsel vd va vb m lw s
  | .vshl vd va vb mk lw => Sys2Proof.Machine.execVshl vd va vb mk lw s
  | .vshr vd va vb mk lw => Sys2Proof.Machine.execVshr vd va vb mk lw s
  | .vsra vd va vb mk lw => Sys2Proof.Machine.execVsra vd va vb mk lw s
  | .vcmp c vd va vb et => Sys2Proof.Machine.execVcmp c vd va vb et s
  | .vperm vd va vb mk et => Sys2Proof.Machine.execVperm vd va vb mk et s
  | .vpack vd va vb mk et => Sys2Proof.Machine.execVpack vd va vb mk et s
  | .vcvt t u vd va mk => Sys2Proof.Machine.execVcvt t u vd va mk s
  | .vredAdd vd va mk et => Sys2Proof.Machine.execVredAdd vd va mk et s
  | .vredMin vd va mk et => Sys2Proof.Machine.execVredMin vd va mk et s
  | .vredMax vd va mk et => Sys2Proof.Machine.execVredMax vd va mk et s
  | .vredOr vd va mk et => Sys2Proof.Machine.execVredOr vd va mk et s
  | .vscanAdd vd va mk et => Sys2Proof.Machine.execVscanAdd vd va mk et s
  | .vscanMax vd va mk et => Sys2Proof.Machine.execVscanMax vd va mk et s
  | .vunpk vd va mk et => Sys2Proof.Machine.execVunpk vd va mk et s
  | .vbcast vd ga mk et => Sys2Proof.Machine.execVbcast vd ga mk et s
  | .vmvg gd va n et => Sys2Proof.Machine.execVmvg gd va n et s
  | .vmgv vd ga n et => Sys2Proof.Machine.execVmgv vd ga n et s
  | .vexp2 vd va mk et => Sys2Proof.Machine.execVexp2 vd va mk et s
  | .vlog2 vd va mk et => Sys2Proof.Machine.execVlog2 vd va mk et s
  | .vrcp vd va mk et => Sys2Proof.Machine.execVrcp vd va mk et s
  | .vrsq vd va mk et => Sys2Proof.Machine.execVrsq vd va mk et s
  | .vtanh vd va mk et => Sys2Proof.Machine.execVtanh vd va mk et s
  | .vnot vd va mk lw => Sys2Proof.Machine.execVnot vd va mk lw s
  | .strcfg j a b dir am nt => Sys2Proof.Machine.execStrcfg j a b dir am nt s
  | .strend j => Sys2Proof.Machine.execStrend j s
  | .vloop a n => Sys2Proof.Machine.execVloop a n s
  | .fmt aty bty cty scl sp => Sys2Proof.Machine.execFmt aty bty cty scl sp s
  | .mlease d => Sys2Proof.Machine.execMlease d s
  | .mrel => Sys2Proof.Machine.execMrel s
  | .oclaim d n => Sys2Proof.Machine.execOclaim d n s
  | .ofree n => Sys2Proof.Machine.execOfree n s
  | .mzero t => Sys2Proof.Machine.execMzero t s
  | .mvc a b => Sys2Proof.Machine.execMvc a b s
  | .mld a b am nt slot => Sys2Proof.Machine.execMld a b am nt slot s
  | .mldt a b am nt slot => Sys2Proof.Machine.execMldt a b am nt slot s
  | .mlds a b am nt slot => Sys2Proof.Machine.execMlds a b am nt slot s
  | .mst ot a b am nt t => Sys2Proof.Machine.execMst ot a b am nt t s
  | .mma t sa sb => Sys2Proof.Machine.execMma t sa sb s
  | .cadd a b sc => Sys2Proof.Machine.execCadd a b sc s
  | .caddv a b c sc => Sys2Proof.Machine.execCaddv a b c sc s
  | .cread a b c sc => Sys2Proof.Machine.execCread a b c sc s
  | .cwait a b c sc => Sys2Proof.Machine.execCwait a b c sc s
  | .cwaitt a b c sc => Sys2Proof.Machine.execCwaitt a b c sc s
  | .caw a b c sc => Sys2Proof.Machine.execCaw a b c sc s
  | .cinit a b c sc => Sys2Proof.Machine.execCinit a b c sc s
  | .cpoison a sc => Sys2Proof.Machine.execCpoison a sc s
  | .twany d a => Sys2Proof.Machine.execTwany d a s
  | .twall d a => Sys2Proof.Machine.execTwall d a s
  | .tfirst d => Sys2Proof.Machine.execTfirst d s
  | .fork mb => Sys2Proof.Machine.execFork mb s
  | .join d a => Sys2Proof.Machine.execJoin d a s
  | .waitn ld st cp tl => Sys2Proof.Machine.execWaitn ld st cp tl s
  | .xcopy a b c sc acq rel => Sys2Proof.Machine.execXcopy a b c sc acq rel s
  | .xgath a b c sc acq rel => Sys2Proof.Machine.execXgath a b c sc acq rel s
  | .xscat a b c sc acq rel ord => Sys2Proof.Machine.execXscat a b c sc acq rel ord s
  | .xfill a b c sc acq rel => Sys2Proof.Machine.execXfill a b c sc acq rel s
  | .xput a b c sc acq rel => Sys2Proof.Machine.execXput a b c sc acq rel s
  | .xget a b c sc acq rel => Sys2Proof.Machine.execXget a b c sc acq rel s
  | .xsub a b c sc => Sys2Proof.Machine.execXsub a b c sc s
  | .xpub a b c sc => Sys2Proof.Machine.execXpub a b c sc s
  | .xquery a b c => Sys2Proof.Machine.execXquery a b c s
  | .glmap a b c sc => Sys2Proof.Machine.execGlmap a b c sc s
  | .gcopy a b c sc => Sys2Proof.Machine.execGcopy a b c sc s
  | .gsend a b c sc => Sys2Proof.Machine.execGsend a b c sc s
  | .grecv a b c sc => Sys2Proof.Machine.execGrecv a b c sc s
  | .gcmp a b c sc => Sys2Proof.Machine.execGcmp a b c sc s
  | .ghash a b c sc => Sys2Proof.Machine.execGhash a b c sc s
  | .grel a b c sc => Sys2Proof.Machine.execGrel a b c sc s
  | .ebind e a b c => Sys2Proof.Machine.execEbind e a b c s
  | .estep e c => Sys2Proof.Machine.execEstep e c s
  | .eld e a b => Sys2Proof.Machine.execEld e a b s
  | .emma e a b => Sys2Proof.Machine.execEmma e a b s
  | .emap e a b c => Sys2Proof.Machine.execEmap e a b c s
  | .esig e a b c => Sys2Proof.Machine.execEsig e a b c s
  | .eforce e => Sys2Proof.Machine.execEforce e s
  | .trap k => Sys2Proof.Machine.execTrap k s
  | .tret => Sys2Proof.Machine.execTret s
  | .mfk d k => Sys2Proof.Machine.execMfk d k s
  | .mtk k a => Sys2Proof.Machine.execMtk k a s
  | .brk k => Sys2Proof.Machine.execBrk k s
  | .genpub a => Sys2Proof.Machine.execGenpub a s
  | .yield => Sys2Proof.Machine.execYield s
  | .li48 d imm => Sys2Proof.Machine.execLi48 d imm s
  | .takeInterrupt => Sys2Proof.Machine.execTakeInterrupt s
  | .loadDataReturn k err => Sys2Proof.Machine.execLoadDataReturn k err s
  | .storeAcknowledge ack => Sys2Proof.Machine.execStoreAcknowledge ack s
  | .streamReadAhead j => Sys2Proof.Machine.execStreamReadAhead j s
  | .sequencerIssue => Sys2Proof.Machine.execSequencerIssue s
  | .sequencerLoopEnd => Sys2Proof.Machine.execSequencerLoopEnd s
  | .leaseGrant c => Sys2Proof.Machine.execLeaseGrant c s
  | .resumeGrant c => Sys2Proof.Machine.execResumeGrant c s
  | .arrayCommandBegin c k => Sys2Proof.Machine.execArrayCommandBegin c k s
  | .tileCommandRetire c k => Sys2Proof.Machine.execTileCommandRetire c k s
  | .arrayRdvAdd c k => Sys2Proof.Machine.execArrayRdvAdd c k s
  | .homeroomAdd k => Sys2Proof.Machine.execHomeroomAdd k s
  | .counterWake k => Sys2Proof.Machine.execCounterWake k s
  | .counterRepoll core => Sys2Proof.Machine.execCounterRepoll core s
  | .cwaittTimeout core => Sys2Proof.Machine.execCwaittTimeout core s
  | .copyCommandAccept m => Sys2Proof.Machine.execCopyCommandAccept m s
  | .copyStart id => Sys2Proof.Machine.execCopyStart id s
  | .copyComplete id => Sys2Proof.Machine.execCopyComplete id s
  | .copySuspend id => Sys2Proof.Machine.execCopySuspend id s
  | .unitResume unit id => Sys2Proof.Machine.execUnitResume unit id s
  | .subscriptionTile id => Sys2Proof.Machine.execSubscriptionTile id s
  | .bell => Sys2Proof.Machine.execBell s
  | .walkSuspend core => Sys2Proof.Machine.execWalkSuspend core s
  | .streamDeliver k => Sys2Proof.Machine.execStreamDeliver k s
  | .treeForward k => Sys2Proof.Machine.execTreeForward k s
  | .submissionIntake part => Sys2Proof.Machine.execSubmissionIntake part s
  | .graphAdmit part slot => Sys2Proof.Machine.execGraphAdmit part slot s
  | .nodeFire part slot node => Sys2Proof.Machine.execNodeFire part slot node s
  | .cohortPlace part => Sys2Proof.Machine.execCohortPlace part s
  | .serviceNodePost part slot node => Sys2Proof.Machine.execServiceNodePost part slot node s
  | .transferNodeIssue part slot node => Sys2Proof.Machine.execTransferNodeIssue part slot node s
  | .nodeComplete part slot node ok => Sys2Proof.Machine.execNodeComplete part slot node ok s
  | .endcObserve core => Sys2Proof.Machine.execEndcObserve core s
  | .serviceUnmap m part => Sys2Proof.Machine.execServiceUnmap m part s
  | .serviceChangeAttributes m part => Sys2Proof.Machine.execServiceChangeAttributes m part s
  | .replicaApply k => Sys2Proof.Machine.execReplicaApply k s
  | .illegalInstruction w0 w1 => Sys2Proof.Machine.execIllegalInstruction w0 w1 s
  | .fetchException va => Sys2Proof.Machine.execFetchException va s
  | .savedContextResume part core => Sys2Proof.Machine.execSavedContextResume part core s
  | .commandNop p q => Sys2Proof.Machine.execCommandNop p q s
  | .commandSubmit p q => Sys2Proof.Machine.execCommandSubmit p q s
  | .commandAdd p q => Sys2Proof.Machine.execCommandAdd p q s
  | .commandRefused p q => Sys2Proof.Machine.execCommandRefused p q s
  | .completionWrite p q => Sys2Proof.Machine.execCompletionWrite p q s
  | .heldMessageResume src sseq => Sys2Proof.Machine.execHeldMessageResume src sseq s
  | .layout list => Sys2Proof.Machine.execLayout list s
  | .acycGather c => Sys2Proof.Machine.execAcycGather c s
  | .health a1 => Sys2Proof.Machine.execHealth a1 s
  | .checkpointSave a1 => Sys2Proof.Machine.execCheckpointSave a1 s
  | .checkpointRestore a1 => Sys2Proof.Machine.execCheckpointRestore a1 s
  | .dumpread a1 => Sys2Proof.Machine.execDumpread a1 s
  | .messageRetryTimeout dst sseq => Sys2Proof.Machine.execMessageRetryTimeout dst sseq s
  | .partyCounterSuspend unit id => Sys2Proof.Machine.execPartyCounterSuspend unit id s
  | .timerCompare n => Sys2Proof.Machine.execTimerCompare n s
  | .sliceQuantumExpiry part core => Sys2Proof.Machine.execSliceQuantumExpiry part core s
  | .forceWindowExpiry core => Sys2Proof.Machine.execForceWindowExpiry core s
  | .stallWatchdogExpiry part => Sys2Proof.Machine.execStallWatchdogExpiry part s
  | .serviceLoad part slot node frame => Sys2Proof.Machine.execServiceLoad part slot node frame s
  | .serviceMap m part frame => Sys2Proof.Machine.execServiceMap m part frame s
  | .serviceFault m part frame => Sys2Proof.Machine.execServiceFault m part frame s
  | .unitFatal unit id => Sys2Proof.Machine.execUnitFatal unit id s
  | .hostMemRead p hpa n => Sys2Proof.Machine.execHostMemRead p hpa n s
  | .hostMemWrite p hpa data => Sys2Proof.Machine.execHostMemWrite p hpa data s
  | .cmdfWrite p q v => Sys2Proof.Machine.execCmdfWrite p q v s
  | .commandService p q ok detail result => Sys2Proof.Machine.execCommandService p q ok detail result s
  | .hostRegisterWrite p r v => Sys2Proof.Machine.execHostRegisterWrite p r v s
  | .lockInterfaceRequest p => Sys2Proof.Machine.execLockInterfaceRequest p s
  | .startInterfaceRequest p => Sys2Proof.Machine.execStartInterfaceRequest p s
  | .stopInterfaceRequest p => Sys2Proof.Machine.execStopInterfaceRequest p s
  | .getDeviceInterfaceReport p => Sys2Proof.Machine.execGetDeviceInterfaceReport p s
  | .ideIntegrityFailure p => Sys2Proof.Machine.execIdeIntegrityFailure p s
  | .cxlFunctionLevelReset p => Sys2Proof.Machine.execCxlFunctionLevelReset p s
  | .cxlCompletionTimeout core isStore k => Sys2Proof.Machine.execCxlCompletionTimeout core isStore k s
  | .flitReceive f => Sys2Proof.Machine.execFlitReceive f s
  | .reassemblyTimeout src sseq => Sys2Proof.Machine.execReassemblyTimeout src sseq s
  | .partitionQuiet => Sys2Proof.Machine.execPartitionQuiet s
  | .quiesceDeadline => Sys2Proof.Machine.execQuiesceDeadline s
  | .serviceUnload part slot node => Sys2Proof.Machine.execServiceUnload part slot node s
  | .bellAcknowledged => Sys2Proof.Machine.execBellAcknowledged s
  | .usageRecordPeriodic => Sys2Proof.Machine.execUsageRecordPeriodic s
  | .powerOnReset fail => Sys2Proof.Machine.execPowerOnReset fail s
  | .deviceReset fail => Sys2Proof.Machine.execDeviceReset fail s
  | .thermalThrottle island x => Sys2Proof.Machine.execThermalThrottle island x s
  | .fatalError cause => Sys2Proof.Machine.execFatalError cause s
  | .firmwareWatchdogExpiry => Sys2Proof.Machine.execFirmwareWatchdogExpiry s
  | .ageingMeasurement island drift ecc => Sys2Proof.Machine.execAgeingMeasurement island drift ecc s
  | .serviceKernelInstanceRestart m => Sys2Proof.Machine.execServiceKernelInstanceRestart m s
  | .powerOff => Sys2Proof.Machine.execPowerOff s
  | .spdmMessage p keys => Sys2Proof.Machine.execSpdmMessage p keys s
  | .bindingShadow x => Sys2Proof.Machine.execBindingShadow x s

end Sys2Proof.Machine
end

