-- ==== Sys2Proof/Machine/Schedule.lean ====
section
/-! DEFINITION. Which step of a unit comes next when the hart waits (log entry 5): the steps the units offer, and the first that changes
something. -/

namespace Sys2Proof.Machine

/-- A step that the state goes through: its event does something. -/
def moves (s : State) (i : Instr) : Bool :=
  match exec i s with
  | .next t => t != s
  | _ => false

/-- Numbers below the length of a list. -/
def places {α : Type} (l : List α) (f : Nat → Instr) : List Instr := (List.range l.length).map f

/-- A page that a unit waits for can now be used. -/
def serviced (s : State) (part : BitVec 16) (x : Option Suspension) : Bool :=
  match x with
  | some x => x.posted && match (walkPath s part x.space x.va.toNat).2 with
    | some (e, _) => grants e ⟨x.kind % 2 == 1, 2 ≤ x.kind⟩
    | none => false
  | none => false

/-- The steps of the current hart's own units. -/
def hartSteps (s : State) : List Instr :=
  let h := s.hart
  ((List.finRange 8).filter fun j => h.streams[j].en && !h.streams[j].dir).map Instr.streamReadAhead
    ++ (if h.running then [.sequencerIssue] else []) ++ (if 0 < h.seq.ending then [.sequencerLoopEnd] else [])
    ++ (if h.walk.isSome || s.posts.any (fun p => p.core == s.cur) then [.walkSuspend s.cur] else [])
    ++ (if h.wait.isSome then [.counterRepoll s.cur, .cwaittTimeout s.cur] else [])
    ++ (if h.loads.isEmpty then [] else [.loadDataReturn 0 false]) ++ (places h.stores fun k => .storeAcknowledge ⟨false, k⟩)

/-- The steps of the arrays. -/
def arraySteps (s : State) : List Instr :=
  s.arrays.flatMap fun x =>
    [.resumeGrant x.1, .leaseGrant x.1] ++ places x.2.queue (.arrayCommandBegin x.1) ++ places x.2.queue (.tileCommandRetire x.1)
      ++ places x.2.rdv (.arrayRdvAdd x.1)

/-- The steps of counters on their way, and of replicas. -/
def counterSteps (s : State) : List Instr :=
  places s.adds .homeroomAdd ++ places s.wakes .counterWake ++ places (s.wakes ++ (polledTree s).map fun _ => ⟨.core 0, 0⟩) .treeForward
    ++ if s.repl.isEmpty then [] else (List.finRange 3).map Instr.replicaApply

/-- The steps of the block-transfer engines. -/
def copySteps (s : State) : List Instr :=
  s.copies.flatMap fun c =>
    [.copyCommandAccept c.slice, .copyStart c.id, .subscriptionTile c.id, .copySuspend c.id, .copyComplete c.id]
      ++ if serviced s c.part c.susp then [.unitResume 0 ⟨c.id, none⟩] else []

/-- The steps of walks and posted receives. -/
def walkSteps (s : State) : List Instr :=
  (match s.hart.walk with
    | some w => if serviced s w.part w.susp then [.unitResume 2 ⟨w.id, none⟩] else []
    | none => [])
    ++ places s.posts .streamDeliver ++ s.posts.flatMap fun p => if serviced s p.part p.susp then [.unitResume 3 ⟨p.id, none⟩] else []

/-- The steps of a node. Log entry 56. -/
def nodeSteps (s : State) (p : BitVec 16) (g : Graph) (n : Nat) (x : GNode) : List Instr :=
  if serviced s p x.susp then [.unitResume 5 ⟨p.toNat + 65536 * (2 + 8192 * g.slot + n), none⟩]
  else match x.st with
  | .waiting => [.nodeFire p.toNat g.slot n]
  | .ready =>
    match x.kind with
    | 0 => []
    | 1 => [.serviceNodePost p.toNat g.slot n]
    | 2 => [.transferNodeIssue p.toNat g.slot n]
    | _ => [.nodeFire p.toNat g.slot n]
  | .running =>
    match x.kind with
    | 0 => [.nodeComplete p.toNat g.slot n true]
    | 1 =>
      let k := bits x.arg 0 12
      if 2 ≤ k && (k < 16 || switchNumber k) then [.nodeComplete p.toNat g.slot n false] else []
    | 2 => if x.result.isSome then [.nodeComplete p.toNat g.slot n true] else []
    | _ => []
  | _ => []

/-- The steps of the Timetable engine of a partition. -/
def engineSteps (s : State) (d : Descriptor) : List Instr :=
  let p := d.part
  let e := engineOf s p
  (if serviced s p e.susp then [.unitResume 5 ⟨p.toNat, none⟩] else [.submissionIntake p.toNat])
    ++ e.graphs.flatMap (fun g =>
      if serviced s p g.susp then [.unitResume 5 ⟨p.toNat + 65536 * (1 + 8192 * g.slot), none⟩]
      else .graphAdmit p.toNat g.slot :: (g.nodes.mapIdx fun n x => nodeSteps s p g n x).flatten)
    ++ .cohortPlace p.toNat :: e.ctxs.flatMap fun c => [.endcObserve c.core, .savedContextResume p.toNat c.core]

/-- The steps of the host ports and of the change of the layout. -/
def hostSteps (s : State) : List Instr :=
  ((List.finRange 4).flatMap fun p => (List.finRange 64).flatMap fun q =>
    if (s.queue p q).bound then [.commandNop p q, .commandSubmit p q, .commandAdd p q, .commandRefused p q, .completionWrite p q] else [])
    ++ s.links.held.flatMap (fun h =>
      if (if h.flit.kind.toNat = 2 then !heldWaits s h else serviced s (targetSpace s h).1 (some h.susp)) then [.heldMessageResume h.src h.sseq] else [])
    ++ (if s.mgmt.change.isSome then [.partitionQuiet, .bell, .bellAcknowledged] else []) ++ s.doubles.map Instr.endcObserve

/-- The management services that commands ask for. -/
def serviceSteps (s : State) : List Instr :=
  (List.finRange 4).flatMap fun p => (List.finRange 64).flatMap fun q => (s.queue p q).running.flatMap fun c =>
    if c.op ≠ 3 then []
    else match bits c.a0 0 12 with
    | 2 => [.layout c.a1]
    | 3 => [.health c.a1]
    | 4 => [if bit1 c.a1 0 then .checkpointRestore c.a1 else .checkpointSave c.a1]
    | 5 => [.dumpread c.a1]
    | _ => []

/-- What comes with time alone, offered every 1,024 cycles: retries (R391) and the gathering of array cycles (R399). -/
def timedSteps (s : State) : List Instr :=
  if s.hart.irq.cycle.toNat % 1024 = 0 then
    (s.links.out.map fun m => Instr.messageRetryTimeout m.dst m.sseq) ++ s.arrays.map fun x => Instr.acycGather x.1
  else []

/-- The steps the units offer. -/
def offered (s : State) : List Instr :=
  arraySteps s ++ counterSteps s ++ copySteps s ++ walkSteps s ++ s.mgmt.descs.flatMap (engineSteps s) ++ hostSteps s ++ serviceSteps s
    ++ timedSteps s ++ hartSteps s

/-- The first step that some unit of the package makes by itself, beginning from a place that moves on with the cycles. Log entry 5. -/
def pendingEvent (s : State) : Option Instr :=
  let l := offered s
  let k := s.hart.irq.cycle.toNat % (l.length + 1)
  (l.drop k ++ l.take k).find? (moves s)

end Sys2Proof.Machine
end

