-- ==== Sys2Proof/Machine/Fetch.lean ====
section
/-! DEFINITION. Fetching (R16, R52, R115, R310), and what a step runs: an interrupt, a step of a unit, or the instruction at the program
counter. -/

namespace Sys2Proof.Machine

/-- The word the hart executes at its program counter: the one in memory, or one fetched ahead and not discarded since, at the hart's choice
(R310, log entry 6). -/
def currentWord (s : State) (w : Nat) : Nat × State :=
  match s.hart.ahead with
  | some (va, old) =>
    if va == s.hart.pc && old != w then
      let (b, s) := s.flip
      (if b then old else w, s)
    else (w, s)
  | none => (w, s)

/-- The next sequential word is fetched ahead (R310). Log entry 6. -/
def fetchAhead (s : State) : State :=
  let va := s.hart.pc + 4
  let (w, s) := fetchWord s va
  s.onHart fun h => { h with ahead := w.map fun x => (va, x), entering := false }

/-- The instruction at the program counter, or the exception its fetch or decoding raises (R52, R53, R115). -/
def nextInstr (s : State) : Instr × State :=
  match fetchWord s s.hart.pc with
  | (none, s) => (.fetchException s.hart.pc, s)
  | (some m, s) =>
    let (w0, s) := currentWord s m
    match decodeFirst w0 with
    | .one (.ok i) => (i, fetchAhead s)
    | .one (.error _) => (.illegalInstruction (BitVec.ofNat 32 w0) none, fetchAhead s)
    | .li48 d immh =>
      match fetchWord s (s.hart.pc + 4) with
      | (none, s) => (.fetchException (s.hart.pc + 4), s)
      | (some w1, s) => (.li48 d (BitVec.ofNat 48 (immh.toNat * 2 ^ 32 + w1)), fetchAhead s)

/-- What the next step does. -/
inductive Choice where
  | off
  | idle (s : State)
  | run (i : Instr) (s : State)

/-- The next core in number order that is listed and can run, after the current one. -/
def nextCore (s : State) : Option Nat :=
  let l := (s.others.filter fun p => !p.2.halted && p.1 != s.cur).map (·.1)
  let after := l.filter fun n => s.cur < n
  let pick (l : List Nat) : Option Nat := l.foldl (fun o n => match o with | none => some n | some k => some (min k n)) none
  match pick after with
  | some n => some n
  | none => pick l

/-- The instruction waits: it leaves the state as it is. -/
def waits (i : Instr) (s : State) : Bool :=
  match exec i s with
  | .next t => t == s
  | _ => false

/-- A cycle passes on the hart and on the management service core (R407). -/
def passCycle (s : State) : State := { s.onHart (Hart.tick 1) with mgmt := { s.mgmt with cycle := s.mgmt.cycle + 1 } }

/-- The hart's turn, a cycle later, on an island that is not gated (R412): a takeable interrupt (R125); a step of a unit, when the instruction waits or
every sixteenth cycle; the next core, when this one waits and no unit moves; or the instruction. Log entry 5. -/
def hartTurn (s : State) : Choice :=
  let s := passCycle s
  if !s.alive || s.hart.halted || gatedCluster s s.cluster then .idle s
  else
    match takeable s.hart with
    | some _ => .run .takeInterrupt s
    | none =>
      let (i, t) := nextInstr s
      if waits i t || s.hart.irq.cycle.toNat % 16 == 15 then
        match pendingEvent s with
        | some e => .run e s
        | none =>
          match (if waits i t then nextCore s else none) with
          | some n => .idle (s.switch n)
          | none => .run i t
      else .run i t

/-- The steps that a package can make when it is off, in bring-up or stopped by a fatal error (R409–R411, R383). -/
def anyTime : Instr → Bool
  | .powerOnReset _ | .deviceReset _ | .powerOff | .hostRegisterWrite _ _ _ | .hostMemRead _ _ _ | .hostMemWrite _ _ _ | .cmdfWrite _ _ _
  | .stopInterfaceRequest _ | .getDeviceInterfaceReport _ | .spdmMessage _ _ | .cxlFunctionLevelReset _ | .completionWrite _ _ => true
  | _ => false

/-- What the next step does: the agenda first, then the hart. Log entry 5. -/
def choose (s : State) : Choice :=
  match s.agenda with
  | .event i :: r => if s.alive || anyTime i then .run i { s with agenda := r } else .idle { s with agenda := r }
  | .run n :: r => if s.mgmt.power then hartTurn (({ s with agenda := r }).switch n) else .off
  | [] => if s.mgmt.power then hartTurn s else .off

/-! ## Placing code for the host's questions -/

/-- A key that admits the partition to the page of `va`. -/
def someKey (s : State) (va : Nat) : Nat :=
  match (List.range 64).find? fun k => keyOk s s.part k va with
  | some k => k
  | none => 0

/-- The physical page where `withFetchWord` puts its table pages and its code, when the program counter has no page yet. -/
def codeBase : Nat := 0x200000000

/-- A space for the hart. -/
def giveSpace (s : State) : State :=
  { s with
    spaces := (s.hart.spid, ⟨s.part, BitVec.ofNat 36 (codeBase / 65536)⟩) :: s.spaces.filter fun p => p.1 != s.hart.spid
    stations := [] }

/-- An executable page at the program counter: tables in HBM, one page of code. -/
def mapCode (s : State) : State :=
  let va := s.hart.pc.toNat
  let pte (pa : Nat) (low : Nat) : Word := BitVec.ofNat 64 (pa + low)
  let s := s.writeWord (codeBase + 8 * (va / 2 ^ 42)) (pte (codeBase + 0x10000) 1)
  let s := s.writeWord (codeBase + 0x10000 + 8 * (va / 2 ^ 29 % 2 ^ 13)) (pte (codeBase + 0x20000) 1)
  s.writeWord (codeBase + 0x20000 + 8 * (va / 2 ^ 16 % 2 ^ 13)) (pte (codeBase + 0x30000) (0x10B + someKey s va * 2 ^ 52))

/-- The bytes of an instruction placed where the hart fetches next. -/
def placeCode (s : State) (bs : List Byte) : State :=
  let s := s.onHart fun h => { h with ahead := none, halted := false, wait := none }
  let s := { s with agenda := [] }
  let fetches (s : State) : Bool := (fetchWord s s.hart.pc).1.isSome
  let s := if fetches s then s else giveSpace s
  let s := if fetches s then s else mapCode s
  match translate s (homeSlice s.cluster) s.part s.hart.spid s.hart.pc.toNat with
  | (some p, _) => s.write (p.place + s.hart.pc.toNat % 65536) bs
  | (none, _) => s

end Sys2Proof.Machine
end

