-- ==== Sys2Proof/Machine/Step.lean ====
section
/-! DEFINITION. One step of the package. -/

namespace Sys2Proof.Machine

/-- One step: what `choose` picks, run by `exec`. With power off nothing moves but what the agenda names (R409). Log entry 9. -/
def step (s : State) : Host.Outcome State Fault Refusal :=
  match choose s with
  | .off => .fault .poweredOff
  | .idle s => .next s
  | .run i s => exec i s

/-- `s` with the instruction whose bits are `w` stored where the hart fetches its next instruction. Log entries 2 and 55. -/
def State.withFetchWord (s : State) (nbits w : Nat) : State := placeCode s (tableBytes nbits w)

end Sys2Proof.Machine
end

