-- ==== Sys2Proof/Safety.lean ====
section
/-! DEFINITION. What counts as a safe state of the package, when an instruction goes to its own entry, and how a claim says what stays as it
was. -/

namespace Sys2Proof.Machine

/-- The invariant of a hart: bits [1:0] of the program counter, of TVEC and of TEPC are zero (R16, R28). -/
def Hart.Sound (h : Hart) : Prop := h.pc.toNat % 4 = 0 ∧ h.trap.tvec.toNat % 4 = 0 ∧ h.trap.tepc.toNat % 4 = 0

/-- The invariant of the package: memory keeps its canonical form. -/
def State.Sound (s : State) : Prop := s.mem.wf

/-! ## When an instruction goes to its own entry -/

/-- The conditions the manual sets before an instruction's own entry, in the state that meets it. -/
structure Ready (i : Instr) (s : State) : Prop where
  /-- A supervisor-only instruction runs in supervisor or firmware mode (R54). -/
  mode : supervisorOnly i = true → s.hart.tsw.mode ≠ .user
  /-- A prefix is held only before an instruction that accepts one (R56). -/
  held : s.hart.tsw.pp = true → acceptsPrefix i = true
  /-- User mode writes no register that MTK may not write there (R120). -/
  writes : mtkBarred s.hart i = false
  /-- A held prefix is one that the command takes (R201). -/
  fits : prefixFits s.hart.tsw i = true
  /-- FORK and VLOOP do not meet a stopped sequencer (R181). -/
  stopped : stoppedMisuse s.hart i = false
  /-- The sequencer and the counts let the instruction go on (R36, R182). -/
  free : unitHolds s i = false
  /-- No register the instruction names waits for the data of a load (R132). -/
  loads : ∀ l ∈ s.hart.loads, l.dest ∈ namedDests s.hart i → l.dest = .g 0
  /-- The stream registers it names are bound in the direction of their use (R21, R155, R164, R168). -/
  streams : misuse s.hart (vUse i) = false
  /-- No register it reads is poisoned (R133). -/
  data : ∀ p ∈ s.hart.poison, p.1 ∉ readDests s.hart i

/-! ## What an instruction leaves -/

/-- PP, AP, RS and RLANE are zero after an instruction has completed (R27). -/
def Tsw.completed (t : Tsw) : Tsw := { t with pp := false, ap := false, rs := false, rlane := 0 }

/-- The hart after an instruction that writes no register: it goes on at `pc` (R16, R27). -/
def Hart.goesOn (h : Hart) (pc : Word) : Hart := { h with pc := pc, tsw := h.tsw.completed, wait := none }

/-- The hart after an instruction that writes `x` into g[d] and goes on at `pc`: g0 stays zero (R18), and the poison of a register that is
written clears (R133). -/
def Hart.wroteG (h : Hart) (d : Reg) (x : Word) (pc : Word) : Hart := { h.goesOn pc with
  g := if d = 0 then h.g else h.g.set d x
  poison := if d = 0 then h.poison else h.poison.filter fun p => p.1 != Dest.g d }

/-- The hart after an instruction that writes `x` into v[d] and goes on at `pc`. -/
def Hart.wroteV (h : Hart) (d : Reg) (x : V512) (pc : Word) : Hart := { h.goesOn pc with
  g := h.g
  v := h.v.set d x
  poison := h.poison.filter fun p => p.1 != Dest.v d }

/-- The flags of `f` are set in a hart, and stay set where they were (R24). -/
def Hart.flagged (h : Hart) (f : Fl) : Hart := { h with tsw := { h.tsw with
  nv := h.tsw.nv || f.nv
  dz := h.tsw.dz || f.dz
  of := h.tsw.of || f.of
  uf := h.tsw.uf || f.uf
  nx := h.tsw.nx || f.nx } }

/-- `s` with the hart `h`: nothing but the current hart has changed. -/
def State.withHart (s : State) (h : Hart) : State := { s with hart := h }

/-- What a trap leaves (R127): the status word and the cause saved, the handler's mode, IE and the pending fields clear, the sequencer stopped, the
hart at TVEC; the other fields of TSW, the registers v0–v31, TVEC, TSCR, the counts, the tags and memory are as before. -/
structure TrapTaken (s t : State) (int : Bool) (code : Nat) (tval epc : Word) : Prop where
  saved : t.hart.tsws = s.hart.tsw
  trap : t.hart.trap = { s.hart.trap with int := int, code := BitVec.ofNat 16 code, tval := tval, tepc := epc }
  pc : t.hart.pc = s.hart.trap.tvec
  mode : t.hart.tsw.mode = if s.hart.tsw.mode = .user then .supervisor else s.hart.tsw.mode
  enable : t.hart.tsw.ie = false
  pending : t.hart.tsw.pp = false ∧ t.hart.tsw.ap = false ∧ t.hart.tsw.rs = false ∧ t.hart.tsw.rlane = 0
  status : t.hart.tsw = { s.hart.tsw.completed with mode := t.hart.tsw.mode, ie := false }
  stopped : t.hart.seq = { s.hart.seq with stopped := s.hart.seq.run }
  regs : t.hart.g = s.hart.g ∧ t.hart.v = s.hart.v ∧ t.hart.poison = s.hart.poison
  counts : t.hart.old = s.hart.old ∧ t.hart.ost = s.hart.ost ∧ t.hart.ocp = s.hart.ocp
  tags : t.hart.tagc = s.hart.tagc ∧ t.hart.tagt = s.hart.tagt
  mem : ∀ a, t.mem.read a = s.mem.read a

/-- Every byte of memory reads as before. -/
def SameMemory (s t : State) : Prop := ∀ a, t.mem.read a = s.mem.read a

/-- Every byte outside the given places reads as before. -/
def SameOutside (l : List Seg) (s t : State) : Prop := ∀ a, a ∉ segPlaces l → t.mem.read a = s.mem.read a

end Sys2Proof.Machine
end

