-- ==== Sys2Proof/Certificates/Slice0/Obligations.lean ====
section
/-! DEFINITION. The statements about the package, each with the rules of the manual it rests on. -/

namespace Sys2Proof.Claims

open Sys2Proof.Machine

/-! ## Results of the scalar instructions, in the words of their rules -/

/-- The truth value 1 or 0. -/
def asWord (p : Bool) : Word := if p then 1 else 0

/-- The register an instruction of major 0x01 writes and its value (R100, R102); `a` and `b` are the source registers. -/
def integerResult (s : State) : Instr → Option (Reg × Word)
  | .add d a b => some (d, s.g a + s.g b)
  | .sub d a b => some (d, s.g a - s.g b)
  | .mul d a b => some (d, s.g a * s.g b)
  | .mulh d a b => some (d, BitVec.ofInt 64 ((s.g a).toInt * (s.g b).toInt / 2 ^ 64))
  | .mulhn d a b => some (d, BitVec.ofNat 64 ((s.g a).toNat * (s.g b).toNat / 2 ^ 64))
  | .div d a b => some (d, if s.g b = 0 then BitVec.allOnes 64 else (s.g a).sdiv (s.g b))
  | .divn d a b => some (d, if s.g b = 0 then BitVec.allOnes 64 else s.g a / s.g b)
  | .rem d a b => some (d, if s.g b = 0 then s.g a else (s.g a).srem (s.g b))
  | .remn d a b => some (d, if s.g b = 0 then s.g a else s.g a % s.g b)
  | .and d a b => some (d, s.g a &&& s.g b)
  | .or d a b => some (d, s.g a ||| s.g b)
  | .xor d a b => some (d, s.g a ^^^ s.g b)
  | .sll d a b => some (d, s.g a <<< ((s.g b).toNat % 64))
  | .srl d a b => some (d, s.g a >>> ((s.g b).toNat % 64))
  | .sra d a b => some (d, (s.g a).sshiftRight ((s.g b).toNat % 64))
  | .slli d a sh => some (d, s.g a <<< sh.val)
  | .srli d a sh => some (d, s.g a >>> sh.val)
  | .srai d a sh => some (d, (s.g a).sshiftRight sh.val)
  | .slt d a b => some (d, asWord ((s.g a).slt (s.g b)))
  | .sltn d a b => some (d, asWord ((s.g a).ult (s.g b)))
  | .min d a b => some (d, if (s.g a).slt (s.g b) then s.g a else s.g b)
  | .max d a b => some (d, if (s.g a).slt (s.g b) then s.g b else s.g a)
  | .minn d a b => some (d, if (s.g a).ult (s.g b) then s.g a else s.g b)
  | .maxn d a b => some (d, if (s.g a).ult (s.g b) then s.g b else s.g a)
  | .popc d a => some (d, BitVec.ofNat 64 ((List.range 64).countP fun i => (s.g a).getLsbD i))
  | .exts d a p w => some (d, ((s.g a >>> p.val).setWidth (w.val + 1)).signExtend 64)
  | .extn d a p w => some (d, ((s.g a >>> p.val).setWidth (w.val + 1)).setWidth 64)
  | _ => none

/-- The register an immediate form writes and its value (R103, R104). -/
def immediateResult (s : State) : Instr → Option (Reg × Word)
  | .addi d a imm => some (d, s.g a + imm.signExtend 64)
  | .andi d a imm => some (d, s.g a &&& imm.zeroExtend 64)
  | .ori d a imm => some (d, s.g a ||| imm.zeroExtend 64)
  | .xori d a imm => some (d, s.g a ^^^ imm.zeroExtend 64)
  | .slti d a imm => some (d, asWord ((s.g a).slt (imm.signExtend 64)))
  | .lih d imm => some (d, imm.signExtend 64 <<< 16)
  | .addpc d imm => some (d, s.hart.pc + imm.signExtend 64 <<< 2)
  | _ => none

/-- Whether a conditional branch is taken, and its offset field (R112). -/
def branchTaken (s : State) : Instr → Option (Bool × BitVec 14)
  | .beq a b off => some (decide (s.g a = s.g b), off)
  | .bne a b off => some (decide (s.g a ≠ s.g b), off)
  | .blt a b off => some ((s.g a).slt (s.g b), off)
  | .bge a b off => some (!(s.g a).slt (s.g b), off)
  | .bltn a b off => some ((s.g a).ult (s.g b), off)
  | .bgen a b off => some (!(s.g a).ult (s.g b), off)
  | _ => none

/-- The register a scalar floating-point instruction writes, its result and the flags it raises (R107–R111); the operations on values are those of
R78–R83. -/
def floatResult (s : State) : Instr → Option (Reg × Nat × Fl)
  | .fadd t d a b => some (d, (ftFmt t).addV s.hart.tsw.rm (scalarVal t (s.g a)) (scalarVal t (s.g b)))
  | .fsub t d a b => some (d, (ftFmt t).addV s.hart.tsw.rm (scalarVal t (s.g a)) (scalarVal t (s.g b)).neg)
  | .fmul t d a b => some (d, (ftFmt t).mulV s.hart.tsw.rm (scalarVal t (s.g a)) (scalarVal t (s.g b)))
  | .ffma t d a b => some (d, (ftFmt t).fmaV s.hart.tsw.rm (scalarVal t (s.g a)) (scalarVal t (s.g b)) (scalarVal t (s.g d)))
  | .fdiv t d a b => some (d, (ftFmt t).divV s.hart.tsw.rm (scalarVal t (s.g a)) (scalarVal t (s.g b)))
  | .fsqrt t d a => some (d, (ftFmt t).sqrtV s.hart.tsw.rm (scalarVal t (s.g a)))
  | .fmin t d a b => some (d, (ftFmt t).minMax false (scalarOf t (s.g a)) (scalarOf t (s.g b)))
  | .fmax t d a b => some (d, (ftFmt t).minMax true (scalarOf t (s.g a)) (scalarOf t (s.g b)))
  | .fcmp c t d a b =>
    let r := fcompare (fcondOf c) (scalarVal t (s.g a)) (scalarVal t (s.g b))
    some (d, if r.1 then 1 else 0, r.2)
  | .fcvt t u d a => some (d, scalarConvert t u s.hart.tsw.rm (s.g a))
  | _ => none

/-- An infinity times a zero (R108). -/
def timesZero : FVal → FVal → Bool
  | .inf _, .fin _ m _ => m == 0
  | _, _ => false

/-- DZ, OF, UF and NX are as before (R24). -/
def sameFlagsButNv (s u : State) : Prop :=
  u.hart.tsw.dz = s.hart.tsw.dz ∧ u.hart.tsw.of = s.hart.tsw.of ∧ u.hart.tsw.uf = s.hart.tsw.uf ∧ u.hart.tsw.nx = s.hart.tsw.nx

end Sys2Proof.Claims

open Sys2Proof Sys2Proof.Machine Sys2Proof.Claims

/-! ## Encodings -/

/-- The bytes of every well-formed instruction of the program decode to it, with every operand, and the bytes after them are left over. -/
def Obligations.EncodedInstructionsDecode : Prop :=
  ∀ (i : Instr) (rest : List Byte), i.wf = true → i.isProgram = true → decode (i.bytes ++ rest) = .ok (i, rest)

/-- What the decoder accepts is the encoding of the instruction it names, bit for bit, and that instruction is well formed. -/
def Obligations.AcceptedBytesAreEncodings : Prop :=
  ∀ (bs rest : List Byte) (i : Instr), decode bs = .ok (i, rest) → i.wf = true ∧ i.isProgram = true ∧ bs = i.bytes ++ rest

/-- Words written out from the encoding tables, of each format at least one, decode to the instructions they stand for: A (SUB), I (ADDI, TRET), U
(LIH), B (BNE), J (JAL), M (LD), V (VADD), E (GSEND), P (FMT) and the two words of L (LI48). An E word with an unassigned function is refused. -/
def Obligations.WrittenWordsDecode : Prop :=
  decodeTableWord 32 0b000001_00101_00110_00111_00001_000000 = some (.sub 5 6 7) ∧
  decodeTableWord 32 0b000010_00001_00010_1111111111111111 = some (.addi 1 2 0xFFFF) ∧
  decodeTableWord 32 0b001010_00011_00100_00000000000011_01 = some (.bne 3 4 3) ∧
  decodeTableWord 32 0b010000_00101_00110_01_011_01_0_11111110 = some (.ld64 5 6 .lo .acq false 0xFE) ∧
  decodeTableWord 32 0b100000_00001_00010_00011_00100_01_1000 = some (.vadd 1 2 3 (.mu 4) .f32) ∧
  decodeTableWord 32 0b000111_00101_0_00000000000000000101 = some (.lih 5 5) ∧
  decodeTableWord 32 0b001000_11111_000000000000001000000 = some (.jal 31 0x40) ∧
  decodeTableWord 32 0b110000_1011_1011_1000_01_0_00000000000 = some (.fmt .dm8 .dm8 .f32 .both false) ∧
  decodeTableWord 64 (0xFCE01234 + 0x56789ABC * 2 ^ 32) = some (.li48 7 0x123456789ABC) ∧
  decodeTableWord 32 0b111011_01010_00000_01000_101_00100000 = some (.gsend 10 0 8 .sys) ∧
  decodeTableWord 32 0b110110_00001_00010_00000_0000000_1100 = none ∧
  decodeTableWord 32 0b111101_00000_00000_0001_000000000000 = some .tret

/-! ## The scalar core -/

/-- An integer instruction of major 0x01 writes its result into g[d], discards it for g0, and changes nothing else but the program counter and the
pending bits. -/
def Sys2Proof.Claims.IntegerForms : Prop :=
  ∀ (s : State) (i : Instr) (d : Reg) (x : Word), integerResult s i = some (d, x) → Ready i s →
    exec i s = .next (s.withHart (s.hart.wroteG d x (s.hart.pc + 4)))

/-- CLZ and CTZ count the 0 bits above the highest and below the lowest 1 bit, and give 64 for 0. -/
def Sys2Proof.Claims.BitCountsComplete : Prop :=
  (∀ (s : State) (d a : Reg) (n : Nat), Ready (.clz d a) s → n ≤ 64 → (∀ k, 64 - n ≤ k → (s.g a).getLsbD k = false) →
    (n < 64 → (s.g a).getLsbD (63 - n) = true) →
    exec (.clz d a) s = .next (s.withHart (s.hart.wroteG d (BitVec.ofNat 64 n) (s.hart.pc + 4)))) ∧
  (∀ (s : State) (d a : Reg) (n : Nat), Ready (.ctz d a) s → n ≤ 64 → (∀ k, k < n → (s.g a).getLsbD k = false) →
    (n < 64 → (s.g a).getLsbD n = true) →
    exec (.ctz d a) s = .next (s.withHart (s.hart.wroteG d (BitVec.ofNat 64 n) (s.hart.pc + 4))))

/-- BINS replaces bits [p+w−1:p] of g[d] by the low w bits of g[a] and keeps the others; its result is discarded for g0. -/
def Sys2Proof.Claims.BitFieldInsertCompletes : Prop :=
  ∀ (s : State) (d a : Reg) (p : Fin 64) (w : Fin 32), Ready (.bins d a p w) s → p.val + w.val + 1 ≤ 64 →
    ∃ x : Word, exec (.bins d a p w) s = .next (s.withHart (s.hart.wroteG d x (s.hart.pc + 4))) ∧
      ∀ k, k < 64 → x.getLsbD k = if p.val ≤ k ∧ k < p.val + w.val + 1 then (s.g a).getLsbD (k - p.val) else (s.g d).getLsbD k

/-- Division never traps and sets no flag: it writes its result and goes on; a divisor of 0 and the overflow −2⁶³ ÷ −1 give the results of the table,
and the rule's worked cases hold. -/
def Obligations.DivisionCorners : Prop :=
  ∀ (s : State) (d a b : Reg),
    (∀ i ∈ [Instr.div d a b, .divn d a b, .rem d a b, .remn d a b], Ready i s →
      ∃ x, exec i s = .next (s.withHart (s.hart.wroteG d x (s.hart.pc + 4)))) ∧
    (d ≠ 0 →
      (Ready (.div d a b) s → s.g b = 0 → ∃ t, exec (.div d a b) s = .next t ∧ t.g d = 0xFFFFFFFFFFFFFFFF) ∧
      (Ready (.divn d a b) s → s.g b = 0 → ∃ t, exec (.divn d a b) s = .next t ∧ t.g d = 0xFFFFFFFFFFFFFFFF) ∧
      (Ready (.rem d a b) s → s.g b = 0 → ∃ t, exec (.rem d a b) s = .next t ∧ t.g d = s.g a) ∧
      (Ready (.remn d a b) s → s.g b = 0 → ∃ t, exec (.remn d a b) s = .next t ∧ t.g d = s.g a) ∧
      (Ready (.div d a b) s → s.g a = 0x8000000000000000 → s.g b = 0xFFFFFFFFFFFFFFFF →
        ∃ t, exec (.div d a b) s = .next t ∧ t.g d = 0x8000000000000000) ∧
      (Ready (.rem d a b) s → s.g a = 0x8000000000000000 → s.g b = 0xFFFFFFFFFFFFFFFF →
        ∃ t, exec (.rem d a b) s = .next t ∧ t.g d = 0) ∧
      (Ready (.div d a b) s → s.g a = 0xFFFFFFFFFFFFFFF9 → s.g b = 2 →
        ∃ t, exec (.div d a b) s = .next t ∧ t.g d = 0xFFFFFFFFFFFFFFFD) ∧
      (Ready (.rem d a b) s → s.g a = 0xFFFFFFFFFFFFFFF9 → s.g b = 2 →
        ∃ t, exec (.rem d a b) s = .next t ∧ t.g d = 0xFFFFFFFFFFFFFFFF) ∧
      (Ready (.divn d a b) s → s.g a = 0xFFFFFFFFFFFFFFF9 → s.g b = 2 →
        ∃ t, exec (.divn d a b) s = .next t ∧ t.g d = 0x7FFFFFFFFFFFFFFC))

/-- The immediate forms and LI48 write their value into g[d]; after LI48 the next instruction lies 8 bytes on. -/
def Sys2Proof.Claims.ImmediateFormsComplete : Prop :=
  (∀ (s : State) (i : Instr) (d : Reg) (x : Word), immediateResult s i = some (d, x) → Ready i s →
    exec i s = .next (s.withHart (s.hart.wroteG d x (s.hart.pc + 4)))) ∧
  (∀ (s : State) (d : Reg) (imm : BitVec 48), Ready (.li48 d imm) s →
    exec (.li48 d imm) s = .next (s.withHart (s.hart.wroteG d (imm.signExtend 64) (s.hart.pc + 8))))

/-- The integer instructions, the bit counts, BINS and the immediate forms each write their result into g[d], discard it for g0, go on at the
next instruction, and change nothing else but the pending bits. -/
def Obligations.IntegerInstructionsComplete : Prop :=
  Sys2Proof.Claims.IntegerForms ∧
  Sys2Proof.Claims.BitCountsComplete ∧
  Sys2Proof.Claims.BitFieldInsertCompletes ∧
  Sys2Proof.Claims.ImmediateFormsComplete

/-- A conditional branch moves the program counter by four times its offset when its condition holds and by 4 otherwise, and writes no register; CND
values 2 and 3 of major 0x0A are no instruction. -/
def Obligations.BranchesComplete : Prop :=
  (∀ (s : State) (i : Instr) (c : Bool) (off : BitVec 14), branchTaken s i = some (c, off) → Ready i s →
    exec i s = .next (s.withHart (s.hart.goesOn (s.hart.pc + if c then off.signExtend 64 * 4 else 4)))) ∧
  (∀ x, x < 2 ^ 24 → decodeTableWord 32 (0x0A * 2 ^ 26 + 4 * x + 2) = none ∧ decodeTableWord 32 (0x0A * 2 ^ 26 + 4 * x + 3) = none)

/-- JAL and JALR link to the next instruction and go to their target; g[a] of JALR is read before g[d] is written. -/
def Sys2Proof.Claims.AlignedJumps : Prop :=
  (∀ (s : State) (d : Reg) (off : BitVec 21), Ready (.jal d off) s →
    exec (.jal d off) s = .next (s.withHart (s.hart.wroteG d (s.hart.pc + 4) (s.hart.pc + off.signExtend 64 * 4)))) ∧
  (∀ (s : State) (d a : Reg) (imm : BitVec 16), Ready (.jalr d a imm) s → (s.g a + imm.signExtend 64 * 4).toNat % 4 = 0 →
    exec (.jalr d a imm) s = .next (s.withHart (s.hart.wroteG d (s.hart.pc + 4) (s.g a + imm.signExtend 64 * 4))))

/-- JALR to a target with bits [1:0] set raises MISALIGN on itself: g[d] is unchanged, TVAL holds the target and TEPC its own address. -/
def Sys2Proof.Claims.MisalignedJumpTraps : Prop :=
  ∀ (s : State) (d a : Reg) (imm : BitVec 16), Ready (.jalr d a imm) s → s.hart.wait = none → (s.g a + imm.signExtend 64 * 4).toNat % 4 ≠ 0 →
    ∃ t, exec (.jalr d a imm) s = .next t ∧ t.hart.g = s.hart.g ∧ t.hart.pc = s.hart.trap.tvec ∧
      t.hart.trap = { s.hart.trap with
        int := false, code := BitVec.ofNat 16 exMisalign, tval := s.g a + imm.signExtend 64 * 4, tepc := s.hart.pc }

/-- JAL and JALR link and go to their target; JALR to a target with bits [1:0] set raises MISALIGN and links nothing. -/
def Obligations.JumpsComplete : Prop :=
  Sys2Proof.Claims.AlignedJumps ∧ Sys2Proof.Claims.MisalignedJumpTraps

/-- A scalar floating-point instruction writes its rounded result into g[d], zero above it, raises its flags, and changes nothing else but the
program counter and the pending bits. -/
def Sys2Proof.Claims.FloatForms : Prop :=
  ∀ (s : State) (i : Instr) (d : Reg) (x : Nat) (f : Fl), floatResult s i = some (d, x, f) → Ready i s →
    exec i s = .next (s.withHart ((s.hart.wroteG d (BitVec.ofNat 64 x) (s.hart.pc + 4)).flagged f))

/-- NaN operands of FADD, FSUB, FMUL, FDIV, FSQRT and FFMA: the result is the canonical NaN, NV is raised for a signalling operand and no other
flag. A product 0 × ∞ within FFMA raises NV too. -/
def Sys2Proof.Claims.NanOperandsGiveCanonicalNan : Prop :=
  (∀ (s : State) (t : FType) (d a : Reg), Ready (.fsqrt t d a) s → d ≠ 0 → (scalarVal t (s.g a)).isNan = true →
    ∃ u, exec (.fsqrt t d a) s = .next u ∧ u.g d = BitVec.ofNat 64 (ftFmt t).nan ∧
      u.hart.tsw.nv = (s.hart.tsw.nv || (scalarVal t (s.g a)).isSig) ∧ sameFlagsButNv s u) ∧
  (∀ (s : State) (t : FType) (d a b : Reg), Ready (.ffma t d a b) s → d ≠ 0 →
    ((scalarVal t (s.g a)).isNan = true ∨ (scalarVal t (s.g b)).isNan = true ∨ (scalarVal t (s.g d)).isNan = true) →
    ∃ u, exec (.ffma t d a b) s = .next u ∧ u.g d = BitVec.ofNat 64 (ftFmt t).nan ∧ sameFlagsButNv s u ∧
      u.hart.tsw.nv = (s.hart.tsw.nv || (scalarVal t (s.g a)).isSig || (scalarVal t (s.g b)).isSig || (scalarVal t (s.g d)).isSig ||
        timesZero (scalarVal t (s.g a)) (scalarVal t (s.g b)) || timesZero (scalarVal t (s.g b)) (scalarVal t (s.g a)))) ∧
  ∀ (s : State) (t : FType) (d a b : Reg) (i : Instr),
    (i = .fadd t d a b ∨ i = .fsub t d a b ∨ i = .fmul t d a b ∨ i = .fdiv t d a b) → Ready i s → d ≠ 0 →
    ((scalarVal t (s.g a)).isNan = true ∨ (scalarVal t (s.g b)).isNan = true) →
    ∃ u, exec i s = .next u ∧ u.g d = BitVec.ofNat 64 (ftFmt t).nan ∧
      u.hart.tsw.nv = (s.hart.tsw.nv || (scalarVal t (s.g a)).isSig || (scalarVal t (s.g b)).isSig) ∧ sameFlagsButNv s u

/-- A scalar floating-point instruction writes its rounded result and raises its flags; NaN operands give the canonical NaN. -/
def Obligations.FloatInstructionsComplete : Prop :=
  Sys2Proof.Claims.FloatForms ∧ Sys2Proof.Claims.NanOperandsGiveCanonicalNan

/-! ## Traps and the checks before an instruction's own entry -/

namespace Sys2Proof.Claims

/-- An instruction of the program that passes the checks before those of its registers: privilege (R53), prefix (R56, R201), what MTK may write
(R120) and the state of the sequencer (R181). -/
def Admitted (i : Instr) (s : State) : Prop :=
  i.isProgram = true ∧ (supervisorOnly i = true → s.hart.tsw.mode ≠ .user) ∧ (s.hart.tsw.pp = true → acceptsPrefix i = true) ∧
  mtkBarred s.hart i = false ∧ prefixFits s.hart.tsw i = true ∧ stoppedMisuse s.hart i = false

/-- It waits neither for a unit (R36, R182) nor for the data of a load (R132). -/
def Unheld (i : Instr) (s : State) : Prop :=
  unitHolds s i = false ∧ ∀ l ∈ s.hart.loads, l.dest ∈ namedDests s.hart i → l.dest = .g 0

end Sys2Proof.Claims

/-- An instruction of supervisor mode takes the privilege trap in user mode, with the instruction word in TVAL. -/
def Obligations.PrivilegedInstructionsTrapInUserMode : Prop :=
  ∀ (s : State) (i : Instr), ((i = .tret) ∨ (∃ a, i = .genpub a) ∨ (∃ a b c sc, i = .cinit a b c sc) ∨ (∃ a sc, i = .cpoison a sc) ∨
      (∃ a b c sc, i = .glmap a b c sc)) → s.hart.wait = none → s.hart.tsw.mode = .user →
    ∃ t, exec i s = .next t ∧ TrapTaken s t false 1 i.tval s.hart.pc

/-- While a prefix is pending, an instruction that accepts none takes the illegal-instruction trap, with PP still set in TSWS. -/
def Sys2Proof.Claims.PendingPrefixTraps : Prop :=
  ∀ (s : State) (i : Instr), i.isProgram = true → acceptsPrefix i = false → s.hart.wait = none → s.hart.tsw.pp = true →
    (supervisorOnly i = true → s.hart.tsw.mode ≠ .user) →
    ∃ t, exec i s = .next t ∧ TrapTaken s t false 0 i.tval s.hart.pc ∧ t.hart.tsws.pp = true

/-- Every instruction that names the destination of a load whose data has not arrived waits: the state does not change. -/
def Sys2Proof.Claims.InterlockedInstructionsWait : Prop :=
  ∀ (s : State) (i : Instr) (l : PendingLoad), Admitted i s → l ∈ s.hart.loads → l.dest ≠ .g 0 → l.dest ∈ namedDests s.hart i →
    exec i s = .next s

/-- The first instruction, whichever it is, that reads a poisoned register raises DATAERR, with TEPC on it and TVAL the address of the load; of
several poisoned registers it reports the one poisoned first (log entry 12). -/
def Sys2Proof.Claims.PoisonedSourceTraps : Prop :=
  ∀ (s : State) (i : Instr) (d : Dest) (va : Word) (l r : List (Dest × Word)), Admitted i s → Unheld i s → misuse s.hart (vUse i) = false →
    s.hart.wait = none → s.hart.poison = l ++ (d, va) :: r → (∀ p ∈ l, p.1 ∉ readDests s.hart i) → d ∈ readDests s.hart i →
    ∃ t, exec i s = .next t ∧ TrapTaken s t false 13 va s.hart.pc

/-- Writing a poisoned register clears its poison, and a write of g0 changes no register: said of every integer and immediate instruction. -/
def Sys2Proof.Claims.WritingClearsPoison : Prop :=
  ∀ (s : State) (i : Instr) (d : Reg) (x : Word), (integerResult s i = some (d, x) ∨ immediateResult s i = some (d, x)) → Ready i s →
    ∃ t, exec i s = .next t ∧ (d ≠ 0 → t.g d = x ∧ ∀ p, p ∈ t.hart.poison ↔ p ∈ s.hart.poison ∧ p.1 ≠ .g d) ∧
      (d = 0 → t.hart.g = s.hart.g ∧ t.g 0 = 0 ∧ t.hart.poison = s.hart.poison)

/-- A bound stream register used against its direction raises ILLEGAL in every instruction: a write-bound source, a read-bound destination, a bound
mask register, and any bound register of an instruction that takes no streams. -/
def Sys2Proof.Claims.StreamMisuseIsIllegal : Prop :=
  ∀ (s : State) (i : Instr) (r : Reg) (st : Stream), Admitted i s → Unheld i s → s.hart.wait = none → s.hart.bound r = some st →
    ((r ∈ (vUse i).src ∧ st.dir = true) ∨ (r ∈ (vUse i).dst ∧ st.dir = false) ∨ (vUse i).mask = some r ∨
      ((vUse i).plain = true ∧ (r ∈ (vUse i).src ∨ r ∈ (vUse i).dst))) →
    ∃ t, exec i s = .next t ∧ TrapTaken s t false 0 i.tval s.hart.pc

/-- What comes before an instruction's own entry: a pending prefix before an instruction that accepts none, an interlock with a load, a poisoned
source, a stream register used against its direction; and the write that clears a poison. The first instruction, whichever it is, that reads a
poisoned register raises DATAERR, with TEPC on it and TVAL the address of the load; of several poisoned registers it reports the one poisoned
first (log entry 12). -/
def Obligations.ChecksBeforeAnInstruction : Prop :=
  Sys2Proof.Claims.PendingPrefixTraps ∧
  Sys2Proof.Claims.InterlockedInstructionsWait ∧
  Sys2Proof.Claims.PoisonedSourceTraps ∧
  Sys2Proof.Claims.WritingClearsPoison ∧
  Sys2Proof.Claims.StreamMisuseIsIllegal

/-- TRAP k takes the TRAP exception with TVAL = k and TEPC = PC + 4; TRAP 0 when nothing of the context is left to wait for, after ending a held
lease. BRK k takes BREAK with TEPC on itself. -/
def Obligations.TrapAndBreakTakeTheirExceptions : Prop :=
  (∀ (s : State) (k : BitVec 12), Ready (.trap k) s → s.hart.wait = none →
    (k = 0 → s.hart.lease.park = false ∧ s.hart.running = false ∧ ∀ c ∈ (s.array s.cluster).queue, c.core = s.cur → c.op.leased = false) →
    ∃ t, exec (.trap k) s = .next t ∧ TrapTaken s t false 9 (k.zeroExtend 64) (s.hart.pc + 4) ∧ (k = 0 → t.hart.lease.held = false)) ∧
  (∀ (s : State) (k : BitVec 12), Ready (.brk k) s → s.hart.wait = none →
    ∃ t, exec (.brk k) s = .next t ∧ TrapTaken s t false 8 (k.zeroExtend 64) s.hart.pc)

/-- TRET returns: the program counter from TEPC, the status word from TSWS whole, the fetched-ahead word discarded, a stopped sequencer running on;
registers and memory are as before. -/
def Obligations.TrapReturnRestores : Prop :=
  ∀ (s : State), Ready .tret s →
    ∃ t, exec .tret s = .next t ∧ t.hart.pc = s.hart.trap.tepc ∧ t.hart.tsw = s.hart.tsws ∧ t.hart.ahead = none ∧
      t.hart.seq = { s.hart.seq with stopped := false } ∧ t.hart.g = s.hart.g ∧ t.hart.v = s.hart.v ∧ t.hart.trap = s.hart.trap ∧
      t.hart.tsws = s.hart.tsws ∧ SameMemory s t

/-- The interrupts are taken in the order PRE, ERR, STALL, SVC, TIMER, each that is pending where IMASK and IE admit it and none before it is taken,
with TVAL 0 and TEPC on the instruction about to begin. PRE in user mode is taken whatever IE and IMASK hold, in supervisor and firmware mode only where
they admit it. SLICE is never taken here. -/
def Obligations.InterruptsAreTakenInOrder : Prop :=
  ∀ (s : State), s.hart.wait = none → s.hart.walk = none →
    (let on (b : Nat) : Prop := s.hart.irq.pend.getLsbD b = true ∧ s.hart.irq.mask.getLsbD b = true ∧ s.hart.tsw.ie = true
     let pre : Prop := s.hart.irq.pend.getLsbD 0 = true ∧ (s.hart.tsw.mode = .user ∨ on 0)
     let takes (b : Nat) : Prop := ∃ t, exec .takeInterrupt s = .next t ∧ TrapTaken s t true b 0 s.hart.pc
     (pre → takes 0) ∧
     (¬ pre → on 5 → takes 5) ∧
     (¬ pre → ¬ on 5 → on 3 → takes 3) ∧
     (¬ pre → ¬ on 5 → ¬ on 3 → on 4 → takes 4) ∧
     (¬ pre → ¬ on 5 → ¬ on 3 → ¬ on 4 → on 2 → takes 2) ∧
     (¬ pre → ¬ on 5 → ¬ on 3 → ¬ on 4 → ¬ on 2 → exec .takeInterrupt s = .next s) ∧
     (s.hart.tsw.mode ≠ .user → ¬ on 0 → takeable s.hart ≠ some 0)) ∧
    (∀ b, takeable s.hart = some b → ∃ t, exec .takeInterrupt s = .next t ∧ TrapTaken s t true b 0 s.hart.pc) ∧
    (takeable s.hart = none → exec .takeInterrupt s = .next s) ∧
    (s.hart.tsw.mode = .user → s.hart.irq.pend.getLsbD 0 = true → takeable s.hart = some 0) ∧
    (s.hart.irq.pend.getLsbD 0 = false → ∀ b, takeable s.hart = some b →
      s.hart.tsw.ie = true ∧ s.hart.irq.pend.getLsbD b = true ∧ s.hart.irq.mask.getLsbD b = true ∧ b ≠ 1 ∧
      (b = 3 → s.hart.irq.pend.getLsbD 5 = true → s.hart.irq.mask.getLsbD 5 = false) ∧
      (b = 4 → s.hart.irq.pend.getLsbD 3 = true → s.hart.irq.mask.getLsbD 3 = false) ∧
      (b = 2 → s.hart.irq.pend.getLsbD 4 = true → s.hart.irq.mask.getLsbD 4 = false))

/-- A word that is no instruction raises ILLEGAL with the word in TVAL, and a failed fetch raises FETCH with the address. At the first fetch of a
handler the core stops instead, keeps its registers and reports the double fault. -/
def Obligations.FetchAndDecodeExceptions : Prop :=
  (∀ (s : State) (w : BitVec 32), s.hart.wait = none →
    ∃ t, exec (.illegalInstruction w none) s = .next t ∧ TrapTaken s t false 0 (w.zeroExtend 64) s.hart.pc) ∧
  (∀ (s : State) (va : Word), s.hart.wait = none → s.hart.entering = false →
    ∃ t, exec (.fetchException va) s = .next t ∧ TrapTaken s t false 3 va s.hart.pc) ∧
  (∀ (s : State) (va : Word), s.hart.entering = true →
    exec (.fetchException va) s = .next { s with hart := { s.hart with halted := true }, doubles := s.doubles ++ [s.cur] })

/-! ## Control registers -/

namespace Sys2Proof.Claims

/-- The bits of a control register that MTK writes, by mode (R22–R40, R46): the W fields in every mode, the S fields from supervisor mode on, the F
fields in firmware mode. IPEND, DMEM, LVC and TRDY have rules of their own. -/
def writable (m : Mode) : CtlReg → Word
  | .tsw => if m = .user then 0x3F80 else 0xFFFFFF0000003F84
  | .tsws => 0xFFFFFFFFFFFFFF87
  | .tvec => 0xFFFFFFFFFFFFFFFC
  | .tepc => 0xFFFFFFFFFFFFFFFC
  | .tcause => 0x800000000000FFFF
  | .imask => 0x3F
  | .cycle => if m = .firmware then 0xFFFFFFFFFFFFFFFF else 0
  | .spid => 0xFFFFF
  | .coreid => if m = .firmware then 0x000FFF0000000000 else 0
  | .treg => 3
  | .lstat => 0xFFBF
  | .lctx => 0xFFFF
  | .seq => 0xF21F
  | .sqi _ => 0xFFFFFFFF
  | .sg _ => 0xFFFFFFFF000000F5
  | .tval => 0xFFFFFFFFFFFFFFFF
  | .tscr => 0xFFFFFFFFFFFFFFFF
  | .timecmp => 0xFFFFFFFFFFFFFFFF
  | .sa _ => 0xFFFFFFFFFFFFFFFF
  | .sn _ => 0xFFFFFFFFFFFFFFFF
  | .old => 0xFFFFFFFFFFFFFFFF
  | .ost => 0xFFFFFFFFFFFFFFFF
  | .ocp => 0xFFFFFFFFFFFFFFFF
  | .otl => 0xFFFFFFFFFFFFFFFF
  | .rdv => 0xFFFFFFFFFFFFFFFF
  | .tagc _ => 0xFFFFFFFFFFFFFFFF
  | .tagt _ => 0xFFFFFFFFFFFFFFFF
  | _ => 0

/-- The registers whose writes have rules of their own: a clear by ones, a delayed write, a range, a value that is derived. -/
def ownRule : CtlReg → Bool
  | .ipend | .dmem | .lvc | .trdy => true
  | _ => false

/-- MTK writes the register in this mode: TSW in every mode, the others from supervisor mode on; a legal mode in TSWS, and firmware mode there only
from firmware mode (R26, R120). -/
def mtkAllowed (m : Mode) (k : CtlReg) (x : Word) : Prop :=
  (m = .user → k = .tsw) ∧ (k = .tsws → x.toNat % 4 ≠ 2 ∧ (x.toNat % 4 = 3 → m = .firmware))

end Sys2Proof.Claims

/-- MFK writes the control register's value into g[d] and changes nothing else but the program counter and the pending bits. -/
def Sys2Proof.Claims.ControlReads : Prop :=
  ∀ (s : State) (d : Reg) (k : CtlReg), Ready (.mfk d k) s →
    exec (.mfk d k) s = .next (s.withHart (s.hart.wroteG d (controlRead s k) (s.hart.pc + 4)))

/-- MTK writes the bits of g[a] at the positions of the fields that are writable in the current mode, and leaves every other field, every other
control register, the registers and memory as they were; bits [1:0] of TVEC and TEPC read zero. -/
def Sys2Proof.Claims.ControlWritesReachTheirFields : Prop :=
  ∀ (s : State) (k : CtlReg) (a : Reg), Ready (.mtk k a) s → mtkAllowed s.hart.tsw.mode k (s.g a) → ownRule k = false →
    (k = .coreid → s.cur < 3072) →
    ∃ t, exec (.mtk k a) s = .next t ∧ t.hart.pc = s.hart.pc + 4 ∧ t.hart.g = s.hart.g ∧ t.hart.v = s.hart.v ∧ t.mem = s.mem ∧
      t.hart.tsw.mode = s.hart.tsw.mode ∧
      (let before := s.withHart (s.hart.goesOn (s.hart.pc + 4))
       (∀ b, b < 64 → (controlRead t k).getLsbD b =
          if (writable s.hart.tsw.mode k).getLsbD b then (s.g a).getLsbD b
          else (controlRead before k).getLsbD b && k != .tvec && k != .tepc) ∧
       ∀ k', k' ≠ k → k' ≠ .trdy → controlRead t k' = controlRead before k')

/-- The control registers with rules of their own, written from supervisor or firmware mode: ones clear bits of IPEND, TIMER staying set while CYCLE
has reached TIMECMP; a DMEM value waits for the next recess point; LVC keeps rows and columns between 1 and 256; TRDY cannot be written. -/
def Sys2Proof.Claims.ControlWritesWithOwnRules : Prop :=
  ∀ (s : State) (k : CtlReg) (a : Reg), Ready (.mtk k a) s → s.hart.tsw.mode ≠ .user → ownRule k = true →
    ∃ t, exec (.mtk k a) s = .next t ∧ t.hart.pc = s.hart.pc + 4 ∧ t.hart.g = s.hart.g ∧ t.hart.v = s.hart.v ∧ t.mem = s.mem ∧
      (k = .ipend → ∀ b, b < 6 → t.hart.irq.pend.getLsbD b =
        ((s.hart.irq.pend.getLsbD b && !(s.g a).getLsbD b) || (b == 2 && decide (s.hart.irq.timecmp.toNat ≤ s.hart.irq.cycle.toNat)))) ∧
      (k = .dmem → t.hart.dmemNext = s.g a ∧ t.hart.dmem = s.hart.dmem) ∧
      (k = .lvc → (1 ≤ t.hart.lease.rows.toNat ∧ t.hart.lease.rows.toNat ≤ 256) ∧ (1 ≤ t.hart.lease.cols.toNat ∧ t.hart.lease.cols.toNat ≤ 256) ∧
        (1 ≤ (s.g a).toNat % 512 → (s.g a).toNat % 512 ≤ 256 → t.hart.lease.rows.toNat = (s.g a).toNat % 512)) ∧
      (k = .trdy → controlRead t k = controlRead s k)

/-- MTK of a register without a W field in user mode takes the privilege trap, whatever the register waits for and whatever the data; so does firmware
mode in TSWS from supervisor mode, and the reserved mode in TSWS is illegal. -/
def Sys2Proof.Claims.ForbiddenControlWritesTrap : Prop :=
  (∀ (s : State) (k : CtlReg) (a : Reg), s.hart.wait = none → s.hart.tsw.mode = .user → s.hart.tsw.pp = false → k ≠ .tsw →
    ∃ t, exec (.mtk k a) s = .next t ∧ TrapTaken s t false 1 (Instr.mtk k a).tval s.hart.pc) ∧
  ∀ (s : State) (k : CtlReg) (a : Reg), Ready (.mtk k a) s → s.hart.wait = none →
    (s.hart.tsw.mode ≠ .user → k = .tsws → (s.g a).toNat % 4 = 2 →
      ∃ t, exec (.mtk k a) s = .next t ∧ TrapTaken s t false 0 (Instr.mtk k a).tval s.hart.pc) ∧
    (s.hart.tsw.mode = .supervisor → k = .tsws → (s.g a).toNat % 4 = 3 →
      ∃ t, exec (.mtk k a) s = .next t ∧ TrapTaken s t false 1 (Instr.mtk k a).tval s.hart.pc)

/-- MTK writes the fields the mode may write and leaves everything else; the registers with rules of their own follow them; a forbidden write
traps. -/
def Obligations.ControlWritesComplete : Prop :=
  Sys2Proof.Claims.ControlWritesReachTheirFields ∧ Sys2Proof.Claims.ControlWritesWithOwnRules ∧ Sys2Proof.Claims.ForbiddenControlWritesTrap

/-- GENPUB moves TSW.GEN forward only, discards the word fetched ahead and goes on; YIELD applies the DMEM value that waits, and goes on or takes a
SLICE interrupt that is requested and enabled. Both wait for OLD and OST. -/
def Obligations.PublicationAndRecess : Prop :=
  (∀ (s : State) (a : Reg), Ready (.genpub a) s → s.hart.old.iss = s.hart.old.ret → s.hart.ost.iss = s.hart.ost.ret →
    exec (.genpub a) s = .next (s.withHart { s.hart.goesOn (s.hart.pc + 4) with
      ahead := none
      tsw := { s.hart.tsw.completed with
        gen := if (((s.g a).toNat + 2 ^ 24 - s.hart.tsw.gen.toNat) % 2 ^ 24) < 2 ^ 23 then (s.g a).setWidth 24 else s.hart.tsw.gen } })) ∧
  (∀ (s : State), Ready .yield s → s.hart.old.iss = s.hart.old.ret → s.hart.ost.iss = s.hart.ost.ret → sliceDue s.hart = false →
    exec .yield s = .next (s.withHart { s.hart.goesOn (s.hart.pc + 4) with dmem := s.hart.dmemNext })) ∧
  (∀ (s : State), Ready .yield s → s.hart.old.iss = s.hart.old.ret → s.hart.ost.iss = s.hart.ost.ret → s.hart.irq.pend.getLsbD 1 = true →
    s.hart.irq.mask.getLsbD 1 = true → s.hart.tsw.ie = true →
    ∃ t, exec .yield s = .next t ∧ t.hart.trap.int = true ∧ t.hart.trap.code = 1 ∧ t.hart.trap.tval = 0 ∧ t.hart.trap.tepc = s.hart.pc + 4 ∧
      t.hart.dmem = s.hart.dmemNext ∧ t.hart.pc = s.hart.trap.tvec) ∧
  (∀ (s : State) (a : Reg), Ready (.genpub a) s → (s.hart.old.iss ≠ s.hart.old.ret ∨ s.hart.ost.iss ≠ s.hart.ost.ret) →
    exec (.genpub a) s = .next s) ∧
  (∀ (s : State), Ready .yield s → (s.hart.old.iss ≠ s.hart.old.ret ∨ s.hart.ost.iss ≠ s.hart.ost.ret) → exec .yield s = .next s)

/-! ## A step, reset, and the invariant of memory -/

/-- A step of a core that may run executes what its program counter points at, one cycle later: the decoded instruction when the bytes are one,
ILLEGAL when they are none, FETCH when they cannot be fetched. Beside `exec` the step advances the clock and fetches one word ahead. When a unit moves
first, and that one word is fetched ahead, are the model's choices (log entries 5 and 6). -/
def Obligations.StepRunsTheDecodedInstruction : Prop :=
  ∀ (s : State), s.agenda = [] → s.mgmt.power = true → s.alive = true → s.hart.halted = false → s.hart.ahead = none →
    gatedCluster s s.cluster = false → takeable (s.hart.tick 1) = none →
    (let now := passCycle s
     let runs (i : Instr) (t : State) : Prop := (waits i t = false → (s.hart.irq.cycle + 1).toNat % 16 ≠ 15 → step s = exec i t) ∧
       (waits i t = false → pendingEvent now = none → step s = exec i t)
     (∀ w s1 i, fetchWord now s.hart.pc = (some w, s1) → decode (bytesOfWord w) = .ok (i, []) → runs i (fetchAhead s1)) ∧
     (∀ w w1 s1 s2 i, fetchWord now s.hart.pc = (some w, s1) → fetchWord s1 (s.hart.pc + 4) = (some w1, s2) →
       decode (bytesOfWord w ++ bytesOfWord w1) = .ok (i, []) → runs i (fetchAhead s2)) ∧
     (∀ w s1 e, fetchWord now s.hart.pc = (some w, s1) → decode (bytesOfWord w) = .error e → e ≠ .truncated →
       runs (.illegalInstruction (BitVec.ofNat 32 w) none) (fetchAhead s1)) ∧
     (∀ s1, fetchWord now s.hart.pc = (none, s1) → runs (.fetchException s.hart.pc) s1) ∧
     (∀ s1, ∃ o, (fetchAhead s1).hart = { s1.hart with ahead := o, entering := false } ∧ (fetchAhead s1).mem = s1.mem))

/-- After reset the hart is in firmware mode, and every control register for which the manual gives a reset value reads it. -/
def Obligations.ResetControlRegisters : Prop :=
  State.reset.hart.tsw.mode = .firmware ∧ controlRead .reset .tsw = 3 ∧ controlRead .reset .tvec = 0 ∧ controlRead .reset .tcause = 0 ∧
  controlRead .reset .tval = 0 ∧ controlRead .reset .tepc = 0 ∧ controlRead .reset .tscr = 0 ∧ controlRead .reset .ipend = 0 ∧
  controlRead .reset .imask = 0 ∧ controlRead .reset .cycle = 0 ∧ controlRead .reset .timecmp = 0xFFFFFFFFFFFFFFFF ∧
  controlRead .reset .spid = 0 ∧ controlRead .reset .dmem = 0xFFFFFFFFFFFFFFFF ∧ controlRead .reset .treg = 0 ∧
  controlRead .reset .lstat = 0 ∧ controlRead .reset .lctx = 0xFF00 ∧ controlRead .reset .lvc = 0x01000100 ∧ controlRead .reset .seq = 0 ∧
  controlRead .reset .old = 0 ∧ controlRead .reset .ost = 0 ∧ controlRead .reset .ocp = 0 ∧ controlRead .reset .otl = 0 ∧
  controlRead .reset .rdv = 0 ∧
  (∀ j : Fin 8, controlRead .reset (.sa j) = 0 ∧ controlRead .reset (.sn j) = 0 ∧ controlRead .reset (.sg j) = 0) ∧
  (∀ i : Fin 64, controlRead .reset (.tagc i) = 0 ∧ controlRead .reset (.tagt i) = 0) ∧
  (∀ n : Fin 16, controlRead .reset (.sqi n) = 0) ∧ controlRead .reset .trdy = 0xFFFFFFFFFFFFFFFF

/-- COREID of the core of the manual's worked case: core 9 of cluster 5 of die 13. -/
def Sys2Proof.Claims.CoreIdWorkedCase : Prop := ∀ s : State, s.cur = 1753 → s.hart.chip = 0 → controlRead s .coreid = 0x00000006D96D16D9

/-- MFK writes the control register's value into g[d] and changes nothing else; COREID of the worked case. -/
def Obligations.ControlReadsComplete : Prop :=
  Sys2Proof.Claims.ControlReads ∧ Sys2Proof.Claims.CoreIdWorkedCase

/-- Memory after reset has the canonical form. -/
def Obligations.ResetMemoryIsCanonical : Prop := State.reset.Sound

/-- Every step keeps the canonical form of memory: places rise strictly and no byte is listed that reads as an unlisted one. -/
def Obligations.StepKeepsMemoryCanonical : Prop :=
  ∀ (s t : State), s.Sound → step s = .next t → t.Sound

/-! ## Memory instructions -/

namespace Sys2Proof.Claims

/-- A load of g registers: destination, base, mode, ordering, offset, bytes, whether it extends the sign (R139). -/
def loadForm : Instr → Option (Reg × Reg × AddrMode × Order × BitVec 8 × Nat × Bool)
  | .ldI8 d b am oa _ off => some (d, b, am, oa, off, 1, true)
  | .ldI16 d b am oa _ off => some (d, b, am, oa, off, 2, true)
  | .ldI32 d b am oa _ off => some (d, b, am, oa, off, 4, true)
  | .ld64 d b am oa _ off => some (d, b, am, oa, off, 8, false)
  | .ldN8 d b am oa _ off => some (d, b, am, oa, off, 1, false)
  | .ldN16 d b am oa _ off => some (d, b, am, oa, off, 2, false)
  | .ldN32 d b am oa _ off => some (d, b, am, oa, off, 4, false)
  | _ => none

/-- A store of a g register: source, base, mode, ordering, offset, bytes (R139). -/
def storeForm : Instr → Option (Reg × Reg × AddrMode × Order × BitVec 8 × Nat)
  | .st8 r b am oa _ off => some (r, b, am, oa, off, 1)
  | .st16 r b am oa _ off => some (r, b, am, oa, off, 2)
  | .st32 r b am oa _ off => some (r, b, am, oa, off, 4)
  | .st64 r b am oa _ off => some (r, b, am, oa, off, 8)
  | _ => none

/-- A vector load, or with `true` a vector store: register, base, mode, ordering, offset, bytes (R140). -/
def vectorForm : Instr → Option (Bool × Reg × Reg × AddrMode × Order × BitVec 8 × Nat)
  | .vld128 d b am oa _ off => some (false, d, b, am, oa, off, 16)
  | .vld256 d b am oa _ off => some (false, d, b, am, oa, off, 32)
  | .vld512 d b am oa _ off => some (false, d, b, am, oa, off, 64)
  | .vst128 d b am oa _ off => some (true, d, b, am, oa, off, 16)
  | .vst256 d b am oa _ off => some (true, d, b, am, oa, off, 32)
  | .vst512 d b am oa _ off => some (true, d, b, am, oa, off, 64)
  | _ => none

/-- The address of an M-format access (R62, R139): the offset is scaled by the size. -/
def scaledAddr (s : State) (b : Reg) (off : BitVec 8) (n : Nat) : Word := s.g b + off.signExtend 64 * BitVec.ofNat 64 n

/-- The value of `n` bytes in a register: the sign extended or zeroes above (R139). -/
def extended (n : Nat) (sx : Bool) (x : Nat) : Word :=
  if sx then (BitVec.ofNat (8 * n) x).signExtend 64 else BitVec.ofNat 64 x

/-- The hart that has issued a load which leaves the core: it counts in OLD, and its register waits for the data (R39, R132). -/
def issuedLoad (h : Hart) (un : Bool) (d : Dest) (addr : Word) (x : V512) (bad : Bool) : Hart := { h with
  old := { h.old with iss := h.old.iss + 1 }
  loads := h.loads ++ [⟨d, addr, x, bad, un⟩] }

/-- The hart that has issued a store; one that leaves the core counts in OST until it is acknowledged (R39, R137). -/
def issuedStore (h : Hart) (away : Bool) (p : PendingStore) : Hart :=
  if away then { h with ost := { h.ost with iss := h.ost.iss + 1 }, stores := h.stores ++ [p] } else h

/-- The two harts differ at most in what their streams have read ahead (R178). -/
def aheadOnly (h k : Hart) : Prop :=
  ∃ l : Fin 8 → List AheadPiece, k = { h with streams := Vector.ofFn fun j => { h.streams[j] with ahead := l j } }

/-- The streams of a hart without pieces read ahead (R178). -/
def freshStreams (h : Hart) : Hart := { h with streams := h.streams.map fun st => { st with ahead := [] } }

/-- The hart after the value of a load: at once for the core's own local memory, otherwise when the data arrives; an acquire reads streams afresh. -/
def loaded (h : Hart) (acq away un : Bool) (d : Dest) (addr : Word) (x : V512) (bad : Bool) : Hart :=
  let h' := if acq then freshStreams h else h
  if away then (issuedLoad h' un d addr x bad).goesOn (h.pc + 4)
  else match d with
    | .g r => h'.wroteG r (x.setWidth 64) (h.pc + 4)
    | .v r => h'.wroteV r x (h.pc + 4)

/-- Bit `b` of the local memory of the current core (R45). -/
def localBit (s : State) (b : Nat) : Bool := (s.mem.read (localPlace s.cur (b / 8))).getLsbD (b % 8)

/-- An atomic instruction: old value's register, address, operand, width in bytes, mode, ordering (R147). -/
def atomicForm : Instr → Option (Reg × Reg × Reg × Nat × AddrMode × Order)
  | .atomAdd d a b w am oa _ => some (d, a, b, if w then 8 else 4, am, oa)
  | .atomAnd d a b w am oa _ => some (d, a, b, if w then 8 else 4, am, oa)
  | .atomOr d a b w am oa _ => some (d, a, b, if w then 8 else 4, am, oa)
  | .atomXor d a b w am oa _ => some (d, a, b, if w then 8 else 4, am, oa)
  | .atomMin d a b w am oa _ => some (d, a, b, if w then 8 else 4, am, oa)
  | .atomMax d a b w am oa _ => some (d, a, b, if w then 8 else 4, am, oa)
  | .atomSwp d a b w am oa _ => some (d, a, b, if w then 8 else 4, am, oa)
  | .atomCas d a b w am oa _ => some (d, a, b, if w then 8 else 4, am, oa)
  | _ => none

/-- What an atomic writes, if anything: from the old value, the operand and the compare value, each of `n` bytes (R147). -/
def atomicNew (n old x c : Nat) : Instr → Option Nat
  | .atomAdd .. => some ((old + x) % 2 ^ (8 * n))
  | .atomAnd .. => some (old &&& x)
  | .atomOr .. => some (old ||| x)
  | .atomXor .. => some (old ^^^ x)
  | .atomMin .. => some (min old x)
  | .atomMax .. => some (max old x)
  | .atomSwp .. => some x
  | .atomCas .. => if old = c then some x else none
  | _ => none

/-- A strided or indexed lane access: store, register, mask, type, and the address of a lane (R141). -/
def laneForm (s : State) : Instr → Option (Bool × Reg × Mask × ElemType × (Nat → Word))
  | .vlds vd a b m t => some (false, vd, m, t, fun i => s.g a + BitVec.ofNat 64 i * s.g b)
  | .vsts vd a b m t => some (true, vd, m, t, fun i => s.g a + BitVec.ofNat 64 i * s.g b)
  | .vldx vd a vb m t => some (false, vd, m, t, fun i => s.g a + BitVec.ofNat 64 (lane t.laneBits (s.v vb) i))
  | .vstx vd a vb m t => some (true, vd, m, t, fun i => s.g a + BitVec.ofNat 64 (lane t.laneBits (s.v vb) i))
  | _ => none

/-- Lane `i` is active: unmasked, or its mask bit is 1 (R20). -/
def laneOn (s : State) (m : Mask) (i : Nat) : Prop :=
  match m with
  | .none => True
  | .mu r => (s.v r).getLsbD i = true
  | .ma r => (s.v r).getLsbD i = true

/-- The lanes an instruction performs: the active ones from RLANE on (R141). -/
def laneRuns (s : State) (m : Mask) (t : ElemType) (i : Nat) : Prop := s.hart.tsw.rlane.toNat ≤ i ∧ i < t.lanes ∧ laneOn s m i

/-- A `.cb` lane address passes the checks: inside one core's memory, and aligned to the lane (R41, R42, R141). -/
def laneFits (t : ElemType) (a : Word) : Prop :=
  a.toNat < 2 ^ 23 ∧ a.toNat % 2 ^ 19 + t.laneBits / 8 ≤ 2 ^ 19 ∧ a.toNat % (t.laneBits / 8) = 0

/-- The place of a `.cb` address (R41). -/
def clusterPlace (s : State) (a : Word) : Nat := localPlace (s.cur / 16 * 16 + a.toNat / 2 ^ 19) (a.toNat % 2 ^ 19)

/-- The v registers an instruction names are bound to no stream. -/
def plainRegs (s : State) (i : Instr) : Prop :=
  ∀ r, (r ∈ (vUse i).src ∨ r ∈ (vUse i).dst) → s.hart.bound r = none

/-- A vector atomic: register, addresses, mode, mask, type (R149). -/
def vatomForm : Instr → Option (Reg × Reg × AddrMode × Mask × ElemType)
  | .vatomAdd vd va am m t => some (vd, va, am, m, t)
  | .vatomAnd vd va am m t => some (vd, va, am, m, t)
  | .vatomOr vd va am m t => some (vd, va, am, m, t)
  | .vatomXor vd va am m t => some (vd, va, am, m, t)
  | .vatomMin vd va am m t => some (vd, va, am, m, t)
  | .vatomMax vd va am m t => some (vd, va, am, m, t)
  | .vatomSwp vd va am m t => some (vd, va, am, m, t)
  | _ => none

/-- The integer `x` of `w` bits under a type's signedness (R67). -/
def typed (t : ElemType) (x : Nat) : Int := if t.code % 2 = 0 then (BitVec.ofNat t.laneBits x).toInt else (x : Int)

/-- What a lane of a vector atomic writes (R149). -/
def vatomNew (t : ElemType) (old x : Nat) : Instr → Nat
  | .vatomAdd .. => if t = .f32 then (fmtF32.addV .rne (fmtF32.decode old) (fmtF32.decode x)).1 else (old + x) % 2 ^ t.laneBits
  | .vatomAnd .. => old &&& x
  | .vatomOr .. => old ||| x
  | .vatomXor .. => old ^^^ x
  | .vatomMin .. => if t = .f32 then (fmtF32.minMax false old x).1 else if typed t x < typed t old then x else old
  | .vatomMax .. => if t = .f32 then (fmtF32.minMax true old x).1 else if typed t old < typed t x then x else old
  | _ => x

/-- The lanes of a vector atomic one after another, each checked, read and written where the lower ones have left memory (R150): the register and
the state after them, and the lowest lane some of whose bytes could not be read; none where a lane fails its checks. -/
def vatomLanes (i : Instr) (am : AddrMode) (m : Mask) (t : ElemType) (v : V512) :
    List Nat → V512 → Option Nat → State → Option (V512 × Option Nat × State)
  | [], x, bad, s => some (x, bad, s)
  | k :: r, x, bad, s =>
    if m.mk = 0 ∨ (s.v (toReg m.reg)).getLsbD k = true then
      match access s am (t.laneBits / 8) needRW (BitVec.ofNat 64 (lane t.laneBits v k)) (t.laneBits / 8) with
      | (.ok l, s) =>
        if l.any (fun g => pteRepl g.entry) then none
        else
          let old := leNat (readSegs s (sectorOf s.cluster) l)
          vatomLanes i am m t v r (setLane t.laneBits x k old) (if bad = none ∧ l.all Seg.ok = false then some k else bad)
            (s.store l (toBytes (t.laneBits / 8) (vatomNew t old (lane t.laneBits x k) i)))
      | _ => none
    else vatomLanes i am m t v r x bad s

end Sys2Proof.Claims

/-- A scalar load whose access passes its checks completes: g[d] receives the bytes, extended, at once from the core's own memory and otherwise
when the data arrives; memory and everything else are as before, but that pieces which streams have read ahead may be given up. That memory is read at
issue, and which pieces are given up, are the model's choice (log entries 10 and 74). -/
def Sys2Proof.Claims.ScalarLoads : Prop :=
  ∀ (s s1 : State) (i : Instr) (d b : Reg) (am : AddrMode) (oa : Order) (off : BitVec 8) (n : Nat) (sx : Bool) (l : List Seg),
    loadForm i = some (d, b, am, oa, off, n, sx) → Ready i s → access s am 1 needR (scaledAddr s b off n) n = (.ok l, s1) →
    loadWaits s1 l = false →
    ∃ t h, exec i s = .next t ∧ SameMemory s t ∧ aheadOnly s.hart h ∧
      t.hart = loaded h (oa == .acq || oa == .ar) (leaves s am l) (allUn l) (.g d) (scaledAddr s b off n)
        ((extended n sx (leNat (readSegs s1 (sectorOf s.cluster) l))).setWidth 512) (!l.all Seg.ok)

/-- A load from the core's own local memory reads the bytes at its address, lowest first, and completes at once. -/
def Sys2Proof.Claims.LocalLoadsReadTheirBytes : Prop :=
  ∀ (s : State) (i : Instr) (d b : Reg) (oa : Order) (off : BitVec 8) (n : Nat) (sx : Bool),
    loadForm i = some (d, b, .lo, oa, off, n, sx) → Ready i s → (scaledAddr s b off n).toNat + n ≤ 2 ^ 19 → s.adds = [] → d ≠ 0 →
    ∃ t, exec i s = .next t ∧ t.mem = s.mem ∧ t.hart.old = s.hart.old ∧ t.hart.pc = s.hart.pc + 4 ∧
      (∀ k, k < 8 * n → (t.g d).getLsbD k = localBit s (8 * (scaledAddr s b off n).toNat + k)) ∧
      (∀ k, 8 * n ≤ k → k < 64 → (t.g d).getLsbD k = (sx && localBit s (8 * (scaledAddr s b off n).toNat + 8 * n - 1))) ∧
      (∀ r, r ≠ d → t.g r = s.g r) ∧ t.hart.v = s.hart.v

/-- A scalar load that passes its checks gives g[d] its bytes, extended; from the own local memory at once. That memory is read at issue, and
which pieces are given up, are the model's choice (log entries 10 and 74). -/
def Obligations.LoadsComplete : Prop :=
  Sys2Proof.Claims.ScalarLoads ∧ Sys2Proof.Claims.LocalLoadsReadTheirBytes

/-- A scalar store whose access passes its checks completes: the low n bytes of g[s] lie at the places of the access, every other byte reads as
before, no register changes, and a store that leaves the core counts in OST. A store to a replicated page joins the replication sequence (R312), and
through an SO page it is applied in all three replicas (R302). Where the access lies in several segments, they are taken to share no byte. That memory
is written at issue, and that every piece which streams have read ahead is given up and not only those the store meets, are the model's choices (log
entries 10, 11 and 74). -/
def Sys2Proof.Claims.ScalarStores : Prop :=
  ∀ (s s1 : State) (i : Instr) (r b : Reg) (am : AddrMode) (oa : Order) (off : BitVec 8) (n : Nat) (l : List Seg),
    storeForm i = some (r, b, am, oa, off, n) → Ready i s → access s am 1 needW (scaledAddr s b off n) n = (.ok l, s1) →
    storeWaits s1 l oa = false →
    ∃ t, exec i s = .next t ∧ ((∀ g ∈ l, pteRepl g.entry = false ∨ g.order ≠ .so) → SameOutside l s t) ∧
      (l.all Seg.ok = true → t.hart =
        (issuedStore (freshStreams s.hart) (leaves s am l) ⟨allUn l, l.any Seg.far, s.replNext, t.replNext⟩).goesOn (s.hart.pc + 4)) ∧
      ((segPlaces l).Nodup → (∀ g ∈ l, g.ok = true ∧ pteRepl g.entry = false) →
        (l.flatMap fun g => t.mem.readN g.place g.len) = toBytes n (s.g r).toNat) ∧
      (∀ g, l = [g] → g.ok = true → pteRepl g.entry = true → g.order ≠ .so → SameMemory s t ∧
        t.repl = s.repl ++ [⟨s.replNext, g.place, toBytes n (s.g r).toNat, s.cur, pteKey g.entry, g.order == .un⟩]) ∧
      (∀ g, l = [g] → g.ok = true → pteRepl g.entry = true → g.order = .so → s.repl = [] → (∀ k : Fin 3, s.applied[k] = 0) →
        t.repl = [] ∧ ∀ k : Fin 3, t.mem.readN (g.place + k.val * 2 ^ 40) n = toBytes n (s.g r).toNat)

/-- A vector load or store of registers that are bound to no stream: v[d] receives the bytes, zero above them, or the low bytes of v[s] are stored, in
segments that share no byte. That every piece read ahead is given up is the model's choice (log entry 74). -/
def Sys2Proof.Claims.VectorLoadsAndStoresComplete : Prop :=
  (∀ (s s1 : State) (i : Instr) (d b : Reg) (am : AddrMode) (oa : Order) (off : BitVec 8) (n : Nat) (l : List Seg),
    vectorForm i = some (false, d, b, am, oa, off, n) → Ready i s → plainRegs s i →
    access s am 1 needR (scaledAddr s b off n) n = (.ok l, s1) → loadWaits s1 l = false →
    ∃ t h, exec i s = .next t ∧ SameMemory s t ∧ aheadOnly s.hart h ∧
      t.hart = loaded h (oa == .acq || oa == .ar) (leaves s am l) (allUn l) (.v d) (scaledAddr s b off n)
        (BitVec.ofNat 512 (leNat (readSegs s1 (sectorOf s.cluster) l))) (!l.all Seg.ok)) ∧
  (∀ (s s1 : State) (i : Instr) (r b : Reg) (am : AddrMode) (oa : Order) (off : BitVec 8) (n : Nat) (l : List Seg),
    vectorForm i = some (true, r, b, am, oa, off, n) → Ready i s → plainRegs s i →
    access s am 1 needW (scaledAddr s b off n) n = (.ok l, s1) → storeWaits s1 l oa = false →
    ∃ t, exec i s = .next t ∧ ((∀ g ∈ l, pteRepl g.entry = false ∨ g.order ≠ .so) → SameOutside l s t) ∧
      (l.all Seg.ok = true → t.hart =
        (issuedStore (freshStreams s.hart) (leaves s am l) ⟨allUn l, l.any Seg.far, s.replNext, t.replNext⟩).goesOn (s.hart.pc + 4)) ∧
      ((segPlaces l).Nodup → (∀ g ∈ l, g.ok = true ∧ pteRepl g.entry = false) →
        (l.flatMap fun g => t.mem.readN g.place g.len) = toBytes n (s.v r).toNat))

/-- A scalar store writes its low bytes and no other byte; a vector load or store of unbound registers moves its bytes. That memory is written at
issue, and that every piece which streams have read ahead is given up and not only those the store meets, are the model's choices (log entries
10, 11 and 74). -/
def Obligations.StoresComplete : Prop :=
  Sys2Proof.Claims.ScalarStores ∧ Sys2Proof.Claims.VectorLoadsAndStoresComplete

/-- The checks of an access, in their order: a broken address form raises ADDRESS, a misaligned atomic MISALIGN, a page without a translation PAGE,
a page without the permission PERM; nothing is read or written, and no register changes. -/
def Obligations.AccessChecksTrap : Prop :=
  ∀ (s : State), s.hart.wait = none →
    (∀ (i : Instr) (d b : Reg) (am : AddrMode) (oa : Order) (off : BitVec 8) (n : Nat) (sx : Bool),
      loadForm i = some (d, b, am, oa, off, n, sx) → Ready i s → formOk am (scaledAddr s b off n).toNat n = false →
      ∃ t, exec i s = .next t ∧ TrapTaken s t false 4 (scaledAddr s b off n) s.hart.pc) ∧
    (∀ (i : Instr) (r b : Reg) (am : AddrMode) (oa : Order) (off : BitVec 8) (n : Nat),
      storeForm i = some (r, b, am, oa, off, n) → Ready i s → formOk am (scaledAddr s b off n).toNat n = false →
      ∃ t, exec i s = .next t ∧ TrapTaken s t false 4 (scaledAddr s b off n) s.hart.pc) ∧
    (∀ (i : Instr) (d a b : Reg) (n : Nat) (am : AddrMode) (oa : Order),
      atomicForm i = some (d, a, b, n, am, oa) → Ready i s → formOk am (s.g a).toNat n = true → (s.g a).toNat % n ≠ 0 →
      ∃ t, exec i s = .next t ∧ TrapTaken s t false 2 (s.g a) s.hart.pc) ∧
    (∀ (i : Instr) (d b : Reg) (oa : Order) (off : BitVec 8) (n : Nat) (sx : Bool) (s1 : State),
      loadForm i = some (d, b, .gl, oa, off, n, sx) → Ready i s → (scaledAddr s b off n).toNat < 2 ^ 55 →
      (scaledAddr s b off n).toNat % 65536 + n ≤ 65536 →
      translate s (homeSlice s.cluster) s.part s.hart.spid (scaledAddr s b off n).toNat = (none, s1) →
      ∃ t, exec i s = .next t ∧ TrapTaken s t false 5 (scaledAddr s b off n) s.hart.pc) ∧
    (∀ (i : Instr) (r b : Reg) (oa : Order) (off : BitVec 8) (n : Nat) (p : Page) (s1 : State),
      storeForm i = some (r, b, .gl, oa, off, n) → Ready i s → (scaledAddr s b off n).toNat < 2 ^ 55 →
      (scaledAddr s b off n).toNat % 65536 + n ≤ 65536 →
      translate s (homeSlice s.cluster) s.part s.hart.spid (scaledAddr s b off n).toNat = (some p, s1) → pteW p.entry = false →
      ∃ t, exec i s = .next t ∧ TrapTaken s t false 6 (scaledAddr s b off n) s.hart.pc)

/-- LBF reads the field of w bits at the bit address g[a] + g[b] of the core's local memory, with zeroes or its sign above; SBF replaces exactly
those bits. Neither counts in an outstanding class, and a field that leaves the local memory raises ADDRESS. That SBF gives up every piece read ahead is
the model's choice (log entry 74). -/
def Sys2Proof.Claims.BitFieldsComplete : Prop :=
  (∀ (s : State) (sx : Bool) (d a b : Reg) (w : Fin 32), Ready (.lbf sx d a b w) s → (s.g a + s.g b).toNat + w.val + 1 ≤ 2 ^ 22 → s.adds = [] →
    ∃ (x : Word) (h : Hart), exec (.lbf sx d a b w) s = .next (s.withHart (h.wroteG d x (s.hart.pc + 4))) ∧ aheadOnly s.hart h ∧
      ∀ k, k < 64 → x.getLsbD k =
        if k ≤ w.val then localBit s ((s.g a + s.g b).toNat + k) else sx && localBit s ((s.g a + s.g b).toNat + w.val)) ∧
  (∀ (s : State) (d a b : Reg) (w : Fin 32), Ready (.sbf d a b w) s → (s.g a + s.g b).toNat + w.val + 1 ≤ 2 ^ 22 → s.adds = [] →
    ∃ t, exec (.sbf d a b w) s = .next t ∧ t.hart = (freshStreams s.hart).goesOn (s.hart.pc + 4) ∧
      (∀ k, k < 2 ^ 22 → localBit t k =
        if (s.g a + s.g b).toNat ≤ k ∧ k ≤ (s.g a + s.g b).toNat + w.val then (s.g d).getLsbD (k - (s.g a + s.g b).toNat) else localBit s k) ∧
      (∀ p, (p < localPlace s.cur 0 ∨ localPlace s.cur (2 ^ 19) ≤ p) → t.mem.read p = s.mem.read p)) ∧
  (∀ (s : State) (sx : Bool) (d a b : Reg) (w : Fin 32), s.hart.wait = none → Ready (.lbf sx d a b w) s →
    2 ^ 22 < (s.g a + s.g b).toNat + w.val + 1 →
    ∃ t, exec (.lbf sx d a b w) s = .next t ∧ TrapTaken s t false 4 (s.g a + s.g b) s.hart.pc) ∧
  (∀ (s : State) (d a b : Reg) (w : Fin 32), s.hart.wait = none → Ready (.sbf d a b w) s → 2 ^ 22 < (s.g a + s.g b).toNat + w.val + 1 →
    ∃ t, exec (.sbf d a b w) s = .next t ∧ TrapTaken s t false 4 (s.g a + s.g b) s.hart.pc)

/-- An atomic whose access passes its checks reads its location, writes the new value there as one step, and gives the old value, zero-extended, to
g[d]; a cas that does not match writes nothing. Every other byte reads as before. That it reads and writes at issue, and that one that writes gives up
every piece read ahead, are the model's choices (log entries 10 and 74). -/
def Sys2Proof.Claims.AtomicsComplete : Prop :=
  ∀ (s s1 : State) (i : Instr) (d a b : Reg) (n : Nat) (am : AddrMode) (oa : Order) (g : Seg),
    atomicForm i = some (d, a, b, n, am, oa) → Ready i s → access s am n needRW (s.g a) n = (.ok [g], s1) → pteRepl g.entry = false →
    storeWaits s1 [g] oa = false → g.ok = true →
    (let old := leNat (readSegs s1 (sectorOf s.cluster) [g])
     let new := atomicNew n old ((s.g b).toNat % 2 ^ (8 * n)) ((s.g d).toNat % 2 ^ (8 * n)) i
     ∃ t h, exec i s = .next t ∧ SameOutside [g] s t ∧ (new = none → SameMemory s t) ∧
       (∀ x, new = some x → t.mem.readN g.place n = toBytes n x) ∧ aheadOnly s.hart h ∧
       t.hart = loaded h (oa == .acq || oa == .ar || new.isSome) (leaves s am [g]) (allUn [g]) (.g d) (s.g a) (BitVec.ofNat 512 old) false)

/-- LBF and SBF read and replace a bit field of local memory; an atomic reads and writes its location as one step. That SBF gives up every piece
read ahead is the model's choice (log entry 74). That it reads and writes at issue, and that one that writes gives up every piece read ahead, are
the model's choices (log entries 10 and 74). -/
def Obligations.BitFieldsAndAtomicsComplete : Prop :=
  Sys2Proof.Claims.BitFieldsComplete ∧ Sys2Proof.Claims.AtomicsComplete

/-- A strided or indexed load of unbound registers: every performed lane receives the bytes at its own address; under .mu an inactive lane keeps its
value and under .ma it becomes 0. The address kept for an error of the data is the lowest active lane's, the model's choice (log entry 12). -/
def Sys2Proof.Claims.LaneLoadsComplete : Prop :=
  ∀ (s : State) (i : Instr) (d : Reg) (m : Mask) (et : ElemType) (addr : Nat → Word), laneForm s i = some (false, d, m, et, addr) → Ready i s →
    plainRegs s i → s.adds = [] → (∀ k, laneRuns s m et k → laneFits et (addr k)) →
    ∃ t x h k₀, exec i s = .next t ∧ SameMemory s t ∧ aheadOnly s.hart h ∧ (∀ k, k < et.lanes → laneOn s m k → laneOn s m k₀ ∧ k₀ ≤ k) ∧
      (t.hart = loaded h false true false (.v d) (addr k₀) x false ∨ t.hart = loaded h false false false (.v d) (addr k₀) x false) ∧
      ((∀ k, k < et.lanes → laneOn s m k → (addr k).toNat / 2 ^ 19 = s.cur % 16) → t.hart.v = s.hart.v.set d x) ∧
      (∀ k, laneRuns s m et k → lane et.laneBits x k = leNat (s.mem.readN (clusterPlace s (addr k)) (et.laneBits / 8))) ∧
      (∀ k, k < et.lanes → ¬ laneOn s m k → m.mk = 2 → lane et.laneBits x k = 0) ∧
      (∀ k, k < et.lanes → ¬ laneRuns s m et k → (laneOn s m k ∨ m.mk ≠ 2) → lane et.laneBits x k = lane et.laneBits (s.v d) k)

/-- A strided or indexed store of unbound registers writes each performed lane at its own address; where lanes name the same byte the highest one
stands, and every other byte reads as before. -/
def Sys2Proof.Claims.LaneStoresComplete : Prop :=
  ∀ (s : State) (i : Instr) (r : Reg) (m : Mask) (et : ElemType) (addr : Nat → Word), laneForm s i = some (true, r, m, et, addr) → Ready i s →
    plainRegs s i → s.adds = [] → (∀ k, laneRuns s m et k → laneFits et (addr k)) →
    ∃ t, exec i s = .next t ∧ t.hart.g = s.hart.g ∧ t.hart.v = s.hart.v ∧ t.hart.pc = s.hart.pc + 4 ∧
      (∀ p, (∀ k, laneRuns s m et k → p < clusterPlace s (addr k) ∨ clusterPlace s (addr k) + et.laneBits / 8 ≤ p) →
        t.mem.read p = s.mem.read p) ∧
      (∀ k o, laneRuns s m et k → o < et.laneBits / 8 →
        (∀ k', k < k' → laneRuns s m et k' → clusterPlace s (addr k) + o < clusterPlace s (addr k') ∨
          clusterPlace s (addr k') + et.laneBits / 8 ≤ clusterPlace s (addr k) + o) →
        t.mem.read (clusterPlace s (addr k) + o) = BitVec.ofNat 8 (lane et.laneBits (s.v r) k / 2 ^ (8 * o)))

/-- A lane that fails its checks traps with its number in TSWS.RLANE and TEPC on the instruction; the lanes below it of a load are performed, and
the lanes from it on are as before. -/
def Sys2Proof.Claims.LaneFaultsKeepLowerLanes : Prop :=
  ∀ (s : State) (i : Instr) (d : Reg) (m : Mask) (et : ElemType) (addr : Nat → Word) (f : Nat), laneForm s i = some (false, d, m, et, addr) →
    Ready i s → plainRegs s i → s.adds = [] → s.hart.wait = none → laneRuns s m et f → ¬ laneFits et (addr f) →
    (∀ k, k < f → laneRuns s m et k → laneFits et (addr k)) →
    ∃ t, exec i s = .next t ∧ t.hart.tsws.rlane.toNat = f ∧ t.hart.trap.tepc = s.hart.pc ∧ t.hart.trap.int = false ∧
      t.hart.trap.tval = addr f ∧ t.hart.pc = s.hart.trap.tvec ∧ SameMemory s t ∧
      (∀ k, k < f → laneRuns s m et k → lane et.laneBits t.hart.v[d] k = leNat (s.mem.readN (clusterPlace s (addr k)) (et.laneBits / 8))) ∧
      (∀ k, f ≤ k → k < et.lanes → lane et.laneBits t.hart.v[d] k = lane et.laneBits (s.v d) k)

/-- Strided and indexed accesses perform their active lanes each at its own address; a lane that fails its checks traps with its number and keeps
what lower lanes did. The address kept for an error of the data is the lowest active lane's, the model's choice (log entry 12). -/
def Obligations.LaneAccessesComplete : Prop :=
  Sys2Proof.Claims.LaneLoadsComplete ∧ Sys2Proof.Claims.LaneStoresComplete ∧ Sys2Proof.Claims.LaneFaultsKeepLowerLanes

/-- A vector atomic of unbound registers performs its active lanes in ascending order, each on what the lower ones left, and returns the old values
in v[d]. The address kept for an error is that of the lowest lane whose data was bad, otherwise the lowest active lane's, the model's choice (log entry
12). -/
def Obligations.VectorAtomicsComplete : Prop :=
  ∀ (s s1 : State) (i : Instr) (vd va : Reg) (am : AddrMode) (m : Mask) (t : ElemType) (x : V512) (bad : Option Nat),
    vatomForm i = some (vd, va, am, m, t) → i.wf = true → Ready i s → plainRegs s i → s.adds = [] →
    vatomLanes i am m t (s.v va) ((List.range t.lanes).filter fun k => s.hart.tsw.rlane.toNat ≤ k) (s.v vd) none s = some (x, bad, s1) →
    ∃ u y un k₀, exec i s = .next u ∧ (∀ k, bad = some k → k₀ = k) ∧ (bad = none → ∀ k, k < t.lanes → laneOn s m k → laneOn s m k₀ ∧ k₀ ≤ k) ∧
      SameMemory s1 u ∧ u.hart.pc = s.hart.pc + 4 ∧ u.hart.g = s.hart.g ∧
      (∀ k, k < t.lanes → (laneOn s m k ∨ m.mk ≠ 2) → lane t.laneBits y k = lane t.laneBits x k) ∧
      (∀ k, k < t.lanes → ¬ laneOn s m k → m.mk = 2 → lane t.laneBits y k = 0) ∧
      ((u.hart.v = s1.hart.v.set vd y ∧ u.hart.old = s.hart.old) ∨
       (u.hart.v = s1.hart.v ∧ u.hart.old.iss = s.hart.old.iss + 1 ∧
         u.hart.loads = s.hart.loads ++ [⟨.v vd, BitVec.ofNat 64 (lane t.laneBits (s.v va) k₀), y, bad.isSome, un⟩]))

/-- FENCE.acq goes on exactly when every earlier load has returned. FENCE.rel goes on exactly when the earlier accesses are performed: no load and no
store outstanding, every replicated write applied and every add made. FENCE.sc goes on exactly when both hold and, at .pkg and .sys, the replicated
writes of others are applied too. Without ALL what went to UN pages is not waited for, and whatever else is outstanding is: a store, an add, a
replicated write. A fence that goes on changes no register and no byte of memory; one that waits changes nothing. -/
def Sys2Proof.Claims.FencesComplete : Prop :=
  ∀ (s : State) (sc : Scope) (all : Bool),
    (let free (un : Bool) : Prop := un = true ∧ all = false
     let back : Prop := ∀ l ∈ s.hart.loads, free l.un
     let mine (c : Nat) : Prop := c = s.cur
     let settled : Prop := (∀ w ∈ s.repl, mine w.core → free w.un) ∧ ∀ a ∈ s.adds, mine a.core → free (a.ord == .un)
     let others : Prop := sc = .pkg ∨ sc = .sys → ∀ w ∈ s.repl, free w.un
     let adds : List AddInFlight := s.adds.filter fun a => a.core == s.cur
     let counted : Prop := (s.hart.old.iss = s.hart.old.ret ∧ s.hart.ost.iss = s.hart.ost.ret) ∨
       (all = false ∧ s.hart.old.out ≤ (s.hart.loads.filter fun l => l.un).length ∧
         s.hart.ost.out ≤ (s.hart.stores.filter fun p => p.un).length + (adds.filter fun a => a.ord == .un).length)
     (Ready (.fenceAcq sc all) s → back →
       exec (.fenceAcq sc all) s = .next (s.withHart ((freshStreams s.hart).goesOn (s.hart.pc + 4)))) ∧
     (Ready (.fenceAcq sc all) s → ¬ back → exec (.fenceAcq sc all) s = .next s) ∧
     (Ready (.fenceRel sc all) s → counted → settled →
       exec (.fenceRel sc all) s = .next (s.withHart (s.hart.goesOn (s.hart.pc + 4)))) ∧
     (Ready (.fenceRel sc all) s → (¬ counted ∨ ¬ settled) → exec (.fenceRel sc all) s = .next s) ∧
     (Ready (.fenceSc sc all) s → back → counted → settled → others →
       exec (.fenceSc sc all) s = .next (s.withHart ((freshStreams s.hart).goesOn (s.hart.pc + 4)))) ∧
     (Ready (.fenceSc sc all) s → (¬ back ∨ ¬ counted ∨ ¬ settled ∨ ¬ others) → exec (.fenceSc sc all) s = .next s) ∧
     (s.hart.stores.length + adds.length ≤ s.hart.ost.out → (∃ p ∈ s.hart.stores, p.un = false) →
       (Ready (.fenceRel sc all) s → exec (.fenceRel sc all) s = .next s) ∧ (Ready (.fenceSc sc all) s → exec (.fenceSc sc all) s = .next s)) ∧
     (s.hart.loads.length ≤ s.hart.old.out → (∃ l ∈ s.hart.loads, l.un = false) →
       (Ready (.fenceRel sc all) s → exec (.fenceRel sc all) s = .next s) ∧ (Ready (.fenceSc sc all) s → exec (.fenceSc sc all) s = .next s)))

/-- TSET tags a slot and clears the same tag elsewhere, TCLR clears a slot, and TLOOK gives the slot whose tag matches, or −1; TSET or TCLR while
TREG.EN is 0, or of a slot above 255, raises ACCESS, and an address with bits [63:55] set raises ADDRESS. -/
def Sys2Proof.Claims.TagTableCompletes : Prop :=
  (∀ (s : State) (d a : Reg) (k : Fin 256), Ready (.tlook d a) s → (s.g a).toNat < 2 ^ 55 → s.hart.tregEn = true →
    s.hart.tagTable[k] = some ((s.g a).extractLsb' 10 45) → (∀ j : Fin 256, j ≠ k → s.hart.tagTable[j] ≠ some ((s.g a).extractLsb' 10 45)) →
    exec (.tlook d a) s = .next (s.withHart (s.hart.wroteG d (BitVec.ofNat 64 k.val) (s.hart.pc + 4)))) ∧
  (∀ (s : State) (d a : Reg), Ready (.tlook d a) s → (s.g a).toNat < 2 ^ 55 →
    (s.hart.tregEn = false ∨ ∀ j : Fin 256, s.hart.tagTable[j] ≠ some ((s.g a).extractLsb' 10 45)) →
    exec (.tlook d a) s = .next (s.withHart (s.hart.wroteG d 0xFFFFFFFFFFFFFFFF (s.hart.pc + 4)))) ∧
  (∀ (s : State) (a b : Reg), Ready (.tset a b) s → s.hart.tregEn = true → (s.g a).toNat ≤ 255 → (s.g b).toNat < 2 ^ 55 →
    ∃ tt, exec (.tset a b) s = .next (s.withHart { s.hart.goesOn (s.hart.pc + 4) with tagTable := tt }) ∧
      ∀ k : Fin 256, tt[k] = if k.val = (s.g a).toNat then some ((s.g b).extractLsb' 10 45)
        else if s.hart.tagTable[k] = some ((s.g b).extractLsb' 10 45) then none else s.hart.tagTable[k]) ∧
  (∀ (s : State) (a : Reg), Ready (.tclr a) s → s.hart.tregEn = true → (s.g a).toNat ≤ 255 →
    ∃ tt, exec (.tclr a) s = .next (s.withHart { s.hart.goesOn (s.hart.pc + 4) with tagTable := tt }) ∧
      ∀ k : Fin 256, tt[k] = if k.val = (s.g a).toNat then none else s.hart.tagTable[k]) ∧
  (∀ (s : State) (a b : Reg), Ready (.tset a b) s → s.hart.wait = none → (s.hart.tregEn = false ∨ 255 < (s.g a).toNat) →
    ∃ t, exec (.tset a b) s = .next t ∧ TrapTaken s t false 7 (s.g a) s.hart.pc) ∧
  (∀ (s : State) (a : Reg), Ready (.tclr a) s → s.hart.wait = none → (s.hart.tregEn = false ∨ 255 < (s.g a).toNat) →
    ∃ t, exec (.tclr a) s = .next t ∧ TrapTaken s t false 7 (s.g a) s.hart.pc) ∧
  (∀ (s : State) (d a : Reg), Ready (.tlook d a) s → s.hart.wait = none → 2 ^ 55 ≤ (s.g a).toNat →
    ∃ t, exec (.tlook d a) s = .next t ∧ TrapTaken s t false 4 (s.g a) s.hart.pc) ∧
  (∀ (s : State) (a b : Reg), Ready (.tset a b) s → s.hart.wait = none → s.hart.tregEn = true → (s.g a).toNat ≤ 255 → 2 ^ 55 ≤ (s.g b).toNat →
    ∃ t, exec (.tset a b) s = .next t ∧ TrapTaken s t false 4 (s.g b) s.hart.pc)

/-- FENCE waits for what it orders and changes nothing; TSET, TCLR and TLOOK follow the tag table. -/
def Obligations.FencesAndTagTableComplete : Prop :=
  Sys2Proof.Claims.FencesComplete ∧ Sys2Proof.Claims.TagTableCompletes

/-! ## Vector instructions -/

namespace Sys2Proof.Claims

/-- The bits of a lane width (R70). -/
def widthOf : LaneWidth → Nat | .w8 => 8 | .w16 => 16 | .w32 => 32 | .w64 => 64

/-- An integer or floating-point lane operation (R157): `int` modulo the lane width, `fp` on the values. -/
def lanewise (t : ElemType) (int : BitVec t.laneBits → BitVec t.laneBits → BitVec t.laneBits → BitVec t.laneBits)
    (fp : FVal → FVal → FVal → Nat × Fl) (a b c : Nat) : Nat × Fl :=
  if t.isInt then ((int (BitVec.ofNat _ a) (BitVec.ofNat _ b) (BitVec.ofNat _ c)).toNat, Fl.none)
  else fp ((etFmt t).decode a) ((etFmt t).decode b) ((etFmt t).decode c)

/-- The destination, the mask, the element width, the number of elements and the result of each element with its flags, of the instructions that work
element by element (R157–R159, R161, R168, R169). -/
def vectorLane (s : State) : Instr → Option (Reg × Mask × Nat × Nat × (Nat → Nat × Fl))
  | .vadd vd va vb m t => some (vd, m, t.laneBits, t.lanes, fun k => lanewise t (fun a b _ => a + b)
      (fun a b _ => (etFmt t).addV s.hart.tsw.rm a b) (lane t.laneBits (s.v va) k) (lane t.laneBits (s.v vb) k) 0)
  | .vsub vd va vb m t => some (vd, m, t.laneBits, t.lanes, fun k => lanewise t (fun a b _ => a - b)
      (fun a b _ => (etFmt t).addV s.hart.tsw.rm a b.neg) (lane t.laneBits (s.v va) k) (lane t.laneBits (s.v vb) k) 0)
  | .vmul vd va vb m t => some (vd, m, t.laneBits, t.lanes, fun k => lanewise t (fun a b _ => a * b)
      (fun a b _ => (etFmt t).mulV s.hart.tsw.rm a b) (lane t.laneBits (s.v va) k) (lane t.laneBits (s.v vb) k) 0)
  | .vfma vd va vb m t => some (vd, m, t.laneBits, t.lanes, fun k => lanewise t (fun a b c => a * b + c)
      (fun a b c => (etFmt t).fmaV s.hart.tsw.rm a b c)
      (lane t.laneBits (s.v va) k) (lane t.laneBits (s.v vb) k) (lane t.laneBits (s.v vd) k))
  | .vmin vd va vb m t => some (vd, m, t.laneBits, t.lanes, fun k =>
      let a := lane t.laneBits (s.v va) k
      let b := lane t.laneBits (s.v vb) k
      if t.isInt then (if typed t b < typed t a then b else a, Fl.none) else (etFmt t).minMax false a b)
  | .vmax vd va vb m t => some (vd, m, t.laneBits, t.lanes, fun k =>
      let a := lane t.laneBits (s.v va) k
      let b := lane t.laneBits (s.v vb) k
      if t.isInt then (if typed t a < typed t b then b else a, Fl.none) else (etFmt t).minMax true a b)
  | .vand vd va vb m l => some (vd, m, widthOf l, 512 / widthOf l, fun k => (lane (widthOf l) (s.v va &&& s.v vb) k, Fl.none))
  | .vor vd va vb m l => some (vd, m, widthOf l, 512 / widthOf l, fun k => (lane (widthOf l) (s.v va ||| s.v vb) k, Fl.none))
  | .vxor vd va vb m l => some (vd, m, widthOf l, 512 / widthOf l, fun k => (lane (widthOf l) (s.v va ^^^ s.v vb) k, Fl.none))
  | .vnot vd va m l => some (vd, m, widthOf l, 512 / widthOf l, fun k => (lane (widthOf l) (~~~(s.v va)) k, Fl.none))
  | .vshl vd va vb m l => some (vd, m, widthOf l, 512 / widthOf l, fun k =>
      ((BitVec.ofNat (widthOf l) (lane (widthOf l) (s.v va) k) <<< lane (widthOf l) (s.v vb) k).toNat, Fl.none))
  | .vshr vd va vb m l => some (vd, m, widthOf l, 512 / widthOf l, fun k =>
      ((BitVec.ofNat (widthOf l) (lane (widthOf l) (s.v va) k) >>> lane (widthOf l) (s.v vb) k).toNat, Fl.none))
  | .vsra vd va vb m l => some (vd, m, widthOf l, 512 / widthOf l, fun k =>
      (((BitVec.ofNat (widthOf l) (lane (widthOf l) (s.v va) k)).sshiftRight (lane (widthOf l) (s.v vb) k)).toNat, Fl.none))
  | .vcvt t u vd va m => some (vd, m, t.elemBits, 512 / max t.elemBits u.elemBits, fun k =>
      convert t u s.hart.tsw.rm (lane u.elemBits (s.v va) k))
  | .vbcast vd ga m t => some (vd, m, t.laneBits, t.lanes, fun _ => ((s.g ga).toNat % 2 ^ t.laneBits, Fl.none))
  | .vexp2 vd va m t => some (vd, m, t.laneBits, t.lanes, fun k => sfLane t sfExp2 (lane t.laneBits (s.v va) k))
  | .vlog2 vd va m t => some (vd, m, t.laneBits, t.lanes, fun k => sfLane t sfLog2 (lane t.laneBits (s.v va) k))
  | .vrcp vd va m t => some (vd, m, t.laneBits, t.lanes, fun k => sfLane t sfRcp (lane t.laneBits (s.v va) k))
  | .vrsq vd va m t => some (vd, m, t.laneBits, t.lanes, fun k => sfLane t sfRsq (lane t.laneBits (s.v va) k))
  | .vtanh vd va m t => some (vd, m, t.laneBits, t.lanes, fun k => sfLane t sfTanh (lane t.laneBits (s.v va) k))
  | _ => none

/-- The special cases of R169 for f32 operands: the result pattern, whether NV and whether DZ is set; none where the algorithm runs. -/
def specialCase : Instr → FVal → Option (Nat × Bool × Bool)
  | _, .nan g => some (0x7FC00000, g, false)
  | .vexp2 .., .inf s => some (if s then 0 else 0x7F800000, false, false)
  | .vlog2 .., .inf s => some (if s then 0x7FC00000 else 0x7F800000, s, false)
  | .vrcp .., .inf s => some (if s then 0x80000000 else 0, false, false)
  | .vrsq .., .inf s => some (if s then 0x7FC00000 else 0, s, false)
  | .vtanh .., .inf s => some (if s then 0xBF800000 else 0x3F800000, false, false)
  | .vexp2 .., .fin s m e =>
    if m = 0 then some (0x3F800000, false, false)
    else if s = false ∧ 128 * 2 ^ 200 ≤ m * 2 ^ (e + 200).toNat then some (0x7F800000, false, false)
    else if s = true ∧ 150 * 2 ^ 200 < m * 2 ^ (e + 200).toNat then some (0, false, false) else none
  | .vlog2 .., .fin s m _ => if m = 0 then some (0xFF800000, false, true) else if s then some (0x7FC00000, true, false) else none
  | .vrcp .., .fin s m _ => if m = 0 then some (if s then 0xFF800000 else 0x7F800000, false, true) else none
  | .vrsq .., .fin s m _ =>
    if m = 0 then some (if s then 0xFF800000 else 0x7F800000, false, true) else if s then some (0x7FC00000, true, false) else none
  | .vtanh .., .fin s m _ => if m = 0 then some (if s then 0x80000000 else 0, false, false) else none
  | _, _ => none

/-- A special function on f32 lanes: destination, source, mask. -/
def specialForm : Instr → Option (Reg × Reg × Mask)
  | .vexp2 vd va m .f32 => some (vd, va, m)
  | .vlog2 vd va m .f32 => some (vd, va, m)
  | .vrcp vd va m .f32 => some (vd, va, m)
  | .vrsq vd va m .f32 => some (vd, va, m)
  | .vtanh vd va m .f32 => some (vd, va, m)
  | _ => none

/-- The state after an instruction that writes v[vd] and raises flags. -/
def afterV (s : State) (vd : Reg) (x : V512) (f : Fl) : State := s.withHart ((s.hart.wroteV vd x (s.hart.pc + 4)).flagged f)

/-- The flags of the elements that work, each set if some active element sets it (R154). -/
def flagsOf (n : Nat) (on : Nat → Prop) (r : Nat → Nat × Fl) (f : Fl) : Prop :=
  (f.nv = true ↔ ∃ k, k < n ∧ on k ∧ (r k).2.nv = true) ∧ (f.dz = true ↔ ∃ k, k < n ∧ on k ∧ (r k).2.dz = true) ∧
  (f.of = true ↔ ∃ k, k < n ∧ on k ∧ (r k).2.of = true) ∧ (f.uf = true ↔ ∃ k, k < n ∧ on k ∧ (r k).2.uf = true) ∧
  (f.nx = true ↔ ∃ k, k < n ∧ on k ∧ (r k).2.nx = true)

/-- The value of an f32 element of VPACK: element i of block 0 lies in v[va], of block 1 in v[vb] (R163). -/
def packElem (s : State) (va vb : Reg) (i : Nat) : FVal := fmtF32.decode (lane 32 (s.v (if i < 16 then va else vb)) (i % 16))

/-- `c` is the scale code of a block (R163): 127 without an active finite element other than 0, otherwise the smallest code at which every such
element is within Max(T), or 254. -/
def isScale (t : ElemType) (on : Nat → Prop) (v : Nat → FVal) (blk c : Nat) : Prop :=
  let fits (c : Nat) : Prop := ∀ i s m e, i / 16 = blk → on i → v i = .fin s m e → within t m e ((c : Int) - 127) = true
  let empty : Prop := ∀ i s m e, i / 16 = blk → on i → v i = .fin s m e → m = 0
  (empty → c = 127) ∧ (¬ empty → c ≤ 254 ∧ (fits c ∨ c = 254) ∧ ∀ c', c' < c → ¬ fits c')

/-- The identities (R165): 0 or −0 for add, the largest value or +∞ for min, the smallest or −∞ for max. -/
def identityAdd (t : ElemType) : Nat := if t.isInt then 0 else (etFmt t).signCode
def identityMin (t : ElemType) : Nat :=
  if t.isInt then (if t.code % 2 = 0 then 2 ^ (t.laneBits - 1) - 1 else 2 ^ t.laneBits - 1) else (etFmt t).infCode
def identityMax (t : ElemType) : Nat :=
  if t.isInt then (if t.code % 2 = 0 then 2 ^ (t.laneBits - 1) else 0) else (etFmt t).signCode + (etFmt t).infCode

/-- The mask bit of a lane, as a Bool. -/
def laneBit (s : State) (m : Mask) (k : Nat) : Bool :=
  match m with
  | .none => true
  | .mu r => (s.v r).getLsbD k
  | .ma r => (s.v r).getLsbD k

/-- The lanes of v[va] from 0 on with the identity for inactive ones. -/
def lanesIn (s : State) (va : Reg) (m : Mask) (t : ElemType) (e : Nat) : List Nat :=
  (List.range t.lanes).map fun k => if laneBit s m k then lane t.laneBits (s.v va) k else e

/-- A reduction: destination, type and the value of lane 0 with its flags (R165, R96, R97). -/
def reduction (s : State) : Instr → Option (Reg × ElemType × Nat × Fl)
  | .vredAdd vd va m t =>
    if t.isInt then some (vd, t, (lanesIn s va m t 0).sum % 2 ^ t.laneBits, Fl.none)
    else some (vd, t, pairSum (fun a b => (etFmt t).addV s.hart.tsw.rm ((etFmt t).decode a) ((etFmt t).decode b)) (Nat.log2 t.lanes)
      (lanesIn s va m t (identityAdd t)))
  | .vredMin vd va m t =>
    if t.isInt then some (vd, t, (lanesIn s va m t (identityMin t)).foldl (fun p x => if typed t x < typed t p then x else p) (identityMin t), Fl.none)
    else some (vd, t, foldLanes ((etFmt t).minMax false) (lanesIn s va m t (identityMin t)))
  | .vredMax vd va m t =>
    if t.isInt then some (vd, t, (lanesIn s va m t (identityMax t)).foldl (fun p x => if typed t p < typed t x then x else p) (identityMax t), Fl.none)
    else some (vd, t, foldLanes ((etFmt t).minMax true) (lanesIn s va m t (identityMax t)))
  | .vredOr vd va m t => some (vd, t, (lanesIn s va m t 0).foldl (fun p x => p ||| x) 0, Fl.none)
  | _ => none

/-- Where a scan starts: the element of lane 0, a NaN there in the canonical form (R79, R166). That lane 0 is an operation's result in this respect is
the model's reading (log entry 87). -/
def scanHead (s : State) (m : Mask) (t : ElemType) (a : Nat) : Nat :=
  if laneBit s m 0 && !t.isInt && ((etFmt t).decode a).isNan then (etFmt t).nan else a

/-- A 64-byte piece at `a` passes the address-form checks of its mode (R41, R131). -/
def pieceFits (am : AddrMode) (a : Int) : Prop :=
  0 ≤ a ∧ match am with
  | .gl => a < 2 ^ 55
  | .lo => a + 64 ≤ 2 ^ 19
  | .cb => a < 2 ^ 23 ∧ a % 2 ^ 19 + 64 ≤ 2 ^ 19
  | .ci => a + 64 ≤ 2 ^ 23

/-- A scan: destination, mask, type, the element at a lane and the operation (R166). -/
def scanForm (s : State) : Instr → Option (Reg × Mask × ElemType × (Nat → Nat) × (Nat → Nat → Nat × Fl))
  | .vscanAdd vd va m t => some (vd, m, t, fun k => (lanesIn s va m t (identityAdd t)).getD k 0,
      fun a b => lanewise t (fun a b _ => a + b) (fun a b _ => (etFmt t).addV s.hart.tsw.rm a b) a b 0)
  | .vscanMax vd va m t => some (vd, m, t, fun k => (lanesIn s va m t (identityMax t)).getD k 0,
      fun a b => if t.isInt then (if typed t a < typed t b then b else a, Fl.none) else (etFmt t).minMax true a b)
  | _ => none

end Sys2Proof.Claims

/-- An element-by-element vector instruction on unbound registers: every active element receives its result; an inactive one keeps its value under .mu
and becomes 0 under .ma; bits above the elements become 0; the flags are those of the active elements; nothing else changes. -/
def Sys2Proof.Claims.ElementwiseForms : Prop :=
  ∀ (s : State) (i : Instr) (vd : Reg) (m : Mask) (w n : Nat) (r : Nat → Nat × Fl), vectorLane s i = some (vd, m, w, n, r) → i.wf = true →
    Ready i s → plainRegs s i →
    ∃ x f, exec i s = .next (afterV s vd x f) ∧ (∀ k, k < n → laneOn s m k → lane w x k = (r k).1 % 2 ^ w) ∧
      (∀ k, k < n → ¬ laneOn s m k → lane w x k = if m.mk = 1 then lane w (s.v vd) k else 0) ∧
      (∀ b, w * n ≤ b → x.getLsbD b = false) ∧ flagsOf n (laneOn s m) r f

/-- The special cases of the special functions on f32 lanes give the results and the flags of the table. -/
def Sys2Proof.Claims.SpecialFunctionCases : Prop :=
  ∀ (s : State) (i : Instr) (vd va : Reg) (m : Mask) (k r : Nat) (nv dz : Bool), specialForm i = some (vd, va, m) → Ready i s → plainRegs s i →
    k < 16 → laneOn s m k → specialCase i (fmtF32.decode (lane 32 (s.v va) k)) = some (r, nv, dz) →
    ∃ t, exec i s = .next t ∧ lane 32 (t.v vd) k = r ∧ (nv = true → t.hart.tsw.nv = true) ∧ (dz = true → t.hart.tsw.dz = true) ∧
      t.hart.tsw.of = s.hart.tsw.of ∧ t.hart.tsw.uf = s.hart.tsw.uf ∧ t.hart.tsw.nx = s.hart.tsw.nx

/-- An element-by-element vector instruction gives every active element its result; the special functions give the results and flags of their
table. -/
def Obligations.ElementwiseInstructionsComplete : Prop :=
  Sys2Proof.Claims.ElementwiseForms ∧ Sys2Proof.Claims.SpecialFunctionCases

/-- VCMP writes the truth of its condition for lane i to bit i and 0 to the bits above; VSEL takes each lane from the first source where its selector
bit is 1 and from the second elsewhere, and writes every lane. -/
def Sys2Proof.Claims.CompareAndSelectComplete : Prop :=
  (∀ (s : State) (c : VCond) (vd va vb : Reg) (t : ElemType), (Instr.vcmp c vd va vb t).wf = true → Ready (.vcmp c vd va vb t) s →
    plainRegs s (.vcmp c vd va vb t) →
    (let a (k : Nat) : Nat := lane t.laneBits (s.v va) k
     let b (k : Nat) : Nat := lane t.laneBits (s.v vb) k
     let r (k : Nat) : Bool × Fl :=
       if t.isInt then (match c with
         | .eq => decide (a k = b k)
         | .ne => decide (a k ≠ b k)
         | .lt => decide (typed t (a k) < typed t (b k))
         | .le => decide (typed t (a k) ≤ typed t (b k))
         | .un => false, Fl.none)
       else fcompare c ((etFmt t).decode (a k)) ((etFmt t).decode (b k))
     ∃ x f, exec (.vcmp c vd va vb t) s = .next (afterV s vd x f) ∧
       (∀ k, x.getLsbD k = (decide (k < t.lanes) && (r k).1)) ∧ (f.nv = true ↔ ∃ k, k < t.lanes ∧ (r k).2.nv = true))) ∧
  (∀ (s : State) (vd va vb m : Reg) (l : LaneWidth), Ready (.vsel vd va vb m l) s → plainRegs s (.vsel vd va vb m l) →
    ∃ x, exec (.vsel vd va vb m l) s = .next (afterV s vd x Fl.none) ∧
      ∀ b, b < 512 → x.getLsbD b = if (s.v m).getLsbD (b / widthOf l) then (s.v va).getLsbD b else (s.v vb).getLsbD b)

/-- VPERM gathers the lanes its indices name; an index of L or more, or a masked source lane, gives 0, or under .mu leaves the lane. -/
def Sys2Proof.Claims.PermuteCompletes : Prop :=
  ∀ (s : State) (vd va vb : Reg) (m : Mask) (t : ElemType), Ready (.vperm vd va vb m t) s → plainRegs s (.vperm vd va vb m t) →
    ∃ x, exec (.vperm vd va vb m t) s = .next (afterV s vd x Fl.none) ∧
      ∀ k, k < t.lanes →
        let j := lane t.laneBits (s.v vb) k
        (j < t.lanes → laneOn s m j → lane t.laneBits x k = lane t.laneBits (s.v va) j) ∧
        (¬ (j < t.lanes ∧ laneOn s m j) → lane t.laneBits x k = if m.mk = 1 then lane t.laneBits (s.v vd) k else 0)

/-- VPACK encodes 32 elements in two blocks, each with the smallest scale that holds its active elements; VUNPK decodes a packed register into two f32
registers, sets no flag, and gives the canonical NaN for a NaN element or the scale 255. -/
def Sys2Proof.Claims.BlockPackingCompletes : Prop :=
  (∀ (s : State) (vd va vb : Reg) (m : Mask) (t : ElemType), t.isPacked = true → Ready (.vpack vd va vb m t) s →
    plainRegs s (.vpack vd va vb m t) →
    ∃ x f c0 c1, exec (.vpack vd va vb m t) s = .next (afterV s vd x f) ∧ lane 8 x 62 = c0 ∧ lane 8 x 63 = c1 ∧
      isScale t (laneOn s m) (packElem s va vb) 0 c0 ∧ isScale t (laneOn s m) (packElem s va vb) 1 c1 ∧
      (∀ i, i < 32 → laneOn s m i → lane t.elemBits x i =
        (etEncode t .rne ((packElem s va vb i).shift (127 - ((if i < 16 then c0 else c1 : Nat) : Int)))).1 % 2 ^ t.elemBits) ∧
      (∀ i, i < 32 → ¬ laneOn s m i → lane t.elemBits x i = 0) ∧ (∀ b, 32 * t.elemBits ≤ b → b < 496 → x.getLsbD b = false)) ∧
  (∀ (s : State) (vd va : Reg) (m : Mask) (t : ElemType), (Instr.vunpk vd va m t).wf = true → Ready (.vunpk vd va m t) s →
    ∃ u x0 x1, exec (.vunpk vd va m t) s = .next u ∧ u.hart.v = (s.hart.v.set vd x0).set (nextReg vd) x1 ∧ u.hart.g = s.hart.g ∧
      u.hart.tsw = s.hart.tsw.completed ∧ u.hart.pc = s.hart.pc + 4 ∧ u.mem = s.mem ∧
      (∀ i, i < 32 → laneOn s m i →
        (let c := lane 8 (s.v va) (62 + i / 16)
         let e := etValue t (lane t.elemBits (s.v va) i)
         lane 32 (if i < 16 then x0 else x1) (i % 16) =
           if c = 255 ∨ e.isNan = true then 0x7FC00000 else (fmtF32.ofVal .rne (e.shift ((c : Int) - 127))).1)) ∧
      (∀ i, i < 32 → ¬ laneOn s m i → lane 32 (if i < 16 then x0 else x1) (i % 16) =
        if m.mk = 1 then lane 32 (s.v (if i < 16 then vd else nextReg vd)) (i % 16) else 0))

/-- VCMP, VSEL, VPERM, VPACK and VUNPK give each lane or block the value their rules name. -/
def Obligations.SelectPermutePackComplete : Prop :=
  Sys2Proof.Claims.CompareAndSelectComplete ∧ Sys2Proof.Claims.PermuteCompletes ∧ Sys2Proof.Claims.BlockPackingCompletes

/-- A reduction leaves its value in lane 0 and 0 in the others; a scan leaves the running value at each active lane. That a NaN in lane 0 of a scan
becomes the canonical one is the model's choice (log entry 87). -/
def Sys2Proof.Claims.ReductionsAndScansComplete : Prop :=
  (∀ (s : State) (i : Instr) (vd : Reg) (t : ElemType) (r : Nat) (f : Fl), reduction s i = some (vd, t, r, f) → i.wf = true → Ready i s →
    plainRegs s i → exec i s = .next (afterV s vd (BitVec.ofNat 512 (r % 2 ^ t.laneBits)) f)) ∧
  (∀ (s : State) (i : Instr) (vd : Reg) (m : Mask) (t : ElemType) (x : Nat → Nat) (op : Nat → Nat → Nat × Fl) (p : Nat → Nat),
    scanForm s i = some (vd, m, t, x, op) → i.wf = true → Ready i s → plainRegs s i → p 0 = scanHead s m t (x 0) →
        (∀ k, p (k + 1) = (op (p k) (x (k + 1))).1) →
    ∃ y f, exec i s = .next (afterV s vd y f) ∧ (∀ k, k < t.lanes → laneOn s m k → lane t.laneBits y k = p k % 2 ^ t.laneBits) ∧
      (∀ k, k < t.lanes → ¬ laneOn s m k → lane t.laneBits y k = if m.mk = 1 then lane t.laneBits (s.v vd) k else 0))

/-- VMVG moves a lane into g[d], sign-extended for i types and zero-extended otherwise; VMGV replaces one lane and keeps the others. -/
def Sys2Proof.Claims.LaneMovesComplete : Prop :=
  (∀ (s : State) (gd va : Reg) (n : Fin 64) (t : ElemType), (Instr.vmvg gd va n t).wf = true → Ready (.vmvg gd va n t) s →
    exec (.vmvg gd va n t) s = .next (s.withHart (s.hart.wroteG gd
      (if t.isInt ∧ t.code % 2 = 0 then (BitVec.ofNat t.laneBits (lane t.laneBits (s.v va) n.val)).signExtend 64
       else BitVec.ofNat 64 (lane t.laneBits (s.v va) n.val)) (s.hart.pc + 4)))) ∧
  (∀ (s : State) (vd ga : Reg) (n : Fin 64) (t : ElemType), (Instr.vmgv vd ga n t).wf = true → Ready (.vmgv vd ga n t) s →
    ∃ x, exec (.vmgv vd ga n t) s = .next (afterV s vd x Fl.none) ∧
      ∀ k, k < t.lanes → lane t.laneBits x k = if k = n.val then (s.g ga).toNat % 2 ^ t.laneBits else lane t.laneBits (s.v vd) k)

/-- Reductions and scans, VMVG and VMGV write the values that their rules name. That a NaN in lane 0 of a scan becomes the canonical one is the
model's choice (log entry 87). -/
def Obligations.ReductionsAndLaneMovesComplete : Prop :=
  Sys2Proof.Claims.ReductionsAndScansComplete ∧ Sys2Proof.Claims.LaneMovesComplete

/-! ## Streams and the sequencer -/

/-- A read-bound source pops the piece at SA and a write-bound destination pushes one; each stream named moves one piece on: shown by VNOT. Where any
instruction finds no piece left on streams that it names, EXH is set on every such stream, STREAM is raised with the lowest of them, and nothing is
popped or pushed. -/
def Sys2Proof.Claims.StreamOperandsPopAndPush : Prop :=
  (∀ (s : State) (vd va : Reg) (j : Fin 8), va.val = 24 + j.val → s.hart.bound vd = none → s.hart.streams[j].en = true → s.hart.streams[j].dir = false →
    s.hart.streams[j].am = .lo → s.hart.streams[j].sn ≠ 0 → s.hart.streams[j].ahead = [] → s.hart.streams[j].sa.toNat + 64 ≤ 2 ^ 19 →
    s.adds = [] → Ready (.vnot vd va .none .w64) s →
    ∃ t x, exec (.vnot vd va .none .w64) s = .next t ∧ t.hart.v = s.hart.v.set vd (~~~x) ∧
      x = BitVec.ofNat 512 (leNat (s.mem.readN (localPlace s.cur s.hart.streams[j].sa.toNat) 64)) ∧
      t.hart.streams[j].sa = s.hart.streams[j].sa + s.hart.streams[j].stride.signExtend 64 ∧ t.hart.streams[j].sn = s.hart.streams[j].sn - 1 ∧
      (∀ k, k ≠ j → { t.hart.streams[k] with ahead := s.hart.streams[k].ahead } = s.hart.streams[k]) ∧ t.mem = s.mem ∧ t.hart.old = s.hart.old ∧
          t.hart.pc = s.hart.pc + 4) ∧
  (∀ (s : State) (vd va : Reg) (j : Fin 8), vd.val = 24 + j.val → s.hart.bound va = none → s.hart.streams[j].en = true → s.hart.streams[j].dir = true →
    s.hart.streams[j].am = .lo → s.hart.streams[j].sn ≠ 0 → s.hart.streams[j].sa.toNat + 64 ≤ 2 ^ 19 → s.adds = [] →
    Ready (.vnot vd va .none .w64) s →
    ∃ t, exec (.vnot vd va .none .w64) s = .next t ∧ t.hart.v = s.hart.v ∧
      t.mem.readN (localPlace s.cur s.hart.streams[j].sa.toNat) 64 = toBytes 64 (~~~(s.v va)).toNat ∧
      (∀ p, (p < localPlace s.cur s.hart.streams[j].sa.toNat ∨ localPlace s.cur s.hart.streams[j].sa.toNat + 64 ≤ p) → t.mem.read p = s.mem.read p) ∧
      t.hart.streams[j].sa = s.hart.streams[j].sa + s.hart.streams[j].stride.signExtend 64 ∧ t.hart.streams[j].sn = s.hart.streams[j].sn - 1) ∧
  (∀ (s : State) (i : Instr) (j : Fin 8), i.isProgram = true → Ready i s → s.hart.wait = none →
    (let named (k : Fin 8) : Prop := s.hart.streams[k].en = true ∧ ∃ r ∈ (vUse i).src ++ (vUse i).dst, r.val = 24 + k.val
     let short (k : Fin 8) : Prop := named k ∧ s.hart.streams[k].sn = 0
     short j → (∀ k, k < j → ¬ short k) →
     ∃ t, exec i s = .next t ∧ TrapTaken s t false 10 (BitVec.ofNat 64 (24 + j.val)) s.hart.pc ∧
       ∀ k, (short k → t.hart.streams[k] = { s.hart.streams[k] with exh := true }) ∧ (¬ short k → t.hart.streams[k] = s.hart.streams[k])))

/-- STRCFG binds a stream whose address and stride are multiples of 64 and whose first and last pieces pass the address-form checks; one whose first
piece fails them raises ADDRESS. STREND unbinds a stream and keeps SA, SN and the other fields of SG. -/
def Sys2Proof.Claims.StreamBindingCompletes : Prop :=
  (∀ (s : State) (j : Fin 8) (a b : Reg) (dir nt : Bool) (am : AddrMode), Ready (.strcfg j a b dir am nt) s → s.repl = [] →
    (let n : Nat := (s.g b).toNat % 2 ^ 32
     let stride : Int := ((s.g b).extractLsb' 32 32).toInt
     let first : Int := (s.g a).toNat
     let last : Int := first + ((n : Int) - 1) * stride
     first % 64 = 0 → stride % 64 = 0 → (n ≠ 0 → pieceFits am first ∧ pieceFits am last) →
     exec (.strcfg j a b dir am nt) s = .next (s.withHart { s.hart.goesOn (s.hart.pc + 4) with
       streams := s.hart.streams.set j ⟨s.g a, BitVec.ofNat 64 n, (s.g b).extractLsb' 32 32, false, nt, am, dir, true, []⟩ }))) ∧
  (∀ (s : State) (j : Fin 8) (a b : Reg) (dir nt : Bool) (am : AddrMode), Ready (.strcfg j a b dir am nt) s → s.hart.wait = none →
    (s.g a).toNat % 64 = 0 → ((s.g b).extractLsb' 32 32).toInt % 64 = 0 → (s.g b).toNat % 2 ^ 32 ≠ 0 → ¬ pieceFits am ((s.g a).toNat : Int) →
    ∃ t, exec (.strcfg j a b dir am nt) s = .next t ∧ TrapTaken s t false 4 (s.g a) s.hart.pc ∧ t.hart.streams = s.hart.streams) ∧
  (∀ (s : State) (j : Fin 8) (a b : Reg) (dir nt : Bool) (am : AddrMode), Ready (.strcfg j a b dir am nt) s → s.hart.wait = none →
    ((s.g a).toNat % 64 ≠ 0 ∨ ((s.g b).extractLsb' 32 32).toInt % 64 ≠ 0) →
    ∃ t, exec (.strcfg j a b dir am nt) s = .next t ∧ TrapTaken s t false 2 (s.g a) s.hart.pc ∧ t.hart.streams = s.hart.streams) ∧
  (∀ (s : State) (j : Fin 8), Ready (.strend j) s → s.repl = [] →
    exec (.strend j) s = .next (s.withHart { s.hart.goesOn (s.hart.pc + 4) with
      streams := s.hart.streams.set j { s.hart.streams[j] with en := false, ahead := [] } }))

/-- Stream operands pop and push, EXH and STREAM where no piece is left; STRCFG binds a stream and STREND unbinds it. -/
def Obligations.StreamsComplete : Prop :=
  Sys2Proof.Claims.StreamOperandsPopAndPush ∧ Sys2Proof.Claims.StreamBindingCompletes

/-- VLOOP captures the words that follow it when each is an instruction the sequencer can hold and no bound stream is short: SQI holds them and zeroes
after them, COUNT is their number, POS and RUN are 0, and the hart goes on after them. -/
def Sys2Proof.Claims.CaptureCompletes : Prop :=
  ∀ (s s1 : State) (a : Reg) (n : Fin 16) (l : List (Nat × Instr)), Ready (.vloop a n) s →
    captureWords (n.val + 1) (s.hart.pc + 4) s = (.ok l, s1) → shortStream s.hart (l.map Prod.snd) (s.g a).toNat = none →
    ∃ t, exec (.vloop a n) s = .next t ∧ t.hart.seq.count.toNat = n.val + 1 ∧ t.hart.seq.pos = 0 ∧ t.hart.seq.run = false ∧
      (∀ k : Fin 16, t.hart.seq.sqi[k] = BitVec.ofNat 32 ((l.map Prod.fst).getD k.val 0)) ∧ t.hart.pc = s.hart.pc + BitVec.ofNat 64 (8 + 4 * n.val) ∧
      t.hart.g = s.hart.g ∧ t.hart.v = s.hart.v ∧ t.mem = s.mem

/-- The sequencer: FORK of an empty sequencer adds 1 to RDV at once, and FORK of an armed one starts the loop at the first word; FORK.mb adds 1 more, at
once where the core has no lease command left and otherwise when those it has have retired. A loop that has ended adds 1 to RDV when its pushes are
performed; a captured VNOT completes like the instruction and moves POS on; a read-bound stream reads a piece ahead of its pop (R178), when it does so
being the model's choice (log entry 74). -/
def Sys2Proof.Claims.SequencerRunsTheLoop : Prop :=
  (∀ (s : State), Ready (.fork false) s → s.hart.seq.count = 0 →
    exec (.fork false) s = .next (s.withHart { s.hart.goesOn (s.hart.pc + 4) with rdv := s.hart.rdv + 1 })) ∧
  (∀ (s : State), Ready (.fork true) s → s.hart.seq.count = 0 →
    (let a := s.array s.cluster
     let ids := ((a.queue ++ a.parks.flatMap Park.cmds).filter fun c => c.core == s.cur && c.op.leased).map Command.id
     (ids = [] → exec (.fork true) s = .next (s.withHart { s.hart.goesOn (s.hart.pc + 4) with rdv := s.hart.rdv + 2 })) ∧
     (ids ≠ [] → exec (.fork true) s = .next ((s.setArray s.cluster { a with rdv := a.rdv ++ [(s.cur, ids)] }).withHart
       { s.hart.goesOn (s.hart.pc + 4) with rdv := s.hart.rdv + 1 })))) ∧
  (∀ (s : State), Ready (.fork false) s → s.hart.seq.count ≠ 0 →
    (∀ l, l = loopBody { s.hart with seq := { s.hart.seq with pos := 0, run := true, stopped := false } } → shortStream s.hart l 1 = none) →
    exec (.fork false) s = .next (s.withHart { s.hart.goesOn (s.hart.pc + 4) with
      seq := { s.hart.seq with pos := 0, run := true, stopped := false } })) ∧
  (∀ (s : State), 0 < s.hart.seq.ending → s.repl = [] →
    exec .sequencerLoopEnd s = .next (s.withHart { s.hart with
      rdv := s.hart.rdv + 1, seq := { s.hart.seq with ending := s.hart.seq.ending - 1 } })) ∧
  (∀ (s : State) (vd va : Reg), s.hart.seq.run = true → s.hart.seq.stopped = false → s.hart.walk = none → s.hart.loads = [] → s.hart.poison = [] →
    s.hart.bound vd = none → s.hart.bound va = none →
    (s.hart.seq.sqi[s.hart.seq.pos.toNat]'s.hart.seq.pos.isLt).toNat = (Instr.vnot vd va .none .w64).words.headD 0 →
    s.hart.seq.pos.toNat + 1 < s.hart.seq.count.toNat →
    ∃ t, exec .sequencerIssue s = .next t ∧ t.hart.v = s.hart.v.set vd (~~~(s.v va)) ∧ t.hart.seq.pos = s.hart.seq.pos + 1 ∧
      t.hart.seq.run = true ∧ t.hart.pc = s.hart.pc ∧ t.hart.g = s.hart.g ∧ t.mem = s.mem) ∧
  (∀ (s : State) (j : Fin 8), s.hart.streams[j].en = true → s.hart.streams[j].dir = false → s.hart.streams[j].am = .lo →
    s.hart.streams[j].ahead = [] → s.hart.streams[j].sn ≠ 0 → s.hart.streams[j].sa.toNat + 64 ≤ 2 ^ 19 → s.adds = [] → s.hart.walk = none →
    (let p := localPlace s.cur s.hart.streams[j].sa.toNat
     ∃ t, exec (.streamReadAhead j) s = .next t ∧ t.mem = s.mem ∧ t.hart.streams[j] = { s.hart.streams[j] with
       ahead := [⟨BitVec.ofNat 512 (leNat (s.mem.readN p 64)), [(p, 64)]⟩] }))

/-- VLOOP captures its words; FORK runs them, and a loop that has ended adds to RDV. A loop that has ended adds 1 to RDV when its pushes are
performed; a captured VNOT completes like the instruction and moves POS on; a read-bound stream reads a piece ahead of its pop (R178), when it
does so being the model's choice (log entry 74). -/
def Obligations.SequencerCompletes : Prop :=
  Sys2Proof.Claims.CaptureCompletes ∧ Sys2Proof.Claims.SequencerRunsTheLoop

/-! ## The matrix array -/

namespace Sys2Proof.Claims

/-- The formats a lease command uses: the pending prefix, or dm8, dm8, f32, no scales, dense (R193, R194). -/
def formats (s : State) : Prefix := prefixOf s.hart.tsw

/-- What a lease command asks: whether the formats fit it, the slots and tiles it names in order, its base and pitch registers if any, the bytes it
touches, and its operation (R194, R196–R201). -/
structure LeaseForm where
  fits : Bool
  names : List Named
  addr : Option (Reg × Reg)
  am : AddrMode
  need : Need
  runs : List (Nat × Nat)
  op : CmdOp

/-- The lease commands. -/
def leaseForm (s : State) : Instr → Option LeaseForm
  | .mld a b am _ n => some ⟨loadAccepts (formats s) n.val, (slotPair (formats s).aty n.val).map .slot, some (a, b), am, needR,
      loadRuns .mld (formats s).aty ((formats s).scl == 1) (s.g a) (s.g b) s.hart.lease.rows.toNat s.hart.lease.cols.toNat,
      .load .mld (formats s).aty ((formats s).scl == 1) n.val (s.g a) (s.g b) am⟩
  | .mldt a b am _ n => some ⟨loadAccepts (formats s) n.val, (slotPair (formats s).aty n.val).map .slot, some (a, b), am, needR,
      loadRuns .mldt (formats s).aty ((formats s).scl == 1) (s.g a) (s.g b) s.hart.lease.rows.toNat s.hart.lease.cols.toNat,
      .load .mldt (formats s).aty ((formats s).scl == 1) n.val (s.g a) (s.g b) am⟩
  | .mlds a b am _ n => some ⟨loadAccepts (formats s) n.val, (slotPair (formats s).aty n.val).map .slot, some (a, b), am, needR,
      loadRuns .mlds (formats s).aty ((formats s).scl == 1) (s.g a) (s.g b) s.hart.lease.rows.toNat s.hart.lease.cols.toNat,
      .load .mlds (formats s).aty ((formats s).scl == 1) n.val (s.g a) (s.g b) am⟩
  | .mst ot a b am _ t => some ⟨storeAccepts (formats s) ot, [.tile t.val], some (a, b), am, needW,
      storeRuns ot ((formats s).scl == 1) (s.g a) (s.g b) s.hart.lease.rows.toNat s.hart.lease.cols.toNat,
      .store ot ((formats s).scl == 1) t.val (s.g a) (s.g b) am⟩
  | .mzero t => some ⟨true, [.tile t.val], none, .lo, needR, [], .zero t.val⟩
  | .mma t sa sb => some ⟨mulAccepts (formats s) sa.val sb.val,
      .tile t.val :: (slotPair (formats s).aty sa.val ++ slotPair (formats s).bty sb.val).map .slot, none, .lo, needR, [],
      .mul (formats s).aty (formats s).bty (if (formats s).cty = 4 then .i32 else .f32) (ScaleMode.ofCode (formats s).scl) (formats s).sp
        t.val sa.val sb.val⟩
  | _ => none

/-- A command has been accepted: it stands last in its cluster's queue with a copy of LVC and the pages found, it counts in OTL, one unit of LEFT is
gone, and the lease has ended where that was the last one; registers and memory are as before. -/
structure Accepted (s t : State) (op : CmdOp) (pages : List PageMap) : Prop where
  queue : (t.array s.cluster).queue = (s.array s.cluster).queue ++
    [⟨(s.array s.cluster).nextId, s.cur, op, s.hart.lease.rows.toNat, s.hart.lease.cols.toNat, pages, false⟩]
  count : t.hart.otl.iss = s.hart.otl.iss + 1 ∧ t.hart.otl.ret = s.hart.otl.ret
  left : s.hart.lease.left ≠ 1 → t.hart.lease = { s.hart.lease with left := s.hart.lease.left - 1 }
  last : s.hart.lease.left = 1 → t.hart.lease.held = false ∧ t.hart.lease.left = 0 ∧ t.hart.lease.rows = 256 ∧ t.hart.lease.cols = 256
  pc : t.hart.pc = s.hart.pc + 4
  regs : t.hart.g = s.hart.g ∧ t.hart.v = s.hart.v ∧ t.hart.tsw = s.hart.tsw.completed
  mem : ∀ a, t.mem.read a = s.mem.read a

/-- No resume request of the core waits (R206). -/
def noResume (s : State) : Prop := s.cur ∉ (s.array s.cluster).resumes

/-- The owner a core claims for: its number in the cluster and its effective context id (R33, R48). -/
def contextOwner (s : State) : Owner := ⟨s.cur % 16, if s.hart.tsw.mode = .user then s.hart.lease.ctx else s.hart.lease.hctx⟩

/-- Command k of cluster c is `q`, every command before it has begun, and what its core wrote and added is performed (R192, R203). -/
structure Begins (s : State) (c k : Nat) (q : Command) : Prop where
  cluster : c < 192
  next : (s.array c).queue[k]? = some q ∧ q.begun = false
  order : ∀ p ∈ (s.array c).queue.take k, p.begun = true
  settled : coreSettled s q.core = true
  counts : q.rows ≤ 256 ∧ q.cols ≤ 256

/-- The `n` bytes from `a` on, as command `q` reads them through the pages found at its acceptance. -/
def bytesAt (s : State) (q : Command) (am : AddrMode) (a n : Nat) : List Byte := readSegs s (sectorOf (clusterOf q.core)) (cmdSegs s q am a n)

/-- Every run that `q` reads comes without error, with no replicated write on its way, from places outside the array's own storage. -/
def readable (s : State) (q : Command) (am : AddrMode) (runs : List (Nat × Nat)) : Prop :=
  s.repl = [] ∧ ∀ r ∈ runs, ∀ g ∈ cmdSegs s q am r.1 r.2, g.ok = true ∧ g.place + g.len ≤ 2 ^ 58

/-- Every run that `q` writes is mapped whole, on pages that take it and are not replicated, outside the array's own storage. -/
def takes (s : State) (q : Command) (am : AddrMode) (runs : List (Nat × List Byte)) : Prop :=
  ∀ r ∈ runs, ((cmdSegs s q am r.1 r.2.length).map Seg.len).sum = r.2.length ∧
    ∀ g ∈ cmdSegs s q am r.1 r.2.length, g.ok = true ∧ pteRepl g.entry = false ∧ g.place + g.len ≤ 2 ^ 58

/-- The places of a run. -/
def runPlaces (s : State) (q : Command) (am : AddrMode) (r : Nat × List Byte) : List Nat := segPlaces (cmdSegs s q am r.1 r.2.length)

/-- The runs have been written in their order: one that no later run meets lies where it was to go, and outside all of them, below the array's own
storage, every byte reads as before. -/
structure Written (s u : State) (q : Command) (am : AddrMode) (runs : List (Nat × List Byte)) : Prop where
  lands : ∀ (n : Nat) (r : Nat × List Byte), runs[n]? = some r → (runPlaces s q am r).Nodup →
    (∀ m r', n < m → runs[m]? = some r' → ∀ p ∈ runPlaces s q am r, p ∉ runPlaces s q am r') →
    ((cmdSegs s q am r.1 r.2.length).flatMap fun g => u.mem.readN g.place g.len) = r.2
  others : ∀ p : Nat, p < 2 ^ 58 → (∀ r ∈ runs, p ∉ runPlaces s q am r) → u.mem.read p = s.mem.read p

/-- The rows of bytes MST writes, and the scale bytes of each (R200). -/
def storedRuns (s : State) (c : Nat) (q : Command) (ot : OutType) (scl : Bool) (tile : Fin 16) (base pitch : Word) : List (Nat × List Byte) :=
  let t := outElem ot
  let et := (s.array c).tileMeta[tile].et
  (List.range q.rows).flatMap fun r =>
    let l := (List.range q.cols).map fun j => tileWord s c tile r j
    let a := rowAddr base pitch r
    if scl then [(a, toBytes (elemBytes t q.cols) (packLanes t.elemBits (storeBlocks et t l).1)),
      ((a + rowBytes t) % 2 ^ 64, (storeBlocks et t l).2.map fun x => BitVec.ofNat 8 x)]
    else [(a, toBytes (elemBytes t q.cols) (packLanes t.elemBits (l.map (storeElem et t))))]

/-- An output of a multiply from the accumulator `acc`, and whether it saturated (R93–R95, R198). -/
def output (s : State) (c : Nat) (aty bty : ElemType) (cty : AccType) (scl : ScaleMode) (sa sb i j acc : Nat) : Nat × Bool :=
  let a := operandRow s c aty sa i
  let b := operandRow s c bty sb j
  match cty with
  | .f32 => (matSum aty bty a b (if scl = .both ∨ scl = .aOnly then slotScales s c sa i else [])
      (if scl = .both ∨ scl = .bOnly then slotScales s c sb j else []) acc, false)
  | .i32 => intSum aty bty a b acc

/-- The rows of the tile that ELD or ESIG reads, as numbers, and its scales: 127 where the stream has none (R280, R284). -/
def tileRows (s : State) (q : Command) (x : StepStream) (base pitch : Word) (am : AddrMode) : List Nat :=
  (List.range 256).map fun r => leNat (bytesAt s q am (rowAddr base pitch r) (rowBytes x.aty)) % 2 ^ (x.aty.elemBits * 256)
def tileScales (s : State) (q : Command) (x : StepStream) (base pitch : Word) (am : AddrMode) : List Nat :=
  (List.range 256).flatMap fun r => (List.range 16).map fun b =>
    if x.scl then leNat (bytesAt s q am ((rowAddr base pitch r + rowBytes x.aty) % 2 ^ 64) 16) / 2 ^ (8 * b) % 256 else 127

/-- The record that `s` has at core `n`. -/
def hartAt (s : State) (n : Nat) : Hart := s.hartOf n

end Sys2Proof.Claims

/-- FMT sets PP and puts bits [25:10] of its word into PFMT; MREL ends the lease; MVC writes the valid counts, brought into 1 to 256; MLEASE of a
holder gives 1, and of a core that has been granted gives 0 with 16 commands and full counts. -/
def Sys2Proof.Claims.LeaseInstructionsComplete : Prop :=
  (∀ (s : State) (aty bty : ElemType) (cty : AccType) (scl : ScaleMode) (sp : Bool), Ready (.fmt aty bty cty scl sp) s →
    exec (.fmt aty bty cty scl sp) s = .next (s.withHart { s.hart.goesOn (s.hart.pc + 4) with
      tsw := { s.hart.tsw.completed with
        pp := true, pfmt := BitVec.ofNat 16 ((Instr.fmt aty bty cty scl sp).words.headD 0 / 2 ^ 10) } })) ∧
  (∀ (s : State), Ready .mrel s → noResume s → s.hart.lease.held = false → exec .mrel s = .next (s.withHart (s.hart.goesOn (s.hart.pc + 4)))) ∧
  (∀ (s : State), Ready .mrel s → noResume s → s.hart.lease.held = true →
    ∃ t, exec .mrel s = .next t ∧ t.hart = { s.hart.goesOn (s.hart.pc + 4) with
        lease := { s.hart.lease with held := false, left := 0, rows := 256, cols := 256 } } ∧
      (t.array s.cluster).holder ≠ some s.cur ∧ (t.array s.cluster).queue = (s.array s.cluster).queue ∧ t.mem = s.mem) ∧
  (∀ (s : State) (a b : Reg), Ready (.mvc a b) s → noResume s → s.hart.lease.held = true →
    ∃ r c : BitVec 9, exec (.mvc a b) s = .next (s.withHart { s.hart.goesOn (s.hart.pc + 4) with
        lease := { s.hart.lease with rows := r, cols := c } }) ∧
      r.toNat = min (max (s.g a).toNat 1) 256 ∧ c.toNat = min (max (s.g b).toNat 1) 256) ∧
  (∀ (s : State) (d : Reg), Ready (.mlease d) s → s.hart.lease.held = true →
    exec (.mlease d) s = .next (s.withHart (s.hart.wroteG d 1 (s.hart.pc + 4)))) ∧
  (∀ (s : State) (d : Reg), Ready (.mlease d) s → s.hart.lease.held = false → s.hart.wait = some .leaseGranted →
    ∃ t, exec (.mlease d) s = .next t ∧ t.hart = { s.hart.wroteG d 0 (s.hart.pc + 4) with
        lease := { s.hart.lease with held := true, left := 16, rows := 256, cols := 256 } } ∧
      t.arrays = s.arrays ∧ t.mem = s.mem) ∧
  (∀ (s : State) (a b : Reg), Ready (.mvc a b) s → noResume s → s.hart.lease.held = false → s.hart.wait = none →
    ∃ t, exec (.mvc a b) s = .next t ∧ TrapTaken s t false 11 (Instr.mvc a b).tval s.hart.pc)

/-- OCLAIM gives a free slot, and with an anchor slot its tile, to the core under its effective context id and answers 0; it answers 1 for its own slot
and 2 for another's. OFREE frees an owned slot that no command names, and its tile with the anchor. -/
def Sys2Proof.Claims.OwnershipCompletes : Prop :=
  (∀ (s : State) (d : Reg) (n : Fin 64), Ready (.oclaim d n) s → (s.array s.cluster).slots[n] = none →
    ∃ t, exec (.oclaim d n) s = .next t ∧ t.hart = s.hart.wroteG d 0 (s.hart.pc + 4) ∧
      (t.array s.cluster).slots = (s.array s.cluster).slots.set n (some (contextOwner s)) ∧
      (∀ k : Fin 16, (t.array s.cluster).tiles[k] = if n.val = 4 * k.val then some (contextOwner s) else (s.array s.cluster).tiles[k]) ∧
      t.mem = s.mem) ∧
  (∀ (s : State) (d : Reg) (n : Fin 64) (o : Owner), Ready (.oclaim d n) s → (s.array s.cluster).slots[n] = some o →
    exec (.oclaim d n) s = .next (s.withHart (s.hart.wroteG d (if o = contextOwner s then 1 else 2) (s.hart.pc + 4)))) ∧
  (∀ (s : State) (n : Fin 64), Ready (.ofree n) s → (s.array s.cluster).slots[n] = some (contextOwner s) →
    (∀ c ∈ (s.array s.cluster).queue, namesSlot (s.array s.cluster) n.val c = false) →
    (∀ p ∈ (s.array s.cluster).parks, ∀ c ∈ p.cmds, namesSlot (s.array s.cluster) n.val c = false) →
    ∃ t, exec (.ofree n) s = .next t ∧ t.hart = s.hart.goesOn (s.hart.pc + 4) ∧
      (t.array s.cluster).slots = (s.array s.cluster).slots.set n none ∧
      (∀ k : Fin 16, (t.array s.cluster).tiles[k] = if n.val = 4 * k.val then none else (s.array s.cluster).tiles[k]) ∧ t.mem = s.mem) ∧
  (∀ (s : State) (n : Fin 64), Ready (.ofree n) s → s.hart.wait = none → (s.array s.cluster).slots[n] ≠ some (contextOwner s) →
    ∃ t, exec (.ofree n) s = .next t ∧ TrapTaken s t false 7 (BitVec.ofNat 64 n.val) s.hart.pc)

/-- FMT, MLEASE, MREL, MVC, OCLAIM and OFREE complete: the lease and the ownership entries follow them. -/
def Obligations.LeasesAndOwnershipComplete : Prop :=
  Sys2Proof.Claims.LeaseInstructionsComplete ∧ Sys2Proof.Claims.OwnershipCompletes

/-- A lease command whose formats fit, issued under a lease by the owner of every slot and tile it names, with base and pitch multiples of 64 and every
byte within reach, is accepted. Without a lease it raises LEASE. -/
def Sys2Proof.Claims.LeaseCommandsAreAccepted : Prop :=
  (∀ (s s1 : State) (i : Instr) (f : LeaseForm) (pages : List PageMap), leaseForm s i = some f → Ready i s → noResume s → f.fits = true →
    s.hart.lease.held = true → s.hart.lease.left ≠ 0 → (∀ n ∈ f.names, ownsNamed s n = true) →
    (∀ a b, f.addr = some (a, b) → (s.g a).toNat % 64 = 0 ∧ (s.g b).toNat % 64 = 0) → touchRuns s f.am f.need f.runs = (.ok pages, s1) →
    ∃ t, exec i s = .next t ∧ Accepted s t f.op pages) ∧
  (∀ (s : State) (i : Instr) (f : LeaseForm), leaseForm s i = some f → Ready i s → noResume s → f.fits = true → s.hart.wait = none →
    (s.hart.lease.held = false ∨ s.hart.lease.left = 0) →
    ∃ t, exec i s = .next t ∧ t.hart.trap.code = 11 ∧ t.hart.trap.tval = i.tval ∧ t.hart.trap.tepc = s.hart.pc ∧
      ∀ q ∈ (t.array s.cluster).queue, q ∈ (s.array s.cluster).queue)

/-- The array grants a new lease only when none is held and no batch waits to resume: to the first waiting core after the last grantee, modulo 16. A
parked batch is granted first, the lowest core first; its commands enter the queue and its lease returns. -/
def Sys2Proof.Claims.GrantsFollowArbitration : Prop :=
  (∀ (s : State) (c k : Nat), k < 16 → (s.array c).holder = none → (s.array c).resumes = [] →
    (let at_ (j : Nat) : Nat := c * 16 + ((s.array c).last + 1 + j) % 16
     at_ k ∈ (s.array c).waiting → (∀ j, j < k → at_ j ∉ (s.array c).waiting) →
     ∃ t, exec (.leaseGrant c) s = .next t ∧ (t.array c).holder = some (at_ k) ∧ at_ k ∉ (t.array c).waiting ∧ (t.array c).last = at_ k % 16 ∧
       (hartAt t (at_ k)).wait = some .leaseGranted ∧ t.mem = s.mem)) ∧
  (∀ (s : State) (c : Nat), ((s.array c).holder ≠ none ∨ (s.array c).resumes ≠ []) → exec (.leaseGrant c) s = .next s) ∧
  (∀ (s : State) (c k : Nat) (p : Park), k < 16 → (s.array c).holder = none → c * 16 + k ∈ (s.array c).resumes →
    (∀ j, j < k → c * 16 + j ∉ (s.array c).resumes) → (s.array c).parks.find? (fun q => q.core == c * 16 + k) = some p →
    ∃ t, exec (.resumeGrant c) s = .next t ∧ (t.array c).holder = some (c * 16 + k) ∧ (t.array c).queue = (s.array c).queue ++ p.cmds ∧
      (hartAt t (c * 16 + k)).lease.held = true ∧ (hartAt t (c * 16 + k)).lease.park = false ∧ (hartAt t (c * 16 + k)).lease.left = p.left ∧
      (hartAt t (c * 16 + k)).otl.iss = (hartAt s (c * 16 + k)).otl.iss + BitVec.ofNat 32 p.cmds.length)

/-- Lease commands that pass their checks are accepted; the array grants leases and resumes by its arbitration. -/
def Obligations.LeaseCommandsComplete : Prop :=
  Sys2Proof.Claims.LeaseCommandsAreAccepted ∧ Sys2Proof.Claims.GrantsFollowArbitration

/-- An accepted command begins once all before it have, in one step: MZERO clears every word of its tile and its metadata. A command that has been
performed retires and counts in OTL, and the array adds 1 to RDV once the commands before a FORK.mb have retired. A command acts in the step that
begins it (log entry 65). -/
def Sys2Proof.Claims.ArrayCommandsAdvance : Prop :=
  (∀ (s : State) (c k : Nat) (q : Command) (t : Fin 16), (s.array c).queue[k]? = some q → q.begun = false → q.op = .zero t.val →
    (∀ p ∈ (s.array c).queue.take k, p.begun = true) → coreSettled s q.core = true →
    ∃ u, exec (.arrayCommandBegin c k) s = .next u ∧ (u.array c).queue = (s.array c).queue.set k { q with begun := true } ∧
      (∀ i j, i < 256 → j < 256 → tileWord u c t.val i j = 0) ∧ (u.array c).tileMeta[t] = ⟨0, false⟩ ∧ u.hart = s.hart) ∧
  (∀ (s : State) (c k : Nat) (q p : Command), (s.array c).queue[k]? = some q → p ∈ (s.array c).queue.take k → p.begun = false →
    exec (.arrayCommandBegin c k) s = .next s) ∧
  (∀ (s : State) (c k : Nat) (q : Command), (s.array c).queue[k]? = some q → q.begun = true → s.repl = [] →
    ∃ u, exec (.tileCommandRetire c k) s = .next u ∧ (u.array c).queue = (s.array c).queue.eraseIdx k ∧ u.mem = s.mem ∧
      (hartAt u q.core).otl = { (hartAt s q.core).otl with ret := (hartAt s q.core).otl.ret + 1 }) ∧
  (∀ (s : State) (c k n : Nat), (s.array c).rdv[k]? = some (n, []) →
    ∃ u, exec (.arrayRdvAdd c k) s = .next u ∧ (hartAt u n).rdv = (hartAt s n).rdv + 1 ∧ (u.array c).rdv = (s.array c).rdv.eraseIdx k ∧
      u.mem = s.mem)

/-- What a queued command does when it begins. A load fills its slot or pair with the valid elements, 0 elsewhere, its scales, 127 where none applies,
and its bitmaps, in MLDS 1 for the elements that are not zero. MST writes the valid rows of its tile, the scale bytes after each. MMA adds the
products to the valid words and leaves the others; SAT stays set. ELD loads its slot, signs the tile and decides the block: computed, the block word
and the signature are written and its map bit clears, otherwise the bit sets and nothing is written. EMMA does nothing for a block whose map bit is
set; otherwise it multiplies from 0, forms SAT from 0 and writes its words to the output cache. ESIG writes the signature of its tile. That each is
one step is the model's choice (log entry 65), and that both slots of a pair hold the side store (log entry 64). -/
def Sys2Proof.Claims.ArrayCommandEffects : Prop :=
  (∀ (s : State) (c k : Nat) (q : Command) (kind : LoadKind) (ty : ElemType) (scl : Bool) (slot : Nat) (base pitch : Word) (am : AddrMode),
    Begins s c k q → q.op = .load kind ty scl slot base pitch am → slotType ty = true → (∀ n ∈ slotPair ty slot, n < 64) →
    readable s q am (loadRuns kind ty scl base pitch q.rows q.cols) →
    (let across (r : Nat) : Nat := leNat (bytesAt s q am (rowAddr base pitch r) (elemBytes ty (if kind = .mldt then q.rows else q.cols)))
     let source (i j : Nat) : Nat := if kind = .mldt then elemOf ty (across j) i else elemOf ty (across i) j
     let scale (i b : Nat) : Nat :=
       if kind = .mldt then leNat (bytesAt s q am (rowAddr base pitch (256 + b)) q.rows) / 2 ^ (8 * i) % 256
       else leNat (bytesAt s q am ((rowAddr base pitch i + rowBytes ty) % 2 ^ 64) ((q.cols + 15) / 16)) / 2 ^ (8 * b) % 256
     ∃ u, exec (.arrayCommandBegin c k) s = .next u ∧ (u.array c).queue = (s.array c).queue.set k { q with begun := true } ∧ u.hart = s.hart ∧
       (∀ i j, i < 256 → j < 256 → elemOf ty (slotRow u c ty slot i) j = if i < q.rows ∧ j < q.cols then source i j else 0) ∧
       (∀ n i b, n ∈ slotPair ty slot → i < 256 → b < 16 →
         (slotScales u c n i)[b]? = some (if scl = true ∧ i < q.rows ∧ 16 * b < q.cols then scale i b else 127)) ∧
       (∀ n i j, n ∈ slotPair ty slot → i < 256 → j < 256 →
         (slotBitmap u c n i).testBit j = (kind != .mlds || !isZeroElem ty (if i < q.rows ∧ j < q.cols then source i j else 0))) ∧
       (∀ n i, n < 64 → n ∉ slotPair ty slot → i < 256 → u.mem.readN (slotPlace c n i) 256 = s.mem.readN (slotPlace c n i) 256) ∧
       (∀ p, (p < 2 ^ 58 ∨ (2 ^ 59 ≤ p ∧ p < 2 ^ 60)) → u.mem.read p = s.mem.read p))) ∧
  (∀ (s : State) (c k : Nat) (q : Command) (ot : OutType) (scl : Bool) (tile : Fin 16) (base pitch : Word) (am : AddrMode),
    Begins s c k q → q.op = .store ot scl tile.val base pitch am → takes s q am (storedRuns s c q ot scl tile base pitch) →
    ∃ u, exec (.arrayCommandBegin c k) s = .next u ∧ (u.array c).queue = (s.array c).queue.set k { q with begun := true } ∧
      Written s u q am (storedRuns s c q ot scl tile base pitch) ∧ ∀ p, 2 ^ 58 ≤ p → u.mem.read p = s.mem.read p) ∧
  (∀ (s : State) (c k : Nat) (q : Command) (aty bty : ElemType) (cty : AccType) (scl : ScaleMode) (sp : Bool) (tile : Fin 16) (sa sb : Nat),
    Begins s c k q → q.op = .mul aty bty cty scl sp tile.val sa sb →
    (let r (i j : Nat) : Nat × Bool := output s c aty bty cty scl sa sb i j (tileWord s c tile i j)
     ∃ u, exec (.arrayCommandBegin c k) s = .next u ∧ (u.array c).queue = (s.array c).queue.set k { q with begun := true } ∧ u.hart = s.hart ∧
       (∀ i j, i < 256 → j < 256 → tileWord u c tile i j = if i < q.rows ∧ j < q.cols then (r i j).1 % 2 ^ 32 else tileWord s c tile i j) ∧
       (u.array c).tileMeta[tile].et = (if cty = .i32 then 4 else 8) ∧
       ((u.array c).tileMeta[tile].sat = true ↔ (s.array c).tileMeta[tile].sat = true ∨ ∃ i j, i < q.rows ∧ j < q.cols ∧ (r i j).2 = true) ∧
       ∀ p, p < 2 ^ 59 → u.mem.read p = s.mem.read p)) ∧
  (∀ (s : State) (c k : Nat) (q : Command) (e : Fin 16) (x : StepStream) (blk slot : Nat) (base pitch : Word) (am : AddrMode),
    Begins s c k q → q.op = .eld e blk slot base pitch am → (s.array c).eph[e] = some x → blk < 4096 → slotType x.aty = true →
    (∀ n ∈ slotPair x.aty slot, n < 64) → readable s q am (loadRuns .mld x.aty x.scl base pitch 256 256) →
    readable s q .gl [(sigAddr x blk, 2056)] →
    (let rows := tileRows s q x base pitch am
     let new := signature x.aty rows (tileScales s q x base pitch am)
     let old := bytesAt s q .gl (sigAddr x blk) 2056
     let comp := computes x (recWord old 2048) new (sigOf old)
     let runs := if comp then [(sigAddr x blk, sigBytes new ++ toBytes 8 (2 ^ 63 + x.step.toNat % 2 ^ 32))] else []
     takes s q .gl runs →
     ∃ u m, exec (.arrayCommandBegin c k) s = .next u ∧ (u.array c).queue = (s.array c).queue.set k { q with begun := true } ∧
       (∀ i j, i < 256 → j < 256 → elemOf x.aty (slotRow u c x.aty slot i) j = elemOf x.aty (rows.getD i 0) j) ∧
       (u.array c).eph[e] = some { x with map := m } ∧ (∀ b, b < 4096 → m.getLsbD b = if b = blk then !comp else x.map.getLsbD b) ∧
       Written s u q .gl runs)) ∧
  (∀ (s : State) (c k : Nat) (q : Command) (e : Fin 16) (x : StepStream) (blk sa sb : Nat) (tile : Fin 16),
    Begins s c k q → q.op = .emma e blk tile.val sa sb → (s.array c).eph[e] = some x →
    (let r (i j : Nat) : Nat × Bool := output s c x.aty x.bty x.cty (if x.scl then .both else .none) sa sb i j 0
     let runs := (List.range q.rows).map fun i =>
       (outAddr x blk + 1024 * i, (List.range q.cols).flatMap fun j => toBytes 4 (r i j).1)
     (x.map.getLsbD blk = true → ∃ u, exec (.arrayCommandBegin c k) s = .next u ∧ SameMemory s u ∧ (u.array c).tileMeta = (s.array c).tileMeta) ∧
     (x.map.getLsbD blk = false → takes s q .gl runs →
       ∃ u, exec (.arrayCommandBegin c k) s = .next u ∧ (u.array c).queue = (s.array c).queue.set k { q with begun := true } ∧
         (∀ i j, i < 256 → j < 256 → tileWord u c tile i j = if i < q.rows ∧ j < q.cols then (r i j).1 % 2 ^ 32 else tileWord s c tile i j) ∧
         (u.array c).tileMeta[tile].et = (if x.cty = .i32 then 4 else 8) ∧
         ((u.array c).tileMeta[tile].sat = true ↔ ∃ i j, i < q.rows ∧ j < q.cols ∧ (r i j).2 = true) ∧ Written s u q .gl runs))) ∧
  (∀ (s : State) (c k : Nat) (q : Command) (e : Fin 16) (x : StepStream) (base pitch dst : Word) (am : AddrMode),
    Begins s c k q → q.op = .esig e base pitch am dst → (s.array c).eph[e] = some x →
    readable s q am (loadRuns .mld x.aty x.scl base pitch 256 256) →
    (let runs := [(dst.toNat, sigBytes (signature x.aty (tileRows s q x base pitch am) (tileScales s q x base pitch am)))]
     takes s q .gl runs →
     ∃ u, exec (.arrayCommandBegin c k) s = .next u ∧ (u.array c).queue = (s.array c).queue.set k { q with begun := true } ∧ Written s u q .gl runs ∧
       ∀ p, 2 ^ 58 ≤ p → u.mem.read p = s.mem.read p))

/-- Array commands begin in the order they were accepted, each with its effect on slots, tiles, maps and memory, and retire when they have been
performed; then RDV counts them. A command acts in the step that begins it (log entry 65). That each is one step is the model's choice (log entry
65), and that both slots of a pair hold the side store (log entry 64). -/
def Obligations.ArrayCommandsBeginAndRetire : Prop :=
  Sys2Proof.Claims.ArrayCommandsAdvance ∧ Sys2Proof.Claims.ArrayCommandEffects

/-! ## The Ephemeris -/

/-- EBIND completes: it binds an accepted record and answers 0, rejects another with 2, saves or unbinds a bound stream and answers 0, answers 1 for
saving or unbinding a stream that is not bound and 2 for another mode. EMAP completes with STEP and a word of the map, EFORCE with PENDF set. An
instruction on an unbound stream raises ACCESS with its number. That a save gives up every piece that streams have read ahead is the model's choice (log
entry 74). -/
def Sys2Proof.Claims.EphemerisForms : Prop :=
  (∀ (s : State) (e : Fin 16) (a b c : Reg), Ready (.ebind e a b c) s → (s.g a).toNat % 64 = 0 → (s.g a).toNat + 576 ≤ 2 ^ 19 → s.adds = [] →
    streamBusy (s.array s.cluster) e = false →
    (let bs := s.mem.readN (localPlace s.cur (s.g a).toNat) 576
     (s.g b = 0 → recordOk s bs = true → ∃ t, exec (.ebind e a b c) s = .next t ∧ (t.array s.cluster).eph[e] = some (StepStream.ofRecord bs) ∧
       t.hart = s.hart.wroteG c 0 (s.hart.pc + 4) ∧ t.mem = s.mem) ∧
     (s.g b = 0 → recordOk s bs = false → exec (.ebind e a b c) s = .next (s.withHart (s.hart.wroteG c 2 (s.hart.pc + 4)))) ∧
     ((s.g b = 1 ∨ s.g b = 2) → (s.array s.cluster).eph[e] = none →
       exec (.ebind e a b c) s = .next (s.withHart (s.hart.wroteG c 1 (s.hart.pc + 4)))) ∧
     (∀ x, (s.g b = 1 ∨ s.g b = 2) → (s.array s.cluster).eph[e] = some x →
       ∃ t, exec (.ebind e a b c) s = .next t ∧ t.mem.readN (localPlace s.cur (s.g a).toNat) 576 = x.record ∧
         (t.array s.cluster).eph[e] = (if s.g b = 1 then some x else none) ∧ t.hart = (freshStreams s.hart).wroteG c 0 (s.hart.pc + 4)) ∧
     (2 < (s.g b).toNat → exec (.ebind e a b c) s = .next (s.withHart (s.hart.wroteG c 2 (s.hart.pc + 4)))))) ∧
  (∀ (s : State) (e : Fin 16) (a b c : Reg) (x : StepStream), Ready (.emap e a b c) s → (s.array s.cluster).eph[e] = some x → (s.g a).toNat < 64 →
    eldOpen s e = false →
    exec (.emap e a b c) s = .next (s.withHart ((s.hart.wroteG b x.step (s.hart.pc + 4)).wroteG c (x.map.extractLsb' (64 * (s.g a).toNat) 64)
      (s.hart.pc + 4)))) ∧
  (∀ (s : State) (e : Fin 16) (x : StepStream), Ready (.eforce e) s → (s.array s.cluster).eph[e] = some x →
    ∃ t, exec (.eforce e) s = .next t ∧ (t.array s.cluster).eph[e] = some { x with pendf := true } ∧ t.hart = s.hart.goesOn (s.hart.pc + 4) ∧
      t.mem = s.mem) ∧
  (∀ (s : State) (e : Fin 16) (i : Instr), (i = .eforce e ∨ (∃ a b c, i = .emap e a b c) ∨ (∃ a b c, i = .esig e a b c) ∨ (∃ c, i = .estep e c)) →
    Ready i s → s.hart.wait = none → (s.array s.cluster).eph[e] = none →
    ∃ t, exec i s = .next t ∧ TrapTaken s t false 7 (BitVec.ofNat 64 e.val) s.hart.pc)

/-- Every Ephemeris instruction completes. EBIND, EMAP, EFORCE and ESTEP go on at the next instruction: EBIND with its record aligned in local memory
and no command of the stream open, EMAP of a bound stream and a word below 64 with no ELD undecided, EFORCE of a bound stream, ESTEP of one whose
commands have retired and whose counter can be reached. ELD, EMMA and ESIG of a bound stream are accepted when their descriptors, ownership, alignment
and bytes pass the checks; ESIG needs no lease and consumes no unit of it. The order of the bytes checked is the model's reading (log entry 67). -/
def Obligations.EphemerisCommandsAreAccepted : Prop :=
  (∀ (s : State) (e : Fin 16) (a b c : Reg), Ready (.ebind e a b c) s → (s.g a).toNat % 64 = 0 → (s.g a).toNat + 576 ≤ 2 ^ 19 → s.adds = [] →
    streamBusy (s.array s.cluster) e = false → ∃ t, exec (.ebind e a b c) s = .next t ∧ t.hart.pc = s.hart.pc + 4) ∧
  (∀ (s : State) (e : Fin 16) (a b c : Reg), Ready (.emap e a b c) s → (s.array s.cluster).eph[e] ≠ none → (s.g a).toNat < 64 →
    eldOpen s e = false → ∃ t, exec (.emap e a b c) s = .next t ∧ t.hart.pc = s.hart.pc + 4) ∧
  (∀ (s : State) (e : Fin 16), Ready (.eforce e) s → (s.array s.cluster).eph[e] ≠ none →
    ∃ t, exec (.eforce e) s = .next t ∧ t.hart.pc = s.hart.pc + 4) ∧
  (∀ (s : State) (e : Fin 16) (c : Reg) (x : StepStream), Ready (.estep e c) s → (s.array s.cluster).eph[e] = some x → s.hart.wait = none →
    refKind x.sctr = 1 → (∀ q ∈ (s.array s.cluster).queue, q.op.stream ≠ some e) → releaseWaits s = false →
    ∃ t, exec (.estep e c) s = .next t ∧ t.hart.pc = s.hart.pc + 4) ∧
  (∀ (s s1 : State) (e : Fin 16) (a b : Reg) (x : StepStream) (pages : List PageMap), Ready (.eld e a b) s → noResume s → s.hart.lease.held = true →
    s.hart.lease.left ≠ 0 → (s.array s.cluster).eph[e] = some x →
    (let w := s.g b
     let n := w.toNat / 2 ^ 16 % 64
     let blk := w.toNat % 2 ^ 12
     let pitch := (w.extractLsb' 32 32).signExtend 64
     let am := AddrMode.ofCode (w.toNat / 2 ^ 24 % 4)
     w &&& 0xF8C0F000 = 0 → blk < x.nbm.toNat + 1 → (x.aty = .bf16 → n % 2 = 0) → (∀ k ∈ slotPair x.aty n, ownsSlot s k = true) →
     (s.g a).toNat % 64 = 0 → pitch.toNat % 64 = 0 →
     touchAll s [(am, needR, loadRuns .mld x.aty x.scl (s.g a) pitch 256 256), (.gl, needRW, [(x.sigb.toNat + 4096 * blk, 2056)])] =
       (.ok pages, s1) →
     ∃ t, exec (.eld e a b) s = .next t ∧ Accepted s t (.eld e blk n (s.g a) pitch am) pages)) ∧
  (∀ (s s1 : State) (e : Fin 16) (a b : Reg) (x : StepStream) (pages : List PageMap), Ready (.emma e a b) s → noResume s →
    s.hart.lease.held = true → s.hart.lease.left ≠ 0 → (s.array s.cluster).eph[e] = some x →
    (let t := (s.g b).toNat / 2 ^ 12
     let sa := (s.g b).toNat / 2 ^ 6 % 64
     let sb := (s.g b).toNat % 64
     let blk := (s.g a).toNat
     blk < x.nbm.toNat + 1 → (s.g b).toNat < 2 ^ 16 → ((x.aty = .bf16 ∨ x.bty = .bf16) → sa % 2 = 0 ∧ sb % 2 = 0) → ownsTile s t = true →
     (∀ k ∈ slotPair x.aty sa ++ slotPair x.bty sb, ownsSlot s k = true) →
     touchAll s [(.gl, needW, (List.range s.hart.lease.rows.toNat).map fun r =>
       (x.outb.toNat + 262144 * blk + 1024 * r, 4 * s.hart.lease.cols.toNat))] = (.ok pages, s1) →
     ∃ u, exec (.emma e a b) s = .next u ∧ Accepted s u (.emma e blk t sa sb) pages)) ∧
  (∀ (s s1 : State) (e : Fin 16) (a b c : Reg) (x : StepStream) (pages : List PageMap), Ready (.esig e a b c) s → (s.array s.cluster).eph[e] = some x →
    (let w := s.g b
     let pitch := (w.extractLsb' 32 32).signExtend 64
     let am := AddrMode.ofCode (w.toNat / 2 ^ 24 % 4)
     w &&& 0xF8FFFFFF = 0 → (s.g a).toNat % 64 = 0 → pitch.toNat % 64 = 0 → (s.g c).toNat % 64 = 0 →
     touchAll s [(am, needR, loadRuns .mld x.aty x.scl (s.g a) pitch 256 256), (.gl, needW, [((s.g c).toNat, 2048)])] = (.ok pages, s1) →
     ∃ t, exec (.esig e a b c) s = .next t ∧ (t.array s.cluster).queue = (s.array s.cluster).queue ++
         [⟨(s.array s.cluster).nextId, s.cur, .esig e (s.g a) pitch am (s.g c), 256, 256, pages, false⟩] ∧
       t.hart = { s.hart.goesOn (s.hart.pc + 4) with otl := { s.hart.otl with iss := s.hart.otl.iss + 1 } } ∧ SameMemory s t))

/-- ESTEP, once the commands of the step have retired, adds 1 to the stream's counter, moves PENDF into FORCE and gives the new STEP. -/
def Sys2Proof.Claims.StepEnds : Prop :=
  ∀ (s s1 : State) (e : Fin 16) (c : Reg) (x : StepStream) (key : Nat) (ord : PageOrder), Ready (.estep e c) s → (s.array s.cluster).eph[e] = some x →
    s.hart.wait = none → (∀ q ∈ (s.array s.cluster).queue, q.op.stream ≠ some e) → releaseWaits s1 = false →
    reachRef s needRW true x.sctr = (.ok (.at key true ord), s1) →
    ∃ t, exec (.estep e c) s = .next t ∧ (t.array s.cluster).eph[e] = some { x with force := x.pendf, pendf := false, step := x.step + 1 } ∧
      t.counter key = s.counter key + 1 ∧ aheadOnly (s.hart.wroteG c (x.step + 1) (s.hart.pc + 4)) t.hart ∧
      (∀ p, (p < ctrPlace key ∨ ctrPlace key + 8 ≤ p) → t.mem.read p = s.mem.read p)

/-- EBIND, EMAP, EFORCE and ESTEP complete with their answers and end steps; an unbound stream raises ACCESS. That a save gives up every piece
that streams have read ahead is the model's choice (log entry 74). -/
def Obligations.EphemerisInstructionsComplete : Prop :=
  Sys2Proof.Claims.EphemerisForms ∧ Sys2Proof.Claims.StepEnds

/-! ## Counters, waits and tags -/

namespace Sys2Proof.Claims

/-- Every byte but the 8 of the counter named `key` reads as before. -/
def onlyCounter (key : Nat) (s t : State) : Prop := ∀ p, (p < ctrPlace key ∨ ctrPlace key + 8 ≤ p) → t.mem.read p = s.mem.read p

/-- The counter reference of a counter instruction, and whether it takes no tag (R218, R222–R228). -/
def counterRef (s : State) : Instr → Option (Word × Bool)
  | .cadd a _ _ => some (s.g a, false)
  | .caddv a _ _ _ => some (s.g a, false)
  | .cread a _ _ _ => some (s.g a, false)
  | .cwait a _ _ _ => some (s.g a, false)
  | .cwaitt a _ _ _ => some (s.g a, false)
  | .caw a _ _ _ => some (s.g a, false)
  | .cinit a _ _ _ => some (s.g a, true)
  | .cpoison a _ => some (s.g a, true)
  | _ => none

/-- The instruction has completed with the hart's registers as in `h` apart from the pieces its streams have read ahead. -/
def waitedHart (h : Hart) (c : Reg) (x : Word) : Hart := (freshStreams h).wroteG c x (h.pc + 4)

/-- The smallest scope that contains core `n` and the homeroom of the counter named `key` (R216): the event unit or local memory of its own cluster,
host memory and the second tier, its die, its sector, the package. -/
def smallestScope (n key : Nat) : Scope :=
  if homeOf key = n / 16 then .clu
  else if 2 ^ 50 ≤ ctrPlace key ∧ ctrPlace key < 2 ^ 56 then .sys
  else if homeDie key = n / 128 then .die
  else if homeDie key / 8 = n / 1024 then .sec
  else .pkg

/-- The effective scope of a counter instruction of core `n` (R216): the default, or the larger of the default and the scope named. -/
def scopeOf (n key : Nat) : Option Scope → Scope
  | none => smallestScope n key
  | some x => if scopeRank x < scopeRank (smallestScope n key) then smallestScope n key else x

/-- The wrap rule (R212): the threshold has been reached. -/
def reaches (v t : Word) : Prop := (v - t).toNat < 2 ^ 63

end Sys2Proof.Claims

/-- The checks of the reference of every counter instruction, in their order: a broken form raises ADDRESS, a KIND 00 reference off its word MISALIGN;
ACCESS is raised for a KIND 01 or KIND 10 cluster outside the core's partition, for an engine counter named from user mode (R327) and for a tag given to
CINIT or CPOISON; each with the reference in TVAL. That ADDRESS comes before MISALIGN is the model's choice (log entry 93). -/
def Sys2Proof.Claims.CounterReferenceChecks : Prop :=
  ∀ (s : State) (i : Instr) (r : Word) (noTag : Bool), counterRef s i = some (r, noTag) → s.hart.wait = none → Ready i s →
    (let traps (code : Nat) : Prop := ∃ t, exec i s = .next t ∧ TrapTaken s t false code r s.hart.pc
     let kind := r.extractLsb' 62 2
     let cluster := (r.extractLsb' 54 8).toNat
     (refForm r = false → traps 4) ∧
     (refForm r = true → kind = 0 → r.toNat % 8 ≠ 0 → traps 2) ∧
     (refForm r = true → (kind = 1 ∨ kind = 2) → inPart s s.part cluster = false → traps 7) ∧
     (refForm r = true → kind = 1 → s.hart.tsw.mode = .user → 4032 ≤ r.toNat % 4096 → traps 7) ∧
     (refForm r = true → kind = 3 → noTag = true → traps 7))

/-- CADD sends its add with its effective scope, which counts in OST until it is performed; CADDV adds at the homeroom and its old value counts as a
load in flight; CREAD gives the poison bit and the value. Each leaves every byte but the counter's as it was. The effective scope is the default
scope, or the larger of it and the one named; the default is clu where the homeroom is the cluster's event unit, sys for host memory and the second
tier, otherwise die, sec or pkg by where the homeroom lies. That adds travel on their own is the model's choice (log entries 10 and 11). -/
def Sys2Proof.Claims.CounterForms : Prop :=
  (∀ (s s1 : State) (a b : Reg) (sc : Option Scope) (key : Nat) (ord : PageOrder), Ready (.cadd a b sc) s →
    coreRef s needRW false (s.g a) = (.ok (.at key true ord), s1) →
    ∃ t, exec (.cadd a b sc) s = .next t ∧ t.adds = s.adds ++ [⟨s.cur, key, s.g b, false, scopeOf s.cur key sc, ord⟩] ∧
      aheadOnly { s.hart.goesOn (s.hart.pc + 4) with ost := { s.hart.ost with iss := s.hart.ost.iss + 1 } } t.hart ∧ SameMemory s t) ∧
  (∀ (s s1 : State) (a b c : Reg) (sc : Option Scope) (key : Nat) (ord : PageOrder), Ready (.caddv a b c sc) s →
    coreRef s needRW false (s.g a) = (.ok (.at key true ord), s1) → orderWaits s1 key ord = false →
    ∃ t, exec (.caddv a b c sc) s = .next t ∧ t.counter key = s.counter key + s.g b ∧ onlyCounter key s t ∧
      aheadOnly { s.hart.goesOn (s.hart.pc + 4) with
        old := { s.hart.old with iss := s.hart.old.iss + 1 }
        loads := s.hart.loads ++ [⟨.g c, s.g a, (s.counter key).setWidth 512, false, decide (ord = .un)⟩] } t.hart) ∧
  (∀ (s s1 : State) (a b c : Reg) (sc : Option Scope) (key : Nat) (ord : PageOrder), Ready (.cread a b c sc) s →
    coreRef s needR false (s.g a) = (.ok (.at key true ord), s1) → counterWaits s1 key ord = false →
    ∃ t, exec (.cread a b c sc) s = .next t ∧ SameMemory s t ∧ t.hart.pc = s.hart.pc + 4 ∧ (c ≠ 0 → t.g c = s.counter key) ∧
      (b ≠ 0 → b ≠ c → t.g b = if s.poisoned key then 1 else 0) ∧ (∀ r, r ≠ b → r ≠ c → t.g r = s.g r) ∧ t.hart.v = s.hart.v ∧
      t.hart.old = ⟨s.hart.old.iss + 1, s.hart.old.ret + 1⟩ ∧ t.hart.tsw = s.hart.tsw.completed) ∧
  (∀ (s s1 : State) (a b : Reg) (sc : Option Scope) (i : Fin 64), Ready (.cadd a b sc) s → coreRef s needRW false (s.g a) = (.ok (.tag i), s1) →
    (∃ w ∈ s.repl, w.core = s.cur ∧ w.un = false) → exec (.cadd a b sc) s = .next s1) ∧
  (∀ (s s1 : State) (a b : Reg) (sc : Option Scope) (i : Fin 64), Ready (.cadd a b sc) s → coreRef s needRW false (s.g a) = (.ok (.tag i), s1) →
    (∀ w ∈ s.repl, w.core = s.cur → w.un = true) → ((sc = none ∨ sc = some .core) ∨ ∀ x ∈ s.adds, x.core = s.cur → x.ord = .un) →
    ∃ t, exec (.cadd a b sc) s = .next t ∧ SameMemory s t ∧
      t.hart = { s.hart.goesOn (s.hart.pc + 4) with tagc := s.hart.tagc.set i (s.hart.tagc[i] + s.g b) })

/-- The checks of a counter reference trap in their order; CADD and CADDV send their add, CREAD reads. That ADDRESS comes before MISALIGN is the
model's choice (log entry 93). That adds travel on their own is the model's choice (log entries 10 and 11). -/
def Obligations.CounterAccessesComplete : Prop :=
  Sys2Proof.Claims.CounterReferenceChecks ∧ Sys2Proof.Claims.CounterForms

/-- A supervisor's CINIT sets the value and clears the poison unless a waiter is registered, which answers 1; CPOISON poisons the counter and every
waiter for it wakes with status 1. -/
def Obligations.CounterManagementCompletes : Prop :=
  (∀ (s s1 : State) (a b c : Reg) (sc : Option Scope) (key : Nat) (ord : PageOrder), Ready (.cinit a b c sc) s →
    coreRef s needRW true (s.g a) = (.ok (.at key true ord), s1) → orderWaits s1 key ord = false →
    ∃ t, exec (.cinit a b c sc) s = .next t ∧ onlyCounter key s t ∧
      ((∃ e ∈ s.roll, ctrPlace e.key = ctrPlace key) → t.hart = s.hart.wroteG c 1 (s.hart.pc + 4) ∧ SameMemory s t ∧ t.poison = s.poison) ∧
      ((∀ e ∈ s.roll, ctrPlace e.key ≠ ctrPlace key) → aheadOnly (s.hart.wroteG c 0 (s.hart.pc + 4)) t.hart ∧ t.counter key = s.g b ∧
        t.poisoned key = false)) ∧
  (∀ (s s1 : State) (a : Reg) (sc : Option Scope) (key : Nat) (ord : PageOrder), Ready (.cpoison a sc) s →
    coreRef s needRW true (s.g a) = (.ok (.at key true ord), s1) → orderWaits s1 key ord = false →
    ∃ t, exec (.cpoison a sc) s = .next t ∧ SameMemory s t ∧ t.poisoned key = true ∧
      (∀ e ∈ s.roll, ctrPlace e.key = ctrPlace key → ⟨e.waiter, 1⟩ ∈ t.wakes ∧ e ∉ t.roll) ∧
      (∀ e ∈ s.roll, ctrPlace e.key ≠ ctrPlace key → e ∈ t.roll) ∧ t.hart.pc = s.hart.pc + 4 ∧ t.hart.g = s.hart.g ∧ t.hart.v = s.hart.v ∧
      t.hart.tsw = s.hart.tsw.completed)

/-- A wait ends at once with 1 on a poisoned counter and 0 on a reached threshold, under the wrap rule; a CWAITT of 0 cycles otherwise answers 2. A wait
that has been woken gives its status. CAW makes its add once, when its release is met, and then waits like CWAIT; before that it has sent nothing. That
its add travels on its own is the model's choice (log entries 11 and 80). -/
def Obligations.CounterWaitsComplete : Prop :=
  (∀ (s s1 : State) (a b c : Reg) (sc : Option Scope) (key : Nat) (ord : PageOrder), Ready (.cwait a b c sc) s → s.hart.wait = none →
    coreRef s needR false (s.g a) = (.ok (.at key true ord), s1) → counterWaits s1 key ord = false →
    (s.poisoned key = true → ∃ t, exec (.cwait a b c sc) s = .next t ∧ t.hart = waitedHart s.hart c 1 ∧ SameMemory s t) ∧
    (s.poisoned key = false → reaches (s.counter key) (s.g b) →
      ∃ t, exec (.cwait a b c sc) s = .next t ∧ t.hart = waitedHart s.hart c 0 ∧ SameMemory s t) ∧
    (s.poisoned key = false → ¬ reaches (s.counter key) (s.g b) → rollFull s1 key = false →
      ∃ t, exec (.cwait a b c sc) s = .next t ∧ t.roll = s.roll ++ [⟨key, .core s.cur, s.g b, scopeOf s.cur key sc⟩] ∧ t.hart.pc = s.hart.pc ∧
        t.hart.g = s.hart.g ∧ t.hart.wait = some (.counter key (s.g b) false s.hart.irq.cycle none))) ∧
  (∀ (s s1 : State) (a b c : Reg) (sc : Option Scope) (key : Nat) (ord : PageOrder), Ready (.cwaitt a b c sc) s → s.hart.wait = none →
    coreRef s needR false (s.g a) = (.ok (.at key true ord), s1) → counterWaits s1 key ord = false →
    (s.poisoned key = true → ∃ t, exec (.cwaitt a b c sc) s = .next t ∧ t.hart = waitedHart s.hart c 1 ∧ SameMemory s t) ∧
    (s.poisoned key = false → reaches (s.counter key) (s.g b) →
      ∃ t, exec (.cwaitt a b c sc) s = .next t ∧ t.hart = waitedHart s.hart c 0 ∧ SameMemory s t) ∧
    (s.poisoned key = false → ¬ reaches (s.counter key) (s.g b) → s.g c = 0 →
      ∃ t, exec (.cwaitt a b c sc) s = .next t ∧ t.hart = waitedHart s.hart c 2 ∧ SameMemory s t)) ∧
  (∀ (s : State) (a b c : Reg) (sc : Option Scope) (st start : Word) (l : Option (Word × Reg)) (i : Instr),
    (i = .cwait a b c sc ∨ i = .cwaitt a b c sc ∨ i = .caw a b c sc) → Ready i s → s.hart.wait = some (.woken st start l) →
    exec i s = .next (s.withHart (waitedHart s.hart c st))) ∧
  (∀ (s s1 : State) (a b c : Reg) (sc : Option Scope) (key : Nat) (ord : PageOrder), Ready (.caw a b c sc) s → s.hart.wait = none →
    coreRef s needRW false (s.g a) = (.ok (.at key true ord), s1) →
    (s.hart.tsw.ap = false → orderWaits s1 key ord = false →
      ∃ t, exec (.caw a b c sc) s = .next t ∧ t.adds = s.adds ++ [⟨s.cur, key, s.g b, true, scopeOf s.cur key sc, ord⟩] ∧
        t.hart.wait = some .cawAdd ∧ t.hart.pc = s.hart.pc ∧ t.hart.g = s.hart.g ∧ SameMemory s t) ∧
    (s.hart.tsw.ap = false → orderWaits s1 key ord = true →
      ∃ t, exec (.caw a b c sc) s = .next t ∧ t.adds = s.adds ∧ t.hart = s.hart ∧ SameMemory s t) ∧
    (s.hart.tsw.ap = true → counterWaits s1 key ord = false → s.poisoned key = false → reaches (s.counter key) (s.g c) →
      ∃ t, exec (.caw a b c sc) s = .next t ∧ t.hart = waitedHart s.hart c 0 ∧ t.adds = s.adds ∧ SameMemory s t))

/-- The homeroom performs an add of a core in the order it was sent, wakes the waiters whose thresholds it reaches, and retires it from OST; a wake
ends the wait of a core; a core whose roll was full polls again; a timeout withdraws the registration and gives 2, and one on a tag ends it with 2
only while the tag has not reached its threshold. -/
def Sys2Proof.Claims.HomeroomStepsComplete : Prop :=
  (∀ (s : State) (k : Nat) (a : AddInFlight), s.adds[k]? = some a → (∀ b ∈ s.adds.take k, b.core ≠ a.core) → s.repl = [] →
    ∃ t, exec (.homeroomAdd k) s = .next t ∧ t.counter a.key = s.counter a.key + a.amount ∧ onlyCounter a.key s t ∧ t.adds = s.adds.eraseIdx k ∧
      (hartAt t a.core).ost.ret = (hartAt s a.core).ost.ret + 1 ∧ (a.caw = true → (hartAt t a.core).tsw.ap = true ∧ (hartAt t a.core).wait = none) ∧
      (∀ e ∈ s.roll, ctrPlace e.key = ctrPlace a.key → s.poisoned a.key = false → reaches (t.counter e.key) e.thr → ⟨e.waiter, 0⟩ ∈ t.wakes) ∧
      (∀ e ∈ s.roll, ctrPlace e.key = ctrPlace a.key → s.poisoned a.key = false → ¬ reaches (t.counter e.key) e.thr → e ∈ t.roll) ∧
      (∀ e ∈ s.roll, ctrPlace e.key ≠ ctrPlace a.key → e ∈ t.roll)) ∧
  (∀ (s : State) (k n : Nat) (st : Word) (key : Nat) (thr start : Word) (l : Option (Word × Reg)), s.wakes[k]? = some ⟨.core n, st⟩ →
    (hartAt s n).wait = some (.counter key thr false start l) →
    ∃ t, exec (.counterWake k) s = .next t ∧ (hartAt t n).wait = some (.woken st start l) ∧ t.wakes = s.wakes.eraseIdx k ∧ t.mem = s.mem) ∧
  (∀ (s : State) (n key : Nat) (thr start : Word) (l : Option (Word × Reg)), (hartAt s n).wait = some (.counter key thr true start l) →
    s.poisoned key = false → reaches (s.counter key) thr →
    ∃ t, exec (.counterRepoll n) s = .next t ∧ (hartAt t n).wait = some (.woken 0 start l) ∧ t.mem = s.mem) ∧
  (∀ (s : State) (n : Nat) (r thr start limit : Word) (c : Reg), (hartAt s n).wait = some (.own 3 r thr start (some (limit, c))) →
    limit.toNat ≤ ((hartAt s n).irq.cycle - start).toNat →
    (let count := (hartAt s n).tagc[r.toNat % 64]'(Nat.mod_lt _ (by decide))
     (reaches count thr → exec (.cwaittTimeout n) s = .next s) ∧
     (¬ reaches count thr → ∃ t, exec (.cwaittTimeout n) s = .next t ∧ (hartAt t n).wait = some (.woken 2 start (some (limit, c))) ∧
       t.mem = s.mem))) ∧
  (∀ (s : State) (n key : Nat) (thr start limit : Word) (c : Reg) (poll : Bool),
    (hartAt s n).wait = some (.counter key thr poll start (some (limit, c))) → limit.toNat ≤ ((hartAt s n).irq.cycle - start).toNat →
    ∃ t, exec (.cwaittTimeout n) s = .next t ∧ (hartAt t n).wait = some (.woken 2 start (some (limit, c))) ∧
      (∀ e ∈ t.roll, e.waiter ≠ .core n) ∧ t.mem = s.mem)

/-- TWANY, TWALL and TFIRST answer from the bitmap of ready tags, JOIN when RDV has reached its threshold, WAITN when each class is within its
allowance; each waits otherwise and changes nothing while it waits. -/
def Obligations.TagWaitsComplete : Prop :=
  (∀ (s : State) (i : Fin 64), s.hart.trdy.getLsbD i.val = true ↔ reaches s.hart.tagc[i] s.hart.tagt[i]) ∧
  (∀ (s : State) (d a : Reg), Ready (.twany d a) s →
    ((s.g a = 0 ∨ s.hart.trdy &&& s.g a ≠ 0) → exec (.twany d a) s = .next (s.withHart (waitedHart s.hart d (s.hart.trdy &&& s.g a)))) ∧
    (¬ (s.g a = 0 ∨ s.hart.trdy &&& s.g a ≠ 0) → exec (.twany d a) s = .next s)) ∧
  (∀ (s : State) (d a : Reg), Ready (.twall d a) s →
    (s.hart.trdy &&& s.g a = s.g a → exec (.twall d a) s = .next (s.withHart (waitedHart s.hart d (s.g a)))) ∧
    (s.hart.trdy &&& s.g a ≠ s.g a → exec (.twall d a) s = .next s)) ∧
  (∀ (s : State) (d : Reg), Ready (.tfirst d) s →
    (∀ k, k < 64 → s.hart.trdy.getLsbD k = true → (∀ j, j < k → s.hart.trdy.getLsbD j = false) →
      exec (.tfirst d) s = .next (s.withHart (waitedHart s.hart d (BitVec.ofNat 64 k)))) ∧
    (s.hart.trdy = 0 → exec (.tfirst d) s = .next (s.withHart (waitedHart s.hart d 0xFFFFFFFFFFFFFFFF)))) ∧
  (∀ (s : State) (d a : Reg), Ready (.join d a) s →
    (reaches s.hart.rdv (s.g a) → exec (.join d a) s = .next (s.withHart (waitedHart s.hart d 0))) ∧
    (¬ reaches s.hart.rdv (s.g a) → exec (.join d a) s = .next s)) ∧
  (∀ (s : State) (ld st cp tl : Fin 16), Ready (.waitn ld st cp tl) s →
    (let within (c : Count) (n : Fin 16) : Prop := (c.iss - c.ret).toNat ≤ n.val
     ((within s.hart.old ld ∧ within s.hart.ost st ∧ within s.hart.ocp cp ∧ within s.hart.otl tl) →
       exec (.waitn ld st cp tl) s = .next (s.withHart (s.hart.goesOn (s.hart.pc + 4)))) ∧
     (¬ (within s.hart.old ld ∧ within s.hart.ost st ∧ within s.hart.ocp cp ∧ within s.hart.otl tl) →
       exec (.waitn ld st cp tl) s = .next s)))

/-- The data of a load fills its register, or poisons it, and retires the load; an acknowledgement retires a store whose own replicated writes are
applied, whichever stores stand before it, and one with an error raises ERR; a store some of whose replicated writes wait for a replica is not
acknowledged; in which order stores are acknowledged is the model's choice (log entry 12); n cycles advance CYCLE and set TIMER once it has reached
TIMECMP. CYCLE moves only with the core that moves and with TIMER_COMPARE (log entry 50). -/
def Sys2Proof.Claims.ArrivalsComplete : Prop :=
  (∀ (s : State) (k : Nat) (r : Reg) (l : PendingLoad), s.hart.loads[k]? = some l → l.dest = .g r → r ≠ 0 →
    (∃ t, exec (.loadDataReturn k false) s = .next t ∧ (l.bad = false → t.g r = l.data.setWidth 64) ∧ t.hart.loads = s.hart.loads.eraseIdx k ∧
      t.hart.old = { s.hart.old with ret := s.hart.old.ret + 1 } ∧ (∀ q, q ≠ r → t.g q = s.g q) ∧ t.hart.pc = s.hart.pc ∧ t.mem = s.mem) ∧
    (∃ t, exec (.loadDataReturn k true) s = .next t ∧ (.g r, l.addr) ∈ t.hart.poison)) ∧
  (∀ (s : State) (k : Nat) (p : PendingStore), s.hart.stores[k]? = some p → (∀ w ∈ s.repl, w.core = s.cur → w.num < p.first ∨ p.upto ≤ w.num) →
    exec (.storeAcknowledge ⟨false, k⟩) s = .next (s.withHart { s.hart with
      stores := s.hart.stores.eraseIdx k, ost := { s.hart.ost with ret := s.hart.ost.ret + 1 } }) ∧
    (∃ t, exec (.storeAcknowledge ⟨true, k⟩) s = .next t ∧ t.hart.irq.pend.getLsbD 5 = true ∧ t.hart.ost.ret = s.hart.ost.ret + 1)) ∧
  (∀ (s : State) (e : Bool) (k : Nat) (p : PendingStore), s.hart.stores[k]? = some p →
    (∃ w ∈ s.repl, w.core = s.cur ∧ p.first ≤ w.num ∧ w.num < p.upto) → exec (.storeAcknowledge ⟨e, k⟩) s = .next s) ∧
  (∀ (s : State) (n : Nat), ∃ t, exec (.timerCompare n) s = .next t ∧ t.mem = s.mem ∧ t.hart.g = s.hart.g ∧ t.hart.pc = s.hart.pc ∧
    t.hart.irq.cycle = s.hart.irq.cycle + BitVec.ofNat 64 n ∧
    (s.hart.irq.timecmp.toNat ≤ t.hart.irq.cycle.toNat → t.hart.irq.pend.getLsbD 2 = true) ∧
    (t.hart.irq.cycle.toNat < s.hart.irq.timecmp.toNat → t.hart.irq.pend = s.hart.irq.pend))

/-- The steps of a homeroom, and the data, acknowledgements and cycles that reach a hart. The data of a load fills its register, or poisons it,
and retires the load; an acknowledgement retires a store whose own replicated writes are applied, whichever stores stand before it, and one with
an error raises ERR; a store some of whose replicated writes wait for a replica is not acknowledged; in which order stores are acknowledged is
the model's choice (log entry 12); n cycles advance CYCLE and set TIMER once it has reached TIMECMP. CYCLE moves only with the core that moves
and with TIMER_COMPARE (log entry 50). -/
def Obligations.UnitStepsReachHarts : Prop :=
  Sys2Proof.Claims.HomeroomStepsComplete ∧ Sys2Proof.Claims.ArrivalsComplete

/-! ## Block transfers -/

namespace Sys2Proof.Claims

/-- A command of the block-transfer engines: operation, record, completion reference, tag word, acquire, release, order, scope (R236). -/
def copyForm : Instr → Option (CopyOp × Reg × Reg × Reg × Bool × Bool × Bool × Scope)
  | .xcopy a b c sc acq rel => some (.copy, a, b, c, acq, rel, false, sc)
  | .xgath a b c sc acq rel => some (.gath, a, b, c, acq, rel, false, sc)
  | .xscat a b c sc acq rel ord => some (.scat, a, b, c, acq, rel, ord, sc)
  | .xfill a b c sc acq rel => some (.fill, a, b, c, acq, rel, false, sc)
  | .xput a b c sc acq rel => some (.put, a, b, c, acq, rel, false, sc)
  | .xget a b c sc acq rel => some (.get, a, b, c, acq, rel, false, sc)
  | .xsub a b c sc => some (.sub, a, b, c, false, true, false, sc)
  | .xpub a b c sc => some (.pub, a, b, c, false, true, false, sc)
  | _ => none

/-- The eight words at an offset of the current core's local memory. -/
def blockWords (s : State) (o : Nat) : List Word := (List.range 8).map fun k => s.mem.readWord (localPlace s.cur o + 8 * k)

/-- A record is whole in the core's local memory and aligned to 64 bytes (R236). -/
def recordFitsLocal (x : Word) : Prop := x.toNat + 64 ≤ 2 ^ 19 ∧ x.toNat % 64 = 0

/-- TAGT after a command that carries a tag word (R236, R37). -/
def taggedT (h : Hart) (x : Word) : Vector Word 64 :=
  if x.getLsbD 6 then h.tagt.setIfInBounds (x.toNat % 64) (h.tagt[x.toNat % 64]?.getD 0 + 1) else h.tagt

/-- No byte of the `n` at `p` has an add of the current core on its way. -/
def noAddTo (s : State) (p n : Nat) : Prop := ∀ a ∈ s.adds, a.core = s.cur → ctrPlace a.key + 8 ≤ p ∨ p + n ≤ ctrPlace a.key

/-- The command `c` is the one a BTE may start: queued, not suspended, no acquire to wait for, and none of its issuer before it (R237). -/
def maystart (s : State) (c : Copy) (n : Nat) : Prop :=
  c.issuer = .core n ∧ c.stage = .queued ∧ c.susp = none ∧ c.acq = false ∧ c.pos = 0 ∧
    ∀ x ∈ s.copies, x.id < c.id → x.slice = c.slice → x.issuer = c.issuer → x.stage ≠ .fabric ∧ x.stage ≠ .queued

/-- A peer chip has answered HELD for a message of the command (R389). -/
def peerHolds (s : State) (c : Copy) : Bool := s.links.out.any fun m => m.owner == .copy c.id && m.held

/-- After a command has moved its elements: it is found so under its number, and `n` elements are behind it. -/
def hasMoved (t : State) (id n : Nat) : Prop := ∃ c, findCopy t id = some c ∧ c.stage = .moved ∧ c.pos = n

end Sys2Proof.Claims

/-- An engine command takes its snapshot of the record, counts in OCP and in the threshold of its tag, and goes into the fabric; a record that breaks
a rule raises RECORD; with 64 commands outstanding the instruction waits. -/
def Sys2Proof.Claims.CopyForms : Prop :=
  ∀ (s : State) (i : Instr) (op : CopyOp) (a b c : Reg) (acq rel ord : Bool) (sc : Scope), copyForm i = some (op, a, b, c, acq, rel, ord, sc) →
    Ready i s → recordFitsLocal (s.g a) → completionExc s (s.g b) = none → noAddTo s (localPlace s.cur (s.g a).toNat) 64 →
    (let w := blockWords s (s.g a).toNat
     let fits : Prop := (if op = .sub ∨ op = .pub then ringFits s w else recordFits op w s.hart.chip) = true
     (fits → s.hart.ocp.out < 64 → ∃ t, exec i s = .next t ∧ SameMemory s t ∧
       t.hart = { s.hart.goesOn (s.hart.pc + 4) with ocp := { s.hart.ocp with iss := s.hart.ocp.iss + 1 }, tagt := taggedT s.hart (s.g c) } ∧
       ∃ x, t.copies = s.copies ++ [x] ∧ x.id = s.nextCopy ∧ x.issuer = .core s.cur ∧ x.op = op ∧ x.words = w ∧ x.ref = s.g b ∧ x.acq = acq ∧
         x.rel = rel ∧ x.ord = ord ∧ x.sc = sc ∧ x.space = s.hart.spid ∧ x.stage = .fabric ∧ x.pos = 0 ∧ x.susp = none ∧
         x.tag = (if (s.g c).getLsbD 6 then some ((s.g c).toNat % 64) else none)) ∧
     (¬ fits → s.hart.wait = none → ∃ t, exec i s = .next t ∧ TrapTaken s t false 12 (s.g a) s.hart.pc ∧ t.copies = s.copies) ∧
     (fits → 64 ≤ s.hart.ocp.out → exec i s = .next s))

/-- XQUERY gives the outstanding adds of a tag and the state of its command: moving with its byte offset, below which an XPUT or XGET has no run under
way, suspended with its cause and offset, or the word kept at its end. While a peer holds one of its messages at a page fault it shows suspended too;
that its cause is then open is the model's choice (log entry 95). -/
def Sys2Proof.Claims.QueryCompletes : Prop :=
  ∀ (s : State) (a b c : Reg), Ready (.xquery a b c) s →
    (let k := (s.g a).toNat % 64
     let own (x : Copy) : Bool := x.issuer == .core s.cur && x.tag == some k
     ∃ t, exec (.xquery a b c) s = .next t ∧ SameMemory s t ∧ t.hart.pc = s.hart.pc + 4 ∧ t.hart.tsw = s.hart.tsw.completed ∧ t.hart.v = s.hart.v ∧
       (∀ r, r ≠ b → r ≠ c → t.g r = s.g r) ∧
       (b ≠ 0 → b ≠ c → t.g b = s.hart.tagt[k]?.getD 0 - s.hart.tagc[k]?.getD 0) ∧
       (c ≠ 0 → s.copies.find? own = none → t.g c = lookupD s.hart.queries k 0) ∧
       (∀ x, c ≠ 0 → s.copies.find? own = some x → x.susp = none → peerHolds s x = false → (x.op = .copy ∨ x.op = .gath ∨ x.op = .scat ∨ x.op = .fill) →
         t.g c = BitVec.ofNat 64 (2 ^ 62 + x.pos * recE x.words % 2 ^ 48)) ∧
       (∀ x, c ≠ 0 → s.copies.find? own = some x → x.susp = none → peerHolds s x = true → ∃ cause, (cause = 1 ∨ cause = 2) ∧
         (t.g c).toNat / 2 ^ 48 = 2 * 2 ^ 14 + cause) ∧
       (∀ x o, c ≠ 0 → s.copies.find? own = some x → x.susp = none → peerHolds s x = false → (x.op = .put ∨ x.op = .get) →
         o ≤ x.pos → (∀ y ∈ x.idx, o ≤ y.1) → (o = x.pos ∨ ∃ y ∈ x.idx, o = y.1) →
         t.g c = BitVec.ofNat 64 (2 ^ 62 + o * recE x.words % 2 ^ 48)) ∧
       (∀ x y, c ≠ 0 → s.copies.find? own = some x → x.susp = some y →
         t.g c = BitVec.ofNat 64 (2 * 2 ^ 62 + y.cause * 2 ^ 48 + x.off % 2 ^ 48)))

/-- Engine commands are issued from their record; XQUERY reads the state of a tag. While a peer holds one of its messages at a page fault it
shows suspended too; that its cause is then open is the model's choice (log entry 95). -/
def Obligations.CopyCommandsComplete : Prop :=
  Sys2Proof.Claims.CopyForms ∧ Sys2Proof.Claims.QueryCompletes

/-- The BTE accepts the first command of the fabric, moves the elements of a fill, a copy and a gather in the core's local memory, and leaves every
other byte as it was; the completion adds the amount, retires the command from OCP and adds 1 to its tag. A suspended command's fault record is
written once into the ring of the address's owner. One step runs a command (log entry 75). -/
def Sys2Proof.Claims.EngineRuns : Prop :=
  (∀ (s : State) (m : Nat) (l r : List Copy) (c : Copy), s.copies = l ++ c :: r → c.slice = m → c.stage = .fabric →
    (∀ x ∈ l, ¬ (x.slice = m ∧ x.stage = .fabric)) → (∀ x ∈ l ++ r, x.id ≠ c.id) →
    (s.copies.filter fun x => x.slice == m && x.stage != .fabric).length < 1024 →
    exec (.copyCommandAccept m) s = .next { s with copies := l ++ { c with stage := .queued } :: r }) ∧
  (∀ (s : State) (id n : Nat) (c : Copy), findCopy s id = some c → maystart s c n → c.op = .fill → recNdim c.words = 0 → recDam c.words = .lo →
    (let e := recE c.words
     let k := recN c.words 0
     (recDst c.words).toNat + k * e ≤ 2 ^ 19 →
     ∃ t, exec (.copyStart id) s = .next t ∧ hasMoved t id k ∧ t.hart = s.hart ∧
       (∀ j, j < k * e → t.mem.read (localPlace n ((recDst c.words).toNat + j)) = BitVec.ofNat 8 ((recAux c.words).toNat / 2 ^ (8 * (j % e % 8)))) ∧
       (∀ p, (p < localPlace n (recDst c.words).toNat ∨ localPlace n (recDst c.words).toNat + k * e ≤ p) → t.mem.read p = s.mem.read p))) ∧
  (∀ (s : State) (id n : Nat) (c : Copy), findCopy s id = some c → maystart s c n → c.op = .copy → recNdim c.words = 0 →
    recSam c.words = .lo → recDam c.words = .lo →
    (let e := recE c.words
     let k := recN c.words 0
     let x := (recSrc c.words).toNat
     let y := (recDst c.words).toNat
     x + k * e ≤ 2 ^ 19 → y + k * e ≤ 2 ^ 19 → (x + k * e ≤ y ∨ y + k * e ≤ x) →
     ∃ t, exec (.copyStart id) s = .next t ∧ hasMoved t id k ∧ t.hart = s.hart ∧
       (∀ j, j < k * e → t.mem.read (localPlace n (y + j)) = s.mem.read (localPlace n (x + j))) ∧
       (∀ p, (p < localPlace n y ∨ localPlace n y + k * e ≤ p) → t.mem.read p = s.mem.read p))) ∧
  (∀ (s : State) (id n : Nat) (c : Copy), findCopy s id = some c → maystart s c n → c.op = .gath → c.idx = [] →
    recSam c.words = .lo → recDam c.words = .lo → recIam c.words = .lo → recMsk c.words = false →
    (let e := recE c.words
     let k := recN c.words 0
     let m := recN c.words 1
     let x := (recSrc c.words).toNat
     let y := (recDst c.words).toNat
     let l := (recAux c.words).toNat
     let index (p : Nat) : Nat := leNat (s.mem.readN (localPlace n (l + 4 * p)) 4)
     x + m * e ≤ 2 ^ 19 → y + k * e ≤ 2 ^ 19 → l + 4 * k ≤ 2 ^ 19 → (x + m * e ≤ y ∨ y + k * e ≤ x) → (l + 4 * k ≤ y ∨ y + k * e ≤ l) →
     ∃ t, exec (.copyStart id) s = .next t ∧ hasMoved t id k ∧ t.hart = s.hart ∧
       (∀ p j, p < k → j < e → t.mem.read (localPlace n (y + p * e + j)) =
         if index p = 0xFFFFFFFF ∨ m ≤ index p then BitVec.ofNat 8 ((cmdWord c.words 6).toNat / 2 ^ (8 * (j % 8)))
         else s.mem.read (localPlace n (x + index p * e + j))) ∧
       (∀ p, (p < localPlace n y ∨ localPlace n y + k * e ≤ p) → t.mem.read p = s.mem.read p))) ∧
  (∀ (s : State) (id n key : Nat) (c : Copy) (s1 : State), findCopy s id = some c → c.issuer = .core n → c.stage = .moved → c.susp = none →
    c.fatal = none → (∀ w ∈ s.repl, w.core ≠ n) → c.ref ≠ 0 → partyRef s c.slice c.part c.space needRW c.ref = (.at key, s1) →
    (ctrPlace key + 136 ≤ usagePlace c.part 0 ∨ usagePlace c.part 7 + 128 ≤ ctrPlace key) →
    ∃ t, exec (.copyComplete id) s = .next t ∧ findCopy t id = none ∧ t.counter key = s.counter key + BitVec.ofNat 64 (amount c.op c.words) ∧
      (∀ p, (p < ctrPlace key ∨ ctrPlace key + 8 ≤ p) → (p < usagePlace c.part 0 ∨ usagePlace c.part 7 ≤ p) → t.mem.read p = s.mem.read p) ∧
      (descOf s c.part = none → onlyCounter key s t) ∧ (hartAt t n).ocp.ret = (hartAt s n).ocp.ret + 1 ∧
      (∀ k, c.tag = some k → k < 64 → (hartAt t n).tagc[k]?.getD 0 = (hartAt s n).tagc[k]?.getD 0 + 1)) ∧
  (∀ (s : State) (id n : Nat) (c : Copy) (x : Suspension), findCopy s id = some c → c.issuer = .core n → c.susp = some x → x.record = none →
    (let m := ownerOf s c.part x.space x.va.toNat
     (s.faults.filter fun r => r.slice == m).length < 1024 →
     (∃ t, exec (.copySuspend id) s = .next t ∧ t.mem = s.mem ∧ t.hart = s.hart ∧
       (∃ r, t.faults = s.faults ++ [r] ∧ r.slice = m ∧ r.words[1]? = some x.va ∧ r.words[2]? = some (x.space.setWidth 64) ∧
         r.words[3]? = some (BitVec.ofNat 64 (x.kind + 256 * x.cause)) ∧
         (c.tag = none → r.words[5]? = some (BitVec.ofNat 64 n))) ∧
       ∃ c' y, findCopy t id = some c' ∧ c'.susp = some y ∧ y.record ≠ none ∧ exec (.partyCounterSuspend 0 id) s = .next t)))

/-- A subscription whose drain counter allows the next tile moves it into its ring slot in local memory, owes the FILL add for it, and then makes
that add. -/
def Sys2Proof.Claims.SubscriptionMovesTiles : Prop :=
  (∀ (s s1 : State) (id n key : Nat) (c : Copy), findCopy s id = some c → c.op = .sub → c.issuer = .core n → c.stage = .begun → c.susp = none →
    c.idx = [] → c.pos = 0 → partyRef s c.slice c.part c.space needR (cmdWord c.words 6) = (.at key, s1) → s.poisoned key = false →
    reaches (s.counter key) (1 - BitVec.ofNat 64 (ringQ c.words)) → ringGam c.words = .cb → ringTb c.words % 64 = 0 → 0 < ringTb c.words →
    (let x := (cmdWord c.words 0).toNat
     let y := (cmdWord c.words 2).toNat
     x % 2 ^ 19 + ringTb c.words ≤ 2 ^ 19 → x < 2 ^ 23 → y + ringTb c.words ≤ 2 ^ 19 → n / 16 * 16 + x / 2 ^ 19 ≠ n →
     ∃ t, exec (.subscriptionTile id) s = .next t ∧
       (∀ j, j < ringTb c.words →
         t.mem.read (localPlace n (y + j)) = s.mem.read (localPlace (n / 16 * 16 + x / 2 ^ 19) (x % 2 ^ 19 + j))) ∧
       (∀ p, (p < localPlace n y ∨ localPlace n y + ringTb c.words ≤ p) → t.mem.read p = s.mem.read p) ∧
       ∃ c', findCopy t id = some c' ∧ c'.pos = ringTb c.words ∧ c'.idx ≠ [])) ∧
  (∀ (s s1 : State) (id key : Nat) (c : Copy), findCopy s id = some c → (c.op = .sub ∨ c.op = .pub) → c.stage = .begun → c.susp = none →
    c.idx ≠ [] → s.repl = [] → partyRef s c.slice c.part c.space needRW (cmdWord c.words 5) = (.at key, s1) →
    ∃ t, exec (.subscriptionTile id) s = .next t ∧ t.counter key = s.counter key + 1 ∧ onlyCounter key s t ∧
      ∃ c', findCopy t id = some c' ∧ c'.pos = c.pos ∧ c'.idx = [] ∧
        (c'.stage = .moved ↔ ringNt c.words * ringTb c.words ≤ c.pos))

/-- The BTE accepts commands, moves their bytes, makes their adds and retires them; subscriptions move their tiles. One step runs a command (log
entry 75). -/
def Obligations.CopyEngineRunsCommands : Prop :=
  Sys2Proof.Claims.EngineRuns ∧ Sys2Proof.Claims.SubscriptionMovesTiles

/-! ## Object graphs -/

namespace Sys2Proof.Claims

/-- A graph instruction that walks or posts: its number, root, operand block, result register and scope (R260). -/
def graphForm : Instr → Option (Nat × Reg × Reg × Reg × Scope)
  | .gcopy a b c sc => some (1, a, b, c, sc)
  | .gsend a b c sc => some (2, a, b, c, sc)
  | .grecv a b c sc => some (3, a, b, c, sc)
  | .gcmp a b c sc => some (4, a, b, c, sc)
  | .ghash a b c sc => some (5, a, b, c, sc)
  | .grel a b c sc => some (6, a, b, c, sc)
  | _ => none

/-- The fence before a graph instruction has nothing to wait for (R263). -/
def drained (s : State) : Prop :=
  s.hart.old.out = 0 ∧ s.hart.ost.out = 0 ∧ s.hart.loads = [] ∧ s.repl = [] ∧ ∀ a ∈ s.adds, a.core ≠ s.cur

/-- Whom the walker of the current core serves. -/
def self (s : State) : Party := ⟨s.cur, s.part, s.hart.spid⟩

/-- The package as the walker first finds it: a new walk has its number, and a parked walk of the same work region is forgotten (R265). -/
def walking (s : State) (work : Word) : State := { s with
  nextCopy := s.nextCopy + 1
  parked := s.parked.filter fun p => !(p.space == s.hart.spid && p.work == work) }

/-- The walk record at `work` can be read, and VALID cleared in it (R265). -/
def recordOpen (s : State) (q : Party) (work : Word) : Prop :=
  ∃ x s1 s2, walkerRead s q work.toNat 1 = (.ok [x], s1) ∧ walkerWrite s1 q work.toNat [x &&& ~~~16] = (.ok (), s2)

/-- The arena record can be read and is accepted (R268), and `k` holds of the package then. -/
def arenaOk (s : State) (r : Word) (k : State → Prop) : Prop :=
  r.toNat % 8 = 0 ∧ r.toNat < 2 ^ 55 ∧ ∃ l s1, walkerRead s (self s) r.toNat 4 = (.ok l, s1) ∧ arenaFits l = true ∧ k s1

/-- A graph instruction has ended with a status and its two results in the operand block (R262). -/
def graphEnded (s t : State) (blk : Nat) (c : Reg) (st r0 r1 : Word) : Prop :=
  t.hart.walk = none ∧ t.hart.pc = s.hart.pc + 4 ∧ (c ≠ 0 → t.g c = st) ∧ (∀ r, r ≠ c → t.g r = s.g r) ∧ t.hart.v = s.hart.v ∧
    t.hart.tsw = s.hart.tsw.completed ∧ t.mem.readWord (localPlace s.cur (blk + 0x30)) = r0 ∧ t.mem.readWord (localPlace s.cur (blk + 0x38)) = r1

/-- A walk of the current core under way, without a guard and without a failure. -/
def unguarded (w : Walk) (fn : Nat) : Prop :=
  w.fn = fn ∧ w.begun = true ∧ w.resume = false ∧ w.susp = none ∧ w.fail = none ∧ w.failed = none ∧ w.closing = none ∧ w.guard = 0 ∧ w.gstart = 0 ∧
    w.gpoison = false

/-- Where the checks of the walk have been passed, its record can be closed. -/
def closes (s : State) (w : Walk) : Prop := w.checked = true → recordOpen s w.party w.work

/-- Where the checks of the walk have been passed, VALID is cleared in its record: outside the two result words memory is as that write and the closing
fence leave it (R262, R263, R265). -/
def validCleared (s t : State) (w : Walk) : Prop :=
  w.checked = true → ∀ x s1 s2, walkerRead s w.party w.work.toNat 1 = (.ok [x], s1) →
    walkerWrite s1 w.party w.work.toNat [x &&& ~~~16] = (.ok (), s2) →
    ∀ p, (p < localPlace s.cur (w.blk + 0x30) ∨ localPlace s.cur (w.blk + 0x40) ≤ p) → t.mem.read p = (closingFence s2 w.sc).mem.read p

/-- A walk of the current core that has examined every word of its stack and has no guard. -/
def finished (w : Walk) (fn : Nat) : Prop :=
  unguarded w fn ∧ w.stack = []

/-- GHASH of canonical records (R274), word by word. -/
def graphHash (l : List Word) (n : Nat) : Word :=
  let round (h x : Word) : Word := let y := (h ^^^ x) * 0x8E3F5B27D4C196A5; y ^^^ (y >>> 29)
  let h := l.foldl round 0x51D30E8AC47B2961
  let z := (h ^^^ BitVec.ofNat 64 n) * 0x8E3F5B27D4C196A5
  z ^^^ (z >>> 32)

end Sys2Proof.Claims

/-- GLMAP binds a space of the partition to a layout table, or with count 0 takes the binding away; a block that breaks a rule answers 12. -/
def Sys2Proof.Claims.LayoutBindingCompletes : Prop :=
  ∀ (s : State) (a b c : Reg) (sc : Scope), Ready (.glmap a b c sc) s → drained s → recordFitsLocal (s.g b) →
    (let blk := (s.g b).toNat
     let space := BitVec.ofNat 20 (blockWord s blk 0).toNat
     (mapStatus s (s.g a) blk = 0 → ∃ t, exec (.glmap a b c sc) s = .next t ∧ t.hart = waitedHart s.hart c 0 ∧ SameMemory s t ∧
       (blockWord s blk 8 = 0 → bindingOf t s.part space = none) ∧
       (blockWord s blk 8 ≠ 0 → bindingOf t s.part space = some ⟨space, s.part, s.g a, (blockWord s blk 8).toNat⟩) ∧
       (∀ x, x ≠ space → bindingOf t s.part x = bindingOf s s.part x)) ∧
     ((blockWord s blk 0).toNat / 2 ^ 20 ≠ 0 → exec (.glmap a b c sc) s = .next (s.withHart (waitedHart s.hart c 12))) ∧
     (2 ^ 20 < (blockWord s blk 8).toNat → exec (.glmap a b c sc) s = .next (s.withHart (waitedHart s.hart c 12))))

/-- A graph instruction whose operand block breaks a rule ends with 12, one whose space has no layout table with 13; over the null graph GCOPY, GCMP,
GHASH and GREL end with 0 and their results; GRECV posts its receive, or ends with 10 while its channel is occupied. That the result words are written
for 12, 13 and ARENA is the model's reading (log entry 42). -/
def Sys2Proof.Claims.GraphForms : Prop :=
  ∀ (s : State) (i : Instr) (fn : Nat) (a b c : Reg) (sc : Scope), graphForm i = some (fn, a, b, c, sc) → Ready i s → s.hart.walk = none →
    drained s → recordFitsLocal (s.g b) →
    (let blk := (s.g b).toNat
     let s' := walking s (blockWord s blk 0)
     let closed (u : State) : Prop := recordOpen u (self s) (blockWord s blk 0)
     (blockOk s fn blk (s.g a) = false → ∃ t, exec i s = .next t ∧ graphEnded s t blk c 12 0 0 ∧
       ∀ p, (p < localPlace s.cur (blk + 0x30) ∨ localPlace s.cur (blk + 0x40) ≤ p) → t.mem.read p = s.mem.read p) ∧
     (blockOk s fn blk (s.g a) = true → bindingOf s s.part s.hart.spid = none → s.hart.tsw.rs = false → ∃ t, exec i s = .next t ∧
         graphEnded s t blk c 13 0 0 ∧
       ∀ p, (p < localPlace s.cur (blk + 0x30) ∨ localPlace s.cur (blk + 0x40) ≤ p) → t.mem.read p = s.mem.read p) ∧
     (∀ bd, blockOk s fn blk (s.g a) = true → bindingOf s s.part s.hart.spid = some bd → s.hart.tsw.rs = false → blockWord s blk 0x18 = 0 →
       (s.g a = 0 → fn = 1 → arenaOk s' (blockWord s blk 0x10) closed → ∃ t, exec i s = .next t ∧ graphEnded s t blk c 0 0 0) ∧
       (s.g a = 0 → fn = 4 → blockWord s blk 0x10 = 0 → closed s' → ∃ t, exec i s = .next t ∧ graphEnded s t blk c 0 0 0) ∧
       (s.g a = 0 → fn = 4 → blockWord s blk 0x10 ≠ 0 → closed s' → ∃ t, exec i s = .next t ∧ graphEnded s t blk c 1 0 0) ∧
       (s.g a = 0 → fn = 5 → closed s' → ∃ t, exec i s = .next t ∧ graphEnded s t blk c 0 (graphHash [] 0) 0) ∧
       (s.g a = 0 → fn = 6 → arenaOk s' (blockWord s blk 0x10) closed → ∃ t, exec i s = .next t ∧ graphEnded s t blk c 0 0 0) ∧
       (let chan := BitVec.ofNat 8 ((blockWord s blk 0x28).toNat / 2 ^ 16)
        fn = 3 → arenaOk s' (blockWord s blk 0x10) (fun _ => True) →
        ((∀ p ∈ s.posts, p.chan ≠ chan) → ∃ t, exec i s = .next t ∧ SameMemory s t ∧
          t.hart = { waitedHart s.hart c 0 with ocp := { s.hart.ocp with iss := s.hart.ocp.iss + 1 } } ∧
          ∃ p, t.posts = s.posts ++ [p] ∧ p.chan = chan ∧ p.core = s.cur ∧ p.slot = s.g a ∧ p.doneRef = blockWord s blk 0x20 ∧
            p.arena = blockWord s blk 0x10 ∧ p.table = bd.table ∧ p.objs = [] ∧ p.susp = none) ∧
        ((∃ p ∈ s.posts, p.chan = chan) → ∃ t, exec i s = .next t ∧ graphEnded s t blk c 10 0 0))))

/-- GLMAP binds a layout table; the graph instructions end with their status and results. That the result words are written for 12, 13 and ARENA
is the model's reading (log entry 42). -/
def Obligations.GraphInstructionsComplete : Prop :=
  Sys2Proof.Claims.LayoutBindingCompletes ∧ Sys2Proof.Claims.GraphForms

/-- A walk with nothing left to examine, whose record can be reached, clears VALID in it and ends: GHASH with the hash of its canonical records, GCMP
with the number of pairs, GREL with what it freed and decremented, GCOPY with the address and number of its copies once their counts are written,
GSEND with what it sent once every message is acknowledged. That a step visits one object is the model's choice (log entry 53). -/
def Sys2Proof.Claims.WalksEnd : Prop :=
  ∀ (s : State) (i : Instr) (fn : Nat) (a b c : Reg) (sc : Scope) (w : Walk), graphForm i = some (fn, a, b, c, sc) → Ready i s →
    s.hart.walk = some w → finished w fn → w.creg = c →
    (let n := BitVec.ofNat 64 w.seen.length
     (fn = 5 → w.seen ≠ [] → closes s w →
       ∃ t, exec i s = .next t ∧ graphEnded s t w.blk c 0 (graphHash w.recs.flatten w.seen.length) n ∧ validCleared s t w) ∧
     (fn = 4 → w.seen ≠ [] → closes s w → ∃ t, exec i s = .next t ∧ graphEnded s t w.blk c 0 n 0 ∧ validCleared s t w) ∧
     (fn = 6 → w.ended = true → closes s w →
       ∃ t, exec i s = .next t ∧ graphEnded s t w.blk c 0 (BitVec.ofNat 64 w.freed) (BitVec.ofNat 64 w.decs) ∧ validCleared s t w) ∧
     (∀ x h s1 s2, fn = 1 → w.seen = [(w.root, x)] → w.ptrs = [] → walkerRead s w.party x.toNat 1 = (.ok [h], s1) →
       walkerWrite s1 w.party x.toNat [(h &&& ~~~0xFFFF1) ||| 16] = (.ok (), s2) → closes s2 w →
       ∃ t, exec i s = .next t ∧ graphEnded s t w.blk c 0 x 1 ∧ validCleared s2 t w) ∧
     (fn = 2 → w.ended = true → w.out = [] → w.length < w.sent → (∀ m ∈ s.links.out, m.owner ≠ .walk w.id) → w.done = 0 → closes s w →
       ∃ t, exec i s = .next t ∧ graphEnded s t w.blk c 0 n (BitVec.ofNat 64 (w.length + 16)) ∧ validCleared s t w))

/-- The first step of GHASH reads the root object through its layout entry, numbers it 0 and begins its canonical record with the header without COUNT
and state bit; nothing but its bytes of the work region changes. Its last step over a graph whose root points at most at itself fills the record in,
the data words as they are and each pointer as 0 or the index of its target plus 1, and ends with the hash of that record. That a step visits one
object is the model's choice (log entry 53), as is what the work region holds (log entry 90). -/
def Sys2Proof.Claims.GraphWalkVisitsTheRoot : Prop :=
  (∀ (s s1 s2 s3 s4 s5 : State) (a b c : Reg) (sc : Scope) (bd : Binding) (h : Word) (l ws : List Word) (x z : List Seg), Ready (.ghash a b c sc) s →
    s.hart.walk = none → drained s → recordFitsLocal (s.g b) →
    (let blk := (s.g b).toNat
     let y := s.g a
     let type := h.toNat / 2 ^ 44
     let size := h.toNat / 2 ^ 20 % 2 ^ 24
     blockOk s 5 blk y = true → bindingOf s s.part s.hart.spid = some bd → s.hart.tsw.rs = false → blockWord s blk 0x18 = 0 →
     y ≠ 0 → y.toNat % 8 = 0 → y.toNat < 2 ^ 55 → h.getLsbD 0 = false → 2 ≤ size → size ≤ 2048 → type < bd.count →
     walkerRead (walking s (blockWord s blk 0)) (self s) y.toNat 1 = (.ok [h], s1) →
     walkerRead s1 (self s) (bd.table.toNat + 32 * type) 4 = (.ok l, s2) →
     (layWord l 0).getLsbD 63 = true → layValid l = true → layFits l size = true →
     walkerRead s2 (self s) y.toNat size = (.ok ws, s3) → 96 ≤ (blockWord s blk 8).toNat →
     walkerAccess s3 (self s) needRW (blockWord s blk 0).toNat 96 = (.ok x, s4) →
     walkerAccess s4 (self s) needRW ((blockWord s blk 0).toNat + 64) 32 = (.ok z, s5) → (∀ g ∈ z, pteRepl g.entry = false) →
     ∃ t w r, exec (.ghash a b c sc) s = .next t ∧ t.hart.walk = some w ∧ unguarded w 5 ∧ w.seen = [(y, 0)] ∧ w.recs = [r] ∧
       w.stack = [⟨y, ws, 0, [], l, l, 1⟩] ∧ r.length = ws.length ∧ r[0]? = (ws[0]?.map fun z => z &&& ~~~0xFFFF1) ∧
       t.hart.pc = s.hart.pc ∧ t.hart.g = s.hart.g ∧ SameOutside z s t)) ∧
  (∀ (s : State) (a b c : Reg) (sc : Scope) (w : Walk) (y : Word) (l ws r r' : List Word), Ready (.ghash a b c sc) s → s.hart.walk = some w →
    unguarded w 5 → w.creg = c → w.seen = [(y, 0)] → w.recs = [r] → w.stack = [⟨y, ws, 0, [], l, l, 1⟩] → l ≠ [] → y ≠ 0 → r.length = ws.length →
    (∀ k, k < ws.length → isPtr l k = true → ws[k]? = some 0 ∨ ws[k]? = some y) → r'.length = ws.length → r'[0]? = r[0]? →
    (∀ k, 0 < k → k < ws.length → r'[k]? = if isPtr l k = true then some (if ws[k]? = some 0 then 0 else 1) else ws[k]?) → closes s w →
    ∃ t, exec (.ghash a b c sc) s = .next t ∧ graphEnded s t w.blk c 0 (graphHash r' 1) 1)

/-- A walk visits its root through the layout entry, and ends with the results of its function. That a step visits one object, and what the work
region holds, is the model's choice (log entries 53 and 90). -/
def Obligations.WalksEndWithTheirResults : Prop :=
  Sys2Proof.Claims.WalksEnd ∧ Sys2Proof.Claims.GraphWalkVisitsTheRoot

/-- A suspended walk's fault record names its address and the object at hand; resumed, a unit goes on and its record leaves the ring; ended fatally, a
command poisons its completion counter and keeps its cause, and its issuer's OCP retires. The units' numbers are the model's (log entry 13). A posted
receive that has taken its whole stream writes the count of its object, its address into the slot, adds the number of objects to DONE and retires; when
it takes its words is the model's choice (log entry 45). -/
def Obligations.SuspendedUnitsResumeOrEnd : Prop :=
  (∀ (s : State) (w : Walk) (x : Suspension), s.hart.walk = some w → w.susp = some x → x.record = none → w.fn ≠ 3 →
    (let m := ownerOf s w.part x.space x.va.toNat
     (s.faults.filter fun r => r.slice == m).length < 1024 →
     ∃ t, exec (.walkSuspend s.cur) s = .next t ∧ t.mem = s.mem ∧ t.hart.g = s.hart.g ∧ t.hart.pc = s.hart.pc ∧
       (∃ r, t.faults = s.faults ++ [r] ∧ r.slice = m ∧ r.words[1]? = some x.va ∧ r.words[2]? = some (x.space.setWidth 64) ∧
         r.words[4]? = some (match w.stack with | f :: _ => f.addr | [] => w.root)) ∧
       ∃ y, t.hart.walk = some { w with susp := some y } ∧ y.va = x.va ∧ y.record ≠ none)) ∧
  (∀ (s : State) (id m n : Nat) (c : Copy) (x : Suspension), findCopy s id = some c → c.susp = some x → x.record = some (m, n) →
    ∃ t, exec (.unitResume 0 ⟨id, none⟩) s = .next t ∧ findCopy t id = some { c with susp := none } ∧ t.mem = s.mem ∧ t.hart = s.hart ∧
      (∀ r, r ∈ t.faults ↔ r ∈ s.faults ∧ ¬ (r.slice = m ∧ r.seq = n))) ∧
  (∀ (s : State) (id n k : Nat) (c : Copy) (x : Suspension), id < 2 ^ 44 → findCopy s id = some c → c.susp = some x → x.record ≠ none →
    c.issuer = .core n → c.tag = some k → c.stage = .begun → c.op ≠ .sub → c.op ≠ .pub → c.ref ≠ 0 → (refKind c.ref = 1 ∨ refKind c.ref = 2) →
    ∃ t, exec (.unitFatal 0 id) s = .next t ∧ findCopy t id = none ∧ refPlace c.ref ∈ t.poison ∧
      (∀ e ∈ s.roll, ctrPlace e.key = refPlace c.ref → e.waiter ≠ .copy id → ⟨e.waiter, 1⟩ ∈ t.wakes) ∧
      (hartAt t n).ocp.ret = (hartAt s n).ocp.ret + 1 ∧
      lookupD (hartAt t n).queries k 0 = BitVec.ofNat 64 (3 * 2 ^ 62 + x.cause * 2 ^ 48 + c.off % 2 ^ 48)) ∧
  (∀ (s s1 s2 s3 : State) (k n : Nat) (p : Post) (o : Arrived) (h : Word) (m1 m2 : BitVec 32), s.posts[k]? = some p →
    p.susp = none → p.fail = none → p.objs = [o] → p.ptrs = [] → p.patches = [] → p.taken = p.next →
    p.pending = [(p.next, 0xFFFFFFFF, m1), (p.next + 8, 1, m2)] → p.doneRef ≠ 0 → refKind p.doneRef = 1 → p.core = n →
    walkerRead s p.party o.addr.toNat 1 = (.ok [h], s1) → walkerWrite s1 p.party o.addr.toNat [(h &&& ~~~0xFFFF1) ||| 16] = (.ok (), s2) →
    walkerWrite s2 p.party p.slot.toNat [o.addr] = (.ok (), s3) → s3.repl = [] →
    ∃ t, exec (.streamDeliver k) s = .next t ∧ t.counter (refPlace p.doneRef) = s3.counter (refPlace p.doneRef) + 1 ∧ p ∉ t.posts ∧
      (hartAt t n).ocp.ret = (hartAt s n).ocp.ret + 1)

/-! ## The Timetable engine -/

namespace Sys2Proof.Claims

/-- Every edge of a node leads forward, and another node of the graph still waits. -/
def staysOpen (g : Graph) (node : Nat) (n : GNode) : Prop :=
  (∀ j ∈ n.succ, backEdge g.nodes node j = false) ∧ ∃ k m, k ≠ node ∧ g.nodes[k]? = some m ∧ m.st = .waiting

/-- A node of a graph is in a state. -/
def nodeIs (t : State) (p : BitVec 16) (slot node : Nat) (st : NodeState) : Prop :=
  ∃ g n, (engineOf t p).graph slot = some g ∧ g.nodes[node]? = some n ∧ n.st = st

/-- Node `node` of `g` is done in `t`, and each of its edges has delivered at its target. -/
def delivered (t : State) (p : BitVec 16) (slot node : Nat) (g : Graph) (n : GNode) : Prop :=
  nodeIs t p slot node .done ∧ ∃ g', (engineOf t p).graph slot = some g' ∧
    ∀ j m, g.nodes[j]? = some m → ∃ m', g'.nodes[j]? = some m' ∧ m'.arrived = m.arrived + n.succ.count j

/-- The only changes are to what the stations cache and to the count of free values. -/
def onlyStations (s t : State) : Prop := t = { s with stations := t.stations, draws := t.draws }

/-- No write of unit `n` to replicated pages is outstanding (R312). -/
def noOwnWrites (n : Nat) (s : State) : Prop := ∀ w ∈ s.repl, w.core ≠ n

/-- In the graph of slot `k`, if it is admitted and has not ended, no waiting node has all its edges delivered, and some node is still to run. -/
def calm (s : State) (p : BitVec 16) (k : Nat) : Prop :=
  ∀ g, (engineOf s p).graph k = some g → g.admitted = true → g.ending = none →
    (∀ j m, g.nodes[j]? = some m → m.st = .waiting → m.arrived < edgesInto g.nodes j) ∧
    ∃ m ∈ g.nodes, m.st = .waiting ∨ m.st = .ready ∨ m.st = .running

/-- From `u`, in which what earlier deliveries made ready has fired, node `node` is done in `t`, and its edges alone have delivered. -/
def doneFrom (u t : State) (p : BitVec 16) (slot node : Nat) (succ : List Nat) : Prop :=
  ∀ g n, findNode u p slot node = some (g, n) → n.succ = succ → staysOpen g node n → t.mem = u.mem ∧ delivered t p slot node g n

/-- An IPEND bit of a core is set. -/
def pends (t : State) (core b : Nat) : Prop := (hartAt t core).irq.pend.getLsbD b = true

end Sys2Proof.Claims

/-- A read of a unit that has no write of its own to replicated pages outstanding, and every look-up of a counter's place, changes nothing but what the
stations cache (and the count of free values the model keeps); a write changes no register. -/
def Sys2Proof.Claims.ReadsOfUnitsChangeOnlyStations : Prop :=
  (∀ (s : State) (m : Nat) (p : BitVec 16) (sp : BitVec 20) (core : Nat) (am : AddrMode) (a n : Nat),
    noOwnWrites core s → onlyStations s (partyRead s m p sp core am a n).2) ∧
  (∀ (s : State) (m : Nat) (p : BitVec 16) (sp : BitVec 20) (need : Need) (r : Word), onlyStations s (partyRef s m p sp need r).2) ∧
  (∀ (s : State) (q : Party) (va n : Nat), noOwnWrites q.core s → onlyStations s (walkerRead s q va n).2) ∧
  (∀ (s s1 : State) (p : BitVec 16) (r : List Word), noOwnWrites Config.cores s → (schedule p).run s = .ok r s1 → onlyStations s s1) ∧
  (∀ (s : State) (m : Nat) (p : BitVec 16) (sp : BitVec 20) (core : Nat) (am : AddrMode) (a : Nat) (bs : List Byte),
    (partyWrite s m p sp core am a bs).2.hart = s.hart)

/-- Intake takes the slot of the ring that `taken` names once SUBF has passed it, and adds 1 to SUBD; admission gives the graph its nodes, or ends it
with status 1 at a record that breaks a rule. -/
def Sys2Proof.Claims.GraphsTaken : Prop :=
  ∀ (part slot : Nat) (s : State), noOwnWrites Config.cores s →
    (let p := BitVec.ofNat 16 part
     let e := engineOf s p
     (∀ d sp r a g s1 s2 s3, descOf s p = some d → e.susp = none → e.stopped = false → e.freeSlot = some slot → lowestSpace s p = some sp →
       (schedule p).run s = .ok r s1 → refKind (r.getD 1 0) = 1 → refKind (r.getD 2 0) = 1 → s.poisoned (refPlace (r.getD 1 0)) = false →
       reaches (s.counter (refPlace (r.getD 1 0))) (e.taken + 1) →
       (engWords p sp 0 ((r.getD 0 0).toNat + 8 * (e.taken.toNat % ((r.getD 7 0).toNat % 256 + 1))) 1).run s1 = .ok [a] s2 →
       (engWords p sp 0 a.toNat 8).run s2 = .ok g s3 →
       ∃ t, exec (.submissionIntake part) s = .next t ∧ t.counter (refPlace (r.getD 2 0)) = s.counter (refPlace (r.getD 2 0)) + 1 ∧
         onlyCounter (refPlace (r.getD 2 0)) s t ∧ (engineOf t p).taken = e.taken + 1 ∧
         ∃ x, (engineOf t p).graph slot = some x ∧ x.words = g ∧ x.admitted = false ∧ x.nodes = [] ∧ x.ending = none) ∧
     (∀ g ns s1, e.graph slot = some g → g.admitted = false → g.ending = none → g.susp = none → (admission p g).run s = .ok ns s1 →
       s1.engines = s.engines → (∀ k, calm s1 p k) →
       ∃ t, exec (.graphAdmit part slot) s = .next t ∧ t.mem = s1.mem ∧ t.hart = s1.hart ∧
         (engineOf t p).graph slot = some { g with admitted := true, nodes := ns }) ∧
     (∀ g, e.graph slot = some g → g.admitted = false → g.ending = none → g.susp = none → graphRecordOk g = false →
       ∃ t, exec (.graphAdmit part slot) s = .next t ∧ ((engineOf t p).graph slot = none ∨
         ∃ g' x, (engineOf t p).graph slot = some g' ∧ g'.ending = some (1, 0) ∧ g'.susp = some x)))

/-- Reads of units change only what stations cache; intake and admission of graphs. -/
def Obligations.GraphsAreTakenAndAdmitted : Prop :=
  Sys2Proof.Claims.ReadsOfUnitsChangeOnlyStations ∧ Sys2Proof.Claims.GraphsTaken

/-- A node becomes ready when its edges have delivered; a MARK node, a transfer whose command has ended without error and a cohort whose root is reached
are done and deliver their edges; a transfer whose command has ended fatally fails; a service is posted, and a transfer sends its command. A step that
delivers edges first fires the nodes that earlier deliveries have made ready (`fireAll`). -/
def Obligations.NodesFireAndComplete : Prop :=
  ∀ (part slot node : Nat) (s : State) (g : Graph) (n : GNode),
    (let p := BitVec.ofNat 16 part
     findNode s p slot node = some (g, n) → n.susp = none →
     (n.st = .waiting → edgesInto g.nodes node ≤ n.arrived → (edgesInto g.nodes node = 0 ∨ n.anyDone = true) → slot < 16 →
       (∀ j m, g.nodes[j]? = some m → m.st = .waiting → edgesInto g.nodes j ≤ m.arrived → edgesInto g.nodes j = 0 ∨ m.anyDone = true) →
       (∀ k, k ≠ slot → calm s p k) →
       ∃ t, exec (.nodeFire part slot node) s = .next t ∧ t.mem = s.mem ∧ t.hart = s.hart ∧ nodeIs t p slot node .ready ∧
         (slot, node) ∈ (engineOf t p).pool) ∧
     (n.st = .waiting → n.arrived < edgesInto g.nodes node → exec (.nodeFire part slot node) s = .next s) ∧
     (n.st = .ready → n.kind = 6 → accepts s p = true →
       ∃ t, exec (.nodeFire part slot node) s = .next t ∧ doneFrom (fireAll s p) t p slot node n.succ) ∧
     (n.kind = 1 → n.st = .ready → accepts s p = true →
       ∃ t, exec (.serviceNodePost part slot node) s = .next t ∧ t.mem = s.mem ∧ nodeIs t p slot node .running ∧
         (slot, node) ∉ (engineOf t p).pool) ∧
     (∀ w m s1, n.kind = 2 → n.st = .ready → accepts s p = true → (transferOf p g node n).run s = .ok (w, m) s1 →
       recordFits (transferOp n.aux) w (chipNo s1) = true →
       ∃ t c, exec (.transferNodeIssue part slot node) s = .next t ∧ t.mem = s1.mem ∧ t.copies = s1.copies ++ [c] ∧
         c.issuer = .node part slot node ∧ c.op = transferOp n.aux ∧ c.words = w ∧ c.ref = 0 ∧ c.space = g.space ∧ c.stage = .fabric ∧
         (∀ x y, (engineOf s1 p).graph slot = some x → x.nodes[node]? = some y → nodeIs t p slot node .running)) ∧
     (∀ ok, n.kind = 2 → n.st = .running → n.result = some true →
       ∃ t, exec (.nodeComplete part slot node ok) s = .next t ∧ doneFrom (fireAll s p) t p slot node n.succ) ∧
     (∀ ok, n.kind = 2 → n.st = .running → n.result = some false →
       ∃ t, exec (.nodeComplete part slot node ok) s = .next t ∧
         ((engineOf t p).graph slot = none ∨ nodeIs t p slot node .failed)) ∧
     (∀ x ok, n.kind = 0 → n.st = .running → n.words.getD 5 0 = 0 → rootOf (engineOf s p) n.cohort = some x → s.poisoned x.key = false →
       reaches (s.counter x.key) (BitVec.ofNat 64 x.thr) →
       ∃ t, exec (.nodeComplete part slot node ok) s = .next t ∧ doneFrom (fireAll (rootFired s p n.cohort) p) t p slot node n.succ))

namespace Sys2Proof.Claims

/-- The context that SAVED_CONTEXT_RESUME resumes on a core: that of a core held in its save, or else the saved one at the head of the pool, where it
may (R341, R343). -/
def resumesOn (s : State) (p : BitVec 16) (c : Context) (core : Nat) : Prop :=
  (engineOf s p).ctxs.find? (fun c => c.core == core && heldContext s c) = some c ∨
  ((engineOf s p).ctxs.find? (fun c => c.core == core && heldContext s c) = none ∧
    (∃ a, poolHead (engineOf s p) = some (16, a) ∧ (engineOf s p).ctxs.find? (fun c => c.area.toNat == a && c.use == .saved) = some c) ∧
    mayResume (engineOf s p) [] c core = true)

/-- Of the contexts that resume together with `c`, the others that are saved, and the others whose cores are held. -/
def savedOthers (c : Context) (l : List Context) : List Context := (l.filter fun x => x.area != c.area).filter fun x => x.use == .saved
def heldOthers (c : Context) (l : List Context) : List Context := (l.filter fun x => x.area != c.area).filter fun x => x.use != .saved

end Sys2Proof.Claims

/-- A cohort at the head of the pool is placed at the lowest base that serves: a resident context for each core, DISP of each core one higher, its node
running. -/
def Sys2Proof.Claims.CohortsArePlaced : Prop :=
  ∀ (part slot node b : Nat) (s s1 s2 : State) (g : Graph) (n : GNode) (r : List Word),
    (let p := BitVec.ofNat 16 part
     let cores := cohCores b n.words
     let jobs := startJobs s1 p r n.words b
     poolHead (engineOf s p) = some (slot, node) → findNode s p slot node = some (g, n) → n.susp = none → n.st = .ready → accepts s p = true →
     (schedule p).run s = .ok r s1 → placeBase s1 p r n.words = some b → (cores.map (·.1)).Nodup →
     (writeStart p g node r n.words jobs).run s1 = .ok () s2 → noOwnWrites Config.cores s2 →
     ∃ t, exec (.cohortPlace part) s = .next t ∧ (∀ x ∈ cores, t.counter (dispPlace x.1) = s2.counter (dispPlace x.1) + 1) ∧
       (slot, node) ∉ (engineOf t p).pool ∧
       (∀ y m, (engineOf s2 p).graph slot = some y → y.nodes[node]? = some m → nodeIs t p slot node .running) ∧
       ∀ x ∈ jobs, ∃ c ∈ (engineOf t p).ctxs, c.core = x.1 ∧ c.area = x.2.2.2.1 ∧ c.use = .busy)

/-- The engine frees the area of a context that has ended and keeps a saved one in the pool; a tree counter adds to its parent or poisons it. A saved
context, and at once that of a core held in its save, resumes with the saved and held members of its domain at the scheduling level, each with an add to
DISP of its core, or none of them does. SLICE, PRE and STALL are raised as the schedule record says. Expiries are events without a clock (log entry
34), and a core held in a save is dispatched before its save ends, the members of a domain together (log entry 91). CYCLE of the stall report is that of
the lowest waiting core, which STALL is raised on (log entry 50). -/
def Sys2Proof.Claims.ContextsEndAndResume : Prop :=
  (∀ (core : Nat) (s s1 : State) (c : Context) (st : Nat) (mv pk : Bool) (dm : Word),
    (let p := partOfCluster s (clusterOf core)
     let e := engineOf s p
     core ∉ s.doubles → e.endc.find? (fun x => x.1 == core) = none → s.counter (endcPlace core) ≠ 0 →
     e.ctxs.find? (fun c => c.core == core && c.use != .saved) = some c → (readArea p c.area).run s = .ok (st, mv, dm, pk) s1 →
     forcedQuiet s1 p = false →
     (st ≠ 1 → ∃ t, exec (.endcObserve core) s = .next t ∧ t.mem = s1.mem ∧ ∀ x ∈ (engineOf t p).ctxs, x.area ≠ c.area) ∧
     (st = 1 → c.use = .busy → c ∈ (engineOf s1 p).ctxs → (∀ k, calm s1 p k) → ∃ t, exec (.endcObserve core) s = .next t ∧ t.mem = s1.mem ∧
       (16, c.area.toNat) ∈ (engineOf t p).pool ∧ ∃ x ∈ (engineOf t p).ctxs, x.area = c.area ∧ x.use = .saved ∧ x.dmem = dm) ∧
     (st = 1 → c.use = .again → c ∈ (engineOf s1 p).ctxs → ∃ t, exec (.endcObserve core) s = .next t ∧ t.mem = s1.mem ∧
       ∃ x ∈ (engineOf t p).ctxs, x.area = c.area ∧ x.use = .busy ∧ x.dmem = dm))) ∧
  (∀ (k key up : Nat) (s : State) (p : BitVec 16) (x : TreeNode), treeAt s key = some (p, x) → x.parent = some up →
    (s.wakes[k]? = some ⟨.forward key, 0⟩ → ∃ t, exec (.treeForward k) s = .next t ∧ t.counter up = s.counter up + 1 ∧ onlyCounter up s t) ∧
    (s.wakes[k]? = some ⟨.forward key, 1⟩ → ∃ t, exec (.treeForward k) s = .next t ∧ t.poisoned up = true ∧ t.mem = s.mem)) ∧
  (∀ (part core : Nat) (s s1 : State) (c : Context) (r : List Word),
    (let p := BitVec.ofNat 16 part
     let e := engineOf s1 p
     forcedQuiet s p = false → resumesOn s p c core → contextWaits s p c = false → (schedule p).run s = .ok r s1 →
     (together s1 e (schedLevel r) c = none → exec (.savedContextResume part core) s = .next s1) ∧
     (∀ l, together s1 e (schedLevel r) c = some l →
       (resumeCores e [core] (savedOthers c l) = none → exec (.savedContextResume part core) s = .next s1) ∧
       (∀ k s2, resumeCores e [core] (savedOthers c l) = some k →
         (let all := (c, core) :: ((heldOthers c l).map (fun x => (x, x.core)) ++ k)
          (writeResume p r all).run s1 = .ok () s2 → (all.map (·.2)).Nodup → (all.map (·.1.area)).Nodup → (∀ y ∈ all, y.2 < Config.cores) →
          (∀ y ∈ all, y.1 ∈ (engineOf s2 p).ctxs) → noOwnWrites Config.cores s2 →
          ∃ t, exec (.savedContextResume part core) s = .next t ∧ ∀ y ∈ all,
            t.counter (dispPlace y.2) = s2.counter (dispPlace y.2) + 1 ∧ (16, y.1.area.toNat) ∉ (engineOf t p).pool ∧
            ∃ x ∈ (engineOf t p).ctxs, x.area = y.1.area ∧ x.core = y.2 ∧ x.use = if y.1.use = .saved then .busy else .again))))) ∧
  (∀ (part core : Nat) (s s1 : State) (r : List Word),
    (let p := BitVec.ofNat 16 part
     (schedule p).run s = .ok r s1 → schedQuant r ≠ 0 → coreFree (engineOf s1 p) core = false →
     domainAt (hartAt s1 core).dmem (schedLevel r) = 0xFFFF → (engineOf s1 p).pool.any (wants (engineOf s1 p) p [core]) = true →
     ∃ t, exec (.sliceQuantumExpiry part core) s = .next t ∧ pends t core 1 ∧ t.mem = s1.mem)) ∧
  (∀ (core : Nat) (s s1 : State) (r : List Word),
    (let p := partOfCluster s (clusterOf core)
     (schedule p).run s = .ok r s1 → schedForce r ≠ 0 → coreFree (engineOf s1 p) core = false → pends s1 core 1 →
     ∃ t, exec (.forceWindowExpiry core) s = .next t ∧ pends t core 0 ∧ t.mem = s1.mem)) ∧
  (∀ (part k : Nat) (s s1 s2 : State) (r : List Word) (w : Nat × Word × Word) (rest : List (Nat × Nat × Word × Word)),
    (let p := BitVec.ofNat 16 part
     let e := engineOf s1 p
     (schedule p).run s = .ok r s1 → allWaiting s1 e = some ((k, w) :: rest) → schedStall r ≠ 0 → othersRunning e = false →
     stuckCohort s1 p r = true → (writeStall p r (stallReport (hartAt s1 k).irq.cycle ((k, w) :: rest))).run s1 = .ok () s2 →
     ∃ t, exec (.stallWatchdogExpiry part) s = .next t ∧ pends t k 3 ∧ t.mem = s2.mem))

/-- Cohorts are placed; contexts end, resume, and are sliced; the completion tree forwards. Expiries are events without a clock (log entry 34),
and a core held in a save is dispatched before its save ends, the members of a domain together (log entry 91). CYCLE of the stall report is that
of the lowest waiting core, which STALL is raised on (log entry 50). -/
def Obligations.CohortsAndContexts : Prop :=
  Sys2Proof.Claims.CohortsArePlaced ∧ Sys2Proof.Claims.ContextsEndAndResume

/-! ## The service kernel -/

/-- A request of a service core's ring is answered: with 2 where a field is wrong; a fault on a page mapped with what the access needs with 0, on one
without it with 1; a map with 0 once the entry holds the attributes and the frame, and with 2 where the page is mapped; a change of attributes with 0
once the entry holds the new ones and no station the page, and with 2 without an entry; an unmap with 0 once the entry is 0 and no station holds the
page. The answer adds 1 to REPLY and then to DRAINED. The answers 2 for a mapped and for a missing page, the space of the ring and what a fault finds
are the model's reading (log entries 14, 16 and 17). -/
def Obligations.ServiceRequestsAreAnswered : Prop :=
  (∀ (m part f : Nat) (o : Option Nat) (s s1 : State) (r : List Word),
    (let p := BitVec.ofNat 16 part
     let va := reqVa r
     let page := (walkPath s1 p (reqSpace r) va).2
     let leaf := leafSlot s1 p (reqSpace r) va
     (nextRequest p m).run s = .ok (some r) s1 →
     (requestOk s1 p r = false → ∀ i ∈ [Instr.serviceMap m part f, .serviceFault m part o, .serviceUnmap m part, .serviceChangeAttributes m part],
       exec i s = .next (answerRequest s1 p m r 2)) ∧
     (∀ e big, requestOk s1 p r = true → reqOp r = 1 → page = some (e, big) →
       ((r.getD 3 0).getLsbD 0 = true → pteR e = true) → ((r.getD 3 0).getLsbD 1 = true → pteW e = true) →
       ((r.getD 3 0).getLsbD 2 = true → pteX e = true) → exec (.serviceFault m part o) s = .next (answerRequest s1 p m r 0)) ∧
     (∀ e big, requestOk s1 p r = true → reqOp r = 1 → page = some (e, big) → (r.getD 3 0).getLsbD 1 = true → pteW e = false →
       exec (.serviceFault m part o) s = .next (answerRequest s1 p m r 1)) ∧
     (requestOk s1 p r = true → reqOp r = 2 → page ≠ none → 0 < reqCount r →
       exec (.serviceMap m part f) s = .next (answerRequest s1 p m r 2)) ∧
     (requestOk s1 p r = true → reqOp r = 4 → leaf = none → 0 < reqCount r →
       exec (.serviceChangeAttributes m part) s = .next (answerRequest s1 p m r 2)) ∧
     (∀ x0 x1 q, requestOk s1 p r = true → reqOp r = 2 → reqCount r = 1 → walkPath s1 p (reqSpace r) va = ([x0, x1, q], none) →
       (let slot := q + 8 * (va / 2 ^ 16 % 2 ^ 13)
        let entry := reqEnt r ||| BitVec.ofNat 64 (f % 2 ^ 36 * 65536)
        pteV (s1.mem.readWord slot) = false → leafOk entry 65536 = true → hbmExhausted s1 p = false → hbmReached s1 p 65536 = false →
        s1.mgmt.released = [] → s1.mgmt.kept = [] → (slot + 8 ≤ usagePlace p 0 ∨ usagePlace p 7 ≤ slot) →
        ∃ s2, exec (.serviceMap m part f) s = .next (answerRequest s2 p m r 0) ∧ s2.mem.readWord slot = entry ∧
          ∀ q, (q < slot ∨ slot + 8 ≤ q) → (q < usagePlace p 0 ∨ usagePlace p 7 ≤ q) → s2.mem.read q = s1.mem.read q)) ∧
     (∀ a e, requestOk s1 p r = true → reqOp r = 4 → reqCount r = 1 → leaf = some (a, e) →
       (let new := (e &&& 0xFC0FFFFFFFFF0000) ||| reqEnt r
        leafOk new 65536 = true → pagesQuiet s1 p (reqSpace r) [va] = true → s1.mgmt.released = [] → s1.mgmt.kept = [] →
        ∃ s2, exec (.serviceChangeAttributes m part) s = .next (answerRequest s2 p m r 0) ∧ s2.mem.readWord a = new ∧
          (∀ q, (q < a ∨ a + 8 ≤ q) → s2.mem.read q = s1.mem.read q) ∧
          ∀ c ∈ s2.stations, c.space = reqSpace r → c.big = false → c.page ≠ va / 2 ^ 16)) ∧
     (∀ a e, requestOk s1 p r = true → reqOp r = 3 → reqCount r = 1 → leaf = some (a, e) → pagesQuiet s1 p (reqSpace r) [va] = true →
       (a + 8 ≤ usagePlace p 0 ∨ usagePlace p 7 ≤ a) →
       ∃ s2, exec (.serviceUnmap m part) s = .next (answerRequest s2 p m r 0) ∧ s2.mem.readWord a = 0 ∧
         (∀ q, (q < a ∨ a + 8 ≤ q) → (q < usagePlace p 0 ∨ usagePlace p 7 ≤ q) → s2.mem.read q = s1.mem.read q) ∧
         ∀ c ∈ s2.stations, c.space = reqSpace r → c.big = false → c.page ≠ va / 2 ^ 16))) ∧
  (∀ (s s1 s2 : State) (p : BitVec 16) (m code k key : Nat) (r : List Word) (d : Descriptor) (sp : BitVec 20), (reqRes r).toNat % 8 = 0 →
    (reqRes r).toNat < 2 ^ 55 → (svcWrite m p (reqSpace r) (reqRes r).toNat (toBytes 8 code)).run s = .ok () s1 → addForm (reqReply r) = true →
    refReach s1 p false (reqReply r) = true → partyRef s1 m p (reqSpace r) needRW (reqReply r) = (.at k, s2) → noOwnWrites Config.cores s2 →
    (let u := counterAdd s2 k 1
     descOf u p = some d → lowestSpace u p = some sp → (partyRef u m p sp needRW (ringCounter d m 1)).1 = .at key →
     (answerRequest s p m r code).counter key = u.counter key + 1 ∧ onlyCounter key u (answerRequest s p m r code)))

/-- A LOAD to which the kernel's routine (`load`) answers 0 makes its node done, one with another code fails it; every page of the text that has an
entry gets X with a station invalidation, and bytes of the image go to the page they are placed at. UNLOAD first adds 1 to GENC, waits while some core
or saved area of the partition has not reached that generation, and is done when its routine (`unload`) answers 0. Each sector's replica applies the
writes to a replicated page in their order. How a generation and the pages of an image are kept is the model's choice (log entry 19). -/
def Obligations.LoadingAndReplicas : Prop :=
  (∀ (part slot node frame : Nat) (s s1 : State) (g : Graph) (n : GNode) (code : Nat),
    (let p := BitVec.ofNat 16 part
     postedService s p slot node 0 = some (g, n) → load p g.space n.aux.toNat frame s = (some code, s1) →
     (code = 0 → ∃ t, exec (.serviceLoad part slot node frame) s = .next t ∧ doneFrom (fireAll s1 p) t p slot node n.succ) ∧
     (code ≠ 0 → s1.engines = s.engines → ∃ t, exec (.serviceLoad part slot node frame) s = .next t ∧
       ((engineOf t p).graph slot = none ∨ nodeIs t p slot node .failed)))) ∧
  (∀ (s : State) (p : BitVec 16) (sp : BitVec 20) (key e : Word) (f tf va a : Nat), leafSlot s p sp va = some (a, e) →
    ∃ t, textPage p sp key (some (f, tf, s)) va = some (f, tf, t) ∧ t.mem.readWord a = e ||| 8 ∧
      (∀ q, (q < a ∨ a + 8 ≤ q) → t.mem.read q = s.mem.read q) ∧ ∀ c ∈ t.stations, c.space = sp → c.big = false → c.page ≠ va / 2 ^ 16) ∧
  (∀ (s s1 : State) (p : BitVec 16) (sp : BitVec 20) (va : Nat) (bs : List Byte) (g : Seg),
    globalAccess s (firstSlice p) p sp ⟨false, false⟩ va bs.length = (.ok [g], s1) → g.ok = true → pteRepl g.entry = false → g.len = bs.length →
    (placeBytes s p sp va bs).mem.readN g.place bs.length = bs ∧
      ∀ q, (q < g.place ∨ g.place + bs.length ≤ q) → (placeBytes s p sp va bs).mem.read q = s.mem.read q) ∧
  (∀ (part slot node key : Nat) (frame : Option Nat) (s s1 s2 : State) (g : Graph) (n : GNode) (r : List Word) (sp : BitVec 20),
    (let p := BitVec.ofNat 16 part
     postedService s p slot node 1 = some (g, n) → n.pass = 0 → (schedule p).run s = .ok r s1 → lowestSpace s1 p = some sp →
     (engRef p sp 0 needRW (r.getD 5 0)).run s1 = .ok key s2 → noOwnWrites Config.cores s2 → s2.engines = s.engines →
     ∃ t, exec (.serviceUnload part slot ⟨node, frame⟩) s = .next t ∧ t.counter key = s2.counter key + 1 ∧ onlyCounter key s2 t ∧
       nodeIs t p slot node .running ∧ ∃ g' n', (engineOf t p).graph slot = some g' ∧ g'.nodes[node]? = some n' ∧
         n'.pass = (s2.counter key + 1).toNat % 2 ^ 24 + 1)) ∧
  (∀ (part slot node : Nat) (frame : Option Nat) (s s1 : State) (g : Graph) (n : GNode),
    (let p := BitVec.ofNat 16 part
     postedService s p slot node 1 = some (g, n) → n.pass ≠ 0 → (generationsReached p (BitVec.ofNat 24 (n.pass - 1))).run s = .ok false s1 →
     exec (.serviceUnload part slot ⟨node, frame⟩) s = .next s1)) ∧
  (∀ (part slot node : Nat) (frame : Option Nat) (s s1 : State) (g : Graph) (n : GNode),
    (let p := BitVec.ofNat 16 part
     postedService s p slot node 1 = some (g, n) → n.pass ≠ 0 →
     unload p g.space n.aux.toNat frame (BitVec.ofNat 24 (n.pass - 1)) s = (some 0, s1) →
     ∃ t, exec (.serviceUnload part slot ⟨node, frame⟩) s = .next t ∧ doneFrom (fireAll s1 p) t p slot node n.succ)) ∧
  (∀ (s : State) (k : Fin 3) (w : ReplWrite), s.repl[s.applied[k]]? = some w → (∀ x, s.repl[s.applied[k] + 1]? = some x → w.num < x.num) →
    ∃ t, exec (.replicaApply k) s = .next t ∧
      (∀ i, i < w.data.length → t.mem.read (w.place + k.val * 2 ^ 40 + i) = w.data.getD i 0) ∧
      (∀ p, (p < w.place + k.val * 2 ^ 40 ∨ w.place + k.val * 2 ^ 40 + w.data.length ≤ p) → t.mem.read p = s.mem.read p) ∧
      (s.applied[k] = 0 → (∀ j : Fin 3, j ≠ k → 0 < s.applied[j]) → t.repl = s.repl.drop 1) ∧
      ((∃ j : Fin 3, j ≠ k ∧ s.applied[j] = 0) → t.repl = s.repl ∧ t.applied[k] = s.applied[k] + 1))

/-! ## Hosts -/

namespace Sys2Proof.Claims

/-- The record of one host port. -/
def portAt (t : State) (p : HostPort) : HostPortState := t.ports[p]

/-- Word `k` of host memory of a port from address `a`. -/
def hostWord (t : State) (p : HostPort) (a k : Nat) : Word := t.mem.readWord (hostPlace p.val a + 8 * k)

/-- The fields of a decoder (R376), each by its lowest bit and its width: HDM-DB, the size, the base, and the virtual base, whose low 16 bits are
zero, with the space above it. -/
def decBits : List (Nat × Nat) := [(1, 1), (2, 14), (16, 48), (121, 39), (160, 20)]

/-- A command of a queue that fails when the instance of port `p` restarts: a management service goes with the instance of slice 0. -/
def goesWith (p : HostPort) (c : Running) : Bool := p.val == 0 || !(c.op == 3 && mgmtService (c.a0.toNat % 4096))

end Sys2Proof.Claims

/-- A host access through a decoder reads or writes the bytes it reaches, a read those it has itself written; with no decoder it reads poison and
writes nothing. A read-modify-write in an HDM-DB range is one step, which writes where it finds the value that the host has computed from (log entry
23). BSTAT and CMDD read as the manual lays them out, and a queue that is unbound or in ERROR reads as all ones. A store to CMDF reaches the counter
where the interface accepts stores. A completion that an expander or a host refuses, or that does not come, raises ERR for a store, will poison the
register of a load, and ends a walk with FAULT; a page may begin to report an error to every access, and answer again. What asks for a completion is
the model's choice (log entry 41). -/
def Obligations.HostAccessesComplete : Prop :=
  (∀ (s s1 : State) (p : HostPort) (hpa n va : Nat) (space : BitVec 20) (part : BitVec 16) (l : List Seg), portServes s p = true →
    decode' (portAt s p) hpa n = some (space, va) → boundPart s p space = some part → va + n ≤ 2 ^ 55 →
    globalAccess s (portSlice p) part space needR va n = (.ok l, s1) → l.all Seg.ok = true →
    (let u := settleOwn Config.cores 0 l s1
     ∃ t, exec (.hostMemRead p (.mem hpa) n) s = .next t ∧ (portAt t p).answer = some (readSegs u 0 l) ∧ t.mem = u.mem ∧
       (noOwnWrites Config.cores s → SameMemory s t) ∧ t.hart = s.hart)) ∧
  (∀ (s s1 : State) (p : HostPort) (hpa va : Nat) (data : List Byte) (space : BitVec 20) (part : BitVec 16) (g : Seg), portServes s p = true →
    decode' (portAt s p) hpa data.length = some (space, va) → boundPart s p space = some part → va + data.length ≤ 2 ^ 55 →
    globalAccess s (portSlice p) part space needW va data.length = (.ok [g], s1) → g.ok = true → pteRepl g.entry = false → g.len = data.length →
    ∃ t, exec (.hostMemWrite p hpa (.bytes data)) s = .next t ∧ (∀ i, i < data.length → t.mem.read (g.place + i) = data.getD i 0) ∧
      SameOutside [g] s t ∧ t.hart = s.hart) ∧
  (∀ (s s1 : State) (p : HostPort) (hpa va : Nat) (data old : List Byte) (space : BitVec 20) (part : BitVec 16) (d : BitVec 192) (g : Seg),
    portServes s p = true → decoderOf (portAt s p) hpa data.length = some d → d.getLsbD 1 = true →
    decode' (portAt s p) hpa data.length = some (space, va) → boundPart s p space = some part → va + data.length ≤ 2 ^ 55 →
    globalAccess s (portSlice p) part space needRW va data.length = (.ok [g], s1) → g.ok = true → pteRepl g.entry = false → g.len = data.length →
    ∃ t, exec (.hostMemWrite p hpa (.update old data)) s = .next t ∧ (portAt t p).answer = some (readSegs s1 0 [g]) ∧ SameOutside [g] s t ∧
      (readSegs s1 0 [g] = old → ∀ i, i < data.length → t.mem.read (g.place + i) = data.getD i 0) ∧
      (readSegs s1 0 [g] ≠ old → SameMemory s t)) ∧
  (∀ (s : State) (p : HostPort) (hpa n : Nat) (data : List Byte), decode' (portAt s p) hpa n = none → data.length = n →
    (∃ t, exec (.hostMemRead p (.mem hpa) n) s = .next t ∧ (portAt t p).answer = none ∧ t.mem = s.mem) ∧
    exec (.hostMemWrite p hpa (.bytes data)) s = .next s) ∧
  (∀ (s : State) (p : HostPort) (q : Queue) (n : Nat), s.mgmt.power = true →
    (∃ t w, exec (.hostMemRead p (.reg .bstat) n) s = .next t ∧ (portAt t p).answer = some (wordBytes w) ∧ t.mem = s.mem ∧
      w.getLsbD 0 = s.mgmt.ready ∧ w.getLsbD 1 = s.mgmt.fail ∧ w.getLsbD 2 = s.mgmt.fatal ∧ w.getLsbD 3 = s.mgmt.dump ∧
      w.extractLsb' 4 4 = 0 ∧ w.extractLsb' 8 8 = s.mgmt.step ∧ w.extractLsb' 16 16 = s.mgmt.code ∧ w.extractLsb' 32 32 = 0) ∧
    ∃ t, exec (.hostMemRead p (.reg (.cmdd q)) n) s = .next t ∧ t.mem = s.mem ∧
      ((s.queue p q).bound = true → (portAt s p).tdisp ≠ .error → (portAt t p).answer = some (wordBytes (s.queue p q).cmdd)) ∧
      ((s.queue p q).bound = false ∨ (portAt s p).tdisp = .error → (portAt t p).answer = some (List.replicate 8 255))) ∧
  (∀ (s : State) (p : HostPort) (q : Queue) (v : Word),
    (acceptsStores s p q = true → ∃ t, exec (.cmdfWrite p q v) s = .next t ∧ t.counter (queuePlace p q 0x40) = v ∧
      onlyCounter (queuePlace p q 0x40) s t) ∧
    (acceptsStores s p q = false → exec (.cmdfWrite p q v) s = .next s)) ∧
  (∀ (core k : Nat) (s : State) (x : PendingStore), (hartAt s core).stores.find? PendingStore.far = some x →
    ∃ t, exec (.cxlCompletionTimeout (.core core) true k) s = .next t ∧ pends t core 5 ∧
      (hartAt t core).ost.ret = (hartAt s core).ost.ret + 1 ∧ (hartAt t core).stores = (hartAt s core).stores.erase x ∧ t.mem = s.mem) ∧
  (∀ (core k : Nat) (s : State) (x : PendingLoad), (hartAt s core).loads[k]? = some x →
    farPage s (partOfCluster s (clusterOf core)) (hartAt s core).spid x.addr.toNat = true →
    ∃ t, exec (.cxlCompletionTimeout (.core core) false k) s = .next t ∧ (hartAt t core).loads[k]? = some { x with bad := true } ∧ t.mem = s.mem) ∧
  (∀ (s : State) (w : Walk) (va : Word) (b : Bool) (k : Nat), s.hart.walk = some w → farPage s w.part w.space va.toNat = true → w.susp = none →
      w.fail = none →
    w.failed = none → w.closing = none →
    ∃ t, exec (.cxlCompletionTimeout (.walk w.id va) b k) s = .next t ∧ t.hart = { s.hart with walk := some { w with failed := some (7, va, 0) } } ∧
      t.mem = s.mem) ∧
  (∀ (s : State) (a : Nat) (b : Bool) (k : Nat), 2 ^ 50 ≤ a → a < 2 ^ 56 →
    exec (.cxlCompletionTimeout (.page a) b k) s = .next { s with dark := a / 65536 * 65536 :: s.dark } ∧
    exec (.cxlCompletionTimeout (.back a) b k) s = .next { s with dark := s.dark.filter fun x => x != a / 65536 * 65536 })

/-- BAR0 and the decoders take a write in UNLOCKED, and a write to them drops an interface that is locked or runs to ERROR; a locked interface starts, a
started one stops with its queues clear; the IDE keys are set up and the certificate is read over SPDM, and the reports of the interface answer in the
mailbox. The low bits of BAR0 are the model's reading (log entry 23). -/
def Obligations.InterfacesFollowTheirStates : Prop :=
  ∀ (s : State) (p : HostPort),
    (∀ (i : Fin 8) (v : BitVec 192),
      (s.mgmt.power = true → (portAt s p).tdisp = .unlocked → ∃ t, exec (.hostRegisterWrite p .bar0 v) s = .next t ∧
        (portAt t p).bar0.toNat = (v.toNat % 2 ^ 64) / 2 ^ 22 * 2 ^ 22 ∧ (portAt t p).tdisp = .unlocked ∧ t.mem = s.mem) ∧
      (s.mgmt.power = true → (portAt s p).tdisp = .unlocked → ∃ t d, exec (.hostRegisterWrite p (.decoder i) v) s = .next t ∧
        (portAt t p).decoders = (portAt s p).decoders.set i d ∧ (portAt t p).tdisp = .unlocked ∧ t.mem = s.mem ∧
        ∀ k, k < 192 → d.getLsbD k = (decBits.any (fun r => r.1 ≤ k && k < r.1 + r.2) && v.getLsbD k)) ∧
      (s.mgmt.power = false → ∀ r, exec (.hostRegisterWrite p r v) s = .next s) ∧
      (s.mgmt.power = true → (portAt s p).tdisp = .locked ∨ (portAt s p).tdisp = .run →
          ∀ r ∈ [HostReg.bar0, .decoder i], ∃ t, exec (.hostRegisterWrite p r v) s = .next t ∧
        (portAt t p).tdisp = .error ∧ (portAt t p).bar0 = (portAt s p).bar0 ∧ (portAt t p).decoders = (portAt s p).decoders)) ∧
    ((portAt s p).tdisp = .unlocked → decodersPass s p = true → ∃ t, exec (.lockInterfaceRequest p) s = .next t ∧ (portAt t p).tdisp = .locked ∧
      (portAt t p).doe = [0] ∧ t.mem = s.mem) ∧
    ((portAt s p).tdisp ≠ .unlocked ∨ decodersPass s p = false → ∃ t, exec (.lockInterfaceRequest p) s = .next t ∧
      (portAt t p).tdisp = (portAt s p).tdisp ∧ (portAt t p).doe = [1]) ∧
    ((portAt s p).tdisp = .locked → ∃ t, exec (.startInterfaceRequest p) s = .next t ∧ (portAt t p).tdisp = .run) ∧
    ((portAt s p).tdisp ≠ .unlocked → ∃ t, exec (.stopInterfaceRequest p) s = .next t ∧ (portAt t p).tdisp = .unlocked ∧
      (∀ a, a < 2 ^ 22 → t.mem.read (windowPlace p.val a) = 0) ∧
      (∀ a, (a < windowPlace p.val 0 ∨ windowPlace p.val (2 ^ 22) ≤ a) → t.mem.read a = s.mem.read a) ∧
      ∀ q, (t.queue p q).cmdd = 0 ∧ (t.queue p q).waiting = [] ∧ (t.queue p q).running = []) ∧
    (∃ t, exec (.cxlFunctionLevelReset p) s = .next t ∧ (portAt t p).tdisp = .unlocked ∧
      (∀ a, a < 2 ^ 22 → t.mem.read (windowPlace p.val a) = 0) ∧ ∀ q, (t.queue p q).cmdd = 0 ∧ (t.queue p q).waiting = []) ∧
    ((portAt s p).tdisp = .run ∨ (portAt s p).tdisp = .locked → ∃ t, exec (.ideIntegrityFailure p) s = .next t ∧ (portAt t p).tdisp = .error) ∧
    (∃ t, exec (.getDeviceInterfaceReport p) s = .next t ∧ (portAt t p).doe.head? = some (portAt s p).bar0 ∧ (portAt t p).doe.length = 89 ∧
      t.mem = s.mem) ∧
    (∃ t, exec (.spdmMessage p true) s = .next t ∧ (portAt t p).keys = true ∧ t.mem = s.mem) ∧
    (∃ t, exec (.spdmMessage p false) s = .next t ∧ (portAt t p).doe = Config.certificate ∧ t.mem = s.mem)

/-- The record that CMDD names is taken once CMDF covers it: NOP completes, ADD adds to its counter, a record that breaks a rule completes with its
refusal, SUBMIT goes on with its slot in the ring, a management service goes on until it ends, a service of the kernel's own reports what it did; a
completion reaches its slot of the host's ring, then CPLW. At a restart of the port's instance of the service kernel the commands that it had taken
and not ended complete FAILED, those of the management services with the instance of slice 0 (log entry 33). How SUBMIT waits and that services 16 and
17 are a partition switch are the model's choice (log entries 22 and 92). -/
def Obligations.HostCommandsComplete : Prop :=
  ∀ (s : State) (p : HostPort) (q : Queue) (j : Word) (w : List Word),
    (let r := s.queue p q
     let goes (t : State) : Prop := (t.queue p q).cmdd = r.cmdd + 1
     (nextCommand s p q 0 = some (j, w) → ∃ t, exec (.commandNop p q) s = .next t ∧ goes t ∧ (t.queue p q).waiting = r.waiting ++ [⟨j, 0, 0⟩] ∧
       t.mem = s.mem ∧ t.hart = s.hart) ∧
     (∀ c, nextRecord s p q = some (j, w) → cmdRefusal s r j w = some c → ∃ t, exec (.commandRefused p q) s = .next t ∧ goes t ∧
       (t.queue p q).waiting = r.waiting ++ [⟨j, BitVec.ofNat 64 (c % 256), 0⟩] ∧ t.mem = s.mem) ∧
     (∀ key s1, nextCommand s p q 2 = some (j, w) → noOwnWrites Config.cores s →
       (svcRef (6 * p.val) r.part r.space needRW (w.getD 2 0)).run s = .ok key s1 →
       ∃ t, exec (.commandAdd p q) s = .next t ∧ t.counter key = s.counter key + w.getD 3 0 ∧ onlyCounter key s t) ∧
     (∀ x s1, nextCommand s p q 1 = some (j, w) → (submit (6 * p.val) r.part (w.getD 2 0)).run s = .ok (some x) s1 → s1.ports = s.ports →
       ∃ t, exec (.commandSubmit p q) s = .next t ∧ goes t ∧ (t.queue p q).running = r.running ++ [⟨j, 1, x, 0, 0⟩] ∧ t.mem = s1.mem) ∧
     (∀ ok detail result, nextCommand s p q 3 = some (j, w) → 2 ≤ (w.getD 2 0).toNat % 4096 → (w.getD 2 0).toNat % 4096 ≤ 5 →
       ∃ t, exec (.commandService p q ok detail result) s = .next t ∧ goes t ∧ t.mem = s.mem ∧ (t.queue p q).waiting = r.waiting ∧
         (t.queue p q).running = r.running ++ [⟨j, 3, w.getD 2 0, w.getD 3 0, 0⟩]) ∧
     (∀ ok detail result, nextCommand s p q 3 = some (j, w) → 16 ≤ (w.getD 2 0).toNat % 4096 → switchNumber ((w.getD 2 0).toNat % 4096) = false →
       ∃ t, exec (.commandService p q ok detail result) s = .next t ∧ goes t ∧ t.mem = s.mem ∧
         (t.queue p q).waiting = r.waiting ++ [⟨j, BitVec.ofNat 64 ((if ok then 0 else 1) + 256 * detail.toNat), result⟩]) ∧
     (∀ c rest, r.running = [] → r.waiting = c :: rest → delivery s p q = .write → r.cplw.toNat < r.cplc.toNat + r.cpln.toNat →
       0 < r.cpln.toNat → noOwnWrites Config.cores s → r.cpla.toNat + 64 + 32 * r.cpln.toNat ≤ 2 ^ 52 →
       ∃ t, exec (.completionWrite p q) s = .next t ∧ (t.queue p q).cplw = r.cplw + 1 ∧ (t.queue p q).waiting = rest ∧
         (let a := r.cpla.toNat + 64 + 32 * (r.cplw.toNat % r.cpln.toNat)
          hostWord t p a 0 = r.cplw ∧ hostWord t p a 1 = c.seq ∧ hostWord t p a 2 = c.status ∧ hostWord t p a 3 = c.result) ∧
         hostWord t p r.cpla.toNat 0 = r.cplw + 1) ∧
     (∃ t, exec (.serviceKernelInstanceRestart (6 * p.val)) s = .next t ∧ t.mem = s.mem ∧
       (t.queue p q).running = r.running.filter (fun c => !goesWith p c) ∧
       (t.queue p q).waiting = r.waiting ++ (r.running.filter (goesWith p)).map fun c => ⟨c.seq, 1, 0⟩))

/-! ## Links -/

/-- A whole ADD message that the import table admits adds at its counter and is acknowledged; a flit that breaks a rule changes nothing; an ACK ends its
message and a FAIL is reported; at its time-out an incomplete message is dropped and an unheard one sent again or given up; a held one is performed. The
time-outs are events without a clock (log entry 34). What the model keeps of answers and reports is its choice (log entries 26, 27 and 28). -/
def Obligations.LinkMessagesComplete : Prop :=
  (∀ (s : State) (f : Flit), flitBad s f = true → exec (.flitReceive f) s = .next s) ∧
  (∀ (s : State) (f : Flit) (e : ImportEntry),
    (let r := BitVec.ofNat 64 (leNat (f.payload.take 8))
     let x := BitVec.ofNat 64 (leNat ((f.payload.drop 8).take 8))
     flitBad s f = false → f.kind = 3 → f.len = 16 → f.off = 0 → 16 ≤ f.payload.length →
     (∀ y ∈ s.links.partials, ¬ (y.first.src = f.src ∧ y.first.sseq = f.sseq)) → windowAnswer s f.src f.sseq = none →
     importFor s f.src f.part f.dom = some e → e.perm.getLsbD 3 = true → noOwnWrites Config.cores s → refKind r = 1 → refForm r = true →
     refReach s e.part false r = true → f.src ≠ chipNo s →
     ∃ t, exec (.flitReceive f) s = .next t ∧ t.counter (refPlace r) = s.counter (refPlace r) + x ∧ onlyCounter (refPlace r) s t ∧
       t.links.control = s.links.control ++ [⟨f.src, false, f.sseq, 0, []⟩])) ∧
  (∀ (s : State) (f : Flit) (m : OutMsg), flitBad s f = false → f.kind = 5 → f.payload.head? = some 0 → findMessage s f.src f.sseq = some m →
    ∃ t, exec (.flitReceive f) s = .next t ∧ ∀ x ∈ t.links.out, ¬ (x.dst = f.src ∧ x.sseq = f.sseq)) ∧
  (∀ (s : State) (f : Flit), flitBad s f = false → f.kind = 6 →
    ∃ t, exec (.flitReceive f) s = .next t ∧ t.mem = s.mem ∧ ∃ n, t.links.reports = s.links.reports ++ [(f.src, n)]) ∧
  (∀ (s : State) (src : BitVec 12) (n : BitVec 32) (x : Partial), x ∈ s.links.partials → x.first.src = src → x.first.sseq = n →
    ∃ t, exec (.reassemblyTimeout src n) s = .next t ∧ t.mem = s.mem ∧ t.links.reports = s.links.reports ++ [(src, n)] ∧
      ∀ y ∈ t.links.partials, ¬ (y.first.src = src ∧ y.first.sseq = n)) ∧
  (∀ (s : State) (dst : BitVec 12) (n : BitVec 32) (m : OutMsg), findMessage s dst n = some m → m.sent = true →
    (m.retries < 7 → dst ≠ chipNo s → ∃ t, exec (.messageRetryTimeout dst n) s = .next t ∧
      findMessage t dst n = some { m with retries := m.retries + 1 }) ∧
    (7 ≤ m.retries → ∃ t, exec (.messageRetryTimeout dst n) s = .next t ∧ findMessage t dst n = none ∧
      t.links.control = s.links.control ++ [⟨dst, true, n, 0, []⟩] ∧ t.links.reports = s.links.reports ++ [(dst, n)])) ∧
  (∀ (s s1 : State) (src : BitVec 12) (n : BitVec 32) (h : Held), findHeld s src n = some h → h.flit.kind ≠ 2 → h.susp.record ≠ none → h.flit.src = src →
    h.flit.sseq = n → performMessage (dropHeld (takeRecord s h.susp) src n) h.entry h.flit h.body = (.ack 0, s1) → src ≠ chipNo s1 →
    ∃ t, exec (.heldMessageResume src n) s = .next t ∧ t.mem = s1.mem ∧ t.links.control = s1.links.control ++ [⟨src, false, n, 0, []⟩])

/-! ## Partitions and management -/

/-- A layout command whose list passes waits for quiet, one that fails ends; a quiet change asks for the bell, the bell counts LVER up and the
acknowledgement ends the change; new bindings alone ring it too; a deadline ends a change. A usage record chains, and LOGW takes its add; gathered array
cycles reach ACYC. The place of the last record, events without a clock and the bell of new bindings are the model's choice (log entries 31, 34 and
40). -/
def Obligations.LayoutChangesComplete : Prop :=
  (∀ (s s1 : State) (a : Word) (es : List ChangeEntry), s.mgmt.change = none → (readList a).run s = .ok (some (es, false)) s1 →
    (∀ t, applyAll s1.mgmt.revoked 0 s1 es = .ok t → ∃ t, exec (.layout a) s = .next t ∧ t.mem = s1.mem ∧ t.mgmt.lver = s1.mgmt.lver ∧
      ∃ c, t.mgmt.change = some c ∧ c.state = .quiescing ∧ c.entries = es ∧ c.list = some a ∧ c.before = s1.mgmt.nodes) ∧
    (∀ k, s1.mgmt = s.mgmt → applyAll s1.mgmt.revoked 0 s1 es = .error k → ∃ t, exec (.layout a) s = .next t ∧ t.mem = s1.mem ∧
      t.mgmt = s.mgmt)) ∧
  (∀ (s : State) (c : Change), s.mgmt.change = some c →
    (c.state = .quiescing → c.force = false → (∀ p ∈ destroyed c, quiet s p = true) →
      ∃ t, exec .partitionQuiet s = .next t ∧ t.mgmt.change = some { c with state := .ringing } ∧ t.mem = s.mem) ∧
    (c.state = .quiescing → ∃ t, exec .quiesceDeadline s = .next t ∧ t.mgmt.change = none ∧ t.mgmt.lver = s.mgmt.lver ∧
      t.mgmt.nodes = s.mgmt.nodes ∧ t.mem = s.mem) ∧
    (c.state = .ringing → ∃ t d, exec .bell s = .next t ∧ t.mgmt.lver = s.mgmt.lver + 1 ∧ t.mgmt.change = some d ∧ d.state = .rung) ∧
    (c.state = .rung → ∃ t, exec .bellAcknowledged s = .next t ∧ t.mgmt.change = none ∧ t.mgmt.lver = s.mgmt.lver ∧ t.mgmt.nodes = s.mgmt.nodes)) ∧
  (∀ (s : State) (b : PortBinding), ∃ t, exec (.bindingShadow b) s = .next t ∧ t.mgmt.shadow = s.mgmt.shadow ++ [b] ∧ t.mgmt.lver = s.mgmt.lver ∧
    t.ports = s.ports ∧ t.mem = s.mem) ∧
  (∀ (s : State), s.mgmt.change = none → s.mgmt.shadow ≠ [] → ∃ t d, exec .bell s = .next t ∧
    t.mgmt.lver = s.mgmt.lver + 1 ∧ t.mgmt.shadow = [] ∧ t.mgmt.change = some d ∧ d.state = .rung ∧ t.mgmt.nodes = s.mgmt.nodes) ∧
  (∀ (s : State) (d : Descriptor) (a : Nat) (e : Word), s.mgmt.descs = [d] → logPlace s d (chainOf s d.part).seq = some (a, e) → pteRepl e = false →
    noOwnWrites Config.cores s → (a + 384 ≤ usagePlace d.part 6 ∨ usagePlace d.part 6 + 136 ≤ a) →
    ∃ t, exec .usageRecordPeriodic s = .next t ∧ t.mem.readWord a = (chainOf s d.part).seq ∧ t.mem.readWord (a + 16) = s.mgmt.lver ∧
      t.mem.readWord (a + 24) = s.mgmt.cycle ∧ (chainOf t d.part).seq = (chainOf s d.part).seq + 1 ∧
      t.counter (usagePlace d.part 6) = s.counter (usagePlace d.part 6) + 1) ∧
  (∀ (s : State) (c : Nat), ∃ t, exec (.acycGather c) s = .next t ∧ (t.array c).acyc = 0 ∧
    ((s.array c).acyc ≠ 0 → ∀ d, descOf s (partOfCluster s c) = some d →
      t.counter (usagePlace (partOfCluster s c) 0) = s.counter (usagePlace (partOfCluster s c) 0) + BitVec.ofNat 64 (s.array c).acyc))

/-- A fatal error stops the package and, but for a power failure, leaves a dump with its cause; a reading of 105 °C or above raises OP of its island,
as does one of a package that draws more than 16 kW, each reading by 1 (log entry 85), and 115 °C is fatal; GATE and OP take what is written; a
measure joins its island, which HEALTH reports (log entry 38); DUMPREAD copies its block. A checkpoint's save clears VALID, copies the stacks one by
one and sets VALID at its end; its restore brings them back. The regions of a checkpoint, its steps, and services without a command, are the model's
choice (log entries 33, 36 and 37). -/
def Obligations.ManagementStepsComplete : Prop :=
  (∀ (s : State) (cause : FatalCause), s.mgmt.fatal = false →
    (∃ t, exec (.fatalError cause) s = .next t ∧ t.mgmt.fatal = true ∧ (∀ p, (portAt t p).tdisp = .error) ∧
      (cause = .power → t.mem = s.mem) ∧
      (cause ≠ .power → t.mgmt.dump = true ∧ t.mem.readWord 0 = 0x504D5544 ∧ t.mem.readWord 8 = 1 ∧
        t.mem.readWord 16 = BitVec.ofNat 64 (causeCode cause) ∧ t.mem.readWord 32 = s.mgmt.lastBell)) ∧
    (∃ t, exec .firmwareWatchdogExpiry s = .next t ∧ t.mgmt.fatal = true ∧ t.mgmt.dump = true ∧ t.mem.readWord 16 = 4 ∧ t.mem.readWord 40 = 0)) ∧
  (∀ (s : State) (i : Fin 120) (temp : BitVec 8) (pwr : BitVec 16),
    (temp.toNat < 115 → ∃ t, exec (.thermalThrottle i (.reading temp pwr)) s = .next t ∧
      t.mem = s.mem ∧ t.mgmt.islands[i].temp = temp ∧ t.mgmt.islands[i].pwr = pwr ∧
      (∀ k : Fin 120, k ≠ i → t.mgmt.islands[k] = s.mgmt.islands[k]) ∧
      (let hard := overPower (s.mgmt.islands.set i { s.mgmt.islands[i] with pwr := pwr })
       (105 ≤ temp.toNat ∨ (s.mgmt.islands[i].hot = true ∧ 100 ≤ temp.toNat) ∨ hard = true → s.mgmt.islands[i].op ≠ 7 →
         t.mgmt.islands[i].op = s.mgmt.islands[i].op + 1) ∧
       (temp.toNat < 100 → hard = false → t.mgmt.islands[i].op = s.mgmt.islands[i].op))) ∧
    (115 ≤ temp.toNat → ∃ t, exec (.thermalThrottle i (.reading temp pwr)) s = .next t ∧ t.mgmt.fatal = true)) ∧
  (∀ (s : State) (i : Fin 120) (k : BitVec 3),
    (mayGate s i.val = true → ∃ t, exec (.thermalThrottle i (.gate true)) s = .next t ∧ t.mgmt.islands[i].gate = true ∧ t.mem = s.mem) ∧
    (s.mgmt.islands[i].gate = true → ∃ t, exec (.thermalThrottle i (.gate false)) s = .next t ∧ t.mgmt.islands[i].gate = false) ∧
    (s.mgmt.islands[i].hot = false → overPower s.mgmt.islands = false →
      ∃ t, exec (.thermalThrottle i (.op k)) s = .next t ∧ t.mgmt.islands[i].op = k ∧ t.mem = s.mem)) ∧
  (∀ (s : State) (i : Fin 120) (x : Int) (y : Int × Int), ∃ t, exec (.ageingMeasurement i x y) s = .next t ∧ t.mem = s.mem ∧
    (lookupD t.mgmt.measures i.val []).head? = some (x, y) ∧ (lookupD t.mgmt.measures i.val []).length ≤ 30) ∧
  (∀ (s s1 : State) (a : Word), (svcWrite 0 0 0 a.toNat ((List.finRange 120).flatMap (healthEntry s) ++ List.replicate 128 0)).run s = .ok () s1 →
    ∃ t, exec (.health a) s = .next t ∧ t.mem = s1.mem ∧ t.mgmt = s1.mgmt) ∧
  (∀ (s : State) (a : Word), a.getLsbD 0 = false →
    (s.mgmt.saving = none → anyActive s = false → checkpointFits s a = true → ∃ t, exec (.checkpointSave a) s = .next t ∧
      t.mgmt.saving = some (a, 0) ∧ t.mem.readWord (checkpointPlace a 48) = 0x54534B43 ∧ t.mem.readWord (checkpointPlace a 48 + 8) = s.mgmt.lver ∧
      t.mem.readWord (checkpointPlace a 48 + 16) = 0) ∧
    (∀ k, s.mgmt.saving = some (a, k) → k < 48 → ∃ t, exec (.checkpointSave a) s = .next t ∧ t.mgmt.saving = some (a, k + 1) ∧
      ∀ i, i < stackBytes → t.mem.read (checkpointPlace a k + i) = s.mem.read (k * 2 ^ 36 + i)) ∧
    (∀ k, s.mgmt.saving = some (a, k) → 48 ≤ k → ∃ t, exec (.checkpointSave a) s = .next t ∧ t.mgmt.saving = none ∧
      t.mem.readWord (checkpointPlace a 48 + 8) = s.mgmt.lver ∧ t.mem.readWord (checkpointPlace a 48 + 16) = 1)) ∧
  (∀ (s : State) (a : Word), anyActive s = false → checkpointFits s a = true →
    (a.getLsbD 0 = true → s.mem.readWord (checkpointPlace a 48) = 0x54534B43 → s.mem.readWord (checkpointPlace a 48 + 16) = 1 →
      ∃ t, exec (.checkpointRestore a) s = .next t ∧
        ∀ m i, m < 48 → i < stackBytes → t.mem.read (m * 2 ^ 36 + i) = s.mem.read (checkpointPlace a m + i))) ∧
  (∀ (s s1 s2 : State) (a o va : Word) (l : List Seg), anyActive s = false → (svcWords 0 0 0 a.toNat 2).run s = .ok [o, va] s1 →
    o.toNat % 2 ^ 26 = 0 → o.toNat < 2 ^ 32 → va.toNat + 2 ^ 26 ≤ 2 ^ 55 → globalAccess s1 0 0 0 needW va.toNat (2 ^ 26) = (.ok l, s2) →
    l.all Seg.ok = true → ∃ t, exec (.dumpread a) s = .next t ∧ t.mem = (dumpTo s2 o.toNat l).mem ∧
      (t.mgmt.dump = true ↔ (dumpTo s2 o.toNat l).mgmt.dump = true ∧ o ≠ 0xFC000000))

/-- A power-on reset that completes makes READY and STEP 9, zeroes HBM and every core memory, and leaves every core at reset; one that fails at step k
shows it, with the CODE that the step has. A device reset keeps the dump region where KEEP asks for it, and host memory. With power off there is none,
and nothing moves. The chip number, the places of memory and the fate of a dump follow log entries 4, 24 and 25. -/
def Obligations.ResetsComplete : Prop :=
  (∀ (s : State), ∃ t, exec (.powerOnReset none) s = .next t ∧ t.mgmt.ready = true ∧ t.mgmt.step = 9 ∧ t.mgmt.fail = false ∧ t.mgmt.power = true ∧
    t.hart = { Hart.reset with chip := (hartAt s 0).chip } ∧ t.cur = 0 ∧ (∀ n, hartAt t n = { Hart.reset with chip := (hartAt t n).chip }) ∧
    (∀ a, a < 2 ^ 50 → t.mem.read a = 0) ∧ (∀ a, 2 ^ 56 ≤ a → t.mem.read a = 0) ∧
    (∀ a, 2 ^ 50 ≤ a → a < 2 ^ 56 → t.mem.read a = s.mem.read a)) ∧
  (∀ (s : State) (k : Nat) (code : BitVec 16), 1 ≤ k → k ≤ 9 → ∀ i ∈ [Instr.powerOnReset (some (k, code)), .deviceReset (some (k, code))],
    (i = .powerOnReset (some (k, code)) ∨ s.mgmt.power = true) →
    ∃ t, exec i s = .next t ∧ t.mgmt.fail = true ∧ t.mgmt.ready = false ∧ t.mgmt.step = BitVec.ofNat 8 (k - 1) ∧
      (k = 1 → code.toNat < 120 → t.mgmt.code = code) ∧ ((k = 2 ∨ k = 4 ∨ k = 6) → code.toNat < 48 → t.mgmt.code = code) ∧
      (k = 3 → t.mgmt.code = 1 ∨ t.mgmt.code = 2) ∧ (k = 7 → 4 ≤ t.mgmt.code.toNat ∧ t.mgmt.code.toNat ≤ 7) ∧
      (k = 8 → code.toNat < 24 → t.mgmt.code = code) ∧ ((k = 5 ∨ k = 9) → t.mgmt.code = 0)) ∧
  (∀ (s : State) (k : Option (Nat × BitVec 16)), s.mgmt.power = false → exec (.deviceReset k) s = .next s) ∧
  (∀ (s : State), s.mgmt.power = true → ∃ t, exec (.deviceReset none) s = .next t ∧ t.mgmt.ready = true ∧
    (s.mgmt.keep = true → ∀ a, a < 2 ^ 32 → t.mem.read a = s.mem.read a) ∧
    (s.mgmt.keep = false → ∀ a, a < 2 ^ 32 → t.mem.read a = 0) ∧
    (∀ a, 2 ^ 32 ≤ a → a < 2 ^ 50 → t.mem.read a = 0) ∧ (∀ a, 2 ^ 50 ≤ a → a < 2 ^ 56 → t.mem.read a = s.mem.read a)) ∧
  (∀ (s : State), ∃ t, exec .powerOff s = .next t ∧ t.mgmt.power = false ∧ t.mgmt.ready = false ∧ t.mgmt.step = 0 ∧
    (s.agenda = [] → step t = .fault .poweredOff))
end

