-- ==== Sys2Proof/Laws/Mem.lean ====
section
/-! SUPPORT. The laws of memory: what a read gives after a write, and that every operation on memory keeps its canonical form. -/

namespace Sys2Proof.Machine

/-! ## Reading -/

@[simp] theorem Memory.read_nil (a : Nat) : Memory.read [] a = 0 := rfl

theorem Memory.read_cons (b : Nat) (x : Byte) (r : Memory) (a : Nat) :
    Memory.read ((b, x) :: r) a = if b = a then x else Memory.read r a := rfl

/-- A place that is not listed reads 0. -/
theorem Memory.read_absent {m : Memory} {a : Nat} (h : ∀ c ∈ m, c.1 ≠ a) : m.read a = 0 := by
  induction m with
  | nil => rfl
  | cons c r ih =>
    rw [Memory.read_cons, if_neg (h c (List.mem_cons_self ..))]
    exact ih fun x hx => h x (List.mem_cons_of_mem _ hx)

/-- A filter that keeps the places equal to `a` keeps what `a` reads. -/
theorem Memory.read_filter_keep {m : Memory} {a : Nat} {p : Host.Cell → Bool} (h : ∀ x, p (a, x) = true) :
    Memory.read (m.filter p) a = m.read a := by
  induction m with
  | nil => rfl
  | cons c r ih =>
    obtain ⟨b, x⟩ := c
    by_cases hb : b = a
    · subst hb
      rw [List.filter_cons_of_pos (h x), Memory.read_cons, Memory.read_cons, if_pos rfl, if_pos rfl]
    · rw [Memory.read_cons, if_neg hb]
      by_cases hp : p (b, x) = true
      · rw [List.filter_cons_of_pos hp, Memory.read_cons, if_neg hb, ih]
      · rw [List.filter_cons_of_neg hp, ih]

/-- A filter that drops the place `a` makes it read 0. -/
theorem Memory.read_filter_drop {m : Memory} {a : Nat} {p : Host.Cell → Bool} (h : ∀ x, p (a, x) = false) :
    Memory.read (m.filter p) a = 0 :=
  Memory.read_absent fun c hc he => by
    have hp := (List.mem_filter.1 hc).2
    obtain ⟨b, x⟩ := c
    simp only at he
    subst he
    simp [h x] at hp

/-- Of two lists one after the other the first is read where it lists the place. -/
theorem Memory.read_append_absent {m n : Memory} {a : Nat} (h : ∀ c ∈ m, c.1 ≠ a) : Memory.read (m ++ n) a = n.read a := by
  induction m with
  | nil => rfl
  | cons c r ih =>
    rw [List.cons_append, Memory.read_cons, if_neg (h c (List.mem_cons_self ..))]
    exact ih fun x hx => h x (List.mem_cons_of_mem _ hx)

theorem Memory.read_append_of_absent {m n : Memory} {a : Nat} (h : ∀ c ∈ n, c.1 ≠ a) : Memory.read (m ++ n) a = m.read a := by
  induction m with
  | nil => exact Memory.read_absent h
  | cons c r ih => rw [List.cons_append, Memory.read_cons, Memory.read_cons, ih]

/-! ## The cells of a write -/

theorem cellsOf_bounds (bs : List Byte) : ∀ (a : Nat) (c : Host.Cell), c ∈ cellsOf a bs → a ≤ c.1 ∧ c.1 < a + bs.length ∧ c.2 ≠ 0 := by
  induction bs with
  | nil => intro a c h; cases h
  | cons b r ih =>
    intro a c h
    rw [cellsOf] at h
    simp only [List.length_cons]
    split at h
    · obtain ⟨h1, h2, h3⟩ := ih (a + 1) c h; exact ⟨by omega, by omega, h3⟩
    · rcases List.mem_cons.1 h with rfl | h
      · exact ⟨by simp, by simp, by assumption⟩
      · obtain ⟨h1, h2, h3⟩ := ih (a + 1) c h; exact ⟨by omega, by omega, h3⟩

theorem cellsOf_sorted (bs : List Byte) : ∀ a, (cellsOf a bs).Pairwise fun x y => x.1 < y.1 := by
  induction bs with
  | nil => intro a; exact List.Pairwise.nil
  | cons b r ih =>
    intro a
    rw [cellsOf]
    split
    · exact ih (a + 1)
    · exact List.pairwise_cons.2 ⟨fun c hc => (by have := (cellsOf_bounds r (a + 1) c hc).1; omega), ih (a + 1)⟩

theorem read_cellsOf (bs : List Byte) : ∀ a i, i < bs.length → (cellsOf a bs).read (a + i) = bs.getD i 0 := by
  induction bs with
  | nil => intro a i h; cases h
  | cons b r ih =>
    intro a i h
    have hnext : ∀ c ∈ cellsOf (a + 1) r, c.1 ≠ a := fun c hc => by have := (cellsOf_bounds r (a + 1) c hc).1; omega
    cases i with
    | zero =>
      rw [cellsOf]
      split
      · next hb => exact (Memory.read_absent (a := a) hnext).trans hb.symm
      · rw [Memory.read_cons, if_pos (Nat.add_zero a).symm]; rfl
    | succ i =>
      have hi := ih (a + 1) i (by simpa using h)
      rw [show a + 1 + i = a + (i + 1) by omega] at hi
      rw [cellsOf]
      split
      · exact hi
      · rw [Memory.read_cons, if_neg (by omega)]; exact hi

/-! ## Read after write -/

/-- After a write the bytes written are read at their places, and every other place reads as before. -/
theorem Memory.read_write (m : Memory) (a : Nat) (bs : List Byte) (b : Nat) :
    (m.write a bs).read b = if a ≤ b ∧ b < a + bs.length then bs.getD (b - a) 0 else m.read b := by
  have hmid := cellsOf_bounds bs a
  unfold Memory.write
  split
  · next h =>
    rw [List.append_assoc, Memory.read_append_absent (by intro c hc; have := (List.mem_filter.1 hc).2; simp at this; omega),
      Memory.read_append_of_absent (by intro c hc; have := (List.mem_filter.1 hc).2; simp at this; omega)]
    have := read_cellsOf bs a (b - a) (by omega)
    rwa [show a + (b - a) = b by omega] at this
  · next h =>
    have hm : ∀ c ∈ cellsOf a bs, c.1 ≠ b := fun c hc => by have := hmid c hc; omega
    by_cases hb : b < a
    · rw [List.append_assoc, Memory.read_append_of_absent (m := m.filter _), Memory.read_filter_keep (by intro x; simpa using hb)]
      intro c hc
      rcases List.mem_append.1 hc with hc | hc
      · exact hm c hc
      · have := (List.mem_filter.1 hc).2; simp at this; omega
    · rw [Memory.read_append_absent, Memory.read_filter_keep (by intro x; simp; omega)]
      intro c hc
      rcases List.mem_append.1 hc with hc | hc
      · have := (List.mem_filter.1 hc).2; simp at this; omega
      · exact hm c hc

/-- A place outside the bytes written reads as before. -/
theorem Memory.read_write_other {m : Memory} {a b : Nat} {bs : List Byte} (h : b < a ∨ a + bs.length ≤ b) :
    (m.write a bs).read b = m.read b := by
  rw [Memory.read_write, if_neg (by omega)]

/-- The bytes written are read back. -/
theorem Memory.readN_write_same (m : Memory) (a : Nat) (bs : List Byte) : (m.write a bs).readN a bs.length = bs := by
  apply List.ext_getElem
  · simp [Memory.readN]
  · intro i h1 h2
    simp only [Memory.readN, List.getElem_map, List.getElem_range]
    rw [Memory.read_write, if_pos (by omega), Nat.add_sub_cancel_left]
    simp [List.getD, h2]

/-! ## The canonical form -/

theorem Memory.nil_wf : Memory.wf [] := ⟨List.Pairwise.nil, fun _ h => by cases h⟩

theorem Memory.filter_wf {m : Memory} (p : Host.Cell → Bool) (h : m.wf) : Memory.wf (m.filter p) :=
  ⟨h.1.filter p, fun c hc => h.2 c (List.mem_filter.1 hc).1⟩

/-- A write keeps the canonical form. -/
theorem Memory.write_wf {m : Memory} (a : Nat) (bs : List Byte) (h : m.wf) : (m.write a bs).wf := by
  have hmid := cellsOf_bounds bs a
  unfold Memory.write
  refine ⟨List.pairwise_append.2 ⟨List.pairwise_append.2 ⟨h.1.filter _, cellsOf_sorted bs a, ?_⟩, h.1.filter _, ?_⟩, ?_⟩
  · intro x hx y hy
    have := (List.mem_filter.1 hx).2; have := hmid y hy; simp at *; omega
  · intro x hx y hy
    have := (List.mem_filter.1 hy).2
    rcases List.mem_append.1 hx with hx | hx
    · have := (List.mem_filter.1 hx).2; simp at *; omega
    · have := hmid x hx; simp at *; omega
  · intro c hc
    rcases List.mem_append.1 hc with hc | hc
    · rcases List.mem_append.1 hc with hc | hc
      · exact h.2 c (List.mem_filter.1 hc).1
      · exact (hmid c hc).2.2
    · exact h.2 c (List.mem_filter.1 hc).1

/-- The bytes of a word come back as the word. -/
theorem toBytes_length (n x : Nat) : (toBytes n x).length = n := by
  induction n generalizing x with
  | zero => rfl
  | succ n ih => simp [toBytes, ih]

theorem leNat_toBytes (n : Nat) : ∀ x, leNat (toBytes n x) = x % 256 ^ n := by
  induction n with
  | zero => intro x; simp [toBytes, leNat, Nat.mod_one]
  | succ n ih =>
    intro x
    rw [toBytes, leNat, ih, BitVec.toNat_ofNat, show 256 ^ (n + 1) = 256 * 256 ^ n from Nat.pow_succ']
    exact (Nat.mod_mul (x := x) (a := 256) (b := 256 ^ n)).symm

/-- A word written at a place is read back there. -/
theorem Memory.readWord_write_same (m : Memory) (a : Nat) (w : Word) : (m.write a (wordBytes w)).readWord a = w := by
  have h := Memory.readN_write_same m a (wordBytes w)
  rw [show (wordBytes w).length = 8 from toBytes_length 8 _] at h
  unfold Memory.readWord
  rw [h, wordBytes, leNat_toBytes]
  apply BitVec.eq_of_toNat_eq
  have := w.isLt
  simp only [BitVec.toNat_ofNat]
  omega

/-- A list of cells with its places moved by one rule that keeps their order is canonical again. -/
theorem Memory.move_wf {m : Memory} (f : Nat → Nat) (h : m.wf) (hf : ∀ x ∈ m, ∀ y ∈ m, x.1 < y.1 → f x.1 < f y.1) :
    Memory.wf (m.map fun c => (f c.1, c.2)) := by
  refine ⟨List.pairwise_map.2 ?_, ?_⟩
  · exact h.1.imp_of_mem fun hx hy hxy => hf _ hx _ hy hxy
  · intro c hc
    obtain ⟨x, hx, rfl⟩ := List.mem_map.1 hc
    exact h.2 x hx

/-- Copying a region keeps the canonical form. -/
theorem Memory.copyTo_wf {m : Memory} (a n b : Nat) (h : m.wf) : (m.copyTo a n b).wf := by
  have hmove : Memory.wf ((m.filter fun c => a ≤ c.1 && c.1 < a + n).map fun c => (c.1 - a + b, c.2)) := by
    refine Memory.move_wf (fun k => k - a + b) (Memory.filter_wf _ h) ?_
    intro x hx y hy hxy
    have := (List.mem_filter.1 hx).2
    simp at this ⊢; omega
  have hb : ∀ c ∈ (m.filter fun c => a ≤ c.1 && c.1 < a + n).map (fun c => (c.1 - a + b, c.2)), b ≤ c.1 ∧ c.1 < b + n := by
    intro c hc
    obtain ⟨x, hx, rfl⟩ := List.mem_map.1 hc
    have := (List.mem_filter.1 hx).2
    simp at this ⊢; omega
  unfold Memory.copyTo
  refine ⟨List.pairwise_append.2 ⟨List.pairwise_append.2 ⟨h.1.filter _, hmove.1, ?_⟩, h.1.filter _, ?_⟩, ?_⟩
  · intro x hx y hy
    have := (List.mem_filter.1 hx).2; have := hb y hy; simp at *; omega
  · intro x hx y hy
    have := (List.mem_filter.1 hy).2
    rcases List.mem_append.1 hx with hx | hx
    · have := (List.mem_filter.1 hx).2; simp at *; omega
    · have := hb x hx; simp at *; omega
  · intro c hc
    rcases List.mem_append.1 hc with hc | hc
    · rcases List.mem_append.1 hc with hc | hc
      · exact h.2 c (List.mem_filter.1 hc).1
      · exact hmove.2 c hc
    · exact h.2 c (List.mem_filter.1 hc).1

/-- A reset keeps the canonical form. -/
theorem bringUp_wf (powerOn : Bool) (fail : Option (Nat × BitVec 16)) {s : State} (h : s.mem.wf) : (bringUp powerOn fail s).mem.wf :=
  Memory.filter_wf _ h

/-- Zeroing a place keeps the canonical form. -/
theorem clearPlace_wf {s : State} (a n : Nat) (h : s.mem.wf) : (clearPlace s a n).mem.wf := by
  unfold clearPlace untagLines
  dsimp only
  split <;> exact Memory.filter_wf _ h

end Sys2Proof.Machine
end

