-- ==== Sys2Proof/Laws/Lines.lean ====
section
/-! SUPPORT. Encrypted lines (R357, R405): what a write under a key id leaves, and that its bytes show under that id. -/

namespace Sys2Proof.Machine

/-- The keys of lines are apart from the rest of the state. -/
@[simp] theorem tagLines_mem (s : State) (key a n : Nat) : (tagLines s key a n).mem = s.mem := by
  unfold tagLines
  split <;> rfl

@[simp] theorem tagLines_hart (s : State) (key a n : Nat) : (tagLines s key a n).hart = s.hart := by
  unfold tagLines
  split <;> rfl

@[simp] theorem tagLines_mgmt (s : State) (key a n : Nat) : (tagLines s key a n).mgmt = s.mgmt := by
  unfold tagLines
  split <;> rfl

@[simp] theorem tagLines_sealed (s : State) (key a n : Nat) : (tagLines s key a n).sealed = s.sealed := by
  unfold tagLines
  split <;> rfl

/-- A list takes the value put in for a number. -/
theorem find_insertA_same {α : Type} (l : List (Nat × α)) (k : Nat) (x : α) : (insertA l k x).find? (fun y => y.1 == k) = some (k, x) := by
  induction l with
  | nil => simp [insertA]
  | cons y r ih =>
    unfold insertA
    split
    · simp
    · rename_i h
      simp [h, ih]

/-- A value put in for another number changes nothing for this one. -/
theorem find_insertA_other {α : Type} (l : List (Nat × α)) {k j : Nat} (x : α) (h : k ≠ j) :
    (insertA l k x).find? (fun y => y.1 == j) = l.find? fun y => y.1 == j := by
  induction l with
  | nil => simp [insertA, h]
  | cons y r ih =>
    unfold insertA
    split
    · rename_i hy
      subst hy
      simp [h]
    · simp only [List.find?_cons, ih]

/-- Values put in one after another: each number of the list has its own. -/
theorem find_insertAll {α : Type} (f : Nat → α) (j : Nat) (ks : List Nat) :
    ∀ l : List (Nat × α), j ∈ ks → (ks.foldl (fun m k => insertA m k (f k)) l).find? (fun y => y.1 == j) = some (j, f j) := by
  have later : ∀ (ks : List Nat) (l : List (Nat × α)), l.find? (fun y => y.1 == j) = some (j, f j) →
      (ks.foldl (fun m k => insertA m k (f k)) l).find? (fun y => y.1 == j) = some (j, f j) := by
    intro ks
    induction ks with
    | nil => exact fun _ h => h
    | cons k r ih =>
      intro l h
      refine ih _ ?_
      by_cases hk : k = j
      · subst hk; exact find_insertA_same ..
      · rw [find_insertA_other _ _ hk]; exact h
  induction ks with
  | nil => exact fun _ h => absurd h (by simp)
  | cons k r ih =>
    intro l h
    by_cases hk : k = j
    · subst hk
      exact later r _ (find_insertA_same ..)
    · exact ih _ (by simpa [Ne.symm hk] using h)

/-- A number with the bits from `lo` up to `hi` set has each of them. -/
theorem testBit_run {lo hi j : Nat} (h : lo ≤ j) (k : j < hi) : (2 ^ hi - 2 ^ lo).testBit j = true := by
  have e : 2 ^ hi - 2 ^ lo = 2 ^ lo * (2 ^ (hi - lo) - 1) := by
    rw [Nat.mul_sub_one, ← Nat.pow_add, show lo + (hi - lo) = hi by omega]
  rw [e, Nat.testBit_two_pow_mul, Nat.testBit_two_pow_sub_one]
  simp
  omega

/-- No byte that a write reaches is stale after it. -/
theorem retag_stale (s : State) (key a n i : Nat) (h : i < n) :
    (retag s key a n ((a + i) / 128)).stale.testBit ((a + i) % 128) = false := by
  have hw : (2 ^ 128 - 1 - (2 ^ (min (a + n) (128 * ((a + i) / 128) + 128) - 128 * ((a + i) / 128)) - 2 ^ (a - 128 * ((a + i) / 128)))).testBit
      ((a + i) % 128) = false := by
    have hrun := testBit_run (lo := a - 128 * ((a + i) / 128)) (hi := min (a + n) (128 * ((a + i) / 128) + 128) - 128 * ((a + i) / 128))
      (j := (a + i) % 128) (by omega) (by omega)
    have hlt : 2 ^ (min (a + n) (128 * ((a + i) / 128) + 128) - 128 * ((a + i) / 128)) ≤ 2 ^ 128 := Nat.pow_le_pow_right (by decide) (by omega)
    have hw := Nat.lt_of_lt_of_le (Nat.sub_lt (Nat.two_pow_pos (min (a + n) (128 * ((a + i) / 128) + 128) - 128 * ((a + i) / 128)))
      (Nat.two_pow_pos (a - 128 * ((a + i) / 128)))) hlt
    generalize 2 ^ (min (a + n) (128 * ((a + i) / 128) + 128) - 128 * ((a + i) / 128)) - 2 ^ (a - 128 * ((a + i) / 128)) = w at *
    rw [show 2 ^ 128 - 1 - w = 2 ^ 128 - (w + 1) by omega, Nat.testBit_two_pow_sub_succ hw, hrun]
    simp
  unfold retag
  dsimp only
  split
  · split
    · exact hw
    · exact Nat.zero_testBit _
  · split
    · rw [Nat.testBit_and, hw, Bool.and_false]
    · exact hw

/-- After a write under a key id the bytes it reaches show under that id. -/
theorem clear_tagLines (s : State) (key a n i : Nat) (ha : a < 2 ^ 52) (h : i < n) : (tagLines s key a n).clear key (a + i) = true := by
  have hm : (a + i) / 128 ∈ (List.range ((a + n - 1) / 128 + 1 - a / 128)).map fun k => a / 128 + k :=
    List.mem_map.2 ⟨(a + i) / 128 - a / 128, List.mem_range.2 (by omega), by omega⟩
  have e : (tagLines s key a n).lineKey ((a + i) / 128) = some (retag s key a n ((a + i) / 128)) := by
    unfold tagLines State.lineKey
    rw [if_neg (by simp; omega)]
    dsimp only
    rw [find_insertAll _ _ _ _ hm]
    rfl
  have g : (tagLines s key a n).keyGen key = s.keyGen key := by simp only [State.keyGen, tagLines_mgmt]
  have r := retag_stale s key a n i h
  have rk : (retag s key a n ((a + i) / 128)).key = key := rfl
  have rg : (retag s key a n ((a + i) / 128)).gen = s.keyGen key := rfl
  have rt : (retag s key a n ((a + i) / 128)).tweak = (a + i) / 128 := rfl
  unfold State.clear
  rw [e, g]
  simp only [rk, rg, rt, r, beq_self_eq_true, Bool.and_self, Bool.not_false]

/-- Bytes that a page of a key id has just written read so through that id. -/
theorem readKeyed_tagLines (s t : State) (key a n : Nat) (hl : t.lines = (tagLines s key a n).lines) (hg : t.mgmt = s.mgmt) (hs : t.sealed = s.sealed) :
    t.readKeyed key a n = t.mem.readN a n := by
  unfold State.readKeyed
  split
  · rfl
  · rename_i h
    have ha : a < 2 ^ 52 := by simp at h; omega
    refine List.map_congr_left fun i hi => ?_
    have e : t.clear key (a + i) = (tagLines s key a n).clear key (a + i) := by
      simp only [State.clear, State.lineKey, State.sealedAt, State.keyGen, hl, hg, hs, tagLines_mgmt, tagLines_sealed]
    rw [e, clear_tagLines s key a n i ha (List.mem_range.1 hi), if_pos rfl]

end Sys2Proof.Machine
end

