-- ==== Sys2Proof/Laws/State.lean ====
section
/-! SUPPORT. What an update of the state leaves in each field. Every update of the current hart is one `State.withHart`; the lemmas about it then
give every field. -/

namespace Sys2Proof.Machine

/-! ## Updates of the current hart as one form -/

@[simp] theorem State.setG_eq (s : State) (r : Reg) (x : Word) : s.setG r x = s.withHart (s.hart.setG r x) := rfl
@[simp] theorem State.setV_eq (s : State) (r : Reg) (x : V512) : s.setV r x = s.withHart (s.hart.setV r x) := rfl
@[simp] theorem State.setPc_eq (s : State) (pc : Word) : s.setPc pc = s.withHart { s.hart with pc := pc } := rfl
@[simp] theorem State.finish_eq (s : State) (pc : Word) : s.finish pc = s.withHart (s.hart.goesOn pc) := rfl
@[simp] theorem State.retire_eq (s : State) (n : Nat) : s.retire n = s.withHart (s.hart.goesOn (s.hart.pc + BitVec.ofNat 64 n)) := rfl
@[simp] theorem State.withHart_withHart (s : State) (h k : Hart) : (s.withHart h).withHart k = s.withHart k := rfl
@[simp] theorem State.withHart_self (s : State) : s.withHart s.hart = s := rfl
@[simp] theorem State.withHart_g (s : State) (h : Hart) (r : Reg) : (s.withHart h).g r = if r = 0 then 0 else h.g[r] := rfl
@[simp] theorem State.withHart_v (s : State) (h : Hart) (r : Reg) : (s.withHart h).v r = h.v[r] := rfl
@[simp] theorem State.withHart_cluster (s : State) (h : Hart) : (s.withHart h).cluster = s.cluster := rfl
@[simp] theorem State.withHart_part (s : State) (h : Hart) : (s.withHart h).part = s.part := rfl
@[simp] theorem State.withHart_array (s : State) (h : Hart) (c : Nat) : (s.withHart h).array c = s.array c := rfl
@[simp] theorem State.withHart_counter (s : State) (h : Hart) (k : Nat) : (s.withHart h).counter k = s.counter k := rfl
@[simp] theorem State.withHart_poisoned (s : State) (h : Hart) (k : Nat) : (s.withHart h).poisoned k = s.poisoned k := rfl

@[simp] theorem State.withHart_cur (s : State) (h : Hart) : (s.withHart h).cur = s.cur := rfl
@[simp] theorem State.withHart_hart (s : State) (h : Hart) : (s.withHart h).hart = h := rfl
@[simp] theorem State.withHart_others (s : State) (h : Hart) : (s.withHart h).others = s.others := rfl
@[simp] theorem State.withHart_agenda (s : State) (h : Hart) : (s.withHart h).agenda = s.agenda := rfl
@[simp] theorem State.withHart_draws (s : State) (h : Hart) : (s.withHart h).draws = s.draws := rfl
@[simp] theorem State.withHart_mem (s : State) (h : Hart) : (s.withHart h).mem = s.mem := rfl
@[simp] theorem State.withHart_lines (s : State) (h : Hart) : (s.withHart h).lines = s.lines := rfl
@[simp] theorem State.withHart_sealed (s : State) (h : Hart) : (s.withHart h).sealed = s.sealed := rfl
@[simp] theorem State.withHart_dark (s : State) (h : Hart) : (s.withHart h).dark = s.dark := rfl
@[simp] theorem State.withHart_spaces (s : State) (h : Hart) : (s.withHart h).spaces = s.spaces := rfl
@[simp] theorem State.withHart_stations (s : State) (h : Hart) : (s.withHart h).stations = s.stations := rfl
@[simp] theorem State.withHart_repl (s : State) (h : Hart) : (s.withHart h).repl = s.repl := rfl
@[simp] theorem State.withHart_replNext (s : State) (h : Hart) : (s.withHart h).replNext = s.replNext := rfl
@[simp] theorem State.withHart_applied (s : State) (h : Hart) : (s.withHart h).applied = s.applied := rfl
@[simp] theorem State.withHart_poison (s : State) (h : Hart) : (s.withHart h).poison = s.poison := rfl
@[simp] theorem State.withHart_roll (s : State) (h : Hart) : (s.withHart h).roll = s.roll := rfl
@[simp] theorem State.withHart_wakes (s : State) (h : Hart) : (s.withHart h).wakes = s.wakes := rfl
@[simp] theorem State.withHart_adds (s : State) (h : Hart) : (s.withHart h).adds = s.adds := rfl
@[simp] theorem State.withHart_arrays (s : State) (h : Hart) : (s.withHart h).arrays = s.arrays := rfl
@[simp] theorem State.withHart_copies (s : State) (h : Hart) : (s.withHart h).copies = s.copies := rfl
@[simp] theorem State.withHart_nextCopy (s : State) (h : Hart) : (s.withHart h).nextCopy = s.nextCopy := rfl
@[simp] theorem State.withHart_bindings (s : State) (h : Hart) : (s.withHart h).bindings = s.bindings := rfl
@[simp] theorem State.withHart_parked (s : State) (h : Hart) : (s.withHart h).parked = s.parked := rfl
@[simp] theorem State.withHart_posts (s : State) (h : Hart) : (s.withHart h).posts = s.posts := rfl
@[simp] theorem State.withHart_engines (s : State) (h : Hart) : (s.withHart h).engines = s.engines := rfl
@[simp] theorem State.withHart_ports (s : State) (h : Hart) : (s.withHart h).ports = s.ports := rfl
@[simp] theorem State.withHart_tiers (s : State) (h : Hart) : (s.withHart h).tiers = s.tiers := rfl
@[simp] theorem State.withHart_links (s : State) (h : Hart) : (s.withHart h).links = s.links := rfl
@[simp] theorem State.withHart_mgmt (s : State) (h : Hart) : (s.withHart h).mgmt = s.mgmt := rfl
@[simp] theorem State.withHart_faults (s : State) (h : Hart) : (s.withHart h).faults = s.faults := rfl
@[simp] theorem State.withHart_faultSeq (s : State) (h : Hart) : (s.withHart h).faultSeq = s.faultSeq := rfl
@[simp] theorem State.withHart_doubles (s : State) (h : Hart) : (s.withHart h).doubles = s.doubles := rfl
@[simp] theorem State.withHart_images (s : State) (h : Hart) : (s.withHart h).images = s.images := rfl
@[simp] theorem State.withHart_parkStore (s : State) (h : Hart) : (s.withHart h).parkStore = s.parkStore := rfl

/-! ## The fields of a hart after its updates -/

@[simp] theorem Hart.goesOn_g (h : Hart) (pc : Word) : (h.goesOn pc).g = h.g := rfl
@[simp] theorem Hart.goesOn_v (h : Hart) (pc : Word) : (h.goesOn pc).v = h.v := rfl
@[simp] theorem Hart.goesOn_poison (h : Hart) (pc : Word) : (h.goesOn pc).poison = h.poison := rfl
@[simp] theorem Hart.goesOn_tsws (h : Hart) (pc : Word) : (h.goesOn pc).tsws = h.tsws := rfl
@[simp] theorem Hart.goesOn_trap (h : Hart) (pc : Word) : (h.goesOn pc).trap = h.trap := rfl
@[simp] theorem Hart.goesOn_irq (h : Hart) (pc : Word) : (h.goesOn pc).irq = h.irq := rfl
@[simp] theorem Hart.goesOn_spid (h : Hart) (pc : Word) : (h.goesOn pc).spid = h.spid := rfl
@[simp] theorem Hart.goesOn_dmem (h : Hart) (pc : Word) : (h.goesOn pc).dmem = h.dmem := rfl
@[simp] theorem Hart.goesOn_dmemNext (h : Hart) (pc : Word) : (h.goesOn pc).dmemNext = h.dmemNext := rfl
@[simp] theorem Hart.goesOn_chip (h : Hart) (pc : Word) : (h.goesOn pc).chip = h.chip := rfl
@[simp] theorem Hart.goesOn_tregHalf (h : Hart) (pc : Word) : (h.goesOn pc).tregHalf = h.tregHalf := rfl
@[simp] theorem Hart.goesOn_tregEn (h : Hart) (pc : Word) : (h.goesOn pc).tregEn = h.tregEn := rfl
@[simp] theorem Hart.goesOn_tagTable (h : Hart) (pc : Word) : (h.goesOn pc).tagTable = h.tagTable := rfl
@[simp] theorem Hart.goesOn_lease (h : Hart) (pc : Word) : (h.goesOn pc).lease = h.lease := rfl
@[simp] theorem Hart.goesOn_seq (h : Hart) (pc : Word) : (h.goesOn pc).seq = h.seq := rfl
@[simp] theorem Hart.goesOn_streams (h : Hart) (pc : Word) : (h.goesOn pc).streams = h.streams := rfl
@[simp] theorem Hart.goesOn_tagc (h : Hart) (pc : Word) : (h.goesOn pc).tagc = h.tagc := rfl
@[simp] theorem Hart.goesOn_tagt (h : Hart) (pc : Word) : (h.goesOn pc).tagt = h.tagt := rfl
@[simp] theorem Hart.goesOn_queries (h : Hart) (pc : Word) : (h.goesOn pc).queries = h.queries := rfl
@[simp] theorem Hart.goesOn_old (h : Hart) (pc : Word) : (h.goesOn pc).old = h.old := rfl
@[simp] theorem Hart.goesOn_ost (h : Hart) (pc : Word) : (h.goesOn pc).ost = h.ost := rfl
@[simp] theorem Hart.goesOn_ocp (h : Hart) (pc : Word) : (h.goesOn pc).ocp = h.ocp := rfl
@[simp] theorem Hart.goesOn_otl (h : Hart) (pc : Word) : (h.goesOn pc).otl = h.otl := rfl
@[simp] theorem Hart.goesOn_rdv (h : Hart) (pc : Word) : (h.goesOn pc).rdv = h.rdv := rfl
@[simp] theorem Hart.goesOn_loads (h : Hart) (pc : Word) : (h.goesOn pc).loads = h.loads := rfl
@[simp] theorem Hart.goesOn_stores (h : Hart) (pc : Word) : (h.goesOn pc).stores = h.stores := rfl
@[simp] theorem Hart.goesOn_walk (h : Hart) (pc : Word) : (h.goesOn pc).walk = h.walk := rfl
@[simp] theorem Hart.goesOn_ahead (h : Hart) (pc : Word) : (h.goesOn pc).ahead = h.ahead := rfl
@[simp] theorem Hart.goesOn_entering (h : Hart) (pc : Word) : (h.goesOn pc).entering = h.entering := rfl
@[simp] theorem Hart.goesOn_halted (h : Hart) (pc : Word) : (h.goesOn pc).halted = h.halted := rfl
@[simp] theorem Hart.goesOn_pc (h : Hart) (pc : Word) : (h.goesOn pc).pc = pc := rfl
@[simp] theorem Hart.goesOn_tsw (h : Hart) (pc : Word) : (h.goesOn pc).tsw = h.tsw.completed := rfl
@[simp] theorem Hart.goesOn_wait (h : Hart) (pc : Word) : (h.goesOn pc).wait = none := rfl

@[simp] theorem Hart.setG_pc (h : Hart) (r : Reg) (x : Word) : (h.setG r x).pc = h.pc := by unfold Hart.setG; split <;> rfl
@[simp] theorem Hart.setG_v (h : Hart) (r : Reg) (x : Word) : (h.setG r x).v = h.v := by unfold Hart.setG; split <;> rfl
@[simp] theorem Hart.setG_tsw (h : Hart) (r : Reg) (x : Word) : (h.setG r x).tsw = h.tsw := by unfold Hart.setG; split <;> rfl
@[simp] theorem Hart.setG_tsws (h : Hart) (r : Reg) (x : Word) : (h.setG r x).tsws = h.tsws := by unfold Hart.setG; split <;> rfl
@[simp] theorem Hart.setG_trap (h : Hart) (r : Reg) (x : Word) : (h.setG r x).trap = h.trap := by unfold Hart.setG; split <;> rfl
@[simp] theorem Hart.setG_irq (h : Hart) (r : Reg) (x : Word) : (h.setG r x).irq = h.irq := by unfold Hart.setG; split <;> rfl
@[simp] theorem Hart.setG_spid (h : Hart) (r : Reg) (x : Word) : (h.setG r x).spid = h.spid := by unfold Hart.setG; split <;> rfl
@[simp] theorem Hart.setG_dmem (h : Hart) (r : Reg) (x : Word) : (h.setG r x).dmem = h.dmem := by unfold Hart.setG; split <;> rfl
@[simp] theorem Hart.setG_dmemNext (h : Hart) (r : Reg) (x : Word) : (h.setG r x).dmemNext = h.dmemNext := by unfold Hart.setG; split <;> rfl
@[simp] theorem Hart.setG_chip (h : Hart) (r : Reg) (x : Word) : (h.setG r x).chip = h.chip := by unfold Hart.setG; split <;> rfl
@[simp] theorem Hart.setG_tregHalf (h : Hart) (r : Reg) (x : Word) : (h.setG r x).tregHalf = h.tregHalf := by unfold Hart.setG; split <;> rfl
@[simp] theorem Hart.setG_tregEn (h : Hart) (r : Reg) (x : Word) : (h.setG r x).tregEn = h.tregEn := by unfold Hart.setG; split <;> rfl
@[simp] theorem Hart.setG_tagTable (h : Hart) (r : Reg) (x : Word) : (h.setG r x).tagTable = h.tagTable := by unfold Hart.setG; split <;> rfl
@[simp] theorem Hart.setG_lease (h : Hart) (r : Reg) (x : Word) : (h.setG r x).lease = h.lease := by unfold Hart.setG; split <;> rfl
@[simp] theorem Hart.setG_seq (h : Hart) (r : Reg) (x : Word) : (h.setG r x).seq = h.seq := by unfold Hart.setG; split <;> rfl
@[simp] theorem Hart.setG_streams (h : Hart) (r : Reg) (x : Word) : (h.setG r x).streams = h.streams := by unfold Hart.setG; split <;> rfl
@[simp] theorem Hart.setG_tagc (h : Hart) (r : Reg) (x : Word) : (h.setG r x).tagc = h.tagc := by unfold Hart.setG; split <;> rfl
@[simp] theorem Hart.setG_tagt (h : Hart) (r : Reg) (x : Word) : (h.setG r x).tagt = h.tagt := by unfold Hart.setG; split <;> rfl
@[simp] theorem Hart.setG_queries (h : Hart) (r : Reg) (x : Word) : (h.setG r x).queries = h.queries := by unfold Hart.setG; split <;> rfl
@[simp] theorem Hart.setG_old (h : Hart) (r : Reg) (x : Word) : (h.setG r x).old = h.old := by unfold Hart.setG; split <;> rfl
@[simp] theorem Hart.setG_ost (h : Hart) (r : Reg) (x : Word) : (h.setG r x).ost = h.ost := by unfold Hart.setG; split <;> rfl
@[simp] theorem Hart.setG_ocp (h : Hart) (r : Reg) (x : Word) : (h.setG r x).ocp = h.ocp := by unfold Hart.setG; split <;> rfl
@[simp] theorem Hart.setG_otl (h : Hart) (r : Reg) (x : Word) : (h.setG r x).otl = h.otl := by unfold Hart.setG; split <;> rfl
@[simp] theorem Hart.setG_rdv (h : Hart) (r : Reg) (x : Word) : (h.setG r x).rdv = h.rdv := by unfold Hart.setG; split <;> rfl
@[simp] theorem Hart.setG_loads (h : Hart) (r : Reg) (x : Word) : (h.setG r x).loads = h.loads := by unfold Hart.setG; split <;> rfl
@[simp] theorem Hart.setG_stores (h : Hart) (r : Reg) (x : Word) : (h.setG r x).stores = h.stores := by unfold Hart.setG; split <;> rfl
@[simp] theorem Hart.setG_wait (h : Hart) (r : Reg) (x : Word) : (h.setG r x).wait = h.wait := by unfold Hart.setG; split <;> rfl
@[simp] theorem Hart.setG_walk (h : Hart) (r : Reg) (x : Word) : (h.setG r x).walk = h.walk := by unfold Hart.setG; split <;> rfl
@[simp] theorem Hart.setG_ahead (h : Hart) (r : Reg) (x : Word) : (h.setG r x).ahead = h.ahead := by unfold Hart.setG; split <;> rfl
@[simp] theorem Hart.setG_entering (h : Hart) (r : Reg) (x : Word) : (h.setG r x).entering = h.entering := by unfold Hart.setG; split <;> rfl
@[simp] theorem Hart.setG_halted (h : Hart) (r : Reg) (x : Word) : (h.setG r x).halted = h.halted := by unfold Hart.setG; split <;> rfl
@[simp] theorem Hart.setG_zero (h : Hart) (x : Word) : h.setG 0 x = h := rfl
theorem Hart.setG_g (h : Hart) (r : Reg) (x : Word) : (h.setG r x).g = if r = 0 then h.g else h.g.set r x := by unfold Hart.setG; split <;> rfl
theorem Hart.setG_poison (h : Hart) (r : Reg) (x : Word) :
    (h.setG r x).poison = if r = 0 then h.poison else h.poison.filter fun p => p.1 != Dest.g r := by unfold Hart.setG; split <;> rfl

@[simp] theorem Hart.setV_pc (h : Hart) (r : Reg) (x : V512) : (h.setV r x).pc = h.pc := rfl
@[simp] theorem Hart.setV_g (h : Hart) (r : Reg) (x : V512) : (h.setV r x).g = h.g := rfl
@[simp] theorem Hart.setV_tsw (h : Hart) (r : Reg) (x : V512) : (h.setV r x).tsw = h.tsw := rfl
@[simp] theorem Hart.setV_tsws (h : Hart) (r : Reg) (x : V512) : (h.setV r x).tsws = h.tsws := rfl
@[simp] theorem Hart.setV_trap (h : Hart) (r : Reg) (x : V512) : (h.setV r x).trap = h.trap := rfl
@[simp] theorem Hart.setV_irq (h : Hart) (r : Reg) (x : V512) : (h.setV r x).irq = h.irq := rfl
@[simp] theorem Hart.setV_spid (h : Hart) (r : Reg) (x : V512) : (h.setV r x).spid = h.spid := rfl
@[simp] theorem Hart.setV_dmem (h : Hart) (r : Reg) (x : V512) : (h.setV r x).dmem = h.dmem := rfl
@[simp] theorem Hart.setV_dmemNext (h : Hart) (r : Reg) (x : V512) : (h.setV r x).dmemNext = h.dmemNext := rfl
@[simp] theorem Hart.setV_chip (h : Hart) (r : Reg) (x : V512) : (h.setV r x).chip = h.chip := rfl
@[simp] theorem Hart.setV_tregHalf (h : Hart) (r : Reg) (x : V512) : (h.setV r x).tregHalf = h.tregHalf := rfl
@[simp] theorem Hart.setV_tregEn (h : Hart) (r : Reg) (x : V512) : (h.setV r x).tregEn = h.tregEn := rfl
@[simp] theorem Hart.setV_tagTable (h : Hart) (r : Reg) (x : V512) : (h.setV r x).tagTable = h.tagTable := rfl
@[simp] theorem Hart.setV_lease (h : Hart) (r : Reg) (x : V512) : (h.setV r x).lease = h.lease := rfl
@[simp] theorem Hart.setV_seq (h : Hart) (r : Reg) (x : V512) : (h.setV r x).seq = h.seq := rfl
@[simp] theorem Hart.setV_streams (h : Hart) (r : Reg) (x : V512) : (h.setV r x).streams = h.streams := rfl
@[simp] theorem Hart.setV_tagc (h : Hart) (r : Reg) (x : V512) : (h.setV r x).tagc = h.tagc := rfl
@[simp] theorem Hart.setV_tagt (h : Hart) (r : Reg) (x : V512) : (h.setV r x).tagt = h.tagt := rfl
@[simp] theorem Hart.setV_queries (h : Hart) (r : Reg) (x : V512) : (h.setV r x).queries = h.queries := rfl
@[simp] theorem Hart.setV_old (h : Hart) (r : Reg) (x : V512) : (h.setV r x).old = h.old := rfl
@[simp] theorem Hart.setV_ost (h : Hart) (r : Reg) (x : V512) : (h.setV r x).ost = h.ost := rfl
@[simp] theorem Hart.setV_ocp (h : Hart) (r : Reg) (x : V512) : (h.setV r x).ocp = h.ocp := rfl
@[simp] theorem Hart.setV_otl (h : Hart) (r : Reg) (x : V512) : (h.setV r x).otl = h.otl := rfl
@[simp] theorem Hart.setV_rdv (h : Hart) (r : Reg) (x : V512) : (h.setV r x).rdv = h.rdv := rfl
@[simp] theorem Hart.setV_loads (h : Hart) (r : Reg) (x : V512) : (h.setV r x).loads = h.loads := rfl
@[simp] theorem Hart.setV_stores (h : Hart) (r : Reg) (x : V512) : (h.setV r x).stores = h.stores := rfl
@[simp] theorem Hart.setV_wait (h : Hart) (r : Reg) (x : V512) : (h.setV r x).wait = h.wait := rfl
@[simp] theorem Hart.setV_walk (h : Hart) (r : Reg) (x : V512) : (h.setV r x).walk = h.walk := rfl
@[simp] theorem Hart.setV_ahead (h : Hart) (r : Reg) (x : V512) : (h.setV r x).ahead = h.ahead := rfl
@[simp] theorem Hart.setV_entering (h : Hart) (r : Reg) (x : V512) : (h.setV r x).entering = h.entering := rfl
@[simp] theorem Hart.setV_halted (h : Hart) (r : Reg) (x : V512) : (h.setV r x).halted = h.halted := rfl
@[simp] theorem Hart.setV_v (h : Hart) (r : Reg) (x : V512) : (h.setV r x).v = h.v.set r x := rfl
@[simp] theorem Hart.setV_poison (h : Hart) (r : Reg) (x : V512) : (h.setV r x).poison = h.poison.filter fun p => p.1 != Dest.v r := rfl

/-- A write of g[r] that goes on is the hart the statements name. -/
theorem Hart.setG_goesOn (h : Hart) (r : Reg) (x pc : Word) : (h.setG r x).goesOn pc = h.wroteG r x pc := by
  unfold Hart.setG Hart.wroteG
  split <;> simp_all [Hart.goesOn]

/-- A write of v[r] that goes on is the hart the statements name. -/
theorem Hart.setV_goesOn (h : Hart) (r : Reg) (x : V512) (pc : Word) : (h.setV r x).goesOn pc = h.wroteV r x pc := rfl

/-- g[r] reads the value written, and g0 zero. -/
theorem State.g_setG_same (s : State) (r : Reg) (x : Word) : (s.setG r x).g r = if r = 0 then 0 else x := by
  simp only [State.setG_eq, State.withHart_g, Hart.setG_g]
  split <;> simp_all

/-- Every other register reads as before. -/
theorem State.g_setG_other (s : State) {r q : Reg} (x : Word) (h : q ≠ r) : (s.setG r x).g q = s.g q := by
  rw [State.setG_eq, State.withHart_g, Hart.setG_g]
  unfold State.g
  by_cases hq : q = 0
  · rw [if_pos hq, if_pos hq]
  · rw [if_neg hq, if_neg hq]
    by_cases hr : r = 0
    · simp [hr]
    · have he : r.val ≠ q.val := fun he => h (Fin.ext he.symm)
      simp [hr, he]

/-- v[r] reads the value written. -/
theorem State.v_setV_same (s : State) (r : Reg) (x : V512) : (s.setV r x).v r = x := by simp

/-- Every other v register reads as before. -/
theorem State.v_setV_other (s : State) {r q : Reg} (x : V512) (h : q ≠ r) : (s.setV r x).v q = s.v q := by
  have he : r.val ≠ q.val := fun he => h (Fin.ext he.symm)
  simp [State.v, he]

/-! ## Harts, arrays and lists by number -/

theorem lookupD_insertA {α : Type} (l : List (Nat × α)) (k j : Nat) (x d : α) :
    lookupD (insertA l k x) j d = if k = j then x else lookupD l j d := by
  induction l with
  | nil => rfl
  | cons p r ih =>
    obtain ⟨i, y⟩ := p
    by_cases hk : i = k
    · subst hk
      simp only [insertA, if_pos, lookupD]
      split <;> rfl
    · simp only [insertA, if_neg hk, lookupD, ih]
      split
      · next h => rw [if_neg (by omega)]
      · rfl

/-- The hart of a core after a hart has been changed. -/
theorem State.hartOf_modifyHart (s : State) (n m : Nat) (f : Hart → Hart) :
    (s.modifyHart n f).hartOf m = if m = n then f (s.hartOf n) else s.hartOf m := by
  unfold State.modifyHart State.hartOf
  by_cases hn : n = s.cur <;> by_cases hm : m = n <;> by_cases hc : m = s.cur <;> simp_all [lookupD_insertA]
  intro h; exact absurd h.symm (by assumption)

@[simp] theorem State.modifyHart_mem (s : State) (n : Nat) (f : Hart → Hart) : (s.modifyHart n f).mem = s.mem := by
  unfold State.modifyHart; split <;> rfl
@[simp] theorem State.modifyHart_arrays (s : State) (n : Nat) (f : Hart → Hart) : (s.modifyHart n f).arrays = s.arrays := by
  unfold State.modifyHart; split <;> rfl
@[simp] theorem State.modifyHart_cur (s : State) (n : Nat) (f : Hart → Hart) : (s.modifyHart n f).cur = s.cur := by
  unfold State.modifyHart; split <;> rfl

/-- The array of a cluster after an array has been put. -/
theorem State.array_setArray (s : State) (c k : Nat) (a : ArrayUnit) : (s.setArray c a).array k = if c = k then a else s.array k :=
  lookupD_insertA ..
@[simp] theorem State.array_setArray_same (s : State) (c : Nat) (a : ArrayUnit) : (s.setArray c a).array c = a := by
  rw [State.array_setArray, if_pos rfl]
@[simp] theorem State.setArray_hart (s : State) (c : Nat) (a : ArrayUnit) : (s.setArray c a).hart = s.hart := rfl
@[simp] theorem State.setArray_mem (s : State) (c : Nat) (a : ArrayUnit) : (s.setArray c a).mem = s.mem := rfl
@[simp] theorem State.setArray_cur (s : State) (c : Nat) (a : ArrayUnit) : (s.setArray c a).cur = s.cur := rfl

end Sys2Proof.Machine
end

