-- ==== Sys2Proof/Laws/Ops.lean ====
section
/-! SUPPORT. What the shared operations can do, said once: the checks before an instruction, taking a trap, writes and counters, translation. -/

namespace Sys2Proof.Machine

/-! ## The checks before an instruction's own entry -/

/-- A check that stops the instruction where `c` holds lets it on exactly where `c` does not. -/
theorem check_pass {c : Bool} {stop onward : Gate} (h : stop ≠ .pass) :
    (if c = true then stop else onward) = .pass ↔ c = false ∧ onward = .pass := by
  cases c <;> simp [h]

/-- The conditions of `Ready` are those under which the checks let an instruction pass. -/
theorem ready_iff (i : Instr) (s : State) : Ready i s ↔ gate i s = .pass := by
  have trap (code : Nat) (tval : Word) : Gate.trap code tval ≠ .pass := Gate.noConfusion
  have hold : Gate.hold ≠ .pass := Gate.noConfusion
  have loads : (∀ l ∈ s.hart.loads, l.dest ∈ namedDests s.hart i → l.dest = .g 0) ↔
      (s.hart.loads.any fun l => l.dest != Dest.g 0 && (namedDests s.hart i).contains l.dest) = false := by
    simp only [List.any_eq_false, Bool.and_eq_true, bne_iff_ne, List.contains_iff_mem, not_and', not_not]
  have data : (∀ p ∈ s.hart.poison, p.1 ∉ readDests s.hart i) ↔
      (s.hart.poison.find? fun p => (readDests s.hart i).contains p.1) = none := by
    simp only [List.find?_eq_none, List.contains_iff_mem]
  rw [gate, check_pass (trap _ _), check_pass (trap _ _), check_pass (trap _ _), check_pass (trap _ _), check_pass hold, check_pass hold,
    check_pass (trap _ _), ← loads]
  simp only [Bool.or_eq_false_iff, Bool.not_eq_false', Bool.and_eq_false_imp, beq_eq_false_iff_ne]
  split
  next p read =>
    have poisoned := mt data.1 (by rw [read]; exact Option.some_ne_none p)
    exact ⟨fun r => absurd r.data poisoned, fun ⟨_, _, _, _, _, _, _, h⟩ => absurd h (trap _ _)⟩
  next clean =>
    exact ⟨fun r => ⟨r.mode, r.held, r.writes, ⟨r.fits, r.stopped⟩, r.free, r.loads, r.streams, rfl⟩,
      fun ⟨mode, held, writes, ⟨fits, stopped⟩, free, loads, streams, _⟩ =>
        ⟨mode, held, writes, fits, stopped, free, loads, streams, data.2 clean⟩⟩

/-- A way to a `Ready` by evaluation. -/
theorem Ready.of_gate {i : Instr} {s : State} (h : gate i s = .pass) : Ready i s := (ready_iff i s).2 h

/-- A ready instruction has its own effect. -/
theorem issue_ready {i : Instr} {s : State} (h : Ready i s) (k : State → State) : issue i s k = .next (k s) := by
  simp only [issue, (ready_iff i s).1 h]

/-- An instruction that is issued has its own effect, waits, or traps; it never stops the package. -/
theorem issue_cases (i : Instr) (s : State) (k : State → State) :
    (Ready i s ∧ issue i s k = .next (k s)) ∨ (gate i s = .hold ∧ issue i s k = .next s) ∨
      ∃ code tval, gate i s = .trap code tval ∧ issue i s k = .next (trapHere ⟨code, tval⟩ s) := by
  cases h : gate i s with
  | pass => exact .inl ⟨(ready_iff i s).2 h, by simp only [issue, h]⟩
  | hold => exact .inr (.inl ⟨rfl, by simp only [issue, h]⟩)
  | trap code tval => exact .inr (.inr ⟨code, tval, rfl, by simp only [issue, h]⟩)

/-- An instruction that writes one g register, when it is ready. -/
theorem writesG_ready {i : Instr} {s : State} (h : Ready i s) (d : Reg) (f : State → Word) :
    writesG i d f s = .next (s.withHart (s.hart.wroteG d (f s) (s.hart.pc + 4))) := by
  rw [writesG, issue_ready h]
  simp only [State.setG_eq, State.retire_eq, State.withHart_hart, State.withHart_withHart, Hart.setG_pc, Hart.setG_goesOn]
  rfl

/-! ## Taking a trap -/

/-- The end of a lease leaves all of the hart but its lease. -/
theorem endLease_hart (s : State) :
    (endLease s).hart = { s.hart with lease := { s.hart.lease with held := false, left := 0, cols := 256, rows := 256 } } ∧
      (endLease s).mem = s.mem := by
  unfold endLease
  dsimp only
  split <;> exact ⟨rfl, rfl⟩

/-- Parking a batch leaves all of the hart but its lease and OTL, and memory. -/
theorem parkBatch_hart (s : State) :
    (∃ o l, (parkBatch s).hart = { s.hart with otl := o, lease := l }) ∧ (parkBatch s).mem = s.mem := by
  unfold parkBatch
  split
  · exact ⟨⟨s.hart.otl, s.hart.lease, rfl⟩, rfl⟩
  · split
    · exact ⟨⟨s.hart.otl, _, (endLease_hart s).1⟩, (endLease_hart s).2⟩
    · exact ⟨⟨_, _, rfl⟩, rfl⟩

/-- With nothing to wait for, nothing is withdrawn. -/
theorem withdrawWait_none {s : State} (h : s.hart.wait = none) : withdrawWait s = s := by
  unfold withdrawWait
  obtain ⟨cur, hart, r⟩ := s
  obtain ⟨pc⟩ := hart
  simp only at h
  subst h
  rfl

/-- Taking a trap leaves what the rules of trap entry say. -/
theorem takeTrap_taken {s : State} (h : s.hart.wait = none) (int : Bool) (code : Nat) (tval epc : Word) :
    TrapTaken s (takeTrap int code tval epc s) int code tval epc := by
  obtain ⟨⟨o, l, hp⟩, hm⟩ := parkBatch_hart s
  unfold takeTrap
  rw [withdrawWait_none h]
  constructor <;> simp only [hp, hm]
  · cases s.hart.tsw.mode <;> rfl
  · simp [Tsw.clearPending]
  · cases s.hart.tsw.mode <;> rfl
  · simp
  · simp
  · simp
  · simp

/-- The trap of the instruction at the program counter. -/
theorem trapHere_taken {s : State} (h : s.hart.wait = none) (e : Exc) : TrapTaken s (trapHere e s) false e.code e.tval s.hart.pc :=
  takeTrap_taken h ..

/-- A trap keeps memory, whatever the hart waits for, but for the add of a CAW on its way. -/
theorem trapHere_of_gate {i : Instr} {s : State} {code : Nat} {tval : Word} (h : gate i s = .trap code tval) (hw : s.hart.wait = none)
    (k : State → State) : ∃ t, issue i s k = .next t ∧ TrapTaken s t false code tval s.hart.pc :=
  ⟨_, by simp only [issue, h], trapHere_taken hw ⟨code, tval⟩⟩

/-! ## Writes and counters -/

@[simp] theorem evaluate_mem (s : State) (p : RollEntry → Bool) : (evaluate s p).mem = s.mem := rfl
@[simp] theorem evaluate_hart (s : State) (p : RollEntry → Bool) : (evaluate s p).hart = s.hart := rfl
@[simp] theorem State.write_mem (s : State) (a : Nat) (bs : List Byte) : (s.write a bs).mem = s.mem.write a bs := rfl
@[simp] theorem State.write_hart (s : State) (a : Nat) (bs : List Byte) : (s.write a bs).hart = s.hart := rfl
@[simp] theorem counterPoison_mem (s : State) (k : Nat) : (counterPoison s k).mem = s.mem := rfl

@[simp] theorem setCounter_mem (s : State) (k : Nat) (w : Word) : (setCounter s k w).mem = s.mem.write (ctrPlace k) (wordBytes w) := by
  rw [← tagLines_mem s (ctrKid k) (ctrPlace k) 8]
  rfl

@[simp] theorem setCounter_hart (s : State) (k : Nat) (w : Word) : (setCounter s k w).hart = s.hart := by
  rw [← tagLines_hart s (ctrKid k) (ctrPlace k) 8]
  rfl

@[simp] theorem counterAdd_hart (s : State) (k : Nat) (w : Word) : (counterAdd s k w).hart = s.hart := setCounter_hart ..

/-- A counter set reads its value through the key id it was set under. -/
@[simp] theorem setCounter_counter (s : State) (k : Nat) (w : Word) : (setCounter s k w).counter k = w := by
  unfold State.counter
  rw [readKeyed_tagLines s (setCounter s k w) (ctrKid k) (ctrPlace k) 8 rfl (tagLines_mgmt ..) (tagLines_sealed ..), setCounter_mem]
  exact Memory.readWord_write_same ..

/-- An add leaves the sum at its counter. -/
@[simp] theorem counterAdd_counter (s : State) (k : Nat) (x : Word) : (counterAdd s k x).counter k = s.counter k + x := setCounter_counter ..

/-- An add leaves every other byte of memory. -/
theorem counterAdd_other (s : State) (k : Nat) (x : Word) {p : Nat} (h : p < ctrPlace k ∨ ctrPlace k + 8 ≤ p) :
    (counterAdd s k x).mem.read p = s.mem.read p := by
  unfold counterAdd
  rw [setCounter_mem, Memory.read_write_other]
  rw [show (wordBytes (s.counter k + x)).length = 8 from toBytes_length 8 _]
  exact h

@[simp] theorem writeKeyed_mem (s : State) (key a : Nat) (bs : List Byte) : (s.writeKeyed key a bs).mem = s.mem.write a bs := by
  simp [State.writeKeyed]

/-- A replica that goes on keeps the canonical form. -/
theorem applyUpTo_sound (k : Fin 3) (n : Nat) (l : List ReplWrite) : ∀ {s : State}, s.Sound → (applyUpTo k n l s).Sound := by
  induction l with
  | nil => exact fun h => h
  | cons w r ih =>
    intro s h
    unfold applyUpTo
    split
    · exact h
    · exact ih (by unfold State.Sound; simpa using Memory.write_wf _ _ h)

@[simp] theorem dropApplied_mem (s : State) : (dropApplied s).mem = s.mem := by
  unfold dropApplied
  dsimp only
  split <;> rfl

/-- The sequence that goes on to its end keeps the canonical form. -/
theorem settleAll_sound {s : State} (h : s.Sound) : (settleAll s).Sound := by
  have fold : ∀ (l : List (Fin 3)) (t : State), t.Sound →
      (l.foldl (fun s k => applyUpTo k s.replNext (s.repl.drop s.applied[k]) s) t).Sound := by
    intro l
    induction l with
    | nil => exact fun _ h => h
    | cons k r ih => exact fun t h => ih _ (applyUpTo_sound _ _ _ h)
  unfold settleAll State.Sound
  rw [dropApplied_mem]
  exact fold _ s h

/-- A write to a segment keeps the canonical form. -/
theorem writeSeg_sound {s : State} (h : s.Sound) (who : Nat) (g : Seg) (bs : List Byte) : (writeSeg s who g bs).Sound := by
  unfold writeSeg
  split
  · exact h
  · split
    · dsimp only
      split
      · exact settleAll_sound h
      · exact h
    · unfold State.Sound
      simpa using Memory.write_wf _ _ h

/-- A write of an access keeps the canonical form. -/
theorem writeSegs_sound (who : Nat) (l : List Seg) : ∀ (bs : List Byte) {s : State}, s.Sound → (writeSegs s who l bs).Sound := by
  induction l with
  | nil => exact fun _ _ h => h
  | cons g r ih => exact fun bs s h => ih _ (writeSeg_sound h who g _)

/-- A write to a segment leaves every place outside it; a write in the SO order to a replicated page also brings in the writes before it. -/
theorem writeSeg_other (s : State) (who : Nat) (g : Seg) (bs : List Byte) (hr : pteRepl g.entry = false ∨ g.order ≠ .so) {p : Nat}
    (h : p < g.place ∨ g.place + bs.length ≤ p) : (writeSeg s who g bs).mem.read p = s.mem.read p := by
  unfold writeSeg
  split
  · rfl
  · split
    · rename_i hp
      rw [if_neg (hr.resolve_left (by simp [hp]))]
    · simpa using Memory.read_write_other h

/-! ## Translation and the checks of an access -/

/-- The only changes are to what the stations cache and to the count of free values. -/
def StationsOnly (s t : State) : Prop := t = { s with stations := t.stations, draws := t.draws }

theorem StationsOnly.refl (s : State) : StationsOnly s s := rfl

theorem StationsOnly.trans {s t u : State} (h : StationsOnly s t) (k : StationsOnly t u) : StationsOnly s u := by
  unfold StationsOnly at *
  rw [k, h]

theorem keepCached_stations (s : State) (c : Cached) : StationsOnly s (keepCached s c) := by
  unfold keepCached StationsOnly
  dsimp only
  split
  · rfl
  · split <;> rfl

/-- Translation changes only what the station caches. -/
theorem translate_stations (s : State) (m : Nat) (p : BitVec 16) (sp : BitVec 20) (va : Nat) : StationsOnly s (translate s m p sp va).2 := by
  unfold translate
  split
  · rfl
  · dsimp only
    split
    · rfl
    · exact keepCached_stations ..
    · split
      · rfl
      · have hf : s.flip.2 = { s with draws := s.draws + 1 } := rfl
        generalize s.flip = x at hf
        obtain ⟨b, t⟩ := x
        simp only at hf
        subst hf
        cases b
        · generalize (walkPath s p sp va).2 = w
          cases w
          · rfl
          · exact StationsOnly.trans (t := { s with draws := s.draws + 1, stations := s.stations.filter _ }) rfl (keepCached_stations ..)
        · rfl

theorem translateRuns_stations (m : Nat) (p : BitVec 16) (sp : BitVec 20) (l : List (Nat × Nat)) :
    ∀ s, StationsOnly s (translateRuns s m p sp l).2 := by
  induction l with
  | nil => exact fun s => rfl
  | cons a r ih => exact fun s => (translate_stations s m p sp a.1).trans (ih _)

/-- The checks of a global access change only what the station caches. -/
theorem globalAccess_stations (s : State) (m : Nat) (p : BitVec 16) (sp : BitVec 20) (need : Need) (va n : Nat) :
    StationsOnly s (globalAccess s m p sp need va n).2 := by
  have h := translateRuns_stations m p sp (runsOf va n) s
  unfold globalAccess
  generalize translateRuns s m p sp (runsOf va n) = r at h
  obtain ⟨l, t⟩ := r
  dsimp only at h ⊢
  split
  · exact h
  · split <;> exact h

/-- The checks of an access change only what the station caches, whether it passes or not. -/
theorem access_stations (s : State) (am : AddrMode) (align : Nat) (need : Need) (a : Word) (n : Nat) :
    StationsOnly s (access s am align need a n).2 := by
  unfold access
  dsimp only
  split
  · rfl
  · split
    · rfl
    · split
      · have h := globalAccess_stations s (homeSlice s.cluster) s.part s.hart.spid need a.toNat n
        split <;> (rename_i he; rw [he] at h; exact h)
      · rfl

/-- An access in a local mode that passes its checks: its segments, and the state as it was. -/
theorem access_local (s : State) (am : AddrMode) (align : Nat) (need : Need) (a : Word) (n : Nat) (h : am ≠ .gl)
    (hf : formOk am a.toNat n = true) (ha : a.toNat % align = 0) :
    access s am align need a n = (.ok (localSegs s.cur am a.toNat n), s) := by
  unfold access
  cases am <;> simp_all

/-! ## Every instruction of the program meets the checks -/

seal issue in
set_option maxRecDepth 20000 in
/-- An instruction of the program is its checks and then an entry of its own; what a check decides holds of all of them at once. -/
theorem exec_issue (i : Instr) (s : State) (h : i.isProgram = true) : ∃ k, exec i s = issue i s k := by
  cases i
  all_goals first | exact Bool.noConfusion h | exact ⟨_, rfl⟩

end Sys2Proof.Machine
end

