-- ==== Sys2Proof/Laws/PerInstr.lean ====
section
/-! SUPPORT. The bounds of the encoder's fields, and one lemma per instruction: each of its words has 32 bits (R52). -/

namespace Sys2Proof

theorem AddrMode.code_lt (x : AddrMode) : x.code < 4 := by cases x <;> decide
theorem Order.code_lt (x : Order) : x.code < 4 := by cases x <;> decide
theorem Scope.code_lt (x : Scope) : x.code < 6 := by cases x <;> decide
theorem ElemType.code_lt (x : ElemType) : x.code < 16 := by cases x <;> decide
theorem FType.code_lt (x : FType) : x.code < 16 := by cases x <;> decide
theorem LaneWidth.code_lt (x : LaneWidth) : x.code < 4 := by cases x <;> decide
theorem FCond.code_lt (x : FCond) : x.code < 4 := by cases x <;> decide
theorem VCond.code_lt (x : VCond) : x.code < 5 := by cases x <;> decide
theorem AccType.code_lt (x : AccType) : x.code < 16 := by cases x <;> decide
theorem ScaleMode.code_lt (x : ScaleMode) : x.code < 4 := by cases x <;> decide
theorem OutType.code_lt (x : OutType) : x.code < 16 := by cases x <;> decide
theorem bit_lt (b : Bool) : bit b < 2 := by cases b <;> decide
theorem Mask.reg_lt (x : Mask) : x.reg < 32 := by cases x <;> simp only [Mask.reg] <;> omega
theorem Mask.mk_lt (x : Mask) : x.mk < 3 := by cases x <;> simp only [Mask.mk] <;> omega
theorem encScope_lt (x : Option Scope) : encScope x < 2048 := by
  cases x with
  | none => decide
  | some y => cases y <;> decide
theorem CtlReg.code_lt (x : CtlReg) : x.code < 4096 := by cases x <;> simp only [CtlReg.code] <;> omega

end Sys2Proof

/-- Each word of an instruction is a number of 32 bits (R52). -/
def Sys2Proof.Laws.Encoded.Statement (i : Sys2Proof.Instr) : Prop := ∀ w ∈ i.words, w < 2 ^ 32

section
open Sys2Proof

theorem Sys2Proof.Laws.Encoded.add (d a b : Reg) : Sys2Proof.Laws.Encoded.Statement (.add d a b) := by
  intro word h; obtain rfl := List.mem_singleton.1 (show word ∈ [encA 1 d.val a.val b.val (0 * 64)] from h)
  have := d.isLt; have := a.isLt; have := b.isLt; simp only [encA]; omega
theorem Sys2Proof.Laws.Encoded.sub (d a b : Reg) : Sys2Proof.Laws.Encoded.Statement (.sub d a b) := by
  intro word h; obtain rfl := List.mem_singleton.1 (show word ∈ [encA 1 d.val a.val b.val (1 * 64)] from h)
  have := d.isLt; have := a.isLt; have := b.isLt; simp only [encA]; omega
theorem Sys2Proof.Laws.Encoded.mul (d a b : Reg) : Sys2Proof.Laws.Encoded.Statement (.mul d a b) := by
  intro word h; obtain rfl := List.mem_singleton.1 (show word ∈ [encA 1 d.val a.val b.val (2 * 64)] from h)
  have := d.isLt; have := a.isLt; have := b.isLt; simp only [encA]; omega
theorem Sys2Proof.Laws.Encoded.mulh (d a b : Reg) : Sys2Proof.Laws.Encoded.Statement (.mulh d a b) := by
  intro word h; obtain rfl := List.mem_singleton.1 (show word ∈ [encA 1 d.val a.val b.val (3 * 64)] from h)
  have := d.isLt; have := a.isLt; have := b.isLt; simp only [encA]; omega
theorem Sys2Proof.Laws.Encoded.mulhn (d a b : Reg) : Sys2Proof.Laws.Encoded.Statement (.mulhn d a b) := by
  intro word h; obtain rfl := List.mem_singleton.1 (show word ∈ [encA 1 d.val a.val b.val (4 * 64)] from h)
  have := d.isLt; have := a.isLt; have := b.isLt; simp only [encA]; omega
theorem Sys2Proof.Laws.Encoded.div (d a b : Reg) : Sys2Proof.Laws.Encoded.Statement (.div d a b) := by
  intro word h; obtain rfl := List.mem_singleton.1 (show word ∈ [encA 1 d.val a.val b.val (5 * 64)] from h)
  have := d.isLt; have := a.isLt; have := b.isLt; simp only [encA]; omega
theorem Sys2Proof.Laws.Encoded.divn (d a b : Reg) : Sys2Proof.Laws.Encoded.Statement (.divn d a b) := by
  intro word h; obtain rfl := List.mem_singleton.1 (show word ∈ [encA 1 d.val a.val b.val (6 * 64)] from h)
  have := d.isLt; have := a.isLt; have := b.isLt; simp only [encA]; omega
theorem Sys2Proof.Laws.Encoded.rem (d a b : Reg) : Sys2Proof.Laws.Encoded.Statement (.rem d a b) := by
  intro word h; obtain rfl := List.mem_singleton.1 (show word ∈ [encA 1 d.val a.val b.val (7 * 64)] from h)
  have := d.isLt; have := a.isLt; have := b.isLt; simp only [encA]; omega
theorem Sys2Proof.Laws.Encoded.remn (d a b : Reg) : Sys2Proof.Laws.Encoded.Statement (.remn d a b) := by
  intro word h; obtain rfl := List.mem_singleton.1 (show word ∈ [encA 1 d.val a.val b.val (8 * 64)] from h)
  have := d.isLt; have := a.isLt; have := b.isLt; simp only [encA]; omega
theorem Sys2Proof.Laws.Encoded.and (d a b : Reg) : Sys2Proof.Laws.Encoded.Statement (.and d a b) := by
  intro word h; obtain rfl := List.mem_singleton.1 (show word ∈ [encA 1 d.val a.val b.val (9 * 64)] from h)
  have := d.isLt; have := a.isLt; have := b.isLt; simp only [encA]; omega
theorem Sys2Proof.Laws.Encoded.or (d a b : Reg) : Sys2Proof.Laws.Encoded.Statement (.or d a b) := by
  intro word h; obtain rfl := List.mem_singleton.1 (show word ∈ [encA 1 d.val a.val b.val (10 * 64)] from h)
  have := d.isLt; have := a.isLt; have := b.isLt; simp only [encA]; omega
theorem Sys2Proof.Laws.Encoded.xor (d a b : Reg) : Sys2Proof.Laws.Encoded.Statement (.xor d a b) := by
  intro word h; obtain rfl := List.mem_singleton.1 (show word ∈ [encA 1 d.val a.val b.val (11 * 64)] from h)
  have := d.isLt; have := a.isLt; have := b.isLt; simp only [encA]; omega
theorem Sys2Proof.Laws.Encoded.sll (d a b : Reg) : Sys2Proof.Laws.Encoded.Statement (.sll d a b) := by
  intro word h; obtain rfl := List.mem_singleton.1 (show word ∈ [encA 1 d.val a.val b.val (12 * 64)] from h)
  have := d.isLt; have := a.isLt; have := b.isLt; simp only [encA]; omega
theorem Sys2Proof.Laws.Encoded.srl (d a b : Reg) : Sys2Proof.Laws.Encoded.Statement (.srl d a b) := by
  intro word h; obtain rfl := List.mem_singleton.1 (show word ∈ [encA 1 d.val a.val b.val (13 * 64)] from h)
  have := d.isLt; have := a.isLt; have := b.isLt; simp only [encA]; omega
theorem Sys2Proof.Laws.Encoded.sra (d a b : Reg) : Sys2Proof.Laws.Encoded.Statement (.sra d a b) := by
  intro word h; obtain rfl := List.mem_singleton.1 (show word ∈ [encA 1 d.val a.val b.val (14 * 64)] from h)
  have := d.isLt; have := a.isLt; have := b.isLt; simp only [encA]; omega
theorem Sys2Proof.Laws.Encoded.slli (d a : Reg) (sh : Fin 64) : Sys2Proof.Laws.Encoded.Statement (.slli d a sh) := by
  intro word h; obtain rfl := List.mem_singleton.1 (show word ∈ [encA 1 d.val a.val 0 (15 * 64 + sh.val)] from h)
  have := d.isLt; have := a.isLt; have := sh.isLt; simp only [encA]; omega
theorem Sys2Proof.Laws.Encoded.srli (d a : Reg) (sh : Fin 64) : Sys2Proof.Laws.Encoded.Statement (.srli d a sh) := by
  intro word h; obtain rfl := List.mem_singleton.1 (show word ∈ [encA 1 d.val a.val 0 (16 * 64 + sh.val)] from h)
  have := d.isLt; have := a.isLt; have := sh.isLt; simp only [encA]; omega
theorem Sys2Proof.Laws.Encoded.srai (d a : Reg) (sh : Fin 64) : Sys2Proof.Laws.Encoded.Statement (.srai d a sh) := by
  intro word h; obtain rfl := List.mem_singleton.1 (show word ∈ [encA 1 d.val a.val 0 (17 * 64 + sh.val)] from h)
  have := d.isLt; have := a.isLt; have := sh.isLt; simp only [encA]; omega
theorem Sys2Proof.Laws.Encoded.slt (d a b : Reg) : Sys2Proof.Laws.Encoded.Statement (.slt d a b) := by
  intro word h; obtain rfl := List.mem_singleton.1 (show word ∈ [encA 1 d.val a.val b.val (18 * 64)] from h)
  have := d.isLt; have := a.isLt; have := b.isLt; simp only [encA]; omega
theorem Sys2Proof.Laws.Encoded.sltn (d a b : Reg) : Sys2Proof.Laws.Encoded.Statement (.sltn d a b) := by
  intro word h; obtain rfl := List.mem_singleton.1 (show word ∈ [encA 1 d.val a.val b.val (19 * 64)] from h)
  have := d.isLt; have := a.isLt; have := b.isLt; simp only [encA]; omega
theorem Sys2Proof.Laws.Encoded.min (d a b : Reg) : Sys2Proof.Laws.Encoded.Statement (.min d a b) := by
  intro word h; obtain rfl := List.mem_singleton.1 (show word ∈ [encA 1 d.val a.val b.val (20 * 64)] from h)
  have := d.isLt; have := a.isLt; have := b.isLt; simp only [encA]; omega
theorem Sys2Proof.Laws.Encoded.max (d a b : Reg) : Sys2Proof.Laws.Encoded.Statement (.max d a b) := by
  intro word h; obtain rfl := List.mem_singleton.1 (show word ∈ [encA 1 d.val a.val b.val (21 * 64)] from h)
  have := d.isLt; have := a.isLt; have := b.isLt; simp only [encA]; omega
theorem Sys2Proof.Laws.Encoded.minn (d a b : Reg) : Sys2Proof.Laws.Encoded.Statement (.minn d a b) := by
  intro word h; obtain rfl := List.mem_singleton.1 (show word ∈ [encA 1 d.val a.val b.val (22 * 64)] from h)
  have := d.isLt; have := a.isLt; have := b.isLt; simp only [encA]; omega
theorem Sys2Proof.Laws.Encoded.maxn (d a b : Reg) : Sys2Proof.Laws.Encoded.Statement (.maxn d a b) := by
  intro word h; obtain rfl := List.mem_singleton.1 (show word ∈ [encA 1 d.val a.val b.val (23 * 64)] from h)
  have := d.isLt; have := a.isLt; have := b.isLt; simp only [encA]; omega
theorem Sys2Proof.Laws.Encoded.clz (d a : Reg) : Sys2Proof.Laws.Encoded.Statement (.clz d a) := by
  intro word h; obtain rfl := List.mem_singleton.1 (show word ∈ [encA 1 d.val a.val 0 (24 * 64)] from h)
  have := d.isLt; have := a.isLt; simp only [encA]; omega
theorem Sys2Proof.Laws.Encoded.ctz (d a : Reg) : Sys2Proof.Laws.Encoded.Statement (.ctz d a) := by
  intro word h; obtain rfl := List.mem_singleton.1 (show word ∈ [encA 1 d.val a.val 0 (25 * 64)] from h)
  have := d.isLt; have := a.isLt; simp only [encA]; omega
theorem Sys2Proof.Laws.Encoded.popc (d a : Reg) : Sys2Proof.Laws.Encoded.Statement (.popc d a) := by
  intro word h; obtain rfl := List.mem_singleton.1 (show word ∈ [encA 1 d.val a.val 0 (26 * 64)] from h)
  have := d.isLt; have := a.isLt; simp only [encA]; omega
theorem Sys2Proof.Laws.Encoded.exts (d a : Reg) (p : Fin 64) (w : Fin 32) : Sys2Proof.Laws.Encoded.Statement (.exts d a p w) := by
  intro word h; obtain rfl := List.mem_singleton.1 (show word ∈ [encA 1 d.val a.val w.val (27 * 64 + p.val)] from h)
  have := d.isLt; have := a.isLt; have := p.isLt; have := w.isLt; simp only [encA]; omega
theorem Sys2Proof.Laws.Encoded.extn (d a : Reg) (p : Fin 64) (w : Fin 32) : Sys2Proof.Laws.Encoded.Statement (.extn d a p w) := by
  intro word h; obtain rfl := List.mem_singleton.1 (show word ∈ [encA 1 d.val a.val w.val (28 * 64 + p.val)] from h)
  have := d.isLt; have := a.isLt; have := p.isLt; have := w.isLt; simp only [encA]; omega
theorem Sys2Proof.Laws.Encoded.bins (d a : Reg) (p : Fin 64) (w : Fin 32) : Sys2Proof.Laws.Encoded.Statement (.bins d a p w) := by
  intro word h; obtain rfl := List.mem_singleton.1 (show word ∈ [encA 1 d.val a.val w.val (29 * 64 + p.val)] from h)
  have := d.isLt; have := a.isLt; have := p.isLt; have := w.isLt; simp only [encA]; omega
theorem Sys2Proof.Laws.Encoded.addi (d a : Reg) (imm : BitVec 16) : Sys2Proof.Laws.Encoded.Statement (.addi d a imm) := by
  intro word h; obtain rfl := List.mem_singleton.1 (show word ∈ [encI 2 d.val a.val imm.toNat] from h)
  have := d.isLt; have := a.isLt; have := imm.isLt; simp only [encI]; omega
theorem Sys2Proof.Laws.Encoded.andi (d a : Reg) (imm : BitVec 16) : Sys2Proof.Laws.Encoded.Statement (.andi d a imm) := by
  intro word h; obtain rfl := List.mem_singleton.1 (show word ∈ [encI 3 d.val a.val imm.toNat] from h)
  have := d.isLt; have := a.isLt; have := imm.isLt; simp only [encI]; omega
theorem Sys2Proof.Laws.Encoded.ori (d a : Reg) (imm : BitVec 16) : Sys2Proof.Laws.Encoded.Statement (.ori d a imm) := by
  intro word h; obtain rfl := List.mem_singleton.1 (show word ∈ [encI 4 d.val a.val imm.toNat] from h)
  have := d.isLt; have := a.isLt; have := imm.isLt; simp only [encI]; omega
theorem Sys2Proof.Laws.Encoded.xori (d a : Reg) (imm : BitVec 16) : Sys2Proof.Laws.Encoded.Statement (.xori d a imm) := by
  intro word h; obtain rfl := List.mem_singleton.1 (show word ∈ [encI 5 d.val a.val imm.toNat] from h)
  have := d.isLt; have := a.isLt; have := imm.isLt; simp only [encI]; omega
theorem Sys2Proof.Laws.Encoded.slti (d a : Reg) (imm : BitVec 16) : Sys2Proof.Laws.Encoded.Statement (.slti d a imm) := by
  intro word h; obtain rfl := List.mem_singleton.1 (show word ∈ [encI 6 d.val a.val imm.toNat] from h)
  have := d.isLt; have := a.isLt; have := imm.isLt; simp only [encI]; omega
theorem Sys2Proof.Laws.Encoded.lih (d : Reg) (imm : BitVec 20) : Sys2Proof.Laws.Encoded.Statement (.lih d imm) := by
  intro word h; obtain rfl := List.mem_singleton.1 (show word ∈ [7 * 2 ^ 26 + d.val * 2 ^ 21 + imm.toNat] from h)
  have := d.isLt; have := imm.isLt; omega
theorem Sys2Proof.Laws.Encoded.addpc (d : Reg) (imm : BitVec 20) : Sys2Proof.Laws.Encoded.Statement (.addpc d imm) := by
  intro word h; obtain rfl := List.mem_singleton.1 (show word ∈ [7 * 2 ^ 26 + d.val * 2 ^ 21 + 2 ^ 20 + imm.toNat] from h)
  have := d.isLt; have := imm.isLt; omega
theorem Sys2Proof.Laws.Encoded.jal (d : Reg) (off : BitVec 21) : Sys2Proof.Laws.Encoded.Statement (.jal d off) := by
  intro word h; obtain rfl := List.mem_singleton.1 (show word ∈ [8 * 2 ^ 26 + d.val * 2 ^ 21 + off.toNat] from h)
  have := d.isLt; have := off.isLt; omega
theorem Sys2Proof.Laws.Encoded.jalr (d a : Reg) (imm : BitVec 16) : Sys2Proof.Laws.Encoded.Statement (.jalr d a imm) := by
  intro word h; obtain rfl := List.mem_singleton.1 (show word ∈ [encI 9 d.val a.val imm.toNat] from h)
  have := d.isLt; have := a.isLt; have := imm.isLt; simp only [encI]; omega
theorem Sys2Proof.Laws.Encoded.beq (a b : Reg) (off : BitVec 14) : Sys2Proof.Laws.Encoded.Statement (.beq a b off) := by
  intro word h; obtain rfl := List.mem_singleton.1 (show word ∈ [encI 10 a.val b.val (off.toNat * 4 + 0)] from h)
  have := a.isLt; have := b.isLt; have := off.isLt; simp only [encI]; omega
theorem Sys2Proof.Laws.Encoded.bne (a b : Reg) (off : BitVec 14) : Sys2Proof.Laws.Encoded.Statement (.bne a b off) := by
  intro word h; obtain rfl := List.mem_singleton.1 (show word ∈ [encI 10 a.val b.val (off.toNat * 4 + 1)] from h)
  have := a.isLt; have := b.isLt; have := off.isLt; simp only [encI]; omega
theorem Sys2Proof.Laws.Encoded.blt (a b : Reg) (off : BitVec 14) : Sys2Proof.Laws.Encoded.Statement (.blt a b off) := by
  intro word h; obtain rfl := List.mem_singleton.1 (show word ∈ [encI 11 a.val b.val (off.toNat * 4 + 0)] from h)
  have := a.isLt; have := b.isLt; have := off.isLt; simp only [encI]; omega
theorem Sys2Proof.Laws.Encoded.bge (a b : Reg) (off : BitVec 14) : Sys2Proof.Laws.Encoded.Statement (.bge a b off) := by
  intro word h; obtain rfl := List.mem_singleton.1 (show word ∈ [encI 11 a.val b.val (off.toNat * 4 + 1)] from h)
  have := a.isLt; have := b.isLt; have := off.isLt; simp only [encI]; omega
theorem Sys2Proof.Laws.Encoded.bltn (a b : Reg) (off : BitVec 14) : Sys2Proof.Laws.Encoded.Statement (.bltn a b off) := by
  intro word h; obtain rfl := List.mem_singleton.1 (show word ∈ [encI 11 a.val b.val (off.toNat * 4 + 2)] from h)
  have := a.isLt; have := b.isLt; have := off.isLt; simp only [encI]; omega
theorem Sys2Proof.Laws.Encoded.bgen (a b : Reg) (off : BitVec 14) : Sys2Proof.Laws.Encoded.Statement (.bgen a b off) := by
  intro word h; obtain rfl := List.mem_singleton.1 (show word ∈ [encI 11 a.val b.val (off.toNat * 4 + 3)] from h)
  have := a.isLt; have := b.isLt; have := off.isLt; simp only [encI]; omega
theorem Sys2Proof.Laws.Encoded.fadd (t : FType) (d a b : Reg) : Sys2Proof.Laws.Encoded.Statement (.fadd t d a b) := by
  intro word h; obtain rfl := List.mem_singleton.1 (show word ∈ [encA 12 d.val a.val b.val (0 * 128 + t.code * 8)] from h)
  have := FType.code_lt t; have := d.isLt; have := a.isLt; have := b.isLt; simp only [encA]; omega
theorem Sys2Proof.Laws.Encoded.fsub (t : FType) (d a b : Reg) : Sys2Proof.Laws.Encoded.Statement (.fsub t d a b) := by
  intro word h; obtain rfl := List.mem_singleton.1 (show word ∈ [encA 12 d.val a.val b.val (1 * 128 + t.code * 8)] from h)
  have := FType.code_lt t; have := d.isLt; have := a.isLt; have := b.isLt; simp only [encA]; omega
theorem Sys2Proof.Laws.Encoded.fmul (t : FType) (d a b : Reg) : Sys2Proof.Laws.Encoded.Statement (.fmul t d a b) := by
  intro word h; obtain rfl := List.mem_singleton.1 (show word ∈ [encA 12 d.val a.val b.val (2 * 128 + t.code * 8)] from h)
  have := FType.code_lt t; have := d.isLt; have := a.isLt; have := b.isLt; simp only [encA]; omega
theorem Sys2Proof.Laws.Encoded.ffma (t : FType) (d a b : Reg) : Sys2Proof.Laws.Encoded.Statement (.ffma t d a b) := by
  intro word h; obtain rfl := List.mem_singleton.1 (show word ∈ [encA 12 d.val a.val b.val (3 * 128 + t.code * 8)] from h)
  have := FType.code_lt t; have := d.isLt; have := a.isLt; have := b.isLt; simp only [encA]; omega
theorem Sys2Proof.Laws.Encoded.fdiv (t : FType) (d a b : Reg) : Sys2Proof.Laws.Encoded.Statement (.fdiv t d a b) := by
  intro word h; obtain rfl := List.mem_singleton.1 (show word ∈ [encA 12 d.val a.val b.val (4 * 128 + t.code * 8)] from h)
  have := FType.code_lt t; have := d.isLt; have := a.isLt; have := b.isLt; simp only [encA]; omega
theorem Sys2Proof.Laws.Encoded.fsqrt (t : FType) (d a : Reg) : Sys2Proof.Laws.Encoded.Statement (.fsqrt t d a) := by
  intro word h; obtain rfl := List.mem_singleton.1 (show word ∈ [encA 12 d.val a.val 0 (5 * 128 + t.code * 8)] from h)
  have := FType.code_lt t; have := d.isLt; have := a.isLt; simp only [encA]; omega
theorem Sys2Proof.Laws.Encoded.fmin (t : FType) (d a b : Reg) : Sys2Proof.Laws.Encoded.Statement (.fmin t d a b) := by
  intro word h; obtain rfl := List.mem_singleton.1 (show word ∈ [encA 12 d.val a.val b.val (6 * 128 + t.code * 8)] from h)
  have := FType.code_lt t; have := d.isLt; have := a.isLt; have := b.isLt; simp only [encA]; omega
theorem Sys2Proof.Laws.Encoded.fmax (t : FType) (d a b : Reg) : Sys2Proof.Laws.Encoded.Statement (.fmax t d a b) := by
  intro word h; obtain rfl := List.mem_singleton.1 (show word ∈ [encA 12 d.val a.val b.val (7 * 128 + t.code * 8)] from h)
  have := FType.code_lt t; have := d.isLt; have := a.isLt; have := b.isLt; simp only [encA]; omega
theorem Sys2Proof.Laws.Encoded.fcmp (c : FCond) (t : FType) (d a b : Reg) : Sys2Proof.Laws.Encoded.Statement (.fcmp c t d a b) := by
  intro word h; obtain rfl := List.mem_singleton.1 (show word ∈ [encA 12 d.val a.val b.val (8 * 128 + t.code * 8 + c.code)] from h)
  have := FCond.code_lt c; have := FType.code_lt t; have := d.isLt; have := a.isLt; have := b.isLt; simp only [encA]; omega
theorem Sys2Proof.Laws.Encoded.fcvt (t u : ElemType) (d a : Reg) : Sys2Proof.Laws.Encoded.Statement (.fcvt t u d a) := by
  intro word h; obtain rfl := List.mem_singleton.1 (show word ∈ [encA 12 d.val a.val u.code (9 * 128 + t.code * 8)] from h)
  have := ElemType.code_lt t; have := ElemType.code_lt u; have := d.isLt; have := a.isLt; simp only [encA]; omega
theorem Sys2Proof.Laws.Encoded.ldI8 (d base : Reg) (am : AddrMode) (oa : Order) (nt : Bool) (off : BitVec 8) : Sys2Proof.Laws.Encoded.Statement (.ldI8 d base am oa nt off) := by
  intro word h; obtain rfl := List.mem_singleton.1 (show word ∈ [encM 16 d base am 0 oa nt off] from h)
  have := d.isLt; have := base.isLt; have := AddrMode.code_lt am; have := Order.code_lt oa; have := bit_lt nt; have := off.isLt; simp only [encM]; omega
theorem Sys2Proof.Laws.Encoded.ldI16 (d base : Reg) (am : AddrMode) (oa : Order) (nt : Bool) (off : BitVec 8) : Sys2Proof.Laws.Encoded.Statement (.ldI16 d base am oa nt off) := by
  intro word h; obtain rfl := List.mem_singleton.1 (show word ∈ [encM 16 d base am 1 oa nt off] from h)
  have := d.isLt; have := base.isLt; have := AddrMode.code_lt am; have := Order.code_lt oa; have := bit_lt nt; have := off.isLt; simp only [encM]; omega
theorem Sys2Proof.Laws.Encoded.ldI32 (d base : Reg) (am : AddrMode) (oa : Order) (nt : Bool) (off : BitVec 8) : Sys2Proof.Laws.Encoded.Statement (.ldI32 d base am oa nt off) := by
  intro word h; obtain rfl := List.mem_singleton.1 (show word ∈ [encM 16 d base am 2 oa nt off] from h)
  have := d.isLt; have := base.isLt; have := AddrMode.code_lt am; have := Order.code_lt oa; have := bit_lt nt; have := off.isLt; simp only [encM]; omega
theorem Sys2Proof.Laws.Encoded.ld64 (d base : Reg) (am : AddrMode) (oa : Order) (nt : Bool) (off : BitVec 8) : Sys2Proof.Laws.Encoded.Statement (.ld64 d base am oa nt off) := by
  intro word h; obtain rfl := List.mem_singleton.1 (show word ∈ [encM 16 d base am 3 oa nt off] from h)
  have := d.isLt; have := base.isLt; have := AddrMode.code_lt am; have := Order.code_lt oa; have := bit_lt nt; have := off.isLt; simp only [encM]; omega
theorem Sys2Proof.Laws.Encoded.ldN8 (d base : Reg) (am : AddrMode) (oa : Order) (nt : Bool) (off : BitVec 8) : Sys2Proof.Laws.Encoded.Statement (.ldN8 d base am oa nt off) := by
  intro word h; obtain rfl := List.mem_singleton.1 (show word ∈ [encM 16 d base am 4 oa nt off] from h)
  have := d.isLt; have := base.isLt; have := AddrMode.code_lt am; have := Order.code_lt oa; have := bit_lt nt; have := off.isLt; simp only [encM]; omega
theorem Sys2Proof.Laws.Encoded.ldN16 (d base : Reg) (am : AddrMode) (oa : Order) (nt : Bool) (off : BitVec 8) : Sys2Proof.Laws.Encoded.Statement (.ldN16 d base am oa nt off) := by
  intro word h; obtain rfl := List.mem_singleton.1 (show word ∈ [encM 16 d base am 5 oa nt off] from h)
  have := d.isLt; have := base.isLt; have := AddrMode.code_lt am; have := Order.code_lt oa; have := bit_lt nt; have := off.isLt; simp only [encM]; omega
theorem Sys2Proof.Laws.Encoded.ldN32 (d base : Reg) (am : AddrMode) (oa : Order) (nt : Bool) (off : BitVec 8) : Sys2Proof.Laws.Encoded.Statement (.ldN32 d base am oa nt off) := by
  intro word h; obtain rfl := List.mem_singleton.1 (show word ∈ [encM 16 d base am 6 oa nt off] from h)
  have := d.isLt; have := base.isLt; have := AddrMode.code_lt am; have := Order.code_lt oa; have := bit_lt nt; have := off.isLt; simp only [encM]; omega
theorem Sys2Proof.Laws.Encoded.st8 (d base : Reg) (am : AddrMode) (oa : Order) (nt : Bool) (off : BitVec 8) : Sys2Proof.Laws.Encoded.Statement (.st8 d base am oa nt off) := by
  intro word h; obtain rfl := List.mem_singleton.1 (show word ∈ [encM 17 d base am 0 oa nt off] from h)
  have := d.isLt; have := base.isLt; have := AddrMode.code_lt am; have := Order.code_lt oa; have := bit_lt nt; have := off.isLt; simp only [encM]; omega
theorem Sys2Proof.Laws.Encoded.st16 (d base : Reg) (am : AddrMode) (oa : Order) (nt : Bool) (off : BitVec 8) : Sys2Proof.Laws.Encoded.Statement (.st16 d base am oa nt off) := by
  intro word h; obtain rfl := List.mem_singleton.1 (show word ∈ [encM 17 d base am 1 oa nt off] from h)
  have := d.isLt; have := base.isLt; have := AddrMode.code_lt am; have := Order.code_lt oa; have := bit_lt nt; have := off.isLt; simp only [encM]; omega
theorem Sys2Proof.Laws.Encoded.st32 (d base : Reg) (am : AddrMode) (oa : Order) (nt : Bool) (off : BitVec 8) : Sys2Proof.Laws.Encoded.Statement (.st32 d base am oa nt off) := by
  intro word h; obtain rfl := List.mem_singleton.1 (show word ∈ [encM 17 d base am 2 oa nt off] from h)
  have := d.isLt; have := base.isLt; have := AddrMode.code_lt am; have := Order.code_lt oa; have := bit_lt nt; have := off.isLt; simp only [encM]; omega
theorem Sys2Proof.Laws.Encoded.st64 (d base : Reg) (am : AddrMode) (oa : Order) (nt : Bool) (off : BitVec 8) : Sys2Proof.Laws.Encoded.Statement (.st64 d base am oa nt off) := by
  intro word h; obtain rfl := List.mem_singleton.1 (show word ∈ [encM 17 d base am 3 oa nt off] from h)
  have := d.isLt; have := base.isLt; have := AddrMode.code_lt am; have := Order.code_lt oa; have := bit_lt nt; have := off.isLt; simp only [encM]; omega
theorem Sys2Proof.Laws.Encoded.lbf (sx : Bool) (d a b : Reg) (w : Fin 32) : Sys2Proof.Laws.Encoded.Statement (.lbf sx d a b w) := by
  intro word h; obtain rfl := List.mem_singleton.1 (show word ∈ [encA 18 d.val a.val b.val (bit sx * 512 + w.val * 16)] from h)
  have := bit_lt sx; have := d.isLt; have := a.isLt; have := b.isLt; have := w.isLt; simp only [encA]; omega
theorem Sys2Proof.Laws.Encoded.sbf (d a b : Reg) (w : Fin 32) : Sys2Proof.Laws.Encoded.Statement (.sbf d a b w) := by
  intro word h; obtain rfl := List.mem_singleton.1 (show word ∈ [encA 18 d.val a.val b.val (1024 + w.val * 16)] from h)
  have := d.isLt; have := a.isLt; have := b.isLt; have := w.isLt; simp only [encA]; omega
theorem Sys2Proof.Laws.Encoded.atomAdd (d a b : Reg) (w64 : Bool) (am : AddrMode) (oa : Order) (sc : Scope) : Sys2Proof.Laws.Encoded.Statement (.atomAdd d a b w64 am oa sc) := by
  intro word h; obtain rfl := List.mem_singleton.1 (show word ∈ [encA 19 d.val a.val b.val (0 * 256 + bit w64 * 128 + am.code * 32 + oa.code * 8 + sc.code)] from h)
  have := d.isLt; have := a.isLt; have := b.isLt; have := bit_lt w64; have := AddrMode.code_lt am; have := Order.code_lt oa; have := Scope.code_lt sc; simp only [encA]; omega
theorem Sys2Proof.Laws.Encoded.atomAnd (d a b : Reg) (w64 : Bool) (am : AddrMode) (oa : Order) (sc : Scope) : Sys2Proof.Laws.Encoded.Statement (.atomAnd d a b w64 am oa sc) := by
  intro word h; obtain rfl := List.mem_singleton.1 (show word ∈ [encA 19 d.val a.val b.val (1 * 256 + bit w64 * 128 + am.code * 32 + oa.code * 8 + sc.code)] from h)
  have := d.isLt; have := a.isLt; have := b.isLt; have := bit_lt w64; have := AddrMode.code_lt am; have := Order.code_lt oa; have := Scope.code_lt sc; simp only [encA]; omega
theorem Sys2Proof.Laws.Encoded.atomOr (d a b : Reg) (w64 : Bool) (am : AddrMode) (oa : Order) (sc : Scope) : Sys2Proof.Laws.Encoded.Statement (.atomOr d a b w64 am oa sc) := by
  intro word h; obtain rfl := List.mem_singleton.1 (show word ∈ [encA 19 d.val a.val b.val (2 * 256 + bit w64 * 128 + am.code * 32 + oa.code * 8 + sc.code)] from h)
  have := d.isLt; have := a.isLt; have := b.isLt; have := bit_lt w64; have := AddrMode.code_lt am; have := Order.code_lt oa; have := Scope.code_lt sc; simp only [encA]; omega
theorem Sys2Proof.Laws.Encoded.atomXor (d a b : Reg) (w64 : Bool) (am : AddrMode) (oa : Order) (sc : Scope) : Sys2Proof.Laws.Encoded.Statement (.atomXor d a b w64 am oa sc) := by
  intro word h; obtain rfl := List.mem_singleton.1 (show word ∈ [encA 19 d.val a.val b.val (3 * 256 + bit w64 * 128 + am.code * 32 + oa.code * 8 + sc.code)] from h)
  have := d.isLt; have := a.isLt; have := b.isLt; have := bit_lt w64; have := AddrMode.code_lt am; have := Order.code_lt oa; have := Scope.code_lt sc; simp only [encA]; omega
theorem Sys2Proof.Laws.Encoded.atomMin (d a b : Reg) (w64 : Bool) (am : AddrMode) (oa : Order) (sc : Scope) : Sys2Proof.Laws.Encoded.Statement (.atomMin d a b w64 am oa sc) := by
  intro word h; obtain rfl := List.mem_singleton.1 (show word ∈ [encA 19 d.val a.val b.val (4 * 256 + bit w64 * 128 + am.code * 32 + oa.code * 8 + sc.code)] from h)
  have := d.isLt; have := a.isLt; have := b.isLt; have := bit_lt w64; have := AddrMode.code_lt am; have := Order.code_lt oa; have := Scope.code_lt sc; simp only [encA]; omega
theorem Sys2Proof.Laws.Encoded.atomMax (d a b : Reg) (w64 : Bool) (am : AddrMode) (oa : Order) (sc : Scope) : Sys2Proof.Laws.Encoded.Statement (.atomMax d a b w64 am oa sc) := by
  intro word h; obtain rfl := List.mem_singleton.1 (show word ∈ [encA 19 d.val a.val b.val (5 * 256 + bit w64 * 128 + am.code * 32 + oa.code * 8 + sc.code)] from h)
  have := d.isLt; have := a.isLt; have := b.isLt; have := bit_lt w64; have := AddrMode.code_lt am; have := Order.code_lt oa; have := Scope.code_lt sc; simp only [encA]; omega
theorem Sys2Proof.Laws.Encoded.atomSwp (d a b : Reg) (w64 : Bool) (am : AddrMode) (oa : Order) (sc : Scope) : Sys2Proof.Laws.Encoded.Statement (.atomSwp d a b w64 am oa sc) := by
  intro word h; obtain rfl := List.mem_singleton.1 (show word ∈ [encA 19 d.val a.val b.val (6 * 256 + bit w64 * 128 + am.code * 32 + oa.code * 8 + sc.code)] from h)
  have := d.isLt; have := a.isLt; have := b.isLt; have := bit_lt w64; have := AddrMode.code_lt am; have := Order.code_lt oa; have := Scope.code_lt sc; simp only [encA]; omega
theorem Sys2Proof.Laws.Encoded.atomCas (d a b : Reg) (w64 : Bool) (am : AddrMode) (oa : Order) (sc : Scope) : Sys2Proof.Laws.Encoded.Statement (.atomCas d a b w64 am oa sc) := by
  intro word h; obtain rfl := List.mem_singleton.1 (show word ∈ [encA 19 d.val a.val b.val (7 * 256 + bit w64 * 128 + am.code * 32 + oa.code * 8 + sc.code)] from h)
  have := d.isLt; have := a.isLt; have := b.isLt; have := bit_lt w64; have := AddrMode.code_lt am; have := Order.code_lt oa; have := Scope.code_lt sc; simp only [encA]; omega
theorem Sys2Proof.Laws.Encoded.fenceAcq (sc : Scope) (all : Bool) : Sys2Proof.Laws.Encoded.Statement (.fenceAcq sc all) := by
  intro word h; obtain rfl := List.mem_singleton.1 (show word ∈ [encA 20 0 0 0 (0 * 512 + sc.code * 64 + bit all * 32)] from h)
  have := Scope.code_lt sc; have := bit_lt all; simp only [encA]; omega
theorem Sys2Proof.Laws.Encoded.fenceRel (sc : Scope) (all : Bool) : Sys2Proof.Laws.Encoded.Statement (.fenceRel sc all) := by
  intro word h; obtain rfl := List.mem_singleton.1 (show word ∈ [encA 20 0 0 0 (1 * 512 + sc.code * 64 + bit all * 32)] from h)
  have := Scope.code_lt sc; have := bit_lt all; simp only [encA]; omega
theorem Sys2Proof.Laws.Encoded.fenceSc (sc : Scope) (all : Bool) : Sys2Proof.Laws.Encoded.Statement (.fenceSc sc all) := by
  intro word h; obtain rfl := List.mem_singleton.1 (show word ∈ [encA 20 0 0 0 (2 * 512 + sc.code * 64 + bit all * 32)] from h)
  have := Scope.code_lt sc; have := bit_lt all; simp only [encA]; omega
theorem Sys2Proof.Laws.Encoded.tlook (d a : Reg) : Sys2Proof.Laws.Encoded.Statement (.tlook d a) := by
  intro word h; obtain rfl := List.mem_singleton.1 (show word ∈ [encA 21 d.val a.val 0 (0)] from h)
  have := d.isLt; have := a.isLt; simp only [encA]; omega
theorem Sys2Proof.Laws.Encoded.tset (a b : Reg) : Sys2Proof.Laws.Encoded.Statement (.tset a b) := by
  intro word h; obtain rfl := List.mem_singleton.1 (show word ∈ [encA 21 0 a.val b.val (512)] from h)
  have := a.isLt; have := b.isLt; simp only [encA]; omega
theorem Sys2Proof.Laws.Encoded.tclr (a : Reg) : Sys2Proof.Laws.Encoded.Statement (.tclr a) := by
  intro word h; obtain rfl := List.mem_singleton.1 (show word ∈ [encA 21 0 a.val 0 (1024)] from h)
  have := a.isLt; simp only [encA]; omega
theorem Sys2Proof.Laws.Encoded.vld128 (d base : Reg) (am : AddrMode) (oa : Order) (nt : Bool) (off : BitVec 8) : Sys2Proof.Laws.Encoded.Statement (.vld128 d base am oa nt off) := by
  intro word h; obtain rfl := List.mem_singleton.1 (show word ∈ [encM 24 d base am 4 oa nt off] from h)
  have := d.isLt; have := base.isLt; have := AddrMode.code_lt am; have := Order.code_lt oa; have := bit_lt nt; have := off.isLt; simp only [encM]; omega
theorem Sys2Proof.Laws.Encoded.vld256 (d base : Reg) (am : AddrMode) (oa : Order) (nt : Bool) (off : BitVec 8) : Sys2Proof.Laws.Encoded.Statement (.vld256 d base am oa nt off) := by
  intro word h; obtain rfl := List.mem_singleton.1 (show word ∈ [encM 24 d base am 5 oa nt off] from h)
  have := d.isLt; have := base.isLt; have := AddrMode.code_lt am; have := Order.code_lt oa; have := bit_lt nt; have := off.isLt; simp only [encM]; omega
theorem Sys2Proof.Laws.Encoded.vld512 (d base : Reg) (am : AddrMode) (oa : Order) (nt : Bool) (off : BitVec 8) : Sys2Proof.Laws.Encoded.Statement (.vld512 d base am oa nt off) := by
  intro word h; obtain rfl := List.mem_singleton.1 (show word ∈ [encM 24 d base am 6 oa nt off] from h)
  have := d.isLt; have := base.isLt; have := AddrMode.code_lt am; have := Order.code_lt oa; have := bit_lt nt; have := off.isLt; simp only [encM]; omega
theorem Sys2Proof.Laws.Encoded.vst128 (d base : Reg) (am : AddrMode) (oa : Order) (nt : Bool) (off : BitVec 8) : Sys2Proof.Laws.Encoded.Statement (.vst128 d base am oa nt off) := by
  intro word h; obtain rfl := List.mem_singleton.1 (show word ∈ [encM 25 d base am 4 oa nt off] from h)
  have := d.isLt; have := base.isLt; have := AddrMode.code_lt am; have := Order.code_lt oa; have := bit_lt nt; have := off.isLt; simp only [encM]; omega
theorem Sys2Proof.Laws.Encoded.vst256 (d base : Reg) (am : AddrMode) (oa : Order) (nt : Bool) (off : BitVec 8) : Sys2Proof.Laws.Encoded.Statement (.vst256 d base am oa nt off) := by
  intro word h; obtain rfl := List.mem_singleton.1 (show word ∈ [encM 25 d base am 5 oa nt off] from h)
  have := d.isLt; have := base.isLt; have := AddrMode.code_lt am; have := Order.code_lt oa; have := bit_lt nt; have := off.isLt; simp only [encM]; omega
theorem Sys2Proof.Laws.Encoded.vst512 (d base : Reg) (am : AddrMode) (oa : Order) (nt : Bool) (off : BitVec 8) : Sys2Proof.Laws.Encoded.Statement (.vst512 d base am oa nt off) := by
  intro word h; obtain rfl := List.mem_singleton.1 (show word ∈ [encM 25 d base am 6 oa nt off] from h)
  have := d.isLt; have := base.isLt; have := AddrMode.code_lt am; have := Order.code_lt oa; have := bit_lt nt; have := off.isLt; simp only [encM]; omega
theorem Sys2Proof.Laws.Encoded.vlds (vd ga gb : Reg) (mk : Mask) (et : ElemType) : Sys2Proof.Laws.Encoded.Statement (.vlds vd ga gb mk et) := by
  intro word h; obtain rfl := List.mem_singleton.1 (show word ∈ [encV 26 vd.val ga.val gb.val mk.reg mk.mk et.code] from h)
  have := vd.isLt; have := ga.isLt; have := gb.isLt; have := mk.reg_lt; have := mk.mk_lt; have := ElemType.code_lt et; simp only [encV]; omega
theorem Sys2Proof.Laws.Encoded.vsts (vd ga gb : Reg) (mk : Mask) (et : ElemType) : Sys2Proof.Laws.Encoded.Statement (.vsts vd ga gb mk et) := by
  intro word h; obtain rfl := List.mem_singleton.1 (show word ∈ [encV 27 vd.val ga.val gb.val mk.reg mk.mk et.code] from h)
  have := vd.isLt; have := ga.isLt; have := gb.isLt; have := mk.reg_lt; have := mk.mk_lt; have := ElemType.code_lt et; simp only [encV]; omega
theorem Sys2Proof.Laws.Encoded.vldx (vd ga vb : Reg) (mk : Mask) (et : ElemType) : Sys2Proof.Laws.Encoded.Statement (.vldx vd ga vb mk et) := by
  intro word h; obtain rfl := List.mem_singleton.1 (show word ∈ [encV 28 vd.val ga.val vb.val mk.reg mk.mk et.code] from h)
  have := vd.isLt; have := ga.isLt; have := vb.isLt; have := mk.reg_lt; have := mk.mk_lt; have := ElemType.code_lt et; simp only [encV]; omega
theorem Sys2Proof.Laws.Encoded.vstx (vd ga vb : Reg) (mk : Mask) (et : ElemType) : Sys2Proof.Laws.Encoded.Statement (.vstx vd ga vb mk et) := by
  intro word h; obtain rfl := List.mem_singleton.1 (show word ∈ [encV 29 vd.val ga.val vb.val mk.reg mk.mk et.code] from h)
  have := vd.isLt; have := ga.isLt; have := vb.isLt; have := mk.reg_lt; have := mk.mk_lt; have := ElemType.code_lt et; simp only [encV]; omega
theorem Sys2Proof.Laws.Encoded.vatomAdd (vd va : Reg) (am : AddrMode) (mk : Mask) (et : ElemType) : Sys2Proof.Laws.Encoded.Statement (.vatomAdd vd va am mk et) := by
  intro word h; obtain rfl := List.mem_singleton.1 (show word ∈ [encV 30 vd.val va.val (am.code * 8 + 0) mk.reg mk.mk et.code] from h)
  have := vd.isLt; have := va.isLt; have := AddrMode.code_lt am; have := mk.reg_lt; have := mk.mk_lt; have := ElemType.code_lt et; simp only [encV]; omega
theorem Sys2Proof.Laws.Encoded.vatomAnd (vd va : Reg) (am : AddrMode) (mk : Mask) (et : ElemType) : Sys2Proof.Laws.Encoded.Statement (.vatomAnd vd va am mk et) := by
  intro word h; obtain rfl := List.mem_singleton.1 (show word ∈ [encV 30 vd.val va.val (am.code * 8 + 1) mk.reg mk.mk et.code] from h)
  have := vd.isLt; have := va.isLt; have := AddrMode.code_lt am; have := mk.reg_lt; have := mk.mk_lt; have := ElemType.code_lt et; simp only [encV]; omega
theorem Sys2Proof.Laws.Encoded.vatomOr (vd va : Reg) (am : AddrMode) (mk : Mask) (et : ElemType) : Sys2Proof.Laws.Encoded.Statement (.vatomOr vd va am mk et) := by
  intro word h; obtain rfl := List.mem_singleton.1 (show word ∈ [encV 30 vd.val va.val (am.code * 8 + 2) mk.reg mk.mk et.code] from h)
  have := vd.isLt; have := va.isLt; have := AddrMode.code_lt am; have := mk.reg_lt; have := mk.mk_lt; have := ElemType.code_lt et; simp only [encV]; omega
theorem Sys2Proof.Laws.Encoded.vatomXor (vd va : Reg) (am : AddrMode) (mk : Mask) (et : ElemType) : Sys2Proof.Laws.Encoded.Statement (.vatomXor vd va am mk et) := by
  intro word h; obtain rfl := List.mem_singleton.1 (show word ∈ [encV 30 vd.val va.val (am.code * 8 + 3) mk.reg mk.mk et.code] from h)
  have := vd.isLt; have := va.isLt; have := AddrMode.code_lt am; have := mk.reg_lt; have := mk.mk_lt; have := ElemType.code_lt et; simp only [encV]; omega
theorem Sys2Proof.Laws.Encoded.vatomMin (vd va : Reg) (am : AddrMode) (mk : Mask) (et : ElemType) : Sys2Proof.Laws.Encoded.Statement (.vatomMin vd va am mk et) := by
  intro word h; obtain rfl := List.mem_singleton.1 (show word ∈ [encV 30 vd.val va.val (am.code * 8 + 4) mk.reg mk.mk et.code] from h)
  have := vd.isLt; have := va.isLt; have := AddrMode.code_lt am; have := mk.reg_lt; have := mk.mk_lt; have := ElemType.code_lt et; simp only [encV]; omega
theorem Sys2Proof.Laws.Encoded.vatomMax (vd va : Reg) (am : AddrMode) (mk : Mask) (et : ElemType) : Sys2Proof.Laws.Encoded.Statement (.vatomMax vd va am mk et) := by
  intro word h; obtain rfl := List.mem_singleton.1 (show word ∈ [encV 30 vd.val va.val (am.code * 8 + 5) mk.reg mk.mk et.code] from h)
  have := vd.isLt; have := va.isLt; have := AddrMode.code_lt am; have := mk.reg_lt; have := mk.mk_lt; have := ElemType.code_lt et; simp only [encV]; omega
theorem Sys2Proof.Laws.Encoded.vatomSwp (vd va : Reg) (am : AddrMode) (mk : Mask) (et : ElemType) : Sys2Proof.Laws.Encoded.Statement (.vatomSwp vd va am mk et) := by
  intro word h; obtain rfl := List.mem_singleton.1 (show word ∈ [encV 30 vd.val va.val (am.code * 8 + 6) mk.reg mk.mk et.code] from h)
  have := vd.isLt; have := va.isLt; have := AddrMode.code_lt am; have := mk.reg_lt; have := mk.mk_lt; have := ElemType.code_lt et; simp only [encV]; omega
theorem Sys2Proof.Laws.Encoded.vadd (vd va vb : Reg) (mk : Mask) (et : ElemType) : Sys2Proof.Laws.Encoded.Statement (.vadd vd va vb mk et) := by
  intro word h; obtain rfl := List.mem_singleton.1 (show word ∈ [encV 32 vd.val va.val vb.val mk.reg mk.mk et.code] from h)
  have := vd.isLt; have := va.isLt; have := vb.isLt; have := mk.reg_lt; have := mk.mk_lt; have := ElemType.code_lt et; simp only [encV]; omega
theorem Sys2Proof.Laws.Encoded.vsub (vd va vb : Reg) (mk : Mask) (et : ElemType) : Sys2Proof.Laws.Encoded.Statement (.vsub vd va vb mk et) := by
  intro word h; obtain rfl := List.mem_singleton.1 (show word ∈ [encV 33 vd.val va.val vb.val mk.reg mk.mk et.code] from h)
  have := vd.isLt; have := va.isLt; have := vb.isLt; have := mk.reg_lt; have := mk.mk_lt; have := ElemType.code_lt et; simp only [encV]; omega
theorem Sys2Proof.Laws.Encoded.vmul (vd va vb : Reg) (mk : Mask) (et : ElemType) : Sys2Proof.Laws.Encoded.Statement (.vmul vd va vb mk et) := by
  intro word h; obtain rfl := List.mem_singleton.1 (show word ∈ [encV 34 vd.val va.val vb.val mk.reg mk.mk et.code] from h)
  have := vd.isLt; have := va.isLt; have := vb.isLt; have := mk.reg_lt; have := mk.mk_lt; have := ElemType.code_lt et; simp only [encV]; omega
theorem Sys2Proof.Laws.Encoded.vfma (vd va vb : Reg) (mk : Mask) (et : ElemType) : Sys2Proof.Laws.Encoded.Statement (.vfma vd va vb mk et) := by
  intro word h; obtain rfl := List.mem_singleton.1 (show word ∈ [encV 35 vd.val va.val vb.val mk.reg mk.mk et.code] from h)
  have := vd.isLt; have := va.isLt; have := vb.isLt; have := mk.reg_lt; have := mk.mk_lt; have := ElemType.code_lt et; simp only [encV]; omega
theorem Sys2Proof.Laws.Encoded.vmin (vd va vb : Reg) (mk : Mask) (et : ElemType) : Sys2Proof.Laws.Encoded.Statement (.vmin vd va vb mk et) := by
  intro word h; obtain rfl := List.mem_singleton.1 (show word ∈ [encV 36 vd.val va.val vb.val mk.reg mk.mk et.code] from h)
  have := vd.isLt; have := va.isLt; have := vb.isLt; have := mk.reg_lt; have := mk.mk_lt; have := ElemType.code_lt et; simp only [encV]; omega
theorem Sys2Proof.Laws.Encoded.vmax (vd va vb : Reg) (mk : Mask) (et : ElemType) : Sys2Proof.Laws.Encoded.Statement (.vmax vd va vb mk et) := by
  intro word h; obtain rfl := List.mem_singleton.1 (show word ∈ [encV 37 vd.val va.val vb.val mk.reg mk.mk et.code] from h)
  have := vd.isLt; have := va.isLt; have := vb.isLt; have := mk.reg_lt; have := mk.mk_lt; have := ElemType.code_lt et; simp only [encV]; omega
theorem Sys2Proof.Laws.Encoded.vand (vd va vb : Reg) (mk : Mask) (lw : LaneWidth) : Sys2Proof.Laws.Encoded.Statement (.vand vd va vb mk lw) := by
  intro word h; obtain rfl := List.mem_singleton.1 (show word ∈ [encV 38 vd.val va.val vb.val mk.reg mk.mk (lw.code * 4 + 0)] from h)
  have := vd.isLt; have := va.isLt; have := vb.isLt; have := mk.reg_lt; have := mk.mk_lt; have := LaneWidth.code_lt lw; simp only [encV]; omega
theorem Sys2Proof.Laws.Encoded.vor (vd va vb : Reg) (mk : Mask) (lw : LaneWidth) : Sys2Proof.Laws.Encoded.Statement (.vor vd va vb mk lw) := by
  intro word h; obtain rfl := List.mem_singleton.1 (show word ∈ [encV 38 vd.val va.val vb.val mk.reg mk.mk (lw.code * 4 + 1)] from h)
  have := vd.isLt; have := va.isLt; have := vb.isLt; have := mk.reg_lt; have := mk.mk_lt; have := LaneWidth.code_lt lw; simp only [encV]; omega
theorem Sys2Proof.Laws.Encoded.vxor (vd va vb : Reg) (mk : Mask) (lw : LaneWidth) : Sys2Proof.Laws.Encoded.Statement (.vxor vd va vb mk lw) := by
  intro word h; obtain rfl := List.mem_singleton.1 (show word ∈ [encV 38 vd.val va.val vb.val mk.reg mk.mk (lw.code * 4 + 2)] from h)
  have := vd.isLt; have := va.isLt; have := vb.isLt; have := mk.reg_lt; have := mk.mk_lt; have := LaneWidth.code_lt lw; simp only [encV]; omega
theorem Sys2Proof.Laws.Encoded.vsel (vd va vb m : Reg) (lw : LaneWidth) : Sys2Proof.Laws.Encoded.Statement (.vsel vd va vb m lw) := by
  intro word h; obtain rfl := List.mem_singleton.1 (show word ∈ [encV 38 vd.val va.val vb.val m.val 0 (lw.code * 4 + 3)] from h)
  have := vd.isLt; have := va.isLt; have := vb.isLt; have := m.isLt; have := LaneWidth.code_lt lw; simp only [encV]; omega
theorem Sys2Proof.Laws.Encoded.vshl (vd va vb : Reg) (mk : Mask) (lw : LaneWidth) : Sys2Proof.Laws.Encoded.Statement (.vshl vd va vb mk lw) := by
  intro word h; obtain rfl := List.mem_singleton.1 (show word ∈ [encV 39 vd.val va.val vb.val mk.reg mk.mk (lw.code * 2 + 0)] from h)
  have := vd.isLt; have := va.isLt; have := vb.isLt; have := mk.reg_lt; have := mk.mk_lt; have := LaneWidth.code_lt lw; simp only [encV]; omega
theorem Sys2Proof.Laws.Encoded.vshr (vd va vb : Reg) (mk : Mask) (lw : LaneWidth) : Sys2Proof.Laws.Encoded.Statement (.vshr vd va vb mk lw) := by
  intro word h; obtain rfl := List.mem_singleton.1 (show word ∈ [encV 39 vd.val va.val vb.val mk.reg mk.mk (lw.code * 2 + 1)] from h)
  have := vd.isLt; have := va.isLt; have := vb.isLt; have := mk.reg_lt; have := mk.mk_lt; have := LaneWidth.code_lt lw; simp only [encV]; omega
theorem Sys2Proof.Laws.Encoded.vsra (vd va vb : Reg) (mk : Mask) (lw : LaneWidth) : Sys2Proof.Laws.Encoded.Statement (.vsra vd va vb mk lw) := by
  intro word h; obtain rfl := List.mem_singleton.1 (show word ∈ [encV 39 vd.val va.val vb.val mk.reg mk.mk (lw.code * 2 + 8)] from h)
  have := vd.isLt; have := va.isLt; have := vb.isLt; have := mk.reg_lt; have := mk.mk_lt; have := LaneWidth.code_lt lw; simp only [encV]; omega
theorem Sys2Proof.Laws.Encoded.vcmp (c : VCond) (vd va vb : Reg) (et : ElemType) : Sys2Proof.Laws.Encoded.Statement (.vcmp c vd va vb et) := by
  intro word h; obtain rfl := List.mem_singleton.1 (show word ∈ [encV 40 vd.val va.val vb.val c.code 0 et.code] from h)
  have := VCond.code_lt c; have := vd.isLt; have := va.isLt; have := vb.isLt; have := ElemType.code_lt et; simp only [encV]; omega
theorem Sys2Proof.Laws.Encoded.vperm (vd va vb : Reg) (mk : Mask) (et : ElemType) : Sys2Proof.Laws.Encoded.Statement (.vperm vd va vb mk et) := by
  intro word h; obtain rfl := List.mem_singleton.1 (show word ∈ [encV 41 vd.val va.val vb.val mk.reg mk.mk et.code] from h)
  have := vd.isLt; have := va.isLt; have := vb.isLt; have := mk.reg_lt; have := mk.mk_lt; have := ElemType.code_lt et; simp only [encV]; omega
theorem Sys2Proof.Laws.Encoded.vpack (vd va vb : Reg) (mk : Mask) (et : ElemType) : Sys2Proof.Laws.Encoded.Statement (.vpack vd va vb mk et) := by
  intro word h; obtain rfl := List.mem_singleton.1 (show word ∈ [encV 42 vd.val va.val vb.val mk.reg mk.mk et.code] from h)
  have := vd.isLt; have := va.isLt; have := vb.isLt; have := mk.reg_lt; have := mk.mk_lt; have := ElemType.code_lt et; simp only [encV]; omega
theorem Sys2Proof.Laws.Encoded.vcvt (t u : ElemType) (vd va : Reg) (mk : Mask) : Sys2Proof.Laws.Encoded.Statement (.vcvt t u vd va mk) := by
  intro word h; obtain rfl := List.mem_singleton.1 (show word ∈ [encV 43 vd.val va.val u.code mk.reg mk.mk t.code] from h)
  have := ElemType.code_lt t; have := ElemType.code_lt u; have := vd.isLt; have := va.isLt; have := mk.reg_lt; have := mk.mk_lt; simp only [encV]; omega
theorem Sys2Proof.Laws.Encoded.vredAdd (vd va : Reg) (mk : Mask) (et : ElemType) : Sys2Proof.Laws.Encoded.Statement (.vredAdd vd va mk et) := by
  intro word h; obtain rfl := List.mem_singleton.1 (show word ∈ [encV 43 vd.val va.val 16 mk.reg mk.mk et.code] from h)
  have := vd.isLt; have := va.isLt; have := mk.reg_lt; have := mk.mk_lt; have := ElemType.code_lt et; simp only [encV]; omega
theorem Sys2Proof.Laws.Encoded.vredMin (vd va : Reg) (mk : Mask) (et : ElemType) : Sys2Proof.Laws.Encoded.Statement (.vredMin vd va mk et) := by
  intro word h; obtain rfl := List.mem_singleton.1 (show word ∈ [encV 43 vd.val va.val 17 mk.reg mk.mk et.code] from h)
  have := vd.isLt; have := va.isLt; have := mk.reg_lt; have := mk.mk_lt; have := ElemType.code_lt et; simp only [encV]; omega
theorem Sys2Proof.Laws.Encoded.vredMax (vd va : Reg) (mk : Mask) (et : ElemType) : Sys2Proof.Laws.Encoded.Statement (.vredMax vd va mk et) := by
  intro word h; obtain rfl := List.mem_singleton.1 (show word ∈ [encV 43 vd.val va.val 18 mk.reg mk.mk et.code] from h)
  have := vd.isLt; have := va.isLt; have := mk.reg_lt; have := mk.mk_lt; have := ElemType.code_lt et; simp only [encV]; omega
theorem Sys2Proof.Laws.Encoded.vredOr (vd va : Reg) (mk : Mask) (et : ElemType) : Sys2Proof.Laws.Encoded.Statement (.vredOr vd va mk et) := by
  intro word h; obtain rfl := List.mem_singleton.1 (show word ∈ [encV 43 vd.val va.val 19 mk.reg mk.mk et.code] from h)
  have := vd.isLt; have := va.isLt; have := mk.reg_lt; have := mk.mk_lt; have := ElemType.code_lt et; simp only [encV]; omega
theorem Sys2Proof.Laws.Encoded.vscanAdd (vd va : Reg) (mk : Mask) (et : ElemType) : Sys2Proof.Laws.Encoded.Statement (.vscanAdd vd va mk et) := by
  intro word h; obtain rfl := List.mem_singleton.1 (show word ∈ [encV 43 vd.val va.val 20 mk.reg mk.mk et.code] from h)
  have := vd.isLt; have := va.isLt; have := mk.reg_lt; have := mk.mk_lt; have := ElemType.code_lt et; simp only [encV]; omega
theorem Sys2Proof.Laws.Encoded.vscanMax (vd va : Reg) (mk : Mask) (et : ElemType) : Sys2Proof.Laws.Encoded.Statement (.vscanMax vd va mk et) := by
  intro word h; obtain rfl := List.mem_singleton.1 (show word ∈ [encV 43 vd.val va.val 21 mk.reg mk.mk et.code] from h)
  have := vd.isLt; have := va.isLt; have := mk.reg_lt; have := mk.mk_lt; have := ElemType.code_lt et; simp only [encV]; omega
theorem Sys2Proof.Laws.Encoded.vunpk (vd va : Reg) (mk : Mask) (et : ElemType) : Sys2Proof.Laws.Encoded.Statement (.vunpk vd va mk et) := by
  intro word h; obtain rfl := List.mem_singleton.1 (show word ∈ [encV 43 vd.val va.val 22 mk.reg mk.mk et.code] from h)
  have := vd.isLt; have := va.isLt; have := mk.reg_lt; have := mk.mk_lt; have := ElemType.code_lt et; simp only [encV]; omega
theorem Sys2Proof.Laws.Encoded.vbcast (vd ga : Reg) (mk : Mask) (et : ElemType) : Sys2Proof.Laws.Encoded.Statement (.vbcast vd ga mk et) := by
  intro word h; obtain rfl := List.mem_singleton.1 (show word ∈ [encV 43 vd.val ga.val 23 mk.reg mk.mk et.code] from h)
  have := vd.isLt; have := ga.isLt; have := mk.reg_lt; have := mk.mk_lt; have := ElemType.code_lt et; simp only [encV]; omega
theorem Sys2Proof.Laws.Encoded.vmvg (gd va : Reg) (n : Fin 64) (et : ElemType) : Sys2Proof.Laws.Encoded.Statement (.vmvg gd va n et) := by
  intro word h; obtain rfl := List.mem_singleton.1 (show word ∈ [encA 43 gd.val va.val 24 (n.val * 32 + et.code)] from h)
  have := gd.isLt; have := va.isLt; have := n.isLt; have := ElemType.code_lt et; simp only [encA]; omega
theorem Sys2Proof.Laws.Encoded.vmgv (vd ga : Reg) (n : Fin 64) (et : ElemType) : Sys2Proof.Laws.Encoded.Statement (.vmgv vd ga n et) := by
  intro word h; obtain rfl := List.mem_singleton.1 (show word ∈ [encA 43 vd.val ga.val 25 (n.val * 32 + et.code)] from h)
  have := vd.isLt; have := ga.isLt; have := n.isLt; have := ElemType.code_lt et; simp only [encA]; omega
theorem Sys2Proof.Laws.Encoded.vexp2 (vd va : Reg) (mk : Mask) (et : ElemType) : Sys2Proof.Laws.Encoded.Statement (.vexp2 vd va mk et) := by
  intro word h; obtain rfl := List.mem_singleton.1 (show word ∈ [encV 43 vd.val va.val 26 mk.reg mk.mk et.code] from h)
  have := vd.isLt; have := va.isLt; have := mk.reg_lt; have := mk.mk_lt; have := ElemType.code_lt et; simp only [encV]; omega
theorem Sys2Proof.Laws.Encoded.vlog2 (vd va : Reg) (mk : Mask) (et : ElemType) : Sys2Proof.Laws.Encoded.Statement (.vlog2 vd va mk et) := by
  intro word h; obtain rfl := List.mem_singleton.1 (show word ∈ [encV 43 vd.val va.val 27 mk.reg mk.mk et.code] from h)
  have := vd.isLt; have := va.isLt; have := mk.reg_lt; have := mk.mk_lt; have := ElemType.code_lt et; simp only [encV]; omega
theorem Sys2Proof.Laws.Encoded.vrcp (vd va : Reg) (mk : Mask) (et : ElemType) : Sys2Proof.Laws.Encoded.Statement (.vrcp vd va mk et) := by
  intro word h; obtain rfl := List.mem_singleton.1 (show word ∈ [encV 43 vd.val va.val 28 mk.reg mk.mk et.code] from h)
  have := vd.isLt; have := va.isLt; have := mk.reg_lt; have := mk.mk_lt; have := ElemType.code_lt et; simp only [encV]; omega
theorem Sys2Proof.Laws.Encoded.vrsq (vd va : Reg) (mk : Mask) (et : ElemType) : Sys2Proof.Laws.Encoded.Statement (.vrsq vd va mk et) := by
  intro word h; obtain rfl := List.mem_singleton.1 (show word ∈ [encV 43 vd.val va.val 29 mk.reg mk.mk et.code] from h)
  have := vd.isLt; have := va.isLt; have := mk.reg_lt; have := mk.mk_lt; have := ElemType.code_lt et; simp only [encV]; omega
theorem Sys2Proof.Laws.Encoded.vtanh (vd va : Reg) (mk : Mask) (et : ElemType) : Sys2Proof.Laws.Encoded.Statement (.vtanh vd va mk et) := by
  intro word h; obtain rfl := List.mem_singleton.1 (show word ∈ [encV 43 vd.val va.val 30 mk.reg mk.mk et.code] from h)
  have := vd.isLt; have := va.isLt; have := mk.reg_lt; have := mk.mk_lt; have := ElemType.code_lt et; simp only [encV]; omega
theorem Sys2Proof.Laws.Encoded.vnot (vd va : Reg) (mk : Mask) (lw : LaneWidth) : Sys2Proof.Laws.Encoded.Statement (.vnot vd va mk lw) := by
  intro word h; obtain rfl := List.mem_singleton.1 (show word ∈ [encV 43 vd.val va.val 31 mk.reg mk.mk (lw.code * 4)] from h)
  have := vd.isLt; have := va.isLt; have := mk.reg_lt; have := mk.mk_lt; have := LaneWidth.code_lt lw; simp only [encV]; omega
theorem Sys2Proof.Laws.Encoded.strcfg (j : Fin 8) (a b : Reg) (dir : Bool) (am : AddrMode) (nt : Bool) : Sys2Proof.Laws.Encoded.Statement (.strcfg j a b dir am nt) := by
  intro word h; obtain rfl := List.mem_singleton.1 (show word ∈ [encA 44 (24 + j.val) a.val b.val (bit dir * 1024 + am.code * 256 + bit nt * 128)] from h)
  have := j.isLt; have := a.isLt; have := b.isLt; have := bit_lt dir; have := AddrMode.code_lt am; have := bit_lt nt; simp only [encA]; omega
theorem Sys2Proof.Laws.Encoded.strend (j : Fin 8) : Sys2Proof.Laws.Encoded.Statement (.strend j) := by
  intro word h; obtain rfl := List.mem_singleton.1 (show word ∈ [encA 45 (24 + j.val) 0 0 (0)] from h)
  have := j.isLt; simp only [encA]; omega
theorem Sys2Proof.Laws.Encoded.vloop (a : Reg) (n : Fin 16) : Sys2Proof.Laws.Encoded.Statement (.vloop a n) := by
  intro word h; obtain rfl := List.mem_singleton.1 (show word ∈ [encA 46 0 a.val 0 (n.val)] from h)
  have := a.isLt; have := n.isLt; simp only [encA]; omega
theorem Sys2Proof.Laws.Encoded.fmt (aty bty : ElemType) (cty : AccType) (scl : ScaleMode) (sp : Bool) : Sys2Proof.Laws.Encoded.Statement (.fmt aty bty cty scl sp) := by
  intro word h; obtain rfl := List.mem_singleton.1 (show word ∈ [48 * 2 ^ 26 + aty.code * 2 ^ 22 + bty.code * 2 ^ 18 + cty.code * 2 ^ 14 + scl.code * 2 ^ 12 + bit sp * 2 ^ 11] from h)
  have := ElemType.code_lt aty; have := ElemType.code_lt bty; have := AccType.code_lt cty; have := ScaleMode.code_lt scl; have := bit_lt sp; omega
theorem Sys2Proof.Laws.Encoded.mlease (d : Reg) : Sys2Proof.Laws.Encoded.Statement (.mlease d) := by
  intro word h; obtain rfl := List.mem_singleton.1 (show word ∈ [encA 49 d.val 0 0 (0)] from h)
  have := d.isLt; simp only [encA]; omega
theorem Sys2Proof.Laws.Encoded.mrel : Sys2Proof.Laws.Encoded.Statement (.mrel) := by
  intro word h; obtain rfl := List.mem_singleton.1 (show word ∈ [encA 49 0 0 0 (128)] from h)
  decide
theorem Sys2Proof.Laws.Encoded.oclaim (d : Reg) (n : Fin 64) : Sys2Proof.Laws.Encoded.Statement (.oclaim d n) := by
  intro word h; obtain rfl := List.mem_singleton.1 (show word ∈ [encA 49 d.val 0 0 (256 + n.val)] from h)
  have := d.isLt; have := n.isLt; simp only [encA]; omega
theorem Sys2Proof.Laws.Encoded.ofree (n : Fin 64) : Sys2Proof.Laws.Encoded.Statement (.ofree n) := by
  intro word h; obtain rfl := List.mem_singleton.1 (show word ∈ [encA 49 0 0 0 (384 + n.val)] from h)
  have := n.isLt; simp only [encA]; omega
theorem Sys2Proof.Laws.Encoded.mzero (t : Fin 16) : Sys2Proof.Laws.Encoded.Statement (.mzero t) := by
  intro word h; obtain rfl := List.mem_singleton.1 (show word ∈ [encA 49 0 0 0 (512 + t.val)] from h)
  have := t.isLt; simp only [encA]; omega
theorem Sys2Proof.Laws.Encoded.mvc (a b : Reg) : Sys2Proof.Laws.Encoded.Statement (.mvc a b) := by
  intro word h; obtain rfl := List.mem_singleton.1 (show word ∈ [encA 49 0 a.val b.val (640)] from h)
  have := a.isLt; have := b.isLt; simp only [encA]; omega
theorem Sys2Proof.Laws.Encoded.mld (a b : Reg) (am : AddrMode) (nt : Bool) (slot : Fin 64) : Sys2Proof.Laws.Encoded.Statement (.mld a b am nt slot) := by
  intro word h; obtain rfl := List.mem_singleton.1 (show word ∈ [encA 50 0 a.val b.val (0 * 512 + am.code * 128 + bit nt * 64 + slot.val)] from h)
  have := a.isLt; have := b.isLt; have := AddrMode.code_lt am; have := bit_lt nt; have := slot.isLt; simp only [encA]; omega
theorem Sys2Proof.Laws.Encoded.mldt (a b : Reg) (am : AddrMode) (nt : Bool) (slot : Fin 64) : Sys2Proof.Laws.Encoded.Statement (.mldt a b am nt slot) := by
  intro word h; obtain rfl := List.mem_singleton.1 (show word ∈ [encA 50 0 a.val b.val (1 * 512 + am.code * 128 + bit nt * 64 + slot.val)] from h)
  have := a.isLt; have := b.isLt; have := AddrMode.code_lt am; have := bit_lt nt; have := slot.isLt; simp only [encA]; omega
theorem Sys2Proof.Laws.Encoded.mlds (a b : Reg) (am : AddrMode) (nt : Bool) (slot : Fin 64) : Sys2Proof.Laws.Encoded.Statement (.mlds a b am nt slot) := by
  intro word h; obtain rfl := List.mem_singleton.1 (show word ∈ [encA 50 0 a.val b.val (2 * 512 + am.code * 128 + bit nt * 64 + slot.val)] from h)
  have := a.isLt; have := b.isLt; have := AddrMode.code_lt am; have := bit_lt nt; have := slot.isLt; simp only [encA]; omega
theorem Sys2Proof.Laws.Encoded.mst (ot : OutType) (a b : Reg) (am : AddrMode) (nt : Bool) (t : Fin 16) : Sys2Proof.Laws.Encoded.Statement (.mst ot a b am nt t) := by
  intro word h; obtain rfl := List.mem_singleton.1 (show word ∈ [encA 50 ot.code a.val b.val (1536 + am.code * 128 + bit nt * 64 + t.val)] from h)
  have := OutType.code_lt ot; have := a.isLt; have := b.isLt; have := AddrMode.code_lt am; have := bit_lt nt; have := t.isLt; simp only [encA]; omega
theorem Sys2Proof.Laws.Encoded.mma (t : Fin 16) (sa sb : Fin 64) : Sys2Proof.Laws.Encoded.Statement (.mma t sa sb) := by
  intro word h; obtain rfl := List.mem_singleton.1 (show word ∈ [51 * 2 ^ 26 + t.val * 2 ^ 12 + sa.val * 2 ^ 6 + sb.val] from h)
  have := t.isLt; have := sa.isLt; have := sb.isLt; omega
theorem Sys2Proof.Laws.Encoded.cadd (a b : Reg) (sc : Option Scope) : Sys2Proof.Laws.Encoded.Statement (.cadd a b sc) := by
  intro word h; obtain rfl := List.mem_singleton.1 (show word ∈ [encA 54 a.val b.val 0 (0 * 16 + encScope sc)] from h)
  have := a.isLt; have := b.isLt; have := encScope_lt sc; simp only [encA]; omega
theorem Sys2Proof.Laws.Encoded.caddv (a b c : Reg) (sc : Option Scope) : Sys2Proof.Laws.Encoded.Statement (.caddv a b c sc) := by
  intro word h; obtain rfl := List.mem_singleton.1 (show word ∈ [encA 54 a.val b.val c.val (1 * 16 + encScope sc)] from h)
  have := a.isLt; have := b.isLt; have := c.isLt; have := encScope_lt sc; simp only [encA]; omega
theorem Sys2Proof.Laws.Encoded.cread (a b c : Reg) (sc : Option Scope) : Sys2Proof.Laws.Encoded.Statement (.cread a b c sc) := by
  intro word h; obtain rfl := List.mem_singleton.1 (show word ∈ [encA 54 a.val b.val c.val (2 * 16 + encScope sc)] from h)
  have := a.isLt; have := b.isLt; have := c.isLt; have := encScope_lt sc; simp only [encA]; omega
theorem Sys2Proof.Laws.Encoded.cwait (a b c : Reg) (sc : Option Scope) : Sys2Proof.Laws.Encoded.Statement (.cwait a b c sc) := by
  intro word h; obtain rfl := List.mem_singleton.1 (show word ∈ [encA 54 a.val b.val c.val (3 * 16 + encScope sc)] from h)
  have := a.isLt; have := b.isLt; have := c.isLt; have := encScope_lt sc; simp only [encA]; omega
theorem Sys2Proof.Laws.Encoded.cwaitt (a b c : Reg) (sc : Option Scope) : Sys2Proof.Laws.Encoded.Statement (.cwaitt a b c sc) := by
  intro word h; obtain rfl := List.mem_singleton.1 (show word ∈ [encA 54 a.val b.val c.val (4 * 16 + encScope sc)] from h)
  have := a.isLt; have := b.isLt; have := c.isLt; have := encScope_lt sc; simp only [encA]; omega
theorem Sys2Proof.Laws.Encoded.caw (a b c : Reg) (sc : Option Scope) : Sys2Proof.Laws.Encoded.Statement (.caw a b c sc) := by
  intro word h; obtain rfl := List.mem_singleton.1 (show word ∈ [encA 54 a.val b.val c.val (5 * 16 + encScope sc)] from h)
  have := a.isLt; have := b.isLt; have := c.isLt; have := encScope_lt sc; simp only [encA]; omega
theorem Sys2Proof.Laws.Encoded.cinit (a b c : Reg) (sc : Option Scope) : Sys2Proof.Laws.Encoded.Statement (.cinit a b c sc) := by
  intro word h; obtain rfl := List.mem_singleton.1 (show word ∈ [encA 54 a.val b.val c.val (6 * 16 + encScope sc)] from h)
  have := a.isLt; have := b.isLt; have := c.isLt; have := encScope_lt sc; simp only [encA]; omega
theorem Sys2Proof.Laws.Encoded.cpoison (a : Reg) (sc : Option Scope) : Sys2Proof.Laws.Encoded.Statement (.cpoison a sc) := by
  intro word h; obtain rfl := List.mem_singleton.1 (show word ∈ [encA 54 a.val 0 0 (7 * 16 + encScope sc)] from h)
  have := a.isLt; have := encScope_lt sc; simp only [encA]; omega
theorem Sys2Proof.Laws.Encoded.twany (d a : Reg) : Sys2Proof.Laws.Encoded.Statement (.twany d a) := by
  intro word h; obtain rfl := List.mem_singleton.1 (show word ∈ [encA 55 d.val a.val 0 (0 * 256)] from h)
  have := d.isLt; have := a.isLt; simp only [encA]; omega
theorem Sys2Proof.Laws.Encoded.twall (d a : Reg) : Sys2Proof.Laws.Encoded.Statement (.twall d a) := by
  intro word h; obtain rfl := List.mem_singleton.1 (show word ∈ [encA 55 d.val a.val 0 (1 * 256)] from h)
  have := d.isLt; have := a.isLt; simp only [encA]; omega
theorem Sys2Proof.Laws.Encoded.tfirst (d : Reg) : Sys2Proof.Laws.Encoded.Statement (.tfirst d) := by
  intro word h; obtain rfl := List.mem_singleton.1 (show word ∈ [encA 55 d.val 0 0 (2 * 256)] from h)
  have := d.isLt; simp only [encA]; omega
theorem Sys2Proof.Laws.Encoded.fork (mb : Bool) : Sys2Proof.Laws.Encoded.Statement (.fork mb) := by
  intro word h; obtain rfl := List.mem_singleton.1 (show word ∈ [encA 55 0 0 0 (768 + bit mb)] from h)
  have := bit_lt mb; simp only [encA]; omega
theorem Sys2Proof.Laws.Encoded.join (d a : Reg) : Sys2Proof.Laws.Encoded.Statement (.join d a) := by
  intro word h; obtain rfl := List.mem_singleton.1 (show word ∈ [encA 55 d.val a.val 0 (4 * 256)] from h)
  have := d.isLt; have := a.isLt; simp only [encA]; omega
theorem Sys2Proof.Laws.Encoded.waitn (ld st cp tl : Fin 16) : Sys2Proof.Laws.Encoded.Statement (.waitn ld st cp tl) := by
  intro word h; obtain rfl := List.mem_singleton.1 (show word ∈ [56 * 2 ^ 26 + ld.val * 2 ^ 12 + st.val * 2 ^ 8 + cp.val * 2 ^ 4 + tl.val] from h)
  have := ld.isLt; have := st.isLt; have := cp.isLt; have := tl.isLt; omega
theorem Sys2Proof.Laws.Encoded.xcopy (a b c : Reg) (sc : Scope) (acq rel : Bool) : Sys2Proof.Laws.Encoded.Statement (.xcopy a b c sc acq rel) := by
  intro word h; obtain rfl := List.mem_singleton.1 (show word ∈ [encA 57 a.val b.val c.val (sc.code * 256 + 0 * 16 + bit acq * 8 + bit rel * 4)] from h)
  have := a.isLt; have := b.isLt; have := c.isLt; have := Scope.code_lt sc; have := bit_lt acq; have := bit_lt rel; simp only [encA]; omega
theorem Sys2Proof.Laws.Encoded.xgath (a b c : Reg) (sc : Scope) (acq rel : Bool) : Sys2Proof.Laws.Encoded.Statement (.xgath a b c sc acq rel) := by
  intro word h; obtain rfl := List.mem_singleton.1 (show word ∈ [encA 57 a.val b.val c.val (sc.code * 256 + 1 * 16 + bit acq * 8 + bit rel * 4)] from h)
  have := a.isLt; have := b.isLt; have := c.isLt; have := Scope.code_lt sc; have := bit_lt acq; have := bit_lt rel; simp only [encA]; omega
theorem Sys2Proof.Laws.Encoded.xscat (a b c : Reg) (sc : Scope) (acq rel ord : Bool) : Sys2Proof.Laws.Encoded.Statement (.xscat a b c sc acq rel ord) := by
  intro word h; obtain rfl := List.mem_singleton.1 (show word ∈ [encA 57 a.val b.val c.val (sc.code * 256 + 2 * 16 + bit acq * 8 + bit rel * 4 + bit ord * 2)] from h)
  have := a.isLt; have := b.isLt; have := c.isLt; have := Scope.code_lt sc; have := bit_lt acq; have := bit_lt rel; have := bit_lt ord; simp only [encA]; omega
theorem Sys2Proof.Laws.Encoded.xfill (a b c : Reg) (sc : Scope) (acq rel : Bool) : Sys2Proof.Laws.Encoded.Statement (.xfill a b c sc acq rel) := by
  intro word h; obtain rfl := List.mem_singleton.1 (show word ∈ [encA 57 a.val b.val c.val (sc.code * 256 + 3 * 16 + bit acq * 8 + bit rel * 4)] from h)
  have := a.isLt; have := b.isLt; have := c.isLt; have := Scope.code_lt sc; have := bit_lt acq; have := bit_lt rel; simp only [encA]; omega
theorem Sys2Proof.Laws.Encoded.xput (a b c : Reg) (sc : Scope) (acq rel : Bool) : Sys2Proof.Laws.Encoded.Statement (.xput a b c sc acq rel) := by
  intro word h; obtain rfl := List.mem_singleton.1 (show word ∈ [encA 57 a.val b.val c.val (sc.code * 256 + 4 * 16 + bit acq * 8 + bit rel * 4)] from h)
  have := a.isLt; have := b.isLt; have := c.isLt; have := Scope.code_lt sc; have := bit_lt acq; have := bit_lt rel; simp only [encA]; omega
theorem Sys2Proof.Laws.Encoded.xget (a b c : Reg) (sc : Scope) (acq rel : Bool) : Sys2Proof.Laws.Encoded.Statement (.xget a b c sc acq rel) := by
  intro word h; obtain rfl := List.mem_singleton.1 (show word ∈ [encA 57 a.val b.val c.val (sc.code * 256 + 5 * 16 + bit acq * 8 + bit rel * 4)] from h)
  have := a.isLt; have := b.isLt; have := c.isLt; have := Scope.code_lt sc; have := bit_lt acq; have := bit_lt rel; simp only [encA]; omega
theorem Sys2Proof.Laws.Encoded.xsub (a b c : Reg) (sc : Scope) : Sys2Proof.Laws.Encoded.Statement (.xsub a b c sc) := by
  intro word h; obtain rfl := List.mem_singleton.1 (show word ∈ [encA 58 a.val b.val c.val (sc.code * 256 + 0 * 16)] from h)
  have := a.isLt; have := b.isLt; have := c.isLt; have := Scope.code_lt sc; simp only [encA]; omega
theorem Sys2Proof.Laws.Encoded.xpub (a b c : Reg) (sc : Scope) : Sys2Proof.Laws.Encoded.Statement (.xpub a b c sc) := by
  intro word h; obtain rfl := List.mem_singleton.1 (show word ∈ [encA 58 a.val b.val c.val (sc.code * 256 + 1 * 16)] from h)
  have := a.isLt; have := b.isLt; have := c.isLt; have := Scope.code_lt sc; simp only [encA]; omega
theorem Sys2Proof.Laws.Encoded.xquery (a b c : Reg) : Sys2Proof.Laws.Encoded.Statement (.xquery a b c) := by
  intro word h; obtain rfl := List.mem_singleton.1 (show word ∈ [encA 58 a.val b.val c.val (32)] from h)
  have := a.isLt; have := b.isLt; have := c.isLt; simp only [encA]; omega
theorem Sys2Proof.Laws.Encoded.glmap (a b c : Reg) (sc : Scope) : Sys2Proof.Laws.Encoded.Statement (.glmap a b c sc) := by
  intro word h; obtain rfl := List.mem_singleton.1 (show word ∈ [encA 59 a.val b.val c.val (sc.code * 256 + 0 * 16)] from h)
  have := a.isLt; have := b.isLt; have := c.isLt; have := Scope.code_lt sc; simp only [encA]; omega
theorem Sys2Proof.Laws.Encoded.gcopy (a b c : Reg) (sc : Scope) : Sys2Proof.Laws.Encoded.Statement (.gcopy a b c sc) := by
  intro word h; obtain rfl := List.mem_singleton.1 (show word ∈ [encA 59 a.val b.val c.val (sc.code * 256 + 1 * 16)] from h)
  have := a.isLt; have := b.isLt; have := c.isLt; have := Scope.code_lt sc; simp only [encA]; omega
theorem Sys2Proof.Laws.Encoded.gsend (a b c : Reg) (sc : Scope) : Sys2Proof.Laws.Encoded.Statement (.gsend a b c sc) := by
  intro word h; obtain rfl := List.mem_singleton.1 (show word ∈ [encA 59 a.val b.val c.val (sc.code * 256 + 2 * 16)] from h)
  have := a.isLt; have := b.isLt; have := c.isLt; have := Scope.code_lt sc; simp only [encA]; omega
theorem Sys2Proof.Laws.Encoded.grecv (a b c : Reg) (sc : Scope) : Sys2Proof.Laws.Encoded.Statement (.grecv a b c sc) := by
  intro word h; obtain rfl := List.mem_singleton.1 (show word ∈ [encA 59 a.val b.val c.val (sc.code * 256 + 3 * 16)] from h)
  have := a.isLt; have := b.isLt; have := c.isLt; have := Scope.code_lt sc; simp only [encA]; omega
theorem Sys2Proof.Laws.Encoded.gcmp (a b c : Reg) (sc : Scope) : Sys2Proof.Laws.Encoded.Statement (.gcmp a b c sc) := by
  intro word h; obtain rfl := List.mem_singleton.1 (show word ∈ [encA 59 a.val b.val c.val (sc.code * 256 + 4 * 16)] from h)
  have := a.isLt; have := b.isLt; have := c.isLt; have := Scope.code_lt sc; simp only [encA]; omega
theorem Sys2Proof.Laws.Encoded.ghash (a b c : Reg) (sc : Scope) : Sys2Proof.Laws.Encoded.Statement (.ghash a b c sc) := by
  intro word h; obtain rfl := List.mem_singleton.1 (show word ∈ [encA 59 a.val b.val c.val (sc.code * 256 + 5 * 16)] from h)
  have := a.isLt; have := b.isLt; have := c.isLt; have := Scope.code_lt sc; simp only [encA]; omega
theorem Sys2Proof.Laws.Encoded.grel (a b c : Reg) (sc : Scope) : Sys2Proof.Laws.Encoded.Statement (.grel a b c sc) := by
  intro word h; obtain rfl := List.mem_singleton.1 (show word ∈ [encA 59 a.val b.val c.val (sc.code * 256 + 6 * 16)] from h)
  have := a.isLt; have := b.isLt; have := c.isLt; have := Scope.code_lt sc; simp only [encA]; omega
theorem Sys2Proof.Laws.Encoded.ebind (e : Fin 16) (a b c : Reg) : Sys2Proof.Laws.Encoded.Statement (.ebind e a b c) := by
  intro word h; obtain rfl := List.mem_singleton.1 (show word ∈ [encA 60 a.val b.val c.val (0 * 16 + e.val)] from h)
  have := e.isLt; have := a.isLt; have := b.isLt; have := c.isLt; simp only [encA]; omega
theorem Sys2Proof.Laws.Encoded.estep (e : Fin 16) (c : Reg) : Sys2Proof.Laws.Encoded.Statement (.estep e c) := by
  intro word h; obtain rfl := List.mem_singleton.1 (show word ∈ [encA 60 0 0 c.val (1 * 16 + e.val)] from h)
  have := e.isLt; have := c.isLt; simp only [encA]; omega
theorem Sys2Proof.Laws.Encoded.eld (e : Fin 16) (a b : Reg) : Sys2Proof.Laws.Encoded.Statement (.eld e a b) := by
  intro word h; obtain rfl := List.mem_singleton.1 (show word ∈ [encA 60 a.val b.val 0 (2 * 16 + e.val)] from h)
  have := e.isLt; have := a.isLt; have := b.isLt; simp only [encA]; omega
theorem Sys2Proof.Laws.Encoded.emma (e : Fin 16) (a b : Reg) : Sys2Proof.Laws.Encoded.Statement (.emma e a b) := by
  intro word h; obtain rfl := List.mem_singleton.1 (show word ∈ [encA 60 a.val b.val 0 (3 * 16 + e.val)] from h)
  have := e.isLt; have := a.isLt; have := b.isLt; simp only [encA]; omega
theorem Sys2Proof.Laws.Encoded.emap (e : Fin 16) (a b c : Reg) : Sys2Proof.Laws.Encoded.Statement (.emap e a b c) := by
  intro word h; obtain rfl := List.mem_singleton.1 (show word ∈ [encA 60 a.val b.val c.val (4 * 16 + e.val)] from h)
  have := e.isLt; have := a.isLt; have := b.isLt; have := c.isLt; simp only [encA]; omega
theorem Sys2Proof.Laws.Encoded.esig (e : Fin 16) (a b c : Reg) : Sys2Proof.Laws.Encoded.Statement (.esig e a b c) := by
  intro word h; obtain rfl := List.mem_singleton.1 (show word ∈ [encA 60 a.val b.val c.val (5 * 16 + e.val)] from h)
  have := e.isLt; have := a.isLt; have := b.isLt; have := c.isLt; simp only [encA]; omega
theorem Sys2Proof.Laws.Encoded.eforce (e : Fin 16) : Sys2Proof.Laws.Encoded.Statement (.eforce e) := by
  intro word h; obtain rfl := List.mem_singleton.1 (show word ∈ [encA 60 0 0 0 (6 * 16 + e.val)] from h)
  have := e.isLt; simp only [encA]; omega
theorem Sys2Proof.Laws.Encoded.trap (k : BitVec 12) : Sys2Proof.Laws.Encoded.Statement (.trap k) := by
  intro word h; obtain rfl := List.mem_singleton.1 (show word ∈ [encI 61 0 0 k.toNat] from h)
  have := k.isLt; simp only [encI]; omega
theorem Sys2Proof.Laws.Encoded.tret : Sys2Proof.Laws.Encoded.Statement (.tret) := by
  intro word h; obtain rfl := List.mem_singleton.1 (show word ∈ [encI 61 0 0 4096] from h)
  decide
theorem Sys2Proof.Laws.Encoded.mfk (d : Reg) (k : CtlReg) : Sys2Proof.Laws.Encoded.Statement (.mfk d k) := by
  intro word h; obtain rfl := List.mem_singleton.1 (show word ∈ [encI 61 d.val 0 (8192 + k.code)] from h)
  have := d.isLt; have := CtlReg.code_lt k; simp only [encI]; omega
theorem Sys2Proof.Laws.Encoded.mtk (k : CtlReg) (a : Reg) : Sys2Proof.Laws.Encoded.Statement (.mtk k a) := by
  intro word h; obtain rfl := List.mem_singleton.1 (show word ∈ [encI 61 0 a.val (12288 + k.code)] from h)
  have := CtlReg.code_lt k; have := a.isLt; simp only [encI]; omega
theorem Sys2Proof.Laws.Encoded.brk (k : BitVec 12) : Sys2Proof.Laws.Encoded.Statement (.brk k) := by
  intro word h; obtain rfl := List.mem_singleton.1 (show word ∈ [encI 61 0 0 (16384 + k.toNat)] from h)
  have := k.isLt; simp only [encI]; omega
theorem Sys2Proof.Laws.Encoded.genpub (a : Reg) : Sys2Proof.Laws.Encoded.Statement (.genpub a) := by
  intro word h; obtain rfl := List.mem_singleton.1 (show word ∈ [encI 61 0 a.val 20480] from h)
  have := a.isLt; simp only [encI]; omega
theorem Sys2Proof.Laws.Encoded.yield : Sys2Proof.Laws.Encoded.Statement (.yield) := by
  intro word h; obtain rfl := List.mem_singleton.1 (show word ∈ [encI 61 0 0 24576] from h)
  decide
theorem Sys2Proof.Laws.Encoded.li48 (d : Reg) (imm : BitVec 48) : Sys2Proof.Laws.Encoded.Statement (.li48 d imm) := by
  intro word h; obtain rfl | h := List.mem_cons.1 (show word ∈ [63 * 2 ^ 26 + d.val * 2 ^ 21 + imm.toNat / 2 ^ 32, imm.toNat % 2 ^ 32] from h)
  · have := d.isLt; have := imm.isLt; omega
  · obtain rfl := List.mem_singleton.1 h; omega
theorem Sys2Proof.Laws.Encoded.takeInterrupt : Sys2Proof.Laws.Encoded.Statement (.takeInterrupt) := by
  intro word h; cases h
theorem Sys2Proof.Laws.Encoded.loadDataReturn (k : Nat) (err : Bool) : Sys2Proof.Laws.Encoded.Statement (.loadDataReturn k err) := by
  intro word h; cases h
theorem Sys2Proof.Laws.Encoded.storeAcknowledge (ack : StoreAck) : Sys2Proof.Laws.Encoded.Statement (.storeAcknowledge ack) := by
  intro word h; cases h
theorem Sys2Proof.Laws.Encoded.streamReadAhead (j : Fin 8) : Sys2Proof.Laws.Encoded.Statement (.streamReadAhead j) := by
  intro word h; cases h
theorem Sys2Proof.Laws.Encoded.sequencerIssue : Sys2Proof.Laws.Encoded.Statement (.sequencerIssue) := by
  intro word h; cases h
theorem Sys2Proof.Laws.Encoded.sequencerLoopEnd : Sys2Proof.Laws.Encoded.Statement (.sequencerLoopEnd) := by
  intro word h; cases h
theorem Sys2Proof.Laws.Encoded.leaseGrant (c : Nat) : Sys2Proof.Laws.Encoded.Statement (.leaseGrant c) := by
  intro word h; cases h
theorem Sys2Proof.Laws.Encoded.resumeGrant (c : Nat) : Sys2Proof.Laws.Encoded.Statement (.resumeGrant c) := by
  intro word h; cases h
theorem Sys2Proof.Laws.Encoded.arrayCommandBegin (c k : Nat) : Sys2Proof.Laws.Encoded.Statement (.arrayCommandBegin c k) := by
  intro word h; cases h
theorem Sys2Proof.Laws.Encoded.tileCommandRetire (c k : Nat) : Sys2Proof.Laws.Encoded.Statement (.tileCommandRetire c k) := by
  intro word h; cases h
theorem Sys2Proof.Laws.Encoded.arrayRdvAdd (c k : Nat) : Sys2Proof.Laws.Encoded.Statement (.arrayRdvAdd c k) := by
  intro word h; cases h
theorem Sys2Proof.Laws.Encoded.homeroomAdd (k : Nat) : Sys2Proof.Laws.Encoded.Statement (.homeroomAdd k) := by
  intro word h; cases h
theorem Sys2Proof.Laws.Encoded.counterWake (k : Nat) : Sys2Proof.Laws.Encoded.Statement (.counterWake k) := by
  intro word h; cases h
theorem Sys2Proof.Laws.Encoded.counterRepoll (core : Nat) : Sys2Proof.Laws.Encoded.Statement (.counterRepoll core) := by
  intro word h; cases h
theorem Sys2Proof.Laws.Encoded.cwaittTimeout (core : Nat) : Sys2Proof.Laws.Encoded.Statement (.cwaittTimeout core) := by
  intro word h; cases h
theorem Sys2Proof.Laws.Encoded.copyCommandAccept (m : Nat) : Sys2Proof.Laws.Encoded.Statement (.copyCommandAccept m) := by
  intro word h; cases h
theorem Sys2Proof.Laws.Encoded.copyStart (id : Nat) : Sys2Proof.Laws.Encoded.Statement (.copyStart id) := by
  intro word h; cases h
theorem Sys2Proof.Laws.Encoded.copyComplete (id : Nat) : Sys2Proof.Laws.Encoded.Statement (.copyComplete id) := by
  intro word h; cases h
theorem Sys2Proof.Laws.Encoded.copySuspend (id : Nat) : Sys2Proof.Laws.Encoded.Statement (.copySuspend id) := by
  intro word h; cases h
theorem Sys2Proof.Laws.Encoded.unitResume (unit : Nat) (id : Served) : Sys2Proof.Laws.Encoded.Statement (.unitResume unit id) := by
  intro word h; cases h
theorem Sys2Proof.Laws.Encoded.subscriptionTile (id : Nat) : Sys2Proof.Laws.Encoded.Statement (.subscriptionTile id) := by
  intro word h; cases h
theorem Sys2Proof.Laws.Encoded.bell : Sys2Proof.Laws.Encoded.Statement (.bell) := by
  intro word h; cases h
theorem Sys2Proof.Laws.Encoded.walkSuspend (core : Nat) : Sys2Proof.Laws.Encoded.Statement (.walkSuspend core) := by
  intro word h; cases h
theorem Sys2Proof.Laws.Encoded.streamDeliver (k : Nat) : Sys2Proof.Laws.Encoded.Statement (.streamDeliver k) := by
  intro word h; cases h
theorem Sys2Proof.Laws.Encoded.treeForward (k : Nat) : Sys2Proof.Laws.Encoded.Statement (.treeForward k) := by
  intro word h; cases h
theorem Sys2Proof.Laws.Encoded.submissionIntake (part : Nat) : Sys2Proof.Laws.Encoded.Statement (.submissionIntake part) := by
  intro word h; cases h
theorem Sys2Proof.Laws.Encoded.graphAdmit (part slot : Nat) : Sys2Proof.Laws.Encoded.Statement (.graphAdmit part slot) := by
  intro word h; cases h
theorem Sys2Proof.Laws.Encoded.nodeFire (part slot node : Nat) : Sys2Proof.Laws.Encoded.Statement (.nodeFire part slot node) := by
  intro word h; cases h
theorem Sys2Proof.Laws.Encoded.cohortPlace (part : Nat) : Sys2Proof.Laws.Encoded.Statement (.cohortPlace part) := by
  intro word h; cases h
theorem Sys2Proof.Laws.Encoded.serviceNodePost (part slot node : Nat) : Sys2Proof.Laws.Encoded.Statement (.serviceNodePost part slot node) := by
  intro word h; cases h
theorem Sys2Proof.Laws.Encoded.transferNodeIssue (part slot node : Nat) : Sys2Proof.Laws.Encoded.Statement (.transferNodeIssue part slot node) := by
  intro word h; cases h
theorem Sys2Proof.Laws.Encoded.nodeComplete (part slot node : Nat) (ok : Bool) : Sys2Proof.Laws.Encoded.Statement (.nodeComplete part slot node ok) := by
  intro word h; cases h
theorem Sys2Proof.Laws.Encoded.endcObserve (core : Nat) : Sys2Proof.Laws.Encoded.Statement (.endcObserve core) := by
  intro word h; cases h
theorem Sys2Proof.Laws.Encoded.serviceUnmap (m part : Nat) : Sys2Proof.Laws.Encoded.Statement (.serviceUnmap m part) := by
  intro word h; cases h
theorem Sys2Proof.Laws.Encoded.serviceChangeAttributes (m part : Nat) : Sys2Proof.Laws.Encoded.Statement (.serviceChangeAttributes m part) := by
  intro word h; cases h
theorem Sys2Proof.Laws.Encoded.replicaApply (k : Fin 3) : Sys2Proof.Laws.Encoded.Statement (.replicaApply k) := by
  intro word h; cases h
theorem Sys2Proof.Laws.Encoded.illegalInstruction (w0 : BitVec 32) (w1 : Option (BitVec 32)) : Sys2Proof.Laws.Encoded.Statement (.illegalInstruction w0 w1) := by
  intro word h; cases h
theorem Sys2Proof.Laws.Encoded.fetchException (va : Word) : Sys2Proof.Laws.Encoded.Statement (.fetchException va) := by
  intro word h; cases h
theorem Sys2Proof.Laws.Encoded.savedContextResume (part core : Nat) : Sys2Proof.Laws.Encoded.Statement (.savedContextResume part core) := by
  intro word h; cases h
theorem Sys2Proof.Laws.Encoded.commandNop (p : HostPort) (q : Queue) : Sys2Proof.Laws.Encoded.Statement (.commandNop p q) := by
  intro word h; cases h
theorem Sys2Proof.Laws.Encoded.commandSubmit (p : HostPort) (q : Queue) : Sys2Proof.Laws.Encoded.Statement (.commandSubmit p q) := by
  intro word h; cases h
theorem Sys2Proof.Laws.Encoded.commandAdd (p : HostPort) (q : Queue) : Sys2Proof.Laws.Encoded.Statement (.commandAdd p q) := by
  intro word h; cases h
theorem Sys2Proof.Laws.Encoded.commandRefused (p : HostPort) (q : Queue) : Sys2Proof.Laws.Encoded.Statement (.commandRefused p q) := by
  intro word h; cases h
theorem Sys2Proof.Laws.Encoded.completionWrite (p : HostPort) (q : Queue) : Sys2Proof.Laws.Encoded.Statement (.completionWrite p q) := by
  intro word h; cases h
theorem Sys2Proof.Laws.Encoded.heldMessageResume (src : BitVec 12) (sseq : BitVec 32) : Sys2Proof.Laws.Encoded.Statement (.heldMessageResume src sseq) := by
  intro word h; cases h
theorem Sys2Proof.Laws.Encoded.layout (list : Word) : Sys2Proof.Laws.Encoded.Statement (.layout list) := by
  intro word h; cases h
theorem Sys2Proof.Laws.Encoded.acycGather (c : Nat) : Sys2Proof.Laws.Encoded.Statement (.acycGather c) := by
  intro word h; cases h
theorem Sys2Proof.Laws.Encoded.health (a1 : Word) : Sys2Proof.Laws.Encoded.Statement (.health a1) := by
  intro word h; cases h
theorem Sys2Proof.Laws.Encoded.checkpointSave (a1 : Word) : Sys2Proof.Laws.Encoded.Statement (.checkpointSave a1) := by
  intro word h; cases h
theorem Sys2Proof.Laws.Encoded.checkpointRestore (a1 : Word) : Sys2Proof.Laws.Encoded.Statement (.checkpointRestore a1) := by
  intro word h; cases h
theorem Sys2Proof.Laws.Encoded.dumpread (a1 : Word) : Sys2Proof.Laws.Encoded.Statement (.dumpread a1) := by
  intro word h; cases h
theorem Sys2Proof.Laws.Encoded.messageRetryTimeout (dst : BitVec 12) (sseq : BitVec 32) : Sys2Proof.Laws.Encoded.Statement (.messageRetryTimeout dst sseq) := by
  intro word h; cases h
theorem Sys2Proof.Laws.Encoded.partyCounterSuspend (unit id : Nat) : Sys2Proof.Laws.Encoded.Statement (.partyCounterSuspend unit id) := by
  intro word h; cases h
theorem Sys2Proof.Laws.Encoded.timerCompare (n : Nat) : Sys2Proof.Laws.Encoded.Statement (.timerCompare n) := by
  intro word h; cases h
theorem Sys2Proof.Laws.Encoded.sliceQuantumExpiry (part core : Nat) : Sys2Proof.Laws.Encoded.Statement (.sliceQuantumExpiry part core) := by
  intro word h; cases h
theorem Sys2Proof.Laws.Encoded.forceWindowExpiry (core : Nat) : Sys2Proof.Laws.Encoded.Statement (.forceWindowExpiry core) := by
  intro word h; cases h
theorem Sys2Proof.Laws.Encoded.stallWatchdogExpiry (part : Nat) : Sys2Proof.Laws.Encoded.Statement (.stallWatchdogExpiry part) := by
  intro word h; cases h
theorem Sys2Proof.Laws.Encoded.serviceLoad (part slot node : Nat) (frame : Nat) : Sys2Proof.Laws.Encoded.Statement (.serviceLoad part slot node frame) := by
  intro word h; cases h
theorem Sys2Proof.Laws.Encoded.serviceMap (m part frame : Nat) : Sys2Proof.Laws.Encoded.Statement (.serviceMap m part frame) := by
  intro word h; cases h
theorem Sys2Proof.Laws.Encoded.serviceFault (m part : Nat) (frame : Option Nat) : Sys2Proof.Laws.Encoded.Statement (.serviceFault m part frame) := by
  intro word h; cases h
theorem Sys2Proof.Laws.Encoded.unitFatal (unit id : Nat) : Sys2Proof.Laws.Encoded.Statement (.unitFatal unit id) := by
  intro word h; cases h
theorem Sys2Proof.Laws.Encoded.hostMemRead (p : HostPort) (hpa : HostPlace) (n : Nat) : Sys2Proof.Laws.Encoded.Statement (.hostMemRead p hpa n) := by
  intro word h; cases h
theorem Sys2Proof.Laws.Encoded.hostMemWrite (p : HostPort) (hpa : Nat) (data : HostData) : Sys2Proof.Laws.Encoded.Statement (.hostMemWrite p hpa data) := by
  intro word h; cases h
theorem Sys2Proof.Laws.Encoded.cmdfWrite (p : HostPort) (q : Queue) (v : Word) : Sys2Proof.Laws.Encoded.Statement (.cmdfWrite p q v) := by
  intro word h; cases h
theorem Sys2Proof.Laws.Encoded.commandService (p : HostPort) (q : Queue) (ok : Bool) (detail : BitVec 56) (result : Word) : Sys2Proof.Laws.Encoded.Statement (.commandService p q ok detail result) := by
  intro word h; cases h
theorem Sys2Proof.Laws.Encoded.hostRegisterWrite (p : HostPort) (r : HostReg) (v : BitVec 192) : Sys2Proof.Laws.Encoded.Statement (.hostRegisterWrite p r v) := by
  intro word h; cases h
theorem Sys2Proof.Laws.Encoded.lockInterfaceRequest (p : HostPort) : Sys2Proof.Laws.Encoded.Statement (.lockInterfaceRequest p) := by
  intro word h; cases h
theorem Sys2Proof.Laws.Encoded.startInterfaceRequest (p : HostPort) : Sys2Proof.Laws.Encoded.Statement (.startInterfaceRequest p) := by
  intro word h; cases h
theorem Sys2Proof.Laws.Encoded.stopInterfaceRequest (p : HostPort) : Sys2Proof.Laws.Encoded.Statement (.stopInterfaceRequest p) := by
  intro word h; cases h
theorem Sys2Proof.Laws.Encoded.getDeviceInterfaceReport (p : HostPort) : Sys2Proof.Laws.Encoded.Statement (.getDeviceInterfaceReport p) := by
  intro word h; cases h
theorem Sys2Proof.Laws.Encoded.ideIntegrityFailure (p : HostPort) : Sys2Proof.Laws.Encoded.Statement (.ideIntegrityFailure p) := by
  intro word h; cases h
theorem Sys2Proof.Laws.Encoded.cxlFunctionLevelReset (p : HostPort) : Sys2Proof.Laws.Encoded.Statement (.cxlFunctionLevelReset p) := by
  intro word h; cases h
theorem Sys2Proof.Laws.Encoded.cxlCompletionTimeout (core : CxlParty) (isStore : Bool) (k : Nat) : Sys2Proof.Laws.Encoded.Statement (.cxlCompletionTimeout core isStore k) := by
  intro word h; cases h
theorem Sys2Proof.Laws.Encoded.flitReceive (f : Flit) : Sys2Proof.Laws.Encoded.Statement (.flitReceive f) := by
  intro word h; cases h
theorem Sys2Proof.Laws.Encoded.reassemblyTimeout (src : BitVec 12) (sseq : BitVec 32) : Sys2Proof.Laws.Encoded.Statement (.reassemblyTimeout src sseq) := by
  intro word h; cases h
theorem Sys2Proof.Laws.Encoded.partitionQuiet : Sys2Proof.Laws.Encoded.Statement (.partitionQuiet) := by
  intro word h; cases h
theorem Sys2Proof.Laws.Encoded.quiesceDeadline : Sys2Proof.Laws.Encoded.Statement (.quiesceDeadline) := by
  intro word h; cases h
theorem Sys2Proof.Laws.Encoded.serviceUnload (part slot : Nat) (node : Served) : Sys2Proof.Laws.Encoded.Statement (.serviceUnload part slot node) := by
  intro word h; cases h
theorem Sys2Proof.Laws.Encoded.bellAcknowledged : Sys2Proof.Laws.Encoded.Statement (.bellAcknowledged) := by
  intro word h; cases h
theorem Sys2Proof.Laws.Encoded.usageRecordPeriodic : Sys2Proof.Laws.Encoded.Statement (.usageRecordPeriodic) := by
  intro word h; cases h
theorem Sys2Proof.Laws.Encoded.powerOnReset (fail : Option (Nat × BitVec 16)) : Sys2Proof.Laws.Encoded.Statement (.powerOnReset fail) := by
  intro word h; cases h
theorem Sys2Proof.Laws.Encoded.deviceReset (fail : Option (Nat × BitVec 16)) : Sys2Proof.Laws.Encoded.Statement (.deviceReset fail) := by
  intro word h; cases h
theorem Sys2Proof.Laws.Encoded.thermalThrottle (island : Fin 120) (x : IslandEvent) : Sys2Proof.Laws.Encoded.Statement (.thermalThrottle island x) := by
  intro word h; cases h
theorem Sys2Proof.Laws.Encoded.fatalError (cause : FatalCause) : Sys2Proof.Laws.Encoded.Statement (.fatalError cause) := by
  intro word h; cases h
theorem Sys2Proof.Laws.Encoded.firmwareWatchdogExpiry : Sys2Proof.Laws.Encoded.Statement (.firmwareWatchdogExpiry) := by
  intro word h; cases h
theorem Sys2Proof.Laws.Encoded.ageingMeasurement (island : Fin 120) (drift : Int) (ecc : Int × Int) : Sys2Proof.Laws.Encoded.Statement (.ageingMeasurement island drift ecc) := by
  intro word h; cases h
theorem Sys2Proof.Laws.Encoded.serviceKernelInstanceRestart (m : Nat) : Sys2Proof.Laws.Encoded.Statement (.serviceKernelInstanceRestart m) := by
  intro word h; cases h
theorem Sys2Proof.Laws.Encoded.powerOff : Sys2Proof.Laws.Encoded.Statement (.powerOff) := by
  intro word h; cases h
theorem Sys2Proof.Laws.Encoded.spdmMessage (p : HostPort) (keys : Bool) : Sys2Proof.Laws.Encoded.Statement (.spdmMessage p keys) := by
  intro word h; cases h
theorem Sys2Proof.Laws.Encoded.bindingShadow (x : PortBinding) : Sys2Proof.Laws.Encoded.Statement (.bindingShadow x) := by
  intro word h; cases h

end
end

