-- ==== Sys2Proof/Tests/Slice0.lean ====
section
/-! SUPPORT. Tests of the decoder, of the operand checks and of single instructions. Every expected value comes from a table or a worked case of
the manual, or was worked out by hand from the rule named. -/

namespace Sys2Proof.Tests

open Sys2Proof.Machine

set_option Elab.async false

/-! ## Helpers -/

/-- The state after reset with the given g registers: firmware mode, nothing under way. -/
def st (l : List (Reg × Word)) : State := l.foldl (fun s p => s.setG p.1 p.2) State.reset

/-- The state an instruction leads to. -/
def run (i : Instr) (s : State) : State :=
  match exec i s with
  | .next t => t
  | _ => s

/-- g[r] after an instruction on the given g registers. -/
def gAfter (i : Instr) (l : List (Reg × Word)) (r : Reg) : Word := (run i (st l)).g r

/-- A state in user mode with the given g registers. -/
def userSt (l : List (Reg × Word)) : State := (st l).onHart fun h => { h with tsw := { h.tsw with mode := .user } }

/-! ## Operand checks -/

theorem test_wf_field : (Instr.exts 1 2 60 4).wf = false ∧ (Instr.extn 1 2 60 3).wf = true ∧ (Instr.bins 1 2 33 31).wf = false := by decide +kernel
theorem test_wf_fcvt : (Instr.fcvt .i32 .n64 1 2).wf = false ∧ (Instr.fcvt .f32 .f32 1 2).wf = false ∧ (Instr.fcvt .i16 .f32 1 2).wf = false ∧
    (Instr.fcvt .i32 .f32 1 2).wf = true := by decide +kernel
theorem test_wf_atom : (Instr.atomAdd 1 2 3 true .gl .plain .pkg).wf = false ∧ (Instr.atomAdd 1 2 3 true .gl .plain .core).wf = true := by decide +kernel
theorem test_wf_fence : (Instr.fenceSc .pkg true).wf = false ∧ (Instr.fenceSc .sys true).wf = true := by decide +kernel
theorem test_wf_vatom : (Instr.vatomAdd 1 2 .gl .none .i32).wf = false ∧ (Instr.vatomAnd 1 2 .cb .none .f32).wf = false ∧
    (Instr.vatomAdd 1 2 .cb .none .f32).wf = true ∧ (Instr.vatomSwp 1 2 .lo .none .i16).wf = false := by decide +kernel
theorem test_wf_arith : (Instr.vadd 1 2 3 .none .e4m3).wf = false ∧ (Instr.vcmp .un 1 2 3 .i32).wf = false ∧ (Instr.vredOr 1 2 .none .f32).wf = false := by
  decide +kernel
theorem test_wf_pack : (Instr.vpack 2 2 3 .none .f32).wf = false ∧ (Instr.vunpk 3 2 .none .e2m3).wf = false ∧ (Instr.vunpk 2 3 .none .i4).wf = false := by
  decide +kernel
theorem test_wf_vcvt : (Instr.vcvt .f32 .f32 1 2 .none).wf = false ∧ (Instr.vcvt .i4 .e2m1 1 2 .none).wf = false := by decide +kernel
theorem test_wf_lane : (Instr.vmvg 1 2 8 .i64).wf = false ∧ (Instr.vmgv 1 2 16 .f32).wf = false ∧ (Instr.vmvg 1 2 63 .i8).wf = true := by decide +kernel
theorem test_wf_sfunc : (Instr.vexp2 1 2 .none .i32).wf = false ∧ (Instr.vtanh 1 2 .none .dm8).wf = false := by decide +kernel

/-! ## Decoding: the worked encodings of the manual -/

theorem test_decode_worked_formats : decodeTableWord 32 0x04611000 = some (.add 3 1 2) ∧ decodeTableWord 32 0x08A0FFFD = some (.addi 5 0 0xFFFD) ∧
    decodeTableWord 32 0x2889FFF9 = some (.bne 4 9 0x3FFE) ∧ decodeTableWord 32 0x40C21A02 = some (.ld64 6 2 .gl .acq false 2) ∧
    decodeTableWord 32 0x802219D8 = some (.vadd 1 2 3 (.mu 7) .f32) ∧
        decodeTableWord 32 0xC2EE1000 = some (.fmt .dm8 .dm8 .f32 .both false) := by decide +kernel
/-- LI48 takes two words; the second one stands above the first in the table's numbering. -/
theorem test_decode_li48 : decodeTableWord 64 0x56789ABC_FCE01234 = some (.li48 7 0x123456789ABC) ∧
    decode (bytesOfWord 0xFCE01234) = .error .truncated := by decide +kernel
theorem test_decode_worked_scalar : decodeTableWord 32 0x048503C3 = some (.slli 4 5 3) ∧ decodeTableWord 32 0x04C75F08 = some (.extn 6 7 8 11) ∧
    decodeTableWord 32 0x1C412345 = some (.lih 2 0x12345) ∧ decodeTableWord 32 0x10426789 = some (.ori 2 2 0x6789) ∧
    decodeTableWord 32 0x1C700010 = some (.addpc 3 0x10) ∧ decodeTableWord 32 0x306111C0 = some (.ffma .f32 3 1 2) ∧
    decodeTableWord 32 0x30A11441 = some (.fcmp .lt .f32 5 1 2) ∧ decodeTableWord 32 0x308244A0 = some (.fcvt .i32 .f32 4 2) := by decide +kernel
theorem test_decode_worked_control : decodeTableWord 32 0x2C220012 = some (.bltn 1 2 4) ∧ decodeTableWord 32 0x23E00040 = some (.jal 31 0x40) ∧
    decodeTableWord 32 0x241F0000 = some (.jalr 0 31 0) ∧ decodeTableWord 32 0xF4A02003 = some (.mfk 5 .tcause) ∧
    decodeTableWord 32 0xF4053005 = some (.mtk .tepc 5) ∧ decodeTableWord 32 0xF4004007 = some (.brk 7) ∧ decodeTableWord 32 0xF4001000 = some .tret ∧
    decodeTableWord 32 0xF4045000 = some (.genpub 4) ∧ decodeTableWord 32 0xF4006000 = some .yield := by decide +kernel
theorem test_decode_worked_memory : decodeTableWord 32 0x44E350FF = some (.st32 7 3 .lo .plain false 0xFF) ∧
    decodeTableWord 32 0x64A4B002 = some (.vst512 5 4 .cb .plain false 2) ∧ decodeTableWord 32 0x488112B0 = some (.lbf true 4 1 2 11) ∧
    decodeTableWord 32 0x4CA63F9C = some (.atomCas 5 6 7 true .gl .ar .pkg) ∧ decodeTableWord 32 0x78430056 = some (.vatomAdd 2 3 .gl (.mu 1) .i64) ∧
    decodeTableWord 32 0x50000560 = some (.fenceSc .sys true) ∧ decodeTableWord 32 0x552A0000 = some (.tlook 9 10) := by decide +kernel
theorem test_decode_worked_streams : decodeTableWord 32 0xAC25B808 = some (.vbcast 1 5 .none .f32) ∧
    decodeTableWord 32 0xB3011900 = some (.strcfg 0 1 3 false .lo false) ∧ decodeTableWord 32 0xB3411D00 = some (.strcfg 2 1 3 true .lo false) ∧
    decodeTableWord 32 0xB8070001 = some (.vloop 7 1) ∧ decodeTableWord 32 0x88981808 = some (.vmul 4 24 3 .none .f32) ∧
    decodeTableWord 32 0x8344C808 = some (.vadd 26 4 25 .none .f32) := by decide +kernel
theorem test_decode_worked_matrix : decodeTableWord 32 0xC4C00100 = some (.oclaim 6 0) ∧ decodeTableWord 32 0xC5000000 = some (.mlease 8) ∧
    decodeTableWord 32 0xC4011280 = some (.mvc 1 2) ∧ decodeTableWord 32 0xC8001880 = some (.mld 0 3 .lo false 0) ∧
    decodeTableWord 32 0xC4000200 = some (.mzero 0) ∧ decodeTableWord 32 0xC0010000 = some (.fmt .i8 .i8 .i32 .none false) ∧
    decodeTableWord 32 0xCC000001 = some (.mma 0 0 1) ∧ decodeTableWord 32 0xC8895680 = some (.mst .i32 9 10 .lo false 0) := by decide +kernel
theorem test_decode_worked_counters : decodeTableWord 32 0xD8850008 = some (.cadd 4 5 none) ∧
    decodeTableWord 32 0xD8E84C10 = some (.caddv 7 8 9 (some .pkg)) ∧
    decodeTableWord 32 0xD8853038 = some (.cwait 4 5 6 none) ∧ decodeTableWord 32 0xD8853150 = some (.caw 4 5 6 (some .clu)) ∧
    decodeTableWord 32 0xD8853068 = some (.cinit 4 5 6 none) ∧ decodeTableWord 32 0xD8800078 = some (.cpoison 4 none) := by decide +kernel
theorem test_decode_worked_copies : decodeTableWord 32 0xE4853404 = some (.xcopy 4 5 6 .pkg false true) ∧
    decodeTableWord 32 0xE460381C = some (.xgath 3 0 7 .core true true) ∧ decodeTableWord 32 0xE4803022 = some (.xscat 4 0 6 .core false false true) ∧
    decodeTableWord 32 0xE8853100 = some (.xsub 4 5 6 .clu) ∧ decodeTableWord 32 0xE8C74020 = some (.xquery 6 7 8) := by decide +kernel
theorem test_decode_worked_graphs : decodeTableWord 32 0xEC853000 = some (.glmap 4 5 6 .core) ∧ decodeTableWord 32 0xEC853520 = some (.gsend 4 5 6 .sys) ∧
    decodeTableWord 32 0xEC853060 = some (.grel 4 5 6 .core) := by decide +kernel
theorem test_decode_worked_steps : decodeTableWord 32 0xF0602000 = some (.ebind 0 3 0 4) ∧ decodeTableWord 32 0xF18E0020 = some (.eld 0 12 14) ∧
    decodeTableWord 32 0xF0100030 = some (.emma 0 0 16) ∧ decodeTableWord 32 0xF016B840 = some (.emap 0 0 22 23) ∧
    decodeTableWord 32 0xF000D010 = some (.estep 0 26) := by decide +kernel
/-- A reserved size, a field that is not zero where it must be, an unassigned major. -/
theorem test_decode_rejects : decodeTableWord 32 0x40C23A02 = none ∧ decodeTableWord 32 0x44E370FF = none ∧ decodeTableWord 32 0xF4011000 = none ∧
    decodeTableWord 32 0x00000000 = none ∧ decodeTableWord 32 0x2A000002 = none := by decide +kernel

/-! ## Decoding: one word of every other instruction, from the fields of its row -/

theorem test_decode_integer1 :
    decodeTableWord 32 0b000001_00110_01001_10001_00000000000 = some (.add 6 9 17) ∧
    decodeTableWord 32 0b000001_00110_01001_10001_00001000000 = some (.sub 6 9 17) ∧
    decodeTableWord 32 0b000001_00110_01001_10001_00010000000 = some (.mul 6 9 17) ∧
    decodeTableWord 32 0b000001_00110_01001_10001_00011000000 = some (.mulh 6 9 17) ∧
    decodeTableWord 32 0b000001_00110_01001_10001_00100000000 = some (.mulhn 6 9 17) ∧
    decodeTableWord 32 0b000001_00110_01001_10001_00101000000 = some (.div 6 9 17) ∧
    decodeTableWord 32 0b000001_00110_01001_10001_00110000000 = some (.divn 6 9 17) ∧
    decodeTableWord 32 0b000001_00110_01001_10001_00111000000 = some (.rem 6 9 17) := by
  decide +kernel

theorem test_decode_integer2 :
    decodeTableWord 32 0b000001_00110_01001_10001_01000000000 = some (.remn 6 9 17) ∧
    decodeTableWord 32 0b000001_00110_01001_10001_01001000000 = some (.and 6 9 17) ∧
    decodeTableWord 32 0b000001_00110_01001_10001_01010000000 = some (.or 6 9 17) ∧
    decodeTableWord 32 0b000001_00110_01001_10001_01011000000 = some (.xor 6 9 17) ∧
    decodeTableWord 32 0b000001_00110_01001_10001_01100000000 = some (.sll 6 9 17) ∧
    decodeTableWord 32 0b000001_00110_01001_10001_01101000000 = some (.srl 6 9 17) ∧
    decodeTableWord 32 0b000001_00110_01001_10001_01110000000 = some (.sra 6 9 17) ∧
    decodeTableWord 32 0b000001_00110_01001_0000001111_100101 = some (.slli 6 9 37) := by
  decide +kernel

theorem test_decode_integer3 :
    decodeTableWord 32 0b000001_00110_01001_0000010000_100101 = some (.srli 6 9 37) ∧
    decodeTableWord 32 0b000001_00110_01001_0000010001_100101 = some (.srai 6 9 37) ∧
    decodeTableWord 32 0b000001_00110_01001_10001_10010000000 = some (.slt 6 9 17) ∧
    decodeTableWord 32 0b000001_00110_01001_10001_10011000000 = some (.sltn 6 9 17) ∧
    decodeTableWord 32 0b000001_00110_01001_10001_10100000000 = some (.min 6 9 17) ∧
    decodeTableWord 32 0b000001_00110_01001_10001_10101000000 = some (.max 6 9 17) ∧
    decodeTableWord 32 0b000001_00110_01001_10001_10110000000 = some (.minn 6 9 17) ∧
    decodeTableWord 32 0b000001_00110_01001_10001_10111000000 = some (.maxn 6 9 17) := by
  decide +kernel

theorem test_decode_integer4 :
    decodeTableWord 32 0b000001_00110_01001_0000011000000000 = some (.clz 6 9) ∧
    decodeTableWord 32 0b000001_00110_01001_0000011001000000 = some (.ctz 6 9) ∧
    decodeTableWord 32 0b000001_00110_01001_0000011010000000 = some (.popc 6 9) ∧
    decodeTableWord 32 0b000001_00110_01001_01101_11011_010101 = some (.exts 6 9 21 13) ∧
    decodeTableWord 32 0b000001_00110_01001_01101_11100_010101 = some (.extn 6 9 21 13) ∧
    decodeTableWord 32 0b000001_00110_01001_01101_11101_010101 = some (.bins 6 9 21 13) := by
  decide +kernel

theorem test_decode_immediate :
    decodeTableWord 32 0b000010_00110_01001_1111111111111101 = some (.addi 6 9 0xFFFD) ∧
    decodeTableWord 32 0b000011_00110_01001_1111111111111101 = some (.andi 6 9 0xFFFD) ∧
    decodeTableWord 32 0b000100_00110_01001_1111111111111101 = some (.ori 6 9 0xFFFD) ∧
    decodeTableWord 32 0b000101_00110_01001_1111111111111101 = some (.xori 6 9 0xFFFD) ∧
    decodeTableWord 32 0b000110_00110_01001_1111111111111101 = some (.slti 6 9 0xFFFD) ∧
    decodeTableWord 32 0b000111_00110_0_00010010001101000101 = some (.lih 6 0x12345) ∧
    decodeTableWord 32 0b000111_00110_1_00010010001101000101 = some (.addpc 6 0x12345) := by
  decide +kernel

theorem test_decode_jumps :
    decodeTableWord 32 0b001000_00110_100000000000000000001 = some (.jal 6 0x100001) ∧
    decodeTableWord 32 0b001001_00110_01001_1111111111111101 = some (.jalr 6 9 0xFFFD) ∧
    decodeTableWord 32 0b001010_01001_10001_11111111111110_00 = some (.beq 9 17 0x3FFE) ∧
    decodeTableWord 32 0b001010_01001_10001_11111111111110_01 = some (.bne 9 17 0x3FFE) ∧
    decodeTableWord 32 0b001011_01001_10001_11111111111110_00 = some (.blt 9 17 0x3FFE) ∧
    decodeTableWord 32 0b001011_01001_10001_11111111111110_01 = some (.bge 9 17 0x3FFE) ∧
    decodeTableWord 32 0b001011_01001_10001_11111111111110_10 = some (.bltn 9 17 0x3FFE) ∧
    decodeTableWord 32 0b001011_01001_10001_11111111111110_11 = some (.bgen 9 17 0x3FFE) := by
  decide +kernel

theorem test_decode_float1 :
    decodeTableWord 32 0b001100_00110_01001_10001_0000_1001_000 = some (.fadd .bf16 6 9 17) ∧
    decodeTableWord 32 0b001100_00110_01001_10001_0001_1001_000 = some (.fsub .bf16 6 9 17) ∧
    decodeTableWord 32 0b001100_00110_01001_10001_0010_1001_000 = some (.fmul .bf16 6 9 17) ∧
    decodeTableWord 32 0b001100_00110_01001_10001_0011_1001_000 = some (.ffma .bf16 6 9 17) ∧
    decodeTableWord 32 0b001100_00110_01001_10001_0100_1001_000 = some (.fdiv .bf16 6 9 17) ∧
    decodeTableWord 32 0b001100_00110_01001_000000101_1001_000 = some (.fsqrt .bf16 6 9) ∧
    decodeTableWord 32 0b001100_00110_01001_10001_0110_1001_000 = some (.fmin .bf16 6 9 17) ∧
    decodeTableWord 32 0b001100_00110_01001_10001_0111_1001_000 = some (.fmax .bf16 6 9 17) := by
  decide +kernel

theorem test_decode_float2 :
    decodeTableWord 32 0b001100_00110_01001_10001_1000_1001_010 = some (.fcmp .le .bf16 6 9 17) ∧
    decodeTableWord 32 0b001100_00110_01001_01000_1001_0100_000 = some (.fcvt .i32 .f32 6 9) := by
  decide +kernel

theorem test_decode_loads :
    decodeTableWord 32 0b010000_00110_01001_10_000_10_1_11111110 = some (.ldI8 6 9 .cb .rel true 0xFE) ∧
    decodeTableWord 32 0b010000_00110_01001_11_001_01_1_11111110 = some (.ldI16 6 9 .ci .acq true 0xFE) ∧
    decodeTableWord 32 0b010000_00110_01001_01_010_10_1_11111110 = some (.ldI32 6 9 .lo .rel true 0xFE) ∧
    decodeTableWord 32 0b010000_00110_01001_10_011_11_1_11111110 = some (.ld64 6 9 .cb .ar true 0xFE) ∧
    decodeTableWord 32 0b010000_00110_01001_11_100_10_1_11111110 = some (.ldN8 6 9 .ci .rel true 0xFE) ∧
    decodeTableWord 32 0b010000_00110_01001_01_101_01_1_11111110 = some (.ldN16 6 9 .lo .acq true 0xFE) ∧
    decodeTableWord 32 0b010000_00110_01001_10_110_10_1_11111110 = some (.ldN32 6 9 .cb .rel true 0xFE) := by
  decide +kernel

theorem test_decode_stores :
    decodeTableWord 32 0b010001_00110_01001_11_000_11_1_11111110 = some (.st8 6 9 .ci .ar true 0xFE) ∧
    decodeTableWord 32 0b010001_00110_01001_01_001_10_1_11111110 = some (.st16 6 9 .lo .rel true 0xFE) ∧
    decodeTableWord 32 0b010001_00110_01001_10_010_01_1_11111110 = some (.st32 6 9 .cb .acq true 0xFE) ∧
    decodeTableWord 32 0b010001_00110_01001_11_011_10_1_11111110 = some (.st64 6 9 .ci .rel true 0xFE) := by
  decide +kernel

theorem test_decode_atomics1 :
    decodeTableWord 32 0b010010_00110_01001_10001_0_1_01101_0000 = some (.lbf true 6 9 17 13) ∧
    decodeTableWord 32 0b010010_00110_01001_10001_10_01101_0000 = some (.sbf 6 9 17 13) ∧
    decodeTableWord 32 0b010011_00110_01001_10001_000_1_11_01_011 = some (.atomAdd 6 9 17 true .ci .acq .sec) ∧
    decodeTableWord 32 0b010011_00110_01001_10001_001_1_01_10_100 = some (.atomAnd 6 9 17 true .lo .rel .pkg) ∧
    decodeTableWord 32 0b010011_00110_01001_10001_010_1_10_11_001 = some (.atomOr 6 9 17 true .cb .ar .clu) ∧
    decodeTableWord 32 0b010011_00110_01001_10001_011_1_11_10_101 = some (.atomXor 6 9 17 true .ci .rel .sys) ∧
    decodeTableWord 32 0b010011_00110_01001_10001_100_1_01_01_011 = some (.atomMin 6 9 17 true .lo .acq .sec) ∧
    decodeTableWord 32 0b010011_00110_01001_10001_101_1_10_10_100 = some (.atomMax 6 9 17 true .cb .rel .pkg) := by
  decide +kernel

theorem test_decode_atomics2 :
    decodeTableWord 32 0b010011_00110_01001_10001_110_1_11_11_001 = some (.atomSwp 6 9 17 true .ci .ar .clu) ∧
    decodeTableWord 32 0b010011_00110_01001_10001_111_1_01_10_101 = some (.atomCas 6 9 17 true .lo .rel .sys) := by
  decide +kernel

theorem test_decode_fences :
    decodeTableWord 32 0b01010000000000000000000_101_1_00000 = some (.fenceAcq .sys true) ∧
    decodeTableWord 32 0b01010000000000000000001_101_1_00000 = some (.fenceRel .sys true) ∧
    decodeTableWord 32 0b01010000000000000000010_101_1_00000 = some (.fenceSc .sys true) ∧
    decodeTableWord 32 0b010101_00110_01001_0000000000000000 = some (.tlook 6 9) ∧
    decodeTableWord 32 0b01010100000_01001_10001_01000000000 = some (.tset 9 17) ∧
    decodeTableWord 32 0b01010100000_01001_0000010000000000 = some (.tclr 9) := by
  decide +kernel

theorem test_decode_lane_loads1 :
    decodeTableWord 32 0b011000_00110_01001_10_100_11_1_11111110 = some (.vld128 6 9 .cb .ar true 0xFE) ∧
    decodeTableWord 32 0b011000_00110_01001_11_101_10_1_11111110 = some (.vld256 6 9 .ci .rel true 0xFE) ∧
    decodeTableWord 32 0b011000_00110_01001_01_110_01_1_11111110 = some (.vld512 6 9 .lo .acq true 0xFE) ∧
    decodeTableWord 32 0b011001_00110_01001_10_100_10_1_11111110 = some (.vst128 6 9 .cb .rel true 0xFE) ∧
    decodeTableWord 32 0b011001_00110_01001_11_101_11_1_11111110 = some (.vst256 6 9 .ci .ar true 0xFE) ∧
    decodeTableWord 32 0b011001_00110_01001_01_110_10_1_11111110 = some (.vst512 6 9 .lo .rel true 0xFE) ∧
    decodeTableWord 32 0b011010_00110_01001_10001_00011_01_1000 = some (.vlds 6 9 17 (.mu 3) .f32) ∧
    decodeTableWord 32 0b011011_00110_01001_10001_00011_10_1000 = some (.vsts 6 9 17 (.ma 3) .f32) := by
  decide +kernel

theorem test_decode_lane_loads2 :
    decodeTableWord 32 0b011100_00110_01001_10001_00011_01_1000 = some (.vldx 6 9 17 (.mu 3) .f32) ∧
    decodeTableWord 32 0b011101_00110_01001_10001_00011_10_1000 = some (.vstx 6 9 17 (.ma 3) .f32) := by
  decide +kernel

theorem test_decode_vector_atomics :
    decodeTableWord 32 0b011110_00110_01001_10_000_00011_01_0100 = some (.vatomAdd 6 9 .cb (.mu 3) .i32) ∧
    decodeTableWord 32 0b011110_00110_01001_10_001_00011_10_0100 = some (.vatomAnd 6 9 .cb (.ma 3) .i32) ∧
    decodeTableWord 32 0b011110_00110_01001_10_010_00011_01_0100 = some (.vatomOr 6 9 .cb (.mu 3) .i32) ∧
    decodeTableWord 32 0b011110_00110_01001_10_011_00011_10_0100 = some (.vatomXor 6 9 .cb (.ma 3) .i32) ∧
    decodeTableWord 32 0b011110_00110_01001_10_100_00011_01_0100 = some (.vatomMin 6 9 .cb (.mu 3) .i32) ∧
    decodeTableWord 32 0b011110_00110_01001_10_101_00011_10_0100 = some (.vatomMax 6 9 .cb (.ma 3) .i32) ∧
    decodeTableWord 32 0b011110_00110_01001_10_110_00011_01_0100 = some (.vatomSwp 6 9 .cb (.mu 3) .i32) := by
  decide +kernel

theorem test_decode_vector_arith :
    decodeTableWord 32 0b100000_00110_01001_10001_00011_10_1000 = some (.vadd 6 9 17 (.ma 3) .f32) ∧
    decodeTableWord 32 0b100001_00110_01001_10001_00011_01_1000 = some (.vsub 6 9 17 (.mu 3) .f32) ∧
    decodeTableWord 32 0b100010_00110_01001_10001_00011_10_1000 = some (.vmul 6 9 17 (.ma 3) .f32) ∧
    decodeTableWord 32 0b100011_00110_01001_10001_00011_01_1000 = some (.vfma 6 9 17 (.mu 3) .f32) ∧
    decodeTableWord 32 0b100100_00110_01001_10001_00011_10_1000 = some (.vmin 6 9 17 (.ma 3) .f32) ∧
    decodeTableWord 32 0b100101_00110_01001_10001_00011_01_1000 = some (.vmax 6 9 17 (.mu 3) .f32) := by
  decide +kernel

theorem test_decode_vector_logic :
    decodeTableWord 32 0b100110_00110_01001_10001_00011_10_10_00 = some (.vand 6 9 17 (.ma 3) .w32) ∧
    decodeTableWord 32 0b100110_00110_01001_10001_00011_01_10_01 = some (.vor 6 9 17 (.mu 3) .w32) ∧
    decodeTableWord 32 0b100110_00110_01001_10001_00011_10_10_10 = some (.vxor 6 9 17 (.ma 3) .w32) ∧
    decodeTableWord 32 0b100110_00110_01001_10001_00011_00_10_11 = some (.vsel 6 9 17 3 .w32) ∧
    decodeTableWord 32 0b100111_00110_01001_10001_00011_10_0_10_0 = some (.vshl 6 9 17 (.ma 3) .w32) ∧
    decodeTableWord 32 0b100111_00110_01001_10001_00011_01_0_10_1 = some (.vshr 6 9 17 (.mu 3) .w32) ∧
    decodeTableWord 32 0b100111_00110_01001_10001_00011_10_1_10_0 = some (.vsra 6 9 17 (.ma 3) .w32) ∧
    decodeTableWord 32 0b101000_00110_01001_10001_00011_00_1000 = some (.vcmp .le 6 9 17 .f32) := by
  decide +kernel

theorem test_decode_vector_other1 :
    decodeTableWord 32 0b101001_00110_01001_10001_00011_10_1000 = some (.vperm 6 9 17 (.ma 3) .f32) ∧
    decodeTableWord 32 0b101010_00110_01001_10001_00011_01_1101 = some (.vpack 6 9 17 (.mu 3) .e2m3) ∧
    decodeTableWord 32 0b101011_00110_01001_0_1001_00011_10_0001 = some (.vcvt .n8 .bf16 6 9 (.ma 3)) ∧
    decodeTableWord 32 0b101011_00110_01001_10000_00011_01_1000 = some (.vredAdd 6 9 (.mu 3) .f32) ∧
    decodeTableWord 32 0b101011_00110_01001_10001_00011_10_1000 = some (.vredMin 6 9 (.ma 3) .f32) ∧
    decodeTableWord 32 0b101011_00110_01001_10010_00011_01_1000 = some (.vredMax 6 9 (.mu 3) .f32) ∧
    decodeTableWord 32 0b101011_00110_01001_10011_00011_10_0011 = some (.vredOr 6 9 (.ma 3) .n16) ∧
    decodeTableWord 32 0b101011_00110_01001_10100_00011_01_1000 = some (.vscanAdd 6 9 (.mu 3) .f32) := by
  decide +kernel

theorem test_decode_vector_other2 :
    decodeTableWord 32 0b101011_00110_01001_10101_00011_10_1000 = some (.vscanMax 6 9 (.ma 3) .f32) ∧
    decodeTableWord 32 0b101011_00110_01001_10110_00011_01_1101 = some (.vunpk 6 9 (.mu 3) .e2m3) ∧
    decodeTableWord 32 0b101011_00110_01001_10111_00011_10_1000 = some (.vbcast 6 9 (.ma 3) .f32) ∧
    decodeTableWord 32 0b101011_00110_01001_11000_001011_0_1000 = some (.vmvg 6 9 11 .f32) ∧
    decodeTableWord 32 0b101011_00110_01001_11001_001011_0_1000 = some (.vmgv 6 9 11 .f32) ∧
    decodeTableWord 32 0b101011_00110_01001_11010_00011_01_1000 = some (.vexp2 6 9 (.mu 3) .f32) ∧
    decodeTableWord 32 0b101011_00110_01001_11011_00011_10_1000 = some (.vlog2 6 9 (.ma 3) .f32) ∧
    decodeTableWord 32 0b101011_00110_01001_11100_00011_01_1000 = some (.vrcp 6 9 (.mu 3) .f32) := by
  decide +kernel

theorem test_decode_vector_other3 :
    decodeTableWord 32 0b101011_00110_01001_11101_00011_10_1000 = some (.vrsq 6 9 (.ma 3) .f32) ∧
    decodeTableWord 32 0b101011_00110_01001_11110_00011_01_1000 = some (.vtanh 6 9 (.mu 3) .f32) ∧
    decodeTableWord 32 0b101011_00110_01001_11111_00011_10_10_00 = some (.vnot 6 9 (.ma 3) .w32) := by
  decide +kernel

theorem test_decode_streams :
    decodeTableWord 32 0b101100_11101_01001_10001_1_01_1_0000000 = some (.strcfg 5 9 17 true .lo true) ∧
    decodeTableWord 32 0b101101_11101_000000000000000000000 = some (.strend 5) ∧
    decodeTableWord 32 0b10111000000_01001_000000000000_1001 = some (.vloop 9 9) := by
  decide +kernel

theorem test_decode_leases1 :
    decodeTableWord 32 0b110000_1100_0000_1000_10_1_00000000000 = some (.fmt .e4m3 .i8 .f32 .aOnly true) ∧
    decodeTableWord 32 0b110001_00110_000000000000000000000 = some (.mlease 6) ∧
    decodeTableWord 32 0b11000100000000000000000010000000 = some .mrel ∧
    decodeTableWord 32 0b110001_00110_00000000000010_0101001 = some (.oclaim 6 41) ∧
    decodeTableWord 32 0b1100010000000000000000011_0101001 = some (.ofree 41) ∧
    decodeTableWord 32 0b1100010000000000000000100_0001011 = some (.mzero 11) ∧
    decodeTableWord 32 0b11000100000_01001_10001_01010000000 = some (.mvc 9 17) ∧
    decodeTableWord 32 0b11001000000_01001_10001_00_10_1_101010 = some (.mld 9 17 .cb true 42) := by
  decide +kernel

theorem test_decode_leases2 :
    decodeTableWord 32 0b11001000000_01001_10001_01_11_1_101010 = some (.mldt 9 17 .ci true 42) ∧
    decodeTableWord 32 0b11001000000_01001_10001_10_01_1_101010 = some (.mlds 9 17 .lo true 42) ∧
    decodeTableWord 32 0b1100100_1010_01001_10001_11_10_1_00_1011 = some (.mst .f16 9 17 .cb true 11) ∧
    decodeTableWord 32 0b1100110000000000_1011_101010_010011 = some (.mma 11 42 19) := by
  decide +kernel

theorem test_decode_counters :
    decodeTableWord 32 0b110110_01001_10001_00000_000_0000_1_000 = some (.cadd 9 17 none) ∧
    decodeTableWord 32 0b110110_01001_10001_10100_011_0001_0_000 = some (.caddv 9 17 20 (some .sec)) ∧
    decodeTableWord 32 0b110110_01001_10001_10100_000_0010_1_000 = some (.cread 9 17 20 none) ∧
    decodeTableWord 32 0b110110_01001_10001_10100_011_0011_0_000 = some (.cwait 9 17 20 (some .sec)) ∧
    decodeTableWord 32 0b110110_01001_10001_10100_000_0100_1_000 = some (.cwaitt 9 17 20 none) ∧
    decodeTableWord 32 0b110110_01001_10001_10100_011_0101_0_000 = some (.caw 9 17 20 (some .sec)) ∧
    decodeTableWord 32 0b110110_01001_10001_10100_000_0110_1_000 = some (.cinit 9 17 20 none) ∧
    decodeTableWord 32 0b110110_01001_0000000000_011_0111_0_000 = some (.cpoison 9 (some .sec)) := by
  decide +kernel

theorem test_decode_tags :
    decodeTableWord 32 0b110111_00110_01001_0000000000000000 = some (.twany 6 9) ∧
    decodeTableWord 32 0b110111_00110_01001_0000000100000000 = some (.twall 6 9) ∧
    decodeTableWord 32 0b110111_00110_000000000001000000000 = some (.tfirst 6) ∧
    decodeTableWord 32 0b1101110000000000000000110000000_1 = some (.fork true) ∧
    decodeTableWord 32 0b110111_00110_01001_0000010000000000 = some (.join 6 9) ∧
    decodeTableWord 32 0b1110000000000000_0011_0101_1001_1100 = some (.waitn 3 5 9 12) := by
  decide +kernel

theorem test_decode_copies1 :
    decodeTableWord 32 0b111001_01001_10001_10100_100_0000_1_0_00 = some (.xcopy 9 17 20 .pkg true false) ∧
    decodeTableWord 32 0b111001_01001_10001_10100_001_0001_1_0_00 = some (.xgath 9 17 20 .clu true false) ∧
    decodeTableWord 32 0b111001_01001_10001_10100_101_0010_1_0_1_0 = some (.xscat 9 17 20 .sys true false true) ∧
    decodeTableWord 32 0b111001_01001_10001_10100_011_0011_1_0_00 = some (.xfill 9 17 20 .sec true false) ∧
    decodeTableWord 32 0b111001_01001_10001_10100_100_0100_1_0_00 = some (.xput 9 17 20 .pkg true false) ∧
    decodeTableWord 32 0b111001_01001_10001_10100_001_0101_1_0_00 = some (.xget 9 17 20 .clu true false) ∧
    decodeTableWord 32 0b111010_01001_10001_10100_101_00000000 = some (.xsub 9 17 20 .sys) ∧
    decodeTableWord 32 0b111010_01001_10001_10100_011_00010000 = some (.xpub 9 17 20 .sec) := by
  decide +kernel

theorem test_decode_copies2 :
    decodeTableWord 32 0b111010_01001_10001_10100_00000100000 = some (.xquery 9 17 20) := by
  decide +kernel

theorem test_decode_graphs :
    decodeTableWord 32 0b111011_01001_10001_10100_001_00000000 = some (.glmap 9 17 20 .clu) ∧
    decodeTableWord 32 0b111011_01001_10001_10100_101_00010000 = some (.gcopy 9 17 20 .sys) ∧
    decodeTableWord 32 0b111011_01001_10001_10100_011_00100000 = some (.gsend 9 17 20 .sec) ∧
    decodeTableWord 32 0b111011_01001_10001_10100_100_00110000 = some (.grecv 9 17 20 .pkg) ∧
    decodeTableWord 32 0b111011_01001_10001_10100_001_01000000 = some (.gcmp 9 17 20 .clu) ∧
    decodeTableWord 32 0b111011_01001_10001_10100_101_01010000 = some (.ghash 9 17 20 .sys) ∧
    decodeTableWord 32 0b111011_01001_10001_10100_011_01100000 = some (.grel 9 17 20 .sec) := by
  decide +kernel

theorem test_decode_ephemeris :
    decodeTableWord 32 0b111100_01001_10001_10100_0000000_1011 = some (.ebind 11 9 17 20) ∧
    decodeTableWord 32 0b1111000000000000_10100_0000001_1011 = some (.estep 11 20) ∧
    decodeTableWord 32 0b111100_01001_10001_000000000010_1011 = some (.eld 11 9 17) ∧
    decodeTableWord 32 0b111100_01001_10001_000000000011_1011 = some (.emma 11 9 17) ∧
    decodeTableWord 32 0b111100_01001_10001_10100_0000100_1011 = some (.emap 11 9 17 20) ∧
    decodeTableWord 32 0b111100_01001_10001_10100_0000101_1011 = some (.esig 11 9 17 20) ∧
    decodeTableWord 32 0b1111000000000000000000000110_1011 = some (.eforce 11) := by
  decide +kernel

theorem test_decode_control :
    decodeTableWord 32 0b11110100000000000000_100110100101 = some (.trap 0x9A5) ∧
    decodeTableWord 32 0b11110100000000000001000000000000 = some .tret ∧
    decodeTableWord 32 0b111101_00110_000000010_000000000101 = some (.mfk 6 .tepc) ∧
    decodeTableWord 32 0b11110100000_01001_0011_000000000101 = some (.mtk .tepc 9) ∧
    decodeTableWord 32 0b11110100000000000100_100110100101 = some (.brk 0x9A5) ∧
    decodeTableWord 32 0b11110100000_01001_0101000000000000 = some (.genpub 9) ∧
    decodeTableWord 32 0b11110100000000000110000000000000 = some .yield := by
  decide +kernel
/-! ## Integer instructions (R100–R105) -/

theorem test_add_wraps : gAfter (.add 3 1 2) [(1, 0xFFFFFFFFFFFFFFFF), (2, 2)] 3 = 1 := by decide +kernel
theorem test_sub_borrows : gAfter (.sub 3 1 2) [(1, 1), (2, 2)] 3 = 0xFFFFFFFFFFFFFFFF := by decide +kernel
theorem test_mulh_signs : gAfter (.mulh 3 1 2) [(1, 0xFFFFFFFFFFFFFFFF), (2, 2)] 3 = 0xFFFFFFFFFFFFFFFF ∧
    gAfter (.mulhn 3 1 2) [(1, 0xFFFFFFFFFFFFFFFF), (2, 2)] 3 = 1 ∧ gAfter (.mul 3 1 2) [(1, 0xFFFFFFFFFFFFFFFF), (2, 2)] 3 = 0xFFFFFFFFFFFFFFFE := by
  decide +kernel
/-- −7 ÷ 2 is −3 with remainder −1 (R101). -/
theorem test_div_truncates : gAfter (.div 3 1 2) [(1, 0xFFFFFFFFFFFFFFF9), (2, 2)] 3 = 0xFFFFFFFFFFFFFFFD ∧
    gAfter (.rem 3 1 2) [(1, 0xFFFFFFFFFFFFFFF9), (2, 2)] 3 = 0xFFFFFFFFFFFFFFFF := by decide +kernel
theorem test_div_by_zero : gAfter (.divn 3 1 2) [(1, 9)] 3 = 0xFFFFFFFFFFFFFFFF ∧ gAfter (.remn 3 1 2) [(1, 9)] 3 = 9 := by decide +kernel
theorem test_logic : gAfter (.and 3 1 2) [(1, 0xC), (2, 0xA)] 3 = 8 ∧ gAfter (.or 3 1 2) [(1, 0xC), (2, 0xA)] 3 = 0xE ∧
    gAfter (.xor 3 1 2) [(1, 0xC), (2, 0xA)] 3 = 6 := by decide +kernel
/-- Only bits [5:0] of the count matter. -/
theorem test_shift_count : gAfter (.sll 3 1 2) [(1, 1), (2, 65)] 3 = 2 ∧ gAfter (.sra 3 1 2) [(1, 0x8000000000000000), (2, 63)] 3 = 0xFFFFFFFFFFFFFFFF ∧
    gAfter (.srl 3 1 2) [(1, 0x8000000000000000), (2, 63)] 3 = 1 := by decide +kernel
theorem test_shift_immediate : gAfter (.slli 3 1 63) [(1, 1)] 3 = 0x8000000000000000 ∧
    gAfter (.srai 3 1 63) [(1, 0x8000000000000000)] 3 = 0xFFFFFFFFFFFFFFFF ∧
    gAfter (.srli 3 1 4) [(1, 0xF0)] 3 = 0xF := by decide +kernel
theorem test_compare : gAfter (.slt 3 1 2) [(1, 0xFFFFFFFFFFFFFFFF), (2, 1)] 3 = 1 ∧
    gAfter (.sltn 3 1 2) [(1, 0xFFFFFFFFFFFFFFFF), (2, 1)] 3 = 0 := by decide +kernel
theorem test_min_max : gAfter (.min 3 1 2) [(1, 0xFFFFFFFFFFFFFFFF), (2, 1)] 3 = 0xFFFFFFFFFFFFFFFF ∧
    gAfter (.max 3 1 2) [(1, 0xFFFFFFFFFFFFFFFF), (2, 1)] 3 = 1 ∧
    gAfter (.minn 3 1 2) [(1, 0xFFFFFFFFFFFFFFFF), (2, 1)] 3 = 1 ∧
        gAfter (.maxn 3 1 2) [(1, 0xFFFFFFFFFFFFFFFF), (2, 1)] 3 = 0xFFFFFFFFFFFFFFFF := by decide +kernel
theorem test_bit_counts : gAfter (.clz 3 1) [(1, 0)] 3 = 64 ∧ gAfter (.clz 3 1) [(1, 1)] 3 = 63 ∧ gAfter (.ctz 3 1) [(1, 0)] 3 = 64 ∧
    gAfter (.ctz 3 1) [(1, 8)] 3 = 3 ∧ gAfter (.popc 3 1) [(1, 0xF0F)] 3 = 8 := by decide +kernel
theorem test_bit_fields : gAfter (.exts 3 1 4 3) [(1, 0xF0)] 3 = 0xFFFFFFFFFFFFFFFF ∧ gAfter (.extn 3 1 4 3) [(1, 0xF0)] 3 = 0xF ∧
    gAfter (.bins 3 1 8 7) [(1, 0x1AB), (3, 0x123456)] 3 = 0x12AB56 := by decide +kernel
theorem test_immediates : gAfter (.addi 3 1 0xFFFD) [(1, 1)] 3 = 0xFFFFFFFFFFFFFFFE ∧ gAfter (.andi 3 1 0xF0F0) [(1, 0xFFFFFFFFFFFFFFFF)] 3 = 0xF0F0 ∧
    gAfter (.slti 3 1 0xFFFF) [(1, 0xFFFFFFFFFFFFFFFE)] 3 = 1 ∧ gAfter (.xori 3 1 0xFFFF) [(1, 1)] 3 = 0xFFFE := by decide +kernel
/-- The LIH and ORI pair of the worked encodings. -/
theorem test_lih_ori : (run (.ori 2 2 0x6789) (run (.lih 2 0x12345) (st []))).g 2 = 0x0000000123456789 := by decide +kernel
theorem test_li48_extends : gAfter (.li48 7 0x823456789ABC) [] 7 = 0xFFFF823456789ABC ∧ (run (.li48 7 1) (st [])).hart.pc = resetPc + 8 := by decide +kernel
theorem test_addpc : gAfter (.addpc 3 0xFFFFF) [] 3 = resetPc - 4 := by decide +kernel
theorem test_g0_stays_zero : gAfter (.addi 0 1 5) [(1, 1)] 0 = 0 := by decide +kernel

/-! ## Branches, jumps, traps (R112–R129) -/

theorem test_branch_back : (run (.bne 4 9 0x3FFE) (st [(4, 1)])).hart.pc = resetPc - 8 ∧
    (run (.beq 4 9 0x3FFE) (st [(4, 1)])).hart.pc = resetPc + 4 := by decide +kernel
theorem test_branch_signs : (run (.blt 1 2 4) (st [(1, 0xFFFFFFFFFFFFFFFF)])).hart.pc = resetPc + 16 ∧
    (run (.bltn 1 2 4) (st [(1, 0xFFFFFFFFFFFFFFFF)])).hart.pc = resetPc + 4 ∧ (run (.bge 1 2 4) (st [(1, 0xFFFFFFFFFFFFFFFF)])).hart.pc = resetPc + 4 ∧
    (run (.bgen 1 2 4) (st [(1, 0xFFFFFFFFFFFFFFFF)])).hart.pc = resetPc + 16 := by decide +kernel
theorem test_jal : (run (.jal 31 0x1FFFFF) (st [])).hart.pc = resetPc - 4 ∧ gAfter (.jal 31 0x40) [] 31 = resetPc + 4 := by decide +kernel
/-- The base is read before the link is written. -/
theorem test_jalr_same_register : (run (.jalr 5 5 2) (st [(5, 0x1000)])).hart.pc = 0x1008 ∧
    gAfter (.jalr 5 5 2) [(5, 0x1000)] 5 = resetPc + 4 := by decide +kernel
theorem test_jalr_misaligned : (run (.jalr 5 1 0) (st [(1, 0x1002)])).hart.trap.code = 2 ∧ (run (.jalr 5 1 0) (st [(1, 0x1002)])).hart.trap.tval = 0x1002 ∧
    (run (.jalr 5 1 0) (st [(1, 0x1002)])).g 5 = 0 := by decide +kernel

/-- The state of the worked trap: supervisor mode, IE 1, TVEC 0x0000_0001_0000_8000, at 0x0000_0001_0000_0200. -/
def trapCase : State := (st []).onHart fun h => { h with
  pc := 0x0000000100000200
  tsw := { h.tsw with mode := .supervisor, ie := true }
  trap := { h.trap with tvec := 0x0000000100008000 } }

theorem test_brk_worked : (run (.brk 7) trapCase).hart.pc = 0x0000000100008000 ∧ (run (.brk 7) trapCase).hart.tsw.word = 1 ∧
    (run (.brk 7) trapCase).hart.tsws.word = 5 ∧ (run (.brk 7) trapCase).hart.trap.code = 8 ∧ (run (.brk 7) trapCase).hart.trap.tval = 7 ∧
    (run (.brk 7) trapCase).hart.trap.tepc = 0x0000000100000200 := by decide +kernel
theorem test_trap_returns_after_itself : (run (.trap 5) trapCase).hart.trap.tepc = 0x0000000100000204 ∧
    (run (.trap 5) trapCase).hart.trap.code = 9 := by decide +kernel
theorem test_tret_worked : (run .tret (run (.mtk .tepc 5) ((run (.brk 7) trapCase).setG 5 0x0000000100000204))).hart.pc = 0x0000000100000204 ∧
    (run .tret (run (.mtk .tepc 5) ((run (.brk 7) trapCase).setG 5 0x0000000100000204))).hart.tsw.word = 5 := by decide +kernel
theorem test_tret_user_privilege : (run .tret (userSt [])).hart.trap.code = 1 ∧ (run .tret (userSt [])).hart.trap.tval = 0xF4001000 ∧
    (run .tret (userSt [])).hart.tsw.mode = .supervisor := by decide +kernel
theorem test_mfk_tcause : (run (.mfk 5 .tcause) (run (.brk 7) trapCase)).g 5 = 8 := by decide +kernel
/-- In user mode MTK of TSW writes the rounding mode and the flags only. -/
theorem test_mtk_tsw_user : (run (.mtk .tsw 1) (userSt [(1, 0xFFFFFFFFFFFFFFFF)])).hart.tsw.word = 0x3F80 := by decide +kernel
/-- The privilege of MTK comes before what its register waits for and before the data (R120). -/
theorem test_mtk_privilege_first : (run (.mtk .seq 1) ((userSt []).onHart fun h =>
    { h with poison := [(.g 1, 0x100)], seq := { h.seq with run := true } })).hart.trap.code = 1 := by decide +kernel
theorem test_mtk_timecmp : (run (.mtk .timecmp 1) (st [(1, 99)])).hart.irq.timecmp = 99 := by decide +kernel
theorem test_genpub_forward_only : (run (.genpub 1) (st [(1, 5)])).hart.tsw.gen = 5 ∧
    (run (.genpub 1) (st [(1, 0x800000)])).hart.tsw.gen = 0 := by decide +kernel
theorem test_yield_applies_dmem : (run .yield ((st []).onHart fun h => { h with dmemNext := 7 })).hart.dmem = 7 := by decide +kernel
theorem test_coreid : controlRead ((st []).switch 1753) .coreid = 0x00000006D96D16D9 := by decide +kernel
theorem test_interrupt_order : takeable { Hart.reset with
    irq := { Hart.reset.irq with pend := 0x3C, mask := 0x3C }, tsw := { Tsw.reset with ie := true } } = some 5 := by decide +kernel
theorem test_timer : ((st []).hart.tick 3).irq.cycle = 3 ∧
    (({ Hart.reset with irq := { Hart.reset.irq with timecmp := 2 } }).tick 3).irq.pend = 4 := by decide +kernel

/-! ## Scalar floating point (R78–R83, R107–R111) -/

/-- 1 + 2 = 3, 1.5 · 2 = 3, 1 ÷ 0 = ∞ with DZ, √4 = 2. -/
theorem test_float_f32 : gAfter (.fadd .f32 3 1 2) [(1, 0x3F800000), (2, 0x40000000)] 3 = 0x40400000 ∧
    gAfter (.fmul .f32 3 1 2) [(1, 0x3FC00000), (2, 0x40000000)] 3 = 0x40400000 ∧ gAfter (.fdiv .f32 3 1 2) [(1, 0x3F800000)] 3 = 0x7F800000 ∧
    (run (.fdiv .f32 3 1 2) (st [(1, 0x3F800000)])).hart.tsw.dz = true ∧ gAfter (.fsqrt .f32 3 1) [(1, 0x40800000)] 3 = 0x40000000 := by decide +kernel
theorem test_float_bf16 : gAfter (.fsub .bf16 3 1 2) [(1, 0x4040), (2, 0x3F80)] 3 = 0x4000 ∧
    gAfter (.ffma .f32 3 1 2) [(1, 0x40000000), (2, 0x40400000), (3, 0x3F800000)] 3 = 0x40E00000 := by
  decide +kernel
/-- Signalling NaN: the canonical NaN and NV; a quiet one sets no flag in FMIN, which gives the number. -/
theorem test_float_nan : gAfter (.fadd .f32 3 1 2) [(1, 0x7F800001)] 3 = 0x7FC00000 ∧ (run (.fadd .f32 3 1 2) (st [(1, 0x7F800001)])).hart.tsw.nv = true ∧
    gAfter (.fmin .f32 3 1 2) [(1, 0x7FC00000), (2, 0x3F800000)] 3 = 0x3F800000 := by decide +kernel
theorem test_fmax_zeros : gAfter (.fmax .f32 3 1 2) [(1, 0x80000000), (2, 0)] 3 = 0 := by decide +kernel
theorem test_fcmp : gAfter (.fcmp .lt .f32 3 1 2) [(1, 0xBF800000), (2, 0)] 3 = 1 ∧ gAfter (.fcmp .un .f32 3 1 2) [(1, 0x7FC00000)] 3 = 1 := by decide +kernel
theorem test_fcvt : gAfter (.fcvt .i32 .f32 3 1) [(1, 0xC0200000)] 3 = 0xFFFFFFFFFFFFFFFE ∧
    gAfter (.fcvt .f32 .n32 3 1) [(1, 3)] 3 = 0x40400000 := by decide +kernel

/-! ## Memory (R139–R152) -/

theorem test_store_load_local : (run (.ldI8 4 3 .lo .plain false 0xFE) (run (.st32 7 3 .lo .plain false 0xFF) (st [(3, 0x104), (7, 0x118055AA)]))).g 4 =
    0xFFFFFFFFFFFFFF80 := by decide +kernel
theorem test_store_bytes : (run (.st32 7 3 .lo .plain false 0xFF) (st [(3, 0x104), (7, 0x11223344)])).mem.readN (localPlace 0 0x100) 4 = [0x44, 0x33,
    0x22, 0x11] := by decide +kernel
theorem test_load_zero_extends : (run (.ldN16 4 3 .lo .plain false 0) (run (.st64 7 3 .lo .plain false 0) (st [(3, 8), (7,
    0xFFFFFFFFFFFFFFFF)]))).g 4 = 0xFFFF := by decide +kernel
/-- The last byte of local memory; one more is out of the address form. -/
theorem test_local_top : (run (.ldN8 4 3 .lo .plain false 0) (st [(3, 0x7FFFF)])).hart.pc = resetPc + 4 ∧
    (run (.ldN16 4 3 .lo .plain false 0) (st [(3, 0x7FFFF)])).hart.trap.code = 4 := by decide +kernel
theorem test_unmapped_page : (run (.ld64 4 3 .gl .plain false 0) (st [(3, 0x10000)])).hart.trap.code = 5 ∧
    (run (.st64 4 3 .gl .plain false 0) (st [(3, 0x80000000000000)])).hart.trap.code = 4 := by decide +kernel
theorem test_vector_store_load : (run (.vld128 2 3 .lo .plain false 0) (run (.vst512 1 3 .lo .plain false 0) ((st [(3,
    64)]).setV 1 (BitVec.allOnes 512)))).v 2 =
    BitVec.ofNat 512 (2 ^ 128 - 1) := by decide +kernel
theorem test_lbf : (run (.lbf true 4 1 2 3) (run (.st8 7 0 .lo .plain false 1) (st [(1, 8), (2, 2), (7, 0x20)]))).g 4 = 0xFFFFFFFFFFFFFFF8 ∧
    (run (.lbf false 4 1 2 3) (run (.st8 7 0 .lo .plain false 1) (st [(1, 8), (2, 2), (7, 0x20)]))).g 4 = 8 := by decide +kernel
theorem test_sbf : (run (.sbf 7 1 2 3) (st [(1, 8), (2, 6), (7, 0xF5)])).mem.readN (localPlace 0 1) 2 = [0x40, 0x01] := by decide +kernel
theorem test_atomic_add : (run (.atomAdd 5 6 7 true .lo .plain .core) (run (.st64 4 6 .lo .plain false 0) (st [(4, 10), (6, 16), (7, 3)]))).g 5 = 10 ∧
    (run (.atomAdd 5 6 7 true .lo .plain .core) (run (.st64 4 6 .lo .plain false 0) (st [(4, 10), (6, 16), (7,
        3)]))).mem.readWord (localPlace 0 16) = 13 := by decide +kernel
theorem test_atomic_cas_fails : (run (.atomCas 5 6 7 true .lo .plain .core) (st [(5, 1), (6, 16), (7, 3)])).mem = [] ∧
    (run (.atomCas 5 6 7 true .lo .plain .core) (st [(5, 0), (6, 16), (7, 3)])).mem.readWord (localPlace 0 16) = 3 := by decide +kernel
theorem test_atomic_misaligned : (run (.atomSwp 5 6 7 true .lo .plain .core) (st [(6, 20)])).hart.trap.code = 2 := by decide +kernel
theorem test_strided_store : (run (.vsts 1 2 3 .none .i64) ((st [(2, 0x100), (3, 16)]).setV 1 (ofLanes 64 [1, 2, 3, 4, 5, 6, 7,
    8]))).mem.readWord (localPlace 0 0x170) = 8 := by
  decide +kernel
theorem test_tag_table : (run (.tlook 9 10) (run (.tset 1 10) ((st [(1, 3), (10, 0x1234C00)]).onHart fun h => { h with tregEn := true }))).g 9 = 3 ∧
    (run (.tset 1 10) (st [(1, 3)])).hart.trap.code = 7 := by decide +kernel

/-! ## Vectors (R154–R175) -/

/-- v1 = 1, 2, 3, 4 and v2 = 10, 20, 30, 40 in the first lanes, v3 = 0b0101. -/
def vecSt (w : Nat) : State := ((((st []).setV 1 (ofLanes w [1, 2, 3, 4])).setV 2 (ofLanes w [10, 20, 30, 40])).setV 3 5).setV 4 (ofLanes w [7, 7, 7, 7])

/-- Lane `k` of v[r] after an instruction. -/
def vAfter (w : Nat) (i : Instr) (r : Reg) (k : Nat) : Nat := lane w ((run i (vecSt w)).v r) k

theorem test_vadd_masks : (List.range 3).map (vAfter 32 (.vadd 4 1 2 (.mu 3) .i32) 4) = [11, 7, 33] ∧
    (List.range 3).map (vAfter 32 (.vadd 4 1 2 (.ma 3) .i32) 4) = [11, 0, 33] := by decide +kernel
theorem test_vsub_wraps : vAfter 8 (.vsub 4 1 2 .none .n8) 4 0 = 247 ∧ vAfter 16 (.vmul 4 1 2 .none .i16) 4 3 = 160 := by decide +kernel
theorem test_vfma : vAfter 64 (.vfma 4 1 2 .none .i64) 4 1 = 47 := by decide +kernel
theorem test_vmin_signed : vAfter 8 (.vmin 4 1 2 .none .i8) 4 2 = 3 ∧ vAfter 8 (.vmax 4 1 2 .none .n8) 4 2 = 30 := by decide +kernel
theorem test_vlogic : vAfter 32 (.vxor 4 1 2 .none .w32) 4 0 = 11 ∧ vAfter 32 (.vand 4 1 2 .none .w32) 4 1 = 0 ∧ vAfter 32 (.vor 4 1 2 .none .w32) 4 1 = 22 ∧
    vAfter 8 (.vnot 4 1 .none .w8) 4 0 = 254 := by decide +kernel
/-- A count of the lane width or more gives 0, or the sign. -/
theorem test_vshift_full : vAfter 8 (.vshl 4 2 2 .none .w8) 4 0 = 0 ∧ vAfter 16 (.vshr 4 2 1 .none .w16) 4 1 = 5 ∧
    vAfter 8 (.vsra 4 2 1 .none .w8) 4 0 = 5 := by decide +kernel
theorem test_vcmp_vsel : (run (.vcmp .lt 5 1 2 .n32) (vecSt 32)).v 5 = 15 ∧ vAfter 32 (.vsel 4 1 2 3 .w32) 4 1 = 20 ∧
    vAfter 32 (.vsel 4 1 2 3 .w32) 4 2 = 3 := by decide +kernel
theorem test_vperm : vAfter 32 (.vperm 4 2 1 .none .i32) 4 0 = 20 ∧ vAfter 32 (.vperm 4 1 2 .none .i32) 4 1 = 0 := by decide +kernel
theorem test_vred_vscan : (run (.vredAdd 4 1 .none .i32) (vecSt 32)).v 4 = 10 ∧ vAfter 32 (.vscanAdd 4 1 .none .n32) 4 3 = 10 ∧
    (run (.vredMax 4 2 .none .i16) (vecSt 16)).v 4 = 40 ∧
    (run (.vredMin 4 1 (.mu 3) .n32) ((vecSt 32).setV 1 (ofLanes 32 [9, 1, 8]))).v 4 = 8 ∧
        (run (.vredOr 4 2 .none .n8) (vecSt 8)).v 4 = 62 := by decide +kernel
theorem test_vscan_max : vAfter 32 (.vscanMax 4 1 .none .i32) 4 15 = 4 := by decide +kernel
/-- Lane 0 of a scan is canonical like every other result, and a signalling NaN in it sets NV (R79, R97). -/
theorem test_vscan_nan : lane 32 ((run (.vscanAdd 4 1 .none .f32) ((st []).setV 1 0x7F800001)).v 4) 0 = 0x7FC00000 ∧
    (run (.vscanAdd 4 1 .none .f32) ((st []).setV 1 0x7F800001)).hart.tsw.nv = true := by decide +kernel
theorem test_lane_moves : (run (.vmvg 4 1 0 .i8) ((st []).setV 1 0x80)).g 4 = 0xFFFFFFFFFFFFFF80 ∧
    (run (.vmgv 1 4 1 .i32) ((st [(4, 9)]).setV 1 5)).v 1 = 5 + 9 * 2 ^ 32 := by decide +kernel
theorem test_vbcast : lane 16 ((run (.vbcast 1 4 .none .f16) (st [(4, 0x13C00)])).v 1) 31 = 0x3C00 := by decide +kernel
/-- 2^0.5 and 2^−1.5 of R171's worked values. -/
theorem test_vexp2_worked : (sfLane .f32 sfExp2 0x3F000000).1 = 0x3FB504F3 ∧ (sfLane .f32 sfExp2 0xBFC00000).1 = 0x3EB504F3 := by decide +kernel
theorem test_vlog2_zero : lane 32 ((run (.vlog2 1 1 .none .f32) (st [])).v 1) 0 = 0xFF800000 ∧
    (run (.vlog2 1 1 .none .f32) (st [])).hart.tsw.dz = true := by decide +kernel
theorem test_vrcp_vrsq : lane 32 ((run (.vrcp 1 1 .none .f32) ((st []).setV 1 0x40000000)).v 1) 0 = 0x3F000000 ∧
    lane 32 ((run (.vrsq 1 1 .none .f32) ((st []).setV 1 0xBF800000)).v 1) 0 = 0x7FC00000 := by decide +kernel
theorem test_vtanh_large : lane 32 ((run (.vtanh 1 1 .none .f32) ((st []).setV 1 0xC1200000)).v 1) 0 = 0xBF800000 := by decide +kernel
theorem test_vcvt : lane 16 ((run (.vcvt .bf16 .f32 4 1 .none) ((st []).setV 1 0x3F808001)).v 4) 0 = 0x3F81 := by decide +kernel
/-- 1.0 and 448·2 with one scale: the smallest code that holds 896 in dm8 or e4m3, then back. -/
theorem test_vpack_vunpk : lane 32 ((run (.vunpk 4 6 .none .e4m3) (run (.vpack 6 1 2 .none .e4m3) ((st []).setV 1 (ofLanes 32 [0x3F800000,
    0x44600000])))).v 4) 1 =
    0x44600000 := by decide +kernel
/-- Two active f32 elements pushed by a stream: the piece is popped and SA moves on. -/
theorem test_stream_pop : (run (.vnot 2 24 .none .w64) ((st []).onHart fun h =>
    h.onStream 0 fun x => { x with en := true, am := .lo, sn := 3, stride := 64 })).hart.streams[0].sa = 64 ∧
    (run (.vnot 2 24 .none .w64) ((st []).onHart fun h =>
      h.onStream 0 fun x => { x with en := true, am := .lo, sn := 0, stride := 64 })).hart.trap.code = 10 := by decide +kernel

/-! ## The array (R187–R206) -/

theorem test_oclaim_answers : (run (.oclaim 6 0) (st [])).g 6 = 0 ∧ (run (.oclaim 6 0) (run (.oclaim 7 0) (st []))).g 6 = 1 ∧
    ((run (.oclaim 6 0) (st [])).array 0).tiles[0] = some ⟨0, 0xFF⟩ := by decide +kernel
/-- A core that holds a lease with all its commands. -/
def leased (l : List (Reg × Word)) : State := (run (.oclaim 31 1) (run (.oclaim 31 0) (st l))).onHart fun h =>
  { h with lease := { h.lease with held := true, left := 16 } }
theorem test_mzero_accepted : ((run (.mzero 0) (leased [])).array 0).queue.length = 1 ∧ (run (.mzero 0) (leased [])).hart.lease.left = 15 ∧
    (run (.mzero 0) (leased [])).hart.otl.iss = 1 := by decide +kernel
theorem test_mvc_limits : (run (.mvc 1 2) (leased [(1, 0), (2, 999)])).hart.lease.rows = 1 ∧
    (run (.mvc 1 2) (leased [(1, 0), (2, 999)])).hart.lease.cols = 256 := by decide +kernel
theorem test_lease_trap : (run (.mzero 0) (st [])).hart.trap.code = 11 := by decide +kernel
theorem test_fmt_prefix : (run (.fmt .dm8 .dm8 .f32 .both false) (st [])).hart.tsw.pp = true ∧
    (run (.fmt .dm8 .dm8 .f32 .both false) (st [])).hart.tsw.pfmt = BitVec.ofNat 16 (0xC2EE1000 / 1024) := by decide +kernel
theorem test_prefix_illegal : (run (.add 1 2 3) (run (.fmt .dm8 .dm8 .f32 .both false) (st []))).hart.trap.code = 0 ∧
    (run (.add 1 2 3) (run (.fmt .dm8 .dm8 .f32 .both false) (st []))).hart.tsws.pp = true := by decide +kernel

/-! ## Counters, tags, engines -/

theorem test_cadd_then_homeroom : (run (.homeroomAdd 0) (run (.cadd 4 5 none) (st [(4, 0x4000000000000003), (5, 7)]))).counter (eventPlace 0 3) = 7 ∧
    (run (.homeroomAdd 0) (run (.cadd 4 5 none) (st [(4, 0x4000000000000003), (5, 7)]))).hart.ost.ret = 1 := by decide +kernel
theorem test_cwait_wraps : (run (.cwait 4 5 6 none) (st [(4, 0x4000000000000003), (5, 0xFFFFFFFFFFFFFFFF), (6, 9)])).g 6 = 0 ∧
    (run (.cwait 4 5 6 none) (st [(4, 0x4000000000000003), (5, 1), (6, 9)])).hart.wait.isSome = true := by decide +kernel
/-- The entry of a wait holds its effective scope: the smallest that holds the core and the homeroom, or SC where that is larger (R210, R216). -/
theorem test_wait_scope : (run (.cwait 4 5 6 none) (st [(4, 0x4000000000000003), (5, 1)])).roll.map RollEntry.scope = [.clu] ∧
    (run (.cwait 4 5 6 (some .sec)) (st [(4, 0x4000000000000003), (5, 1)])).roll.map RollEntry.scope = [.sec] := by decide +kernel
theorem test_cwaitt_zero : (run (.cwaitt 4 5 6 none) (st [(4, 0x4000000000000003), (5, 1), (6, 0)])).g 6 = 2 := by decide +kernel
theorem test_cinit_cread : (run (.cread 4 7 8 none) (run (.cinit 4 5 6 none) (st [(4, 0x4000000000000003), (5, 42), (6, 9)]))).g 8 = 42 ∧
    (run (.cinit 4 5 6 none) (st [(4, 0x4000000000000003), (5, 42), (6, 9)])).g 6 = 0 := by decide +kernel
theorem test_cpoison : (run (.cread 4 7 8 none) (run (.cpoison 4 none) (st [(4, 0x4000000000000003)]))).g 7 = 1 := by decide +kernel
theorem test_counter_misaligned : (run (.cadd 4 5 none) (st [(4, 0x10004)])).hart.trap.code = 2 := by decide +kernel
theorem test_tags : (run (.twany 1 2) (st [(2, 4)])).g 1 = 4 ∧
    (run (.tfirst 1) ((st []).onHart fun h => { h with tagt := h.tagt.set 0 1 })).g 1 = 1 := by decide +kernel
theorem test_fork_empty : (run (.fork false) (st [])).hart.rdv = 1 ∧ (run (.join 1 2) (st [(1, 5), (2, 1)])).g 1 = 5 ∧
    (run (.join 1 0) (st [(1, 5)])).g 1 = 0 := by decide +kernel
theorem test_waitn_waits : (run (.waitn 0 0 0 0) ((st []).onHart fun h => { h with ost := ⟨1, 0⟩ })).hart.pc = resetPc ∧
    (run (.waitn 0 1 0 0) ((st []).onHart fun h => { h with ost := ⟨1, 0⟩ })).hart.pc = resetPc + 4 := by decide +kernel
theorem test_copy_issue : (run (.xfill 4 0 0 .core false false) (st [(4, 0x1010)])).hart.trap.code = 2 ∧
    (run (.xfill 4 0 0 .core false false) (st [(4, 0x1000)])).hart.ocp.iss = 1 := by decide +kernel

/-! ## The engine, hosts, links, management -/

theorem test_power_off : (match step (run .powerOff (st [])) with | .fault .poweredOff => true | _ => false) = true := by decide +kernel
/-- A range of no bytes meets no other (R330). -/
theorem test_empty_range : overlap (8, 0) (0, 16) = false ∧ overlap (8, 1) (0, 9) = true ∧ overlap (8, 1) (0, 8) = false := by decide +kernel
/-- BSTAT after reset: READY in bit 0 and STEP 9 in [15:8] (R409). -/
theorem test_bstat_reads : (run (.hostMemRead 0 (.reg .bstat) 8) (st [])).ports[0].answer = some [1, 9, 0, 0, 0, 0, 0, 0] := by decide +kernel
theorem test_lock_interface : (run (.lockInterfaceRequest 0) (st [])).ports[0].tdisp = .locked ∧
    (run (.startInterfaceRequest 0) (run (.lockInterfaceRequest 0) (st []))).ports[0].tdisp = .run := by decide +kernel
/-- 105 °C raises OP, and so does a package that draws more than 16 kW, in units of 0.25 W (R412, R413). -/
theorem test_thermal : (run (.thermalThrottle 3 (.reading 105 0)) (st [])).mgmt.islands[3].op = 1 ∧
    (run (.thermalThrottle 3 (.reading 20 64001)) (st [])).mgmt.islands[3].op = 1 ∧
    (run (.thermalThrottle 3 (.reading 20 64000)) (st [])).mgmt.islands[3].op = 0 := by decide +kernel
theorem test_device_reset : (run (.deviceReset (some (3, 7))) (st [])).mgmt.step = 2 ∧ (run (.deviceReset none) (st [(1, 5)])).g 1 = 0 := by decide +kernel
theorem test_step_first_instruction : (match step (State.reset.withFetchWord 32 0x08A0FFFD) with | .next t => t.g 5 | _ => 0) = 0xFFFFFFFFFFFFFFFD := by decide +kernel

end Sys2Proof.Tests
end

