-- ==== Sys2Proof/Tests/Witness1.lean ====
section
/-! SUPPORT. For every statement with hypotheses, a state and operands that meet them all (the scalar core, memory, vectors). -/

namespace Sys2Proof.Tests

open Sys2Proof.Machine Sys2Proof.Claims

set_option Elab.async false

/-! ## Encodings and the scalar core -/

theorem witness_EncodedInstructionsDecode : (Instr.bins 1 2 33 30).wf = true ∧ (Instr.bins 1 2 33 30).isProgram = true := by decide +kernel
theorem witness_AcceptedBytesAreEncodings : decode ([0x00, 0x10, 0x61, 0x04] ++ [7]) = .ok (.add 3 1 2, [7]) := by decide +kernel

/-- g1 = −7, g2 = 2. -/
def s1 : State := st [(1, 0xFFFFFFFFFFFFFFF9), (2, 2), (3, 0x8000000000000000), (4, 0xFFFFFFFFFFFFFFFF), (5, 0x1000), (6, 0x1002)]

theorem witness_IntegerForms : integerResult s1 (.mulh 7 1 2) = some (7, 0xFFFFFFFFFFFFFFFF) ∧ Ready (.mulh 7 1 2) s1 :=
  ⟨by decide +kernel, .of_gate (by decide +kernel)⟩
theorem witness_IntegerForms_g0 : integerResult s1 (.srai 0 3 63) = some (0, 0xFFFFFFFFFFFFFFFF) ∧ Ready (.srai 0 3 63) s1 :=
  ⟨by decide +kernel, .of_gate (by decide +kernel)⟩
theorem witness_BitCountsComplete : Ready (.clz 7 2) s1 ∧ (∀ k, 64 - 62 ≤ k → (s1.g 2).getLsbD k = false) ∧ (s1.g 2).getLsbD (63 - 62) = true ∧
    Ready (.ctz 7 3) s1 ∧ (∀ k, k < 63 → (s1.g 3).getLsbD k = false) ∧ (s1.g 3).getLsbD 63 = true := by
  refine ⟨.of_gate (by decide +kernel), ?_, by decide +kernel, .of_gate (by decide +kernel), by decide +kernel, by decide +kernel⟩
  intro k hk
  rw [show s1.g 2 = 2 by decide +kernel]
  by_cases h : k < 64
  · interval_cases k <;> decide
  · exact BitVec.getLsbD_of_ge _ _ (by omega)
theorem witness_BitFieldInsertCompletes : Ready (.bins 7 1 60 3) s1 ∧ (60 : Fin 64).val + (3 : Fin 32).val + 1 ≤ 64 :=
  ⟨.of_gate (by decide +kernel), by decide⟩
theorem witness_DivisionCorners : Ready (.div 7 3 4) s1 ∧ (7 : Reg) ≠ 0 ∧ s1.g 3 = 0x8000000000000000 ∧ s1.g 4 = 0xFFFFFFFFFFFFFFFF ∧ Ready (.divn 7 1 0) s1 ∧
    s1.g 0 = 0 ∧ Ready (.rem 7 3 4) s1 ∧ Ready (.remn 7 1 0) s1 ∧ Ready (.rem 7 1 0) s1 ∧ Ready (.div 7 1 0) s1 ∧ s1.g 1 = 0xFFFFFFFFFFFFFFF9 ∧ s1.g 2 = 2 ∧
    Ready (.div 7 1 2) s1 ∧ Ready (.rem 7 1 2) s1 ∧ Ready (.divn 7 1 2) s1 := by
  refine ⟨.of_gate ?_, ?_, ?_, ?_, .of_gate ?_, ?_, .of_gate ?_, .of_gate ?_, .of_gate ?_, .of_gate ?_, ?_, ?_, .of_gate ?_, .of_gate ?_, .of_gate ?_⟩ <;>
    decide +kernel
theorem witness_ImmediateFormsComplete : immediateResult s1 (.addpc 7 0xFFFFF) = some (7, resetPc - 4) ∧ Ready (.addpc 7 0xFFFFF) s1 ∧ Ready (.li48 7 5) s1 :=
  ⟨by decide +kernel, .of_gate (by decide +kernel), .of_gate (by decide +kernel)⟩
theorem witness_BranchesComplete : branchTaken s1 (.bltn 2 1 0x3FFE) = some (true, 0x3FFE) ∧ Ready (.bltn 2 1 0x3FFE) s1 ∧
    branchTaken s1 (.bge 1 2 4) = some (false, 4) ∧ Ready (.bge 1 2 4) s1 :=
  ⟨by decide +kernel, .of_gate (by decide +kernel), by decide +kernel, .of_gate (by decide +kernel)⟩
theorem witness_AlignedJumps : Ready (.jal 31 0x1FFFFF) s1 ∧ Ready (.jalr 5 5 0xFFFF) s1 ∧ (s1.g 5 + (0xFFFF : BitVec 16).signExtend 64 * 4).toNat % 4 = 0 :=
  ⟨.of_gate (by decide +kernel), .of_gate (by decide +kernel), by decide +kernel⟩
theorem witness_MisalignedJumpTraps : Ready (.jalr 5 6 0) s1 ∧ s1.hart.wait = none ∧ (s1.g 6 + (0 : BitVec 16).signExtend 64 * 4).toNat % 4 ≠ 0 :=
  ⟨.of_gate (by decide +kernel), by decide +kernel, by decide +kernel⟩
theorem witness_FloatForms : (floatResult s1 (.fmul .bf16 7 2 2)).isSome = true ∧ Ready (.fmul .bf16 7 2 2) s1 :=
  ⟨by decide +kernel, .of_gate (by decide +kernel)⟩
/-- g1 holds an infinity, g2 a signalling NaN. -/
def nanG : State := st [(1, 0x7F800000), (2, 0x7F800001)]
theorem witness_NanOperandsGiveCanonicalNan : Ready (.fsub .f32 7 1 2) nanG ∧ (scalarVal .f32 (nanG.g 2)).isNan = true ∧ Ready (.fsqrt .f32 7 2) nanG ∧
    Ready (.ffma .f32 2 1 0) nanG ∧ timesZero (scalarVal .f32 (nanG.g 1)) (scalarVal .f32 (nanG.g 0)) = true :=
  ⟨.of_gate (by decide +kernel), by decide +kernel, .of_gate (by decide +kernel), .of_gate (by decide +kernel), by decide +kernel⟩

/-! ## Traps, interrupts, control registers -/

theorem witness_PrivilegedInstructionsTrapInUserMode : (userSt []).hart.wait = none ∧ (userSt []).hart.tsw.mode = .user := by decide +kernel
theorem witness_PendingPrefixTraps : (Instr.cinit 1 2 3 none).isProgram = true ∧ acceptsPrefix (.cinit 1 2 3 none) = false ∧
    (run (.fmt .i8 .i8 .i32 .none false) (st [])).hart.wait = none ∧ (run (.fmt .i8 .i8 .i32 .none false) (st [])).hart.tsw.pp = true ∧
    (run (.fmt .i8 .i8 .i32 .none false) (st [])).hart.tsw.mode ≠ .user := by decide +kernel
/-- A load of g5 is under way. -/
def loading : State := (st []).onHart fun h => { h with loads := [⟨.g 5, 0x100, 7, false, false⟩], old := ⟨1, 0⟩ }
theorem witness_InterlockedInstructionsWait : Admitted (.st64 5 1 .gl .plain false 0) loading ∧ ⟨.g 5, 0x100, 7, false, false⟩ ∈ loading.hart.loads ∧
    Dest.g 5 ∈ namedDests loading.hart (.st64 5 1 .gl .plain false 0) := by unfold Admitted; decide +kernel
/-- v3 and then g5 are poisoned. -/
def poisonedSt : State := (st []).onHart fun h => { h with poison := [(.v 3, 0x80), (.g 5, 0x100)] }
theorem witness_PoisonedSourceTraps : Admitted (.cadd 1 5 none) poisonedSt ∧ Unheld (.cadd 1 5 none) poisonedSt ∧
    misuse poisonedSt.hart (vUse (.cadd 1 5 none)) = false ∧ poisonedSt.hart.wait = none ∧ poisonedSt.hart.poison = [(.v 3, 0x80)] ++ (.g 5, 0x100) :: [] ∧
    (∀ p ∈ [(Dest.v 3, (0x80 : Word))], p.1 ∉ readDests poisonedSt.hart (.cadd 1 5 none)) ∧ .g 5 ∈ readDests poisonedSt.hart (.cadd 1 5 none) := by
  unfold Admitted Unheld; decide +kernel
theorem witness_WritingClearsPoison : integerResult poisonedSt (.add 5 1 2) = some (5, 0) ∧ Ready (.add 5 1 2) poisonedSt ∧
    immediateResult poisonedSt (.lih 0 1) = some (0, 0x10000) ∧ Ready (.lih 0 1) poisonedSt :=
  ⟨by decide +kernel, .of_gate (by decide +kernel), by decide +kernel, .of_gate (by decide +kernel)⟩
/-- v26 is bound as given, in local memory, with 3 pieces left. -/
def bound (dir : Bool) (sn : Word) : State := (st []).onHart fun h => h.onStream 2 fun x => { x with en := true, dir := dir, am := .lo, sn := sn, sa := 0x100, stride := 0xFFFFFFC0 }
theorem witness_StreamMisuseIsIllegal : Admitted (.vst512 26 1 .gl .plain false 0) (bound true 3) ∧ Unheld (.vst512 26 1 .gl .plain false 0) (bound true 3) ∧
    (bound true 3).hart.wait = none ∧ (bound true 3).hart.bound 26 = some (bound true 3).hart.streams[2] ∧ (bound true 3).hart.streams[2].dir = true ∧
    26 ∈ (vUse (.vst512 26 1 .gl .plain false 0)).src := by unfold Admitted Unheld; decide +kernel
/-- Bound to read: a destination, a mask, a source of an instruction that takes no streams. -/
theorem witness_StreamMisuseIsIllegal_read : (bound false 3).hart.streams[2].dir = false ∧
    (Admitted (.vadd 26 1 2 .none .i32) (bound false 3) ∧ Unheld (.vadd 26 1 2 .none .i32) (bound false 3) ∧ 26 ∈ (vUse (.vadd 26 1 2 .none .i32)).dst) ∧
    (Admitted (.vadd 4 1 2 (.mu 26) .i32) (bound false 3) ∧ Unheld (.vadd 4 1 2 (.mu 26) .i32) (bound false 3) ∧
      (vUse (.vadd 4 1 2 (.mu 26) .i32)).mask = some 26) ∧
    Admitted (.vmvg 4 26 0 .i32) (bound false 3) ∧ Unheld (.vmvg 4 26 0 .i32) (bound false 3) ∧ (vUse (.vmvg 4 26 0 .i32)).plain = true ∧
    26 ∈ (vUse (.vmvg 4 26 0 .i32)).src := by unfold Admitted Unheld; decide +kernel
theorem witness_TrapAndBreakTakeTheirExceptions : Ready (.trap 0) trapCase ∧ Ready (.trap 5) trapCase ∧ Ready (.brk 7) trapCase ∧ trapCase.hart.wait = none ∧
    trapCase.hart.lease.park = false ∧ trapCase.hart.running = false ∧ (trapCase.array trapCase.cluster).queue = [] := by
  refine ⟨.of_gate ?_, .of_gate ?_, .of_gate ?_, ?_, ?_, ?_, ?_⟩ <;> decide +kernel
theorem witness_TrapReturnRestores : Ready .tret trapCase := .of_gate (by decide +kernel)
/-- Interrupts are pending, by their bits, and all enabled. -/
def pendingSt (pend : BitVec 6) : State := trapCase.onHart fun h => { h with irq := { h.irq with pend := pend, mask := 0x3F }, tsw := { h.tsw with ie := true } }
/-- Whether an interrupt is pending and enabled. -/
def isOn (s : State) (b : Nat) : Bool := s.hart.irq.pend.getLsbD b && s.hart.irq.mask.getLsbD b && s.hart.tsw.ie
theorem witness_InterruptsAreTakenInOrder : (pendingSt 0x3F).hart.wait = none ∧ (pendingSt 0x3F).hart.walk = none ∧ isOn (pendingSt 0x3F) 0 = true ∧
    (isOn (pendingSt 0x3C) 0 = false ∧ isOn (pendingSt 0x3C) 5 = true ∧ isOn (pendingSt 0x1C) 5 = false ∧ isOn (pendingSt 0x1C) 3 = true) ∧
    (isOn (pendingSt 0x14) 3 = false ∧ isOn (pendingSt 0x14) 4 = true ∧ isOn (pendingSt 6) 4 = false ∧ isOn (pendingSt 6) 2 = true) ∧
    takeable trapCase.hart = none ∧ takeable (pendingSt 0x30).hart = some 5 := by decide +kernel
/-- PRE alone is pending, in user mode with IE 0, and in supervisor mode. -/
theorem witness_InterruptsAreTakenInOrder_pre : ((userSt []).onHart fun h => { h with irq := { h.irq with pend := 1 } }).hart.tsw.mode = .user ∧
    ((userSt []).onHart fun h => { h with irq := { h.irq with pend := 1 } }).hart.irq.pend.getLsbD 0 = true ∧ trapCase.hart.tsw.mode ≠ .user ∧
    isOn trapCase 0 = false := by decide +kernel
theorem witness_FetchAndDecodeExceptions : trapCase.hart.wait = none ∧ trapCase.hart.entering = false ∧
    (run (.brk 7) trapCase).hart.entering = true := by decide +kernel
theorem witness_ControlReads : Ready (.mfk 5 .tcause) s1 := .of_gate (by decide +kernel)
theorem witness_CoreIdWorkedCase : ((st []).switch 1753).cur = 1753 ∧ ((st []).switch 1753).hart.chip = 0 := by decide +kernel
theorem witness_ControlWritesReachTheirFields : Ready (.mtk .tsws 4) s1 ∧ mtkAllowed s1.hart.tsw.mode .tsws (s1.g 4) ∧ ownRule .tsws = false ∧
    Ready (.mtk .tsw 4) (userSt [(4, 5)]) ∧ mtkAllowed (userSt [(4, 5)]).hart.tsw.mode .tsw ((userSt [(4, 5)]).g 4) := by
  refine ⟨.of_gate ?_, ⟨?_, fun _ => ⟨?_, fun _ => ?_⟩⟩, ?_, .of_gate ?_, ⟨fun _ => rfl, fun h => ?_⟩⟩
  · decide +kernel
  · intro h; exact absurd h (by decide +kernel)
  · decide +kernel
  · decide +kernel
  · decide +kernel
  · decide +kernel
  · cases h
theorem witness_ControlWritesWithOwnRules : Ready (.mtk .lvc 4) s1 ∧ s1.hart.tsw.mode ≠ .user ∧ ownRule .lvc = true ∧ Ready (.mtk .ipend 4) s1 ∧
    Ready (.mtk .dmem 4) s1 ∧
    Ready (.mtk .trdy 4) s1 := by
  refine ⟨.of_gate ?_, ?_, ?_, .of_gate ?_, .of_gate ?_, .of_gate ?_⟩ <;> decide +kernel
theorem witness_ForbiddenControlWritesTrap : (userSt []).hart.wait = none ∧ (userSt []).hart.tsw.mode = .user ∧ (userSt []).hart.tsw.pp = false ∧
    Ready (.mtk .tsws 1) trapCase ∧ Ready (.mtk .tsws 2) (st [(2, 2)]) ∧ ((st [(2, 2)]).g 2).toNat % 4 = 2 ∧ (trapCase.setG 1 3).hart.tsw.mode = .supervisor ∧
    ((trapCase.setG 1 3).g 1).toNat % 4 = 3 ∧ Ready (.mtk .tsws 1) (trapCase.setG 1 3) := by
  refine ⟨?_, ?_, ?_, .of_gate ?_, .of_gate ?_, ?_, ?_, ?_, .of_gate ?_⟩ <;> decide +kernel
/-- SLICE is requested and enabled. -/
def sliceSt : State := trapCase.onHart fun h => { h with irq := { h.irq with pend := 2, mask := 2 } }
theorem witness_PublicationAndRecess : Ready (.genpub 1) s1 ∧ s1.hart.old.iss = s1.hart.old.ret ∧ s1.hart.ost.iss = s1.hart.ost.ret ∧ Ready .yield s1 ∧
    sliceDue s1.hart = false ∧ Ready .yield sliceSt ∧ sliceSt.hart.irq.pend.getLsbD 1 = true ∧ sliceSt.hart.irq.mask.getLsbD 1 = true ∧
        sliceSt.hart.tsw.ie = true ∧
    sliceSt.hart.old.iss = sliceSt.hart.old.ret ∧ sliceSt.hart.ost.iss = sliceSt.hart.ost.ret ∧ Ready (.genpub 1) loading ∧
        loading.hart.old.iss ≠ loading.hart.old.ret ∧
    Ready .yield loading := by
  refine ⟨.of_gate ?_, ?_, ?_, .of_gate ?_, ?_, .of_gate ?_, ?_, ?_, ?_, ?_, ?_, .of_gate ?_, ?_, .of_gate ?_⟩ <;> decide +kernel

/-! ## A step -/

/-- `ADDI g5, g0, −3` lies at the program counter. -/
def placed : State := State.reset.withFetchWord 32 0x08A0FFFD
theorem witness_StepRunsTheDecodedInstruction : placed.agenda = [] ∧ placed.mgmt.power = true ∧ placed.alive = true ∧ placed.hart.halted = false ∧
    placed.hart.ahead = none ∧ gatedCluster placed placed.cluster = false ∧ takeable (placed.hart.tick 1) = none ∧
        (fetchWord (passCycle placed) placed.hart.pc).1 = some 0x08A0FFFD ∧
    decode (bytesOfWord 0x08A0FFFD) = .ok (.addi 5 0 0xFFFD, []) ∧ (placed.hart.irq.cycle + 1).toNat % 16 ≠ 15 := by decide +kernel
/-- LI48 lies there. -/
def placed48 : State := State.reset.withFetchWord 64 0x56789ABCFCE01234
theorem witness_StepRunsTheDecodedInstruction_li48 : (fetchWord (passCycle placed48) placed48.hart.pc).1 = some 0xFCE01234 ∧
    (fetchWord (fetchWord (passCycle placed48) placed48.hart.pc).2 (placed48.hart.pc + 4)).1 = some 0x56789ABC ∧
    decode (bytesOfWord 0xFCE01234 ++ bytesOfWord 0x56789ABC) = .ok (.li48 7 0x123456789ABC, []) := by decide +kernel
/-- The hart's space has no page at the program counter. -/
def lostSt : State := { State.reset with spaces := [] }
theorem witness_StepRunsTheDecodedInstruction_faults : (fetchWord (passCycle lostSt) lostSt.hart.pc).1 = none ∧
    takeable (lostSt.hart.tick 1) = none ∧ gatedCluster lostSt lostSt.cluster = false ∧
    (fetchWord (passCycle State.reset) State.reset.hart.pc).1 = some 0 ∧
        (match decode (bytesOfWord 0) with | .error .truncated => false | .error _ => true | _ => false) = true := by
  decide +kernel
theorem witness_StepKeepsMemoryCanonical : placed.Sound ∧ (match step placed with | .next _ => true | _ => false) = true := by
  constructor
  · unfold State.Sound; decide +kernel
  · decide +kernel

end Sys2Proof.Tests
end

