-- ==== Sys2Proof/Tests/Witness2.lean ====
section
/-! SUPPORT. For every statement with hypotheses, a state and operands that meet them all: memory, vectors, streams, the sequencer. -/

namespace Sys2Proof.Tests

open Sys2Proof.Machine Sys2Proof.Claims

set_option Elab.async false

/-! ## A package with pages -/

/-- Space 0 of the firmware partition maps page 1 (readable and writable), page 2 (readable, executable), page 3 (replicated) and page 5 (replicated,
strongly ordered). -/
def pages (s : State) : State :=
  ((((({ s with spaces := [(0, ⟨0, 0x10⟩)] }.writeWord 0x100000 0x110001).writeWord 0x110000 0x120001).writeWord 0x120008 0x130107).writeWord
    0x120010 0x14010B).writeWord 0x120018 0x150147).writeWord
    0x120028 0x160157

/-- `pages` with g registers. -/
def pst (l : List (Reg × Word)) : State := pages (st l)

/-- The segments of an access, where it passes. -/
def segsOf (a : Access) : List Seg := match a with | .ok l => l | .exc _ => []

/-- The access passes. -/
def passes (a : Access) : Bool := match a with | .ok _ => true | .exc _ => false

theorem passes_eq {s : State} {am : AddrMode} {al : Nat} {n : Need} {a : Word} {k : Nat} (h : passes (access s am al n a k).1 = true) :
    access s am al n a k = (.ok (segsOf (access s am al n a k).1), (access s am al n a k).2) := by
  generalize access s am al n a k = x at h
  obtain ⟨a, t⟩ := x
  cases a
  · rfl
  · cases h

/-! ## Loads and stores -/

theorem witness_ScalarLoads : ∃ s1 l, loadForm (.ldI16 4 3 .gl .acq false 0xFF) = some (4, 3, .gl, .acq, 0xFF, 2, true) ∧
    Ready (.ldI16 4 3 .gl .acq false 0xFF) (pst [(3, 0x10002)]) ∧
    access (pst [(3, 0x10002)]) .gl 1 needR (scaledAddr (pst [(3, 0x10002)]) 3 0xFF 2) 2 = (.ok l, s1) ∧ loadWaits s1 l = false :=
  ⟨_, _, rfl, .of_gate (by decide +kernel), passes_eq (by decide +kernel), by decide +kernel⟩
theorem witness_LocalLoadsReadTheirBytes : Ready (.ldN8 4 3 .lo .plain false 0) (st [(3, 0x7FFFF)]) ∧
    (scaledAddr (st [(3, 0x7FFFF)]) 3 0 1).toNat + 1 ≤ 2 ^ 19 ∧ (st [(3, 0x7FFFF)]).adds = [] ∧ (4 : Reg) ≠ 0 :=
  ⟨.of_gate (by decide +kernel), by decide +kernel, by decide +kernel, by decide⟩
theorem witness_ScalarStores : ∃ s1 l, Ready (.st64 4 3 .gl .rel false 0) (pst [(3, 0x1FFF8)]) ∧
    access (pst [(3, 0x1FFF8)]) .gl 1 needW (scaledAddr (pst [(3, 0x1FFF8)]) 3 0 8) 8 = (.ok l, s1) ∧ storeWaits s1 l .rel = false ∧
    l.all Seg.ok = true ∧ (segPlaces l).Nodup ∧ l.any (fun g => pteRepl g.entry) = false :=
  ⟨_, _, .of_gate (by decide +kernel), passes_eq (by decide +kernel), by decide +kernel, by decide +kernel, by decide +kernel, by decide +kernel⟩
theorem witness_ScalarStores_replicated : ∃ s1 l, Ready (.st64 4 3 .gl .plain false 0) (pst [(3, 0x30000)]) ∧
    access (pst [(3, 0x30000)]) .gl 1 needW (scaledAddr (pst [(3, 0x30000)]) 3 0 8) 8 = (.ok l, s1) ∧ storeWaits s1 l .plain = false ∧
    l.all (fun g => g.ok && pteRepl g.entry && g.order != .so) = true ∧ l.length = 1 :=
  ⟨_, _, .of_gate (by decide +kernel), passes_eq (by decide +kernel), by decide +kernel, by decide +kernel, by decide +kernel⟩
theorem witness_ScalarStores_ordered : ∃ s1 l, Ready (.st64 4 3 .gl .plain false 0) (pst [(3, 0x50000)]) ∧
    access (pst [(3, 0x50000)]) .gl 1 needW (scaledAddr (pst [(3, 0x50000)]) 3 0 8) 8 = (.ok l, s1) ∧ storeWaits s1 l .plain = false ∧
    l.all (fun g => g.ok && pteRepl g.entry && g.order == .so) = true ∧ l.length = 1 ∧ (pst [(3, 0x50000)]).repl = [] ∧
    ∀ k : Fin 3, (pst [(3, 0x50000)]).applied[k] = 0 :=
  ⟨_, _, .of_gate (by decide +kernel), passes_eq (by decide +kernel), by decide +kernel⟩
theorem witness_VectorLoadsAndStoresComplete : ∃ s1 l s2 l2, Ready (.vld128 4 3 .gl .plain false 0) (pst [(3, 0x10000)]) ∧
    plainRegs (pst [(3, 0x10000)]) (.vld128 4 3 .gl .plain false 0) ∧
    access (pst [(3, 0x10000)]) .gl 1 needR (scaledAddr (pst [(3, 0x10000)]) 3 0 16) 16 = (.ok l, s1) ∧ loadWaits s1 l = false ∧
    Ready (.vst512 4 3 .ci .plain false 0xFF) (pst [(3, 0x10000)]) ∧ plainRegs (pst [(3, 0x10000)]) (.vst512 4 3 .ci .plain false 0xFF) ∧
    access (pst [(3, 0x10000)]) .ci 1 needW (scaledAddr (pst [(3, 0x10000)]) 3 0xFF 64) 64 = (.ok l2, s2) ∧ storeWaits s2 l2 .plain = false ∧
    (segPlaces l2).Nodup ∧ l2.all (fun g => g.ok && !pteRepl g.entry) = true :=
  ⟨_, _, _, _, .of_gate (by decide +kernel), fun r _ => by revert r; decide +kernel, passes_eq (by decide +kernel), by decide +kernel,
    .of_gate (by decide +kernel), fun r _ => by revert r; decide +kernel, passes_eq (by decide +kernel), by decide +kernel, by decide +kernel,
    by decide +kernel⟩
/-- A broken form, a misaligned atomic, a page without a translation, a page without the permission. -/
theorem witness_AccessChecksTrap : ∃ s1 p s2, Ready (.ldN32 4 3 .lo .plain false 0) (pst [(3, 0x7FFFD)]) ∧
    formOk .lo (scaledAddr (pst [(3, 0x7FFFD)]) 3 0 4).toNat 4 = false ∧
    (pst [(3, 0x7FFFD)]).hart.wait = none ∧ Ready (.st32 4 3 .lo .plain false 0) (pst [(3, 0x7FFFD)]) ∧
    Ready (.atomAdd 4 3 5 true .lo .plain .core) (pst [(3, 0x7FFF4)]) ∧ formOk .lo ((pst [(3, 0x7FFF4)]).g 3).toNat 8 = true ∧
        ((pst [(3, 0x7FFF4)]).g 3).toNat % 8 ≠ 0 ∧
    Ready (.ld64 4 3 .gl .plain false 0) (pst [(3, 0x4FFF8)]) ∧ (scaledAddr (pst [(3, 0x4FFF8)]) 3 0 8).toNat < 2 ^ 55 ∧
    (scaledAddr (pst [(3, 0x4FFF8)]) 3 0 8).toNat % 65536 + 8 ≤ 65536 ∧
    translate (pst [(3, 0x4FFF8)]) 0 0 0 (scaledAddr (pst [(3, 0x4FFF8)]) 3 0 8).toNat = (none, s1) ∧
        Ready (.st8 4 3 .gl .plain false 0) (pst [(3, 0x20000)]) ∧
    translate (pst [(3, 0x20000)]) 0 0 0 (scaledAddr (pst [(3, 0x20000)]) 3 0 1).toNat = (some p, s2) ∧ pteW p.entry = false := by
  refine ⟨_, _, _, .of_gate ?_, ?_, ?_, .of_gate ?_, .of_gate ?_, ?_, ?_, .of_gate ?_, ?_, ?_, rfl, .of_gate ?_, rfl, ?_⟩ <;> decide +kernel
theorem witness_BitFieldsComplete : Ready (.lbf true 4 1 2 31) (st [(1, 0x3FFFE0)]) ∧
    ((st [(1, 0x3FFFE0)]).g 1 + (st [(1, 0x3FFFE0)]).g 2).toNat + (31 : Fin 32).val + 1 ≤ 2 ^ 22 ∧
    Ready (.sbf 4 1 2 31) (st [(1, 0x3FFFE0)]) ∧ (st [(1, 0x3FFFE0)]).adds = [] ∧ Ready (.lbf true 4 1 2 31) (st [(1, 0x3FFFE1)]) ∧
    2 ^ 22 < ((st [(1, 0x3FFFE1)]).g 1 + (st [(1, 0x3FFFE1)]).g 2).toNat + (31 : Fin 32).val + 1 ∧ (st [(1, 0x3FFFE1)]).hart.wait = none := by
  refine ⟨.of_gate ?_, ?_, .of_gate ?_, ?_, .of_gate ?_, ?_, ?_⟩ <;> decide +kernel
theorem witness_AtomicsComplete : ∃ s1 g, atomicForm (.atomCas 4 3 5 false .gl .ar .pkg) = some (4, 3, 5, 4, .gl, .ar) ∧
    Ready (.atomCas 4 3 5 false .gl .ar .pkg) (pst [(3, 0x1FFFC)]) ∧
    access (pst [(3, 0x1FFFC)]) .gl 4 needRW ((pst [(3, 0x1FFFC)]).g 3) 4 = (.ok [g], s1) ∧ pteRepl g.entry = false ∧ storeWaits s1 [g] .ar = false ∧
        g.ok = true :=
  ⟨_, ⟨0x13FFFC, 4, true, 0x130107⟩, rfl, .of_gate (by decide +kernel), rfl, by decide +kernel, by decide +kernel, rfl⟩

/-! ## Lanes -/

/-- Lanes 0x100 bytes apart; the last but one of four 16-byte strides crosses into another core where g2 says so. -/
def laneSt : State := (st [(1, 0x7FFC0), (2, 8), (4, 0x7FFF8)]).setV 3 5
theorem witness_LaneLoadsComplete : laneForm laneSt (.vlds 6 1 2 .none .i64) = some (false, 6, .none, .i64,
    fun i => laneSt.g 1 + BitVec.ofNat 64 i * laneSt.g 2) ∧
    Ready (.vlds 6 1 2 .none .i64) laneSt ∧ plainRegs laneSt (.vlds 6 1 2 .none .i64) ∧ laneSt.adds = [] ∧
    ∀ k, laneRuns laneSt .none .i64 k → laneFits .i64 (laneSt.g 1 + BitVec.ofNat 64 k * laneSt.g 2) := by
  refine ⟨rfl, .of_gate (by decide +kernel), fun r _ => by revert r; decide +kernel, by decide +kernel, fun k hk => ?_⟩
  have h : k < 8 := hk.2.1
  unfold laneFits
  interval_cases k <;> decide +kernel
theorem witness_LaneStoresComplete : Ready (.vstx 6 0 5 (.mu 3) .i32) laneSt ∧ plainRegs laneSt (.vstx 6 0 5 (.mu 3) .i32) ∧
    ∀ k, laneRuns laneSt (.mu 3) .i32 k → laneFits .i32 (laneSt.g 0 + BitVec.ofNat 64 (lane 32 (laneSt.v 5) k)) := by
  refine ⟨.of_gate (by decide +kernel), fun r _ => by revert r; decide +kernel, fun k hk => ?_⟩
  have h : k < 16 := hk.2.1
  unfold laneFits
  interval_cases k <;> decide +kernel
/-- Lane 1 of two strides of 8 bytes from 0x7FFF8 crosses the end of a core's memory once its stride is 4. -/
theorem witness_LaneFaultsKeepLowerLanes : Ready (.vlds 6 4 5 .none .i64) (laneSt.setG 5 4) ∧ plainRegs (laneSt.setG 5 4) (.vlds 6 4 5 .none .i64) ∧
    (laneSt.setG 5 4).hart.wait = none ∧ laneRuns (laneSt.setG 5 4) .none .i64 1 ∧
    ¬ laneFits .i64 ((laneSt.setG 5 4).g 4 + BitVec.ofNat 64 1 * (laneSt.setG 5 4).g 5) ∧
    ∀ k, k < 1 → laneFits .i64 ((laneSt.setG 5 4).g 4 + BitVec.ofNat 64 k * (laneSt.setG 5 4).g 5) := by
  refine ⟨.of_gate (by decide +kernel), fun r _ => by revert r; decide +kernel, by decide +kernel, ⟨by decide +kernel, by decide, trivial⟩, ?_,
      fun k hk => ?_⟩
  · unfold laneFits; decide +kernel
  · unfold laneFits; interval_cases k; decide +kernel
/-- Lanes 0 and 2 of a `.cb` atomic at address 0. -/
theorem witness_VectorAtomicsComplete : (Instr.vatomAdd 6 7 .cb (.mu 3) .i64).wf = true ∧ Ready (.vatomAdd 6 7 .cb (.mu 3) .i64) laneSt ∧
    plainRegs laneSt (.vatomAdd 6 7 .cb (.mu 3) .i64) ∧ laneSt.adds = [] ∧
    (vatomLanes (.vatomAdd 6 7 .cb (.mu 3) .i64) .cb (.mu 3) .i64 (laneSt.v 7) ((List.range ElemType.i64.lanes).filter fun k => laneSt.hart.tsw.rlane.toNat ≤ k) (laneSt.v 6) none laneSt).isSome = true :=
  ⟨rfl, .of_gate (by decide +kernel), fun r _ => by revert r; decide +kernel, by decide +kernel, by decide +kernel⟩

/-! ## Fences and the tag table -/

/-- Only a store to a UN page is under way; a store to another one; a write of another core to a replicated page. -/
def awaiting (un : Bool) : State := (st []).onHart fun h => { h with stores := [⟨un, false, 0, 0⟩], ost := ⟨1, 0⟩ }
def others : State := { st [] with repl := [⟨3, 0, [], 5, 0, false⟩] }
/-- A store is counted that the model keeps no more: software has written OST. -/
def countedStore : State := (st []).onHart fun h => { h with ost := ⟨1, 0⟩ }
/-- Without ALL a store to a UN page is not waited for, with ALL it is; another one always is. -/
theorem witness_FencesComplete_stores : Ready (.fenceRel .core false) (awaiting true) ∧
    (awaiting true).hart.ost.out ≤ ((awaiting true).hart.stores.filter fun p => p.un).length ∧ (awaiting true).repl = [] ∧ (awaiting true).adds = [] ∧
    Ready (.fenceSc .core true) (awaiting true) ∧ (awaiting true).hart.ost.iss ≠ (awaiting true).hart.ost.ret ∧
        Ready (.fenceRel .core false) (awaiting false) ∧
    Ready (.fenceSc .core false) (awaiting false) ∧ (awaiting false).hart.stores.length ≤ (awaiting false).hart.ost.out ∧
    (∃ p ∈ (awaiting false).hart.stores, p.un = false) ∧ Ready (.fenceRel .core false) countedStore ∧ countedStore.hart.stores = [] ∧
    ¬ countedStore.hart.ost.out ≤ (countedStore.hart.stores.filter fun p => p.un).length := by
  refine ⟨.of_gate ?_, ?_, ?_, ?_, .of_gate ?_, ?_, .of_gate ?_, .of_gate ?_, ?_, ?_, .of_gate ?_, ?_, ?_⟩ <;> decide +kernel
/-- Nothing is outstanding; a load is; another core's write to a replicated page, which .sys waits for and .core does not. -/
theorem witness_FencesComplete : Ready (.fenceAcq .sys false) (st []) ∧ Ready (.fenceRel .sys true) (st []) ∧ Ready (.fenceSc .sys false) (st []) ∧
    (st []).hart.loads = [] ∧ (st []).hart.old.iss = (st []).hart.old.ret ∧ (st []).hart.ost.iss = (st []).hart.ost.ret ∧ (st []).repl = [] ∧
        (st []).adds = [] ∧
    Ready (.fenceAcq .sys false) loading ∧ Ready (.fenceSc .core false) loading ∧ (∃ l ∈ loading.hart.loads, l.un = false) ∧
    loading.hart.loads.length ≤ loading.hart.old.out ∧ Ready (.fenceSc .sys false) others ∧ Ready (.fenceSc .core false) others ∧
    (∃ w ∈ others.repl, w.un = false) ∧ ∀ w ∈ others.repl, w.core ≠ others.cur := by
  refine ⟨.of_gate ?_, .of_gate ?_, .of_gate ?_, ?_, ?_, ?_, ?_, ?_, .of_gate ?_, .of_gate ?_, ?_, ?_, .of_gate ?_, .of_gate ?_, ?_, ?_⟩ <;> decide +kernel
/-- Slot 255 holds the tag of 0x400; g4 has bit 55 set. -/
def tagged : State := (st [(1, 255), (2, 0x400), (3, 256), (4, 0x80000000000000)]).onHart fun h =>
  { h with tregEn := true, tagTable := h.tagTable.set 255 (some 1) }
theorem witness_TagTableCompletes : Ready (.tlook 4 2) tagged ∧ (tagged.g 2).toNat < 2 ^ 55 ∧ tagged.hart.tregEn = true ∧
    tagged.hart.tagTable[255] = some ((tagged.g 2).extractLsb' 10 45) ∧ (∀ j : Fin 256, j ≠ 255 →
        tagged.hart.tagTable[j] ≠ some ((tagged.g 2).extractLsb' 10 45)) ∧
    Ready (.tlook 4 2) (st []) ∧ (st []).hart.tregEn = false ∧ Ready (.tset 1 2) tagged ∧ (tagged.g 1).toNat ≤ 255 ∧ Ready (.tclr 1) tagged := by
  refine ⟨.of_gate ?_, ?_, ?_, ?_, ?_, .of_gate ?_, ?_, .of_gate ?_, ?_, .of_gate ?_⟩ <;> decide +kernel
theorem witness_TagTableCompletes_traps : Ready (.tset 3 2) tagged ∧ Ready (.tclr 3) tagged ∧ 255 < (tagged.g 3).toNat ∧ tagged.hart.wait = none ∧
    Ready (.tclr 1) (st []) ∧ Ready (.tlook 5 4) tagged ∧ Ready (.tset 1 4) tagged ∧ 2 ^ 55 ≤ (tagged.g 4).toNat := by
  refine ⟨.of_gate ?_, .of_gate ?_, ?_, ?_, .of_gate ?_, .of_gate ?_, .of_gate ?_, ?_⟩ <;> decide +kernel

/-! ## Vector instructions -/

theorem witness_ElementwiseForms : (vectorLane (vecSt 32) (.vfma 4 1 2 (.mu 3) .f32)).isSome = true ∧ (Instr.vfma 4 1 2 (.mu 3) .f32).wf = true ∧
    Ready (.vfma 4 1 2 (.mu 3) .f32) (vecSt 32) ∧ plainRegs (vecSt 32) (.vfma 4 1 2 (.mu 3) .f32) :=
  ⟨rfl, by decide, .of_gate (by decide +kernel), fun r _ => by revert r; decide +kernel⟩
/-- Lane 0 of v1 holds a signalling NaN. -/
def nanSt : State := (st []).setV 1 0x7F800001
theorem witness_SpecialFunctionCases : specialForm (.vexp2 4 1 .none .f32) = some (4, 1, .none) ∧ Ready (.vexp2 4 1 .none .f32) nanSt ∧
    plainRegs nanSt (.vexp2 4 1 .none .f32) ∧ laneOn nanSt .none 0 ∧
        specialCase (.vexp2 4 1 .none .f32) (fmtF32.decode (lane 32 (nanSt.v 1) 0)) = some (0x7FC00000, true, false) ∧
    specialCase (.vrcp 4 1 .none .f32) (fmtF32.decode (lane 32 (nanSt.v 1) 1)) = some (0x7F800000, false, true) :=
  ⟨rfl, .of_gate (by decide +kernel), fun r _ => by revert r; decide +kernel, trivial, by decide +kernel, by decide +kernel⟩
theorem witness_CompareAndSelectComplete : (Instr.vcmp .un 4 1 2 .f32).wf = true ∧ Ready (.vcmp .un 4 1 2 .f32) nanSt ∧
    plainRegs nanSt (.vcmp .un 4 1 2 .f32) ∧
    Ready (.vsel 4 1 2 3 .w8) nanSt ∧ plainRegs nanSt (.vsel 4 1 2 3 .w8) :=
  ⟨by decide, .of_gate (by decide +kernel), fun r _ => by revert r; decide +kernel, .of_gate (by decide +kernel), fun r _ => by revert r; decide +kernel⟩
theorem witness_PermuteCompletes : Ready (.vperm 4 1 2 (.mu 3) .i8) (vecSt 8) ∧ plainRegs (vecSt 8) (.vperm 4 1 2 (.mu 3) .i8) :=
  ⟨.of_gate (by decide +kernel), fun r _ => by revert r; decide +kernel⟩
theorem witness_BlockPackingCompletes : ElemType.e2m1.isPacked = true ∧ Ready (.vpack 4 1 2 .none .e2m1) nanSt ∧ plainRegs nanSt (.vpack 4 1 2 .none .e2m1) ∧
    (Instr.vunpk 30 1 .none .e2m1).wf = true ∧ Ready (.vunpk 30 1 .none .e2m1) nanSt :=
  ⟨by decide, .of_gate (by decide +kernel), fun r _ => by revert r; decide +kernel, by decide, .of_gate (by decide +kernel)⟩
theorem witness_ReductionsAndScansComplete : (reduction (vecSt 16) (.vredMin 4 1 (.ma 3) .i16)).isSome = true ∧ (Instr.vredMin 4 1 (.ma 3) .i16).wf = true ∧
    Ready (.vredMin 4 1 (.ma 3) .i16) (vecSt 16) ∧ plainRegs (vecSt 16) (.vredMin 4 1 (.ma 3) .i16) ∧
        (scanForm (vecSt 16) (.vscanAdd 4 1 (.mu 3) .f16)).isSome = true ∧
    (Instr.vscanAdd 4 1 (.mu 3) .f16).wf = true ∧ Ready (.vscanAdd 4 1 (.mu 3) .f16) (vecSt 16) ∧ plainRegs (vecSt 16) (.vscanAdd 4 1 (.mu 3) .f16) :=
  ⟨by decide +kernel, by decide, .of_gate (by decide +kernel), fun r _ => by revert r; decide +kernel, rfl, by decide, .of_gate (by decide +kernel),
      fun r _ => by revert r; decide +kernel⟩
theorem witness_LaneMovesComplete : (Instr.vmvg 4 1 63 .i8).wf = true ∧ Ready (.vmvg 4 1 63 .i8) nanSt ∧ (Instr.vmgv 4 1 7 .n64).wf = true ∧
    Ready (.vmgv 4 1 7 .n64) nanSt :=
  ⟨by decide, .of_gate (by decide +kernel), by decide, .of_gate (by decide +kernel)⟩

/-! ## Streams and the sequencer -/

theorem witness_StreamOperandsPopAndPush : (bound false 3).hart.bound 2 = none ∧ (bound false 3).hart.streams[2].en = true ∧
    (bound false 3).hart.streams[2].dir = false ∧
    (bound false 3).hart.streams[2].am = .lo ∧ (bound false 3).hart.streams[2].sn ≠ 0 ∧ (bound false 3).hart.streams[2].ahead = [] ∧
    (bound false 3).hart.streams[2].sa.toNat + 64 ≤ 2 ^ 19 ∧ (bound false 3).adds = [] ∧ Ready (.vnot 2 26 .none .w64) (bound false 3) ∧
    (bound true 3).hart.bound 2 = none ∧ (bound true 3).hart.streams[2].dir = true ∧ Ready (.vnot 26 2 .none .w64) (bound true 3) ∧
    (bound false 0).hart.streams[2].sn = 0 ∧ (bound false 0).hart.wait = none ∧ Ready (.vnot 2 26 .none .w64) (bound false 0) := by
  refine ⟨?_, ?_, ?_, ?_, ?_, ?_, ?_, ?_, .of_gate ?_, ?_, ?_, .of_gate ?_, ?_, ?_, .of_gate ?_⟩ <;> decide +kernel
/-- A VADD of two streams of which the second has no piece left. -/
theorem witness_StreamOperandsPopAndPush_ends : (Instr.vadd 2 25 26 .none .i32).isProgram = true ∧ Ready (.vadd 2 25 26 .none .i32) (bound false 0) ∧
    (bound false 0).hart.wait = none ∧ (bound false 0).hart.streams[2].en = true ∧ (26 : Reg) ∈ (vUse (.vadd 2 25 26 .none .i32)).src ∧
    (bound false 0).hart.streams[2].sn = 0 ∧ ∀ k : Fin 8, k < 2 → (bound false 0).hart.streams[k].en = false := by
  refine ⟨?_, .of_gate ?_, ?_, ?_, ?_, ?_, ?_⟩ <;> decide +kernel
/-- A descending stream of two pieces that ends at the bottom of local memory, an unaligned base, and one at the end of local memory. -/
def cfg : State := st [(1, 0x40), (2, 0xFFFFFFC000000002), (3, 0x41), (4, 0x4000000000), (5, 0x80000)]
theorem witness_StreamBindingCompletes : Ready (.strcfg 7 1 2 true .lo false) cfg ∧ cfg.repl = [] ∧ ((cfg.g 1).toNat : Int) % 64 = 0 ∧
    ((cfg.g 2).extractLsb' 32 32).toInt % 64 = 0 ∧ (cfg.g 2).toNat % 2 ^ 32 = 2 ∧ pieceFits .lo ((cfg.g 1).toNat : Int) ∧
    pieceFits .lo ((cfg.g 1).toNat + ((2 : Int) - 1) * ((cfg.g 2).extractLsb' 32 32).toInt) ∧ Ready (.strcfg 7 1 4 true .gl false) cfg ∧
    (cfg.g 4).toNat % 2 ^ 32 = 0 ∧ ((cfg.g 4).extractLsb' 32 32).toInt % 64 = 0 ∧ Ready (.strcfg 7 3 2 true .lo false) cfg ∧ (cfg.g 3).toNat % 64 ≠ 0 ∧
    Ready (.strcfg 7 5 2 true .lo false) cfg ∧ (cfg.g 5).toNat % 64 = 0 ∧ ¬ pieceFits .lo ((cfg.g 5).toNat : Int) ∧ cfg.hart.wait = none ∧
    Ready (.strend 7) cfg := by
  refine ⟨.of_gate ?_, ?_, ?_, ?_, ?_, ?_, ?_, .of_gate ?_, ?_, ?_, .of_gate ?_, ?_, .of_gate ?_, ?_, ?_, ?_, .of_gate ?_⟩
  all_goals first | decide +kernel | (unfold pieceFits; decide +kernel)
/-- VLOOP with one VNOT after it, at the start of page 2. -/
def loopSt : State := (((pst [(1, 1)]).writeWord 0x140000 0xB8010000).write 0x140004 (bytesOfWord ((Instr.vnot 2 1 .none .w64).words.headD 0))).onHart fun h => { h with pc := 0x20000 }
theorem witness_CaptureCompletes : ∃ l s1, Ready (.vloop 1 0) loopSt ∧ captureWords ((0 : Fin 16).val + 1) (loopSt.hart.pc + 4) loopSt = (.ok l, s1) ∧
    shortStream loopSt.hart (l.map Prod.snd) (loopSt.g 1).toNat = none :=
  ⟨[((Instr.vnot 2 1 .none .w64).words.headD 0, .vnot 2 1 .none .w64)], _, .of_gate (by decide +kernel), rfl, by decide +kernel⟩
/-- The loop of two VNOT words, armed, and running at its first word. -/
def armed : State := (st []).onHart fun h => { h with seq := { h.seq with
  count := 2, sqi := (h.seq.sqi.set 0 (BitVec.ofNat 32 ((Instr.vnot 2 1 .none .w64).words.headD 0))).set 1 (BitVec.ofNat 32 ((Instr.vnot 2 1 .none .w64).words.headD 0)) } }
def running : State := armed.onHart fun h => { h with seq := { h.seq with run := true } }
def ended : State := armed.onHart fun h => { h with seq := { h.seq with ending := 1 } }
theorem witness_SequencerRunsTheLoop : Ready (.fork false) (st []) ∧ (st []).hart.seq.count = 0 ∧ Ready (.fork false) armed ∧ armed.hart.seq.count ≠ 0 ∧
    (∀ l, l = loopBody { armed.hart with seq := { armed.hart.seq with pos := 0, run := true, stopped := false } } → shortStream armed.hart l 1 = none) ∧
    0 < ended.hart.seq.ending ∧ ended.repl = [] ∧ running.hart.seq.run = true ∧ running.hart.seq.stopped = false ∧ running.hart.walk = none ∧
        running.hart.loads = [] ∧
    running.hart.poison = [] ∧ running.hart.bound 2 = none ∧
    (running.hart.seq.sqi[running.hart.seq.pos.toNat]'running.hart.seq.pos.isLt).toNat = (Instr.vnot 2 1 .none .w64).words.headD 0 ∧
    running.hart.seq.pos.toNat + 1 < running.hart.seq.count.toNat := by
  refine ⟨.of_gate ?_, ?_, .of_gate ?_, ?_, ?_, ?_, ?_, ?_, ?_, ?_, ?_, ?_, ?_, ?_, ?_⟩
  case refine_5 => rintro l rfl; decide +kernel
  all_goals decide +kernel
/-- The core has a lease command left. -/
def forking : State := (st []).setArray 0 { ArrayUnit.reset with queue := [⟨7, 0, .zero 0, 256, 256, [], true⟩] }
theorem witness_SequencerRunsTheLoop_mb : Ready (.fork true) (st []) ∧ ((st []).array (st []).cluster).queue = [] ∧
    ((st []).array (st []).cluster).parks = [] ∧
    Ready (.fork true) forking ∧ forking.hart.seq.count = 0 ∧
    ((forking.array forking.cluster).queue.filter fun c => c.core == forking.cur && c.op.leased).map Command.id ≠ [] := by
  refine ⟨.of_gate ?_, ?_, ?_, .of_gate ?_, ?_, ?_⟩ <;> decide +kernel
theorem witness_SequencerRunsTheLoop_ahead : (bound false 3).hart.streams[2].en = true ∧ (bound false 3).hart.streams[2].dir = false ∧
    (bound false 3).hart.streams[2].am = .lo ∧ (bound false 3).hart.streams[2].ahead = [] ∧ (bound false 3).hart.streams[2].sn ≠ 0 ∧
    (bound false 3).hart.streams[2].sa.toNat + 64 ≤ 2 ^ 19 ∧ (bound false 3).adds = [] ∧ (bound false 3).hart.walk = none := by decide +kernel

end Sys2Proof.Tests
end

