-- ==== Sys2Proof/Tests/Witness3.lean ====
section
/-! SUPPORT. For every statement with hypotheses, a state and operands that meet them all: the array, the Ephemeris, counters, waits. -/

namespace Sys2Proof.Tests

open Sys2Proof.Machine Sys2Proof.Claims

set_option Elab.async false

/-- A pair by its first part. -/
theorem of_fst {α β : Type} {x : α × β} {a : α} (h : x.1 = a) : x = (a, x.2) := by rw [← h]
/-- Five facts before the others. -/
theorem and_five {p q x y z rest : Prop} (five : p ∧ q ∧ x ∧ y ∧ z) (k : rest) : p ∧ q ∧ x ∧ y ∧ z ∧ rest := by simp only [five, k, and_self]

/-- What passes. -/
def okOf {ε α : Type} (d : α) (e : Except ε α) : α := match e with | .ok x => x | .error _ => d

/-- It passes. -/
def passed {ε α : Type} (e : Except ε α) : Bool := match e with | .ok _ => true | .error _ => false

theorem of_passed {ε α β : Type} (d : α) {x : Except ε α × β} (h : passed x.1 = true) : x = (.ok (okOf d x.1), x.2) := by
  obtain ⟨e, b⟩ := x
  cases e
  · cases h
  · rfl

/-! ## Leases and ownership -/

/-- One row and one column are valid. -/
def small (l : List (Reg × Word)) : State := (leased l).onHart fun h => { h with lease := { h.lease with rows := 1, cols := 1 } }
/-- The lease was granted and not yet taken. -/
def grantedSt : State := ((st []).setArray 0 { ArrayUnit.reset with holder := some 0 }).onHart fun h => { h with wait := some .leaseGranted }
theorem witness_LeaseInstructionsComplete : Ready (.fmt .i8 .i8 .i32 .none false) (st []) ∧ Ready .mrel (st []) ∧ noResume (st []) ∧
    (st []).hart.lease.held = false ∧
    Ready .mrel (leased []) ∧ noResume (leased []) ∧ (leased []).hart.lease.held = true ∧ Ready (.mvc 1 2) (leased [(1, 0), (2, 999)]) ∧
    noResume (leased [(1, 0), (2, 999)]) ∧ (leased [(1, 0), (2, 999)]).hart.lease.held = true ∧ Ready (.mlease 5) (leased []) ∧ Ready (.mlease 5) grantedSt ∧
    grantedSt.hart.lease.held = false ∧ grantedSt.hart.wait = some .leaseGranted ∧ Ready (.mvc 1 2) (st []) ∧ (st []).hart.wait = none := by
  unfold noResume
  refine ⟨.of_gate ?_, .of_gate ?_, ?_, ?_, .of_gate ?_, ?_, ?_, .of_gate ?_, ?_, ?_, .of_gate ?_, .of_gate ?_, ?_, ?_, .of_gate ?_, ?_⟩ <;> decide +kernel
theorem witness_OwnershipCompletes : Ready (.oclaim 5 4) (st []) ∧ ((st []).array (st []).cluster).slots[(4 : Fin 64)] = none ∧
    Ready (.oclaim 5 0) (leased []) ∧
    ((leased []).array (leased []).cluster).slots[(0 : Fin 64)] = some ⟨0, 0xFF⟩ ∧ Ready (.ofree 0) (leased []) ∧ contextOwner (leased []) = ⟨0, 0xFF⟩ ∧
    ((leased []).array (leased []).cluster).queue = [] ∧ ((leased []).array (leased []).cluster).parks = [] ∧ Ready (.ofree 9) (leased []) ∧
        (leased []).hart.wait = none ∧
    ((leased []).array (leased []).cluster).slots[(9 : Fin 64)] ≠ some (contextOwner (leased [])) := by
  refine ⟨.of_gate ?_, ?_, .of_gate ?_, ?_, .of_gate ?_, ?_, ?_, ?_, .of_gate ?_, ?_, ?_⟩ <;> decide +kernel
theorem witness_LeaseCommandsAreAccepted : ∃ f pages s1, leaseForm (small [(1, 0x1000), (2, 64)]) (.mld 1 2 .lo false 0) = some f ∧
    Ready (.mld 1 2 .lo false 0) (small [(1, 0x1000), (2, 64)]) ∧ noResume (small [(1, 0x1000), (2, 64)]) ∧ f.fits = true ∧
    (small [(1, 0x1000), (2, 64)]).hart.lease.held = true ∧ (small [(1, 0x1000), (2, 64)]).hart.lease.left ≠ 0 ∧
    (∀ n ∈ f.names, ownsNamed (small [(1, 0x1000), (2, 64)]) n = true) ∧
    (∀ a b, f.addr = some (a, b) → ((small [(1, 0x1000), (2, 64)]).g a).toNat % 64 = 0 ∧ ((small [(1, 0x1000), (2, 64)]).g b).toNat % 64 = 0) ∧
    touchRuns (small [(1, 0x1000), (2, 64)]) f.am f.need f.runs = (.ok pages, s1) := by
  refine ⟨_, _, _, rfl, .of_gate ?_, ?_, ?_, ?_, ?_, ?_, ?_, of_passed [] ?_⟩
  case refine_7 => rintro a b ⟨⟩; decide +kernel
  all_goals first | decide +kernel | (unfold noResume; decide +kernel)
/-- MMA and MST fit the default formats where slot and tile are owned; a lease without commands left. -/
theorem witness_LeaseCommandsAreAccepted_others : (leaseForm (small [(1, 0x1000), (2, 64)]) (.mma 0 0 1)).map (·.fits) = some true ∧
    (leaseForm (small [(1, 0x1000), (2, 64)]) (.mst .f32 1 2 .lo false 0)).map (·.fits) = some true ∧
    (leaseForm (small [(1, 0x1000), (2, 64)]) (.mzero 0)).map (·.fits) = some true ∧
    ownsTile (small []) 0 = true ∧ ownsSlot (small []) 1 = true ∧ (leaseForm (st []) (.mma 0 0 1)).map (·.fits) = some true ∧ Ready (.mma 0 0 1) (st []) ∧
    noResume (st []) ∧ (st []).hart.lease.held = false := by
  unfold noResume
  refine ⟨?_, ?_, ?_, ?_, ?_, ?_, .of_gate ?_, ?_, ?_⟩ <;> decide +kernel
/-- Cores 3 and 5 of cluster 0 wait for the lease. -/
def asking : State := (st []).setArray 0 { ArrayUnit.reset with waiting := [5, 3] }
/-- Core 5 of cluster 0 asks for its parked batch back. -/
def resuming : State := (st []).setArray 0 { ArrayUnit.reset with resumes := [5], parks := [⟨5, [⟨0, 5, .zero 0, 256, 256, [], false⟩], 7, 256, 256⟩] }
theorem witness_GrantsFollowArbitration : (asking.array 0).holder = none ∧ (asking.array 0).resumes = [] ∧ (asking.array 0).last = 15 ∧
    0 * 16 + ((asking.array 0).last + 1 + 3) % 16 ∈ (asking.array 0).waiting ∧ (∀ j, j < 3 →
        0 * 16 + ((asking.array 0).last + 1 + j) % 16 ∉ (asking.array 0).waiting) ∧
    (resuming.array 0).resumes ≠ [] ∧ (resuming.array 0).holder = none ∧ 0 * 16 + 5 ∈ (resuming.array 0).resumes ∧ (∀ j, j < 5 →
        0 * 16 + j ∉ (resuming.array 0).resumes) ∧
    (resuming.array 0).parks.find? (fun q => q.core == 0 * 16 + 5) = some ⟨5, [⟨0, 5, .zero 0, 256, 256, [], false⟩], 7, 256, 256⟩ := by decide +kernel
/-- Two commands, the first begun. -/
def queued : State := (st []).setArray 0 { ArrayUnit.reset with queue := [⟨0, 0, .zero 1, 256, 256, [], true⟩, ⟨1, 0, .zero 0, 256, 256, [], false⟩], rdv := [(3, [])] }
theorem witness_ArrayCommandsBeginAndRetire : (queued.array 0).queue[1]? = some ⟨1, 0, .zero 0, 256, 256, [], false⟩ ∧
    (∀ p ∈ (queued.array 0).queue.take 1, p.begun = true) ∧ coreSettled queued 0 = true ∧
        (queued.array 0).queue[0]? = some ⟨0, 0, .zero 1, 256, 256, [], true⟩ ∧
    queued.repl = [] ∧ (queued.array 0).rdv[0]? = some (3, []) ∧ (⟨0, 0, .zero 1, 256, 256, [], false⟩ : Command).begun = false := by decide +kernel
/-- One command of core 0, of one row and one column, with page 1 mapped, waits to begin; stream 0 is bound, and the map bit of its block 1 is set. -/
def stream1 : StepStream := ⟨0x10000, 0x10000, 0x4000000000000005, 0, 0, 1, .i8, .i8, true, false, false, true, 7, 2⟩
def cmd1 (op : CmdOp) : Command := ⟨0, 0, op, 1, 1, [⟨1, 0x130000, true, 0x130107⟩], false⟩
def begin1 (op : CmdOp) : State :=
  (st []).setArray 0 { ArrayUnit.reset with queue := [cmd1 op], eph := (Vector.replicate 16 none).set 0 (some stream1) }
theorem begins1 (op : CmdOp) (h : coreSettled (begin1 op) 0 = true) (k : ((begin1 op).array 0).queue = [cmd1 op]) : Begins (begin1 op) 0 0 (cmd1 op) :=
  ⟨by decide, by rw [k]; exact ⟨rfl, rfl⟩, by rw [k]; simp, h, ⟨by change 1 ≤ 256; decide, by change 1 ≤ 256; decide⟩⟩
theorem witness_ArrayCommandEffects_load : Begins (begin1 (.load .mldt .i8 true 3 0x1000 64 .lo)) 0 0 (cmd1 (.load .mldt .i8 true 3 0x1000 64 .lo)) ∧
    slotType .i8 = true ∧ (∀ n ∈ slotPair .i8 3, n < 64) ∧
    readable (begin1 (.load .mldt .i8 true 3 0x1000 64 .lo)) (cmd1 (.load .mldt .i8 true 3 0x1000 64 .lo)) .lo (loadRuns .mldt .i8 true 0x1000 64 1 1) := by
  refine ⟨begins1 _ (by decide +kernel) (by decide +kernel), by decide, by decide, ?_⟩
  unfold readable; decide +kernel
theorem witness_ArrayCommandEffects_store : Begins (begin1 (.store .f32 true 0 0x1000 1088 .lo)) 0 0 (cmd1 (.store .f32 true 0 0x1000 1088 .lo)) ∧
    takes (begin1 (.store .f32 true 0 0x1000 1088 .lo)) (cmd1 (.store .f32 true 0 0x1000 1088 .lo)) .lo
      (storedRuns (begin1 (.store .f32 true 0 0x1000 1088 .lo)) 0 (cmd1 (.store .f32 true 0 0x1000 1088 .lo)) .f32 true 0 0x1000 1088) := by
  refine ⟨begins1 _ (by decide +kernel) (by decide +kernel), ?_⟩
  unfold takes; decide +kernel
theorem witness_ArrayCommandEffects_mul : Begins (begin1 (.mul .i8 .i8 .i32 .none false 0 0 1)) 0 0 (cmd1 (.mul .i8 .i8 .i32 .none false 0 0 1)) :=
  begins1 _ (by decide +kernel) (by decide +kernel)
/-- The bytes of a signature. -/
theorem sigBytes_length (t : ElemType) (r l : List Nat) : (sigBytes (signature t r l)).length = 2048 := by
  have h (m : List (Nat × Nat)) : (sigBytes m).length = 8 * m.length := by
    unfold sigBytes
    induction m with
    | nil => rfl
    | cons x m ih => rw [List.flatMap_cons, List.length_append, ih, List.length_append, toBytes_length, toBytes_length, List.length_cons]; omega
  rw [h]
  simp [signature]
theorem takes_one {s : State} {q : Command} {am : AddrMode} {a n : Nat} {l : List Byte} (h : l.length = n)
    (k : ((cmdSegs s q am a n).map Seg.len).sum = n ∧ ∀ g ∈ cmdSegs s q am a n, g.ok = true ∧ pteRepl g.entry = false ∧ g.place + g.len ≤ 2 ^ 58) :
    takes s q am [(a, l)] := by
  intro r hr
  rw [List.mem_singleton.mp hr, show (a, l).2.length = n from h]
  exact k
/-- ELD of block 0: its pages take the signature and the block word, whatever they are. -/
theorem witness_ArrayCommandEffects_eld (c : Bool) (w : Nat) (rows scales : List Nat) :
    Begins (begin1 (.eld 0 0 3 0x1000 256 .lo)) 0 0 (cmd1 (.eld 0 0 3 0x1000 256 .lo)) ∧
        ((begin1 (.eld 0 0 3 0x1000 256 .lo)).array 0).eph[0] = some stream1 ∧
    readable (begin1 (.eld 0 0 3 0x1000 256 .lo)) (cmd1 (.eld 0 0 3 0x1000 256 .lo)) .lo (loadRuns .mld .i8 false 0x1000 256 256 256) ∧
    readable (begin1 (.eld 0 0 3 0x1000 256 .lo)) (cmd1 (.eld 0 0 3 0x1000 256 .lo)) .gl [(sigAddr stream1 0, 2056)] ∧
    takes (begin1 (.eld 0 0 3 0x1000 256 .lo)) (cmd1 (.eld 0 0 3 0x1000 256 .lo)) .gl
      (if c then [(sigAddr stream1 0, sigBytes (signature .i8 rows scales) ++ toBytes 8 w)] else []) := by
  refine ⟨begins1 _ (by decide +kernel) (by decide +kernel), by decide +kernel, ?_, ?_, ?_⟩
  · unfold readable; decide +kernel
  · unfold readable; decide +kernel
  · cases c
    · intro r hr; cases hr
    · exact takes_one (n := 2056) (by rw [List.length_append, sigBytes_length, toBytes_length]) (by decide +kernel)
theorem witness_ArrayCommandEffects_emma : Begins (begin1 (.emma 0 0 0 0 1)) 0 0 (cmd1 (.emma 0 0 0 0 1)) ∧
    ((begin1 (.emma 0 0 0 0 1)).array 0).eph[0] = some stream1 ∧ stream1.map.getLsbD 1 = true ∧ stream1.map.getLsbD 0 = false ∧
    takes (begin1 (.emma 0 0 0 0 1)) (cmd1 (.emma 0 0 0 0 1)) .gl [(outAddr stream1 0,
        toBytes 4 (output (begin1 (.emma 0 0 0 0 1)) 0 .i8 .i8 .i32 .none 0 1 0 0 0).1)] :=
  ⟨begins1 _ (by decide +kernel) (by decide +kernel), by decide +kernel, by decide +kernel, by decide +kernel,
      takes_one (toBytes_length 4 _) (by decide +kernel)⟩
theorem witness_ArrayCommandEffects_esig (rows scales : List Nat) : Begins (begin1 (.esig 0 0x1000 256 .lo 0x10000)) 0 0 (cmd1 (.esig 0 0x1000 256 .lo 0x10000)) ∧
    takes (begin1 (.esig 0 0x1000 256 .lo 0x10000)) (cmd1 (.esig 0 0x1000 256 .lo 0x10000)) .gl [((0x10000 : Word).toNat,
        sigBytes (signature .i8 rows scales))] :=
  ⟨begins1 _ (by decide +kernel) (by decide +kernel), takes_one (sigBytes_length _ _ _) (by decide +kernel)⟩

/-! ## The Ephemeris -/

/-- A step stream over page 2, bf16 off, no scales, signatures at 0x10000, outputs at 0x10000, its counter in the event unit. -/
def stream0 : StepStream := ⟨0x10000, 0x10000, 0x4000000000000005, 0, 0, 1, .i8, .i8, true, false, false, true, 7, 3⟩
/-- Stream 0 is bound, and its record lies at 0x400. -/
def eph (l : List (Reg × Word)) : State := (pages { small l with mem := (small l).mem.write (localPlace 0 0x400) stream0.record }).setArray 0
  { (small l).array 0 with eph := Vector.replicate 16 none |>.set 0 (some stream0) }
theorem witness_EphemerisForms : Ready (.ebind 0 1 2 3) (eph [(1, 0x400)]) ∧ ((eph [(1, 0x400)]).g 1).toNat % 64 = 0 ∧
    ((eph [(1, 0x400)]).g 1).toNat + 576 ≤ 2 ^ 19 ∧
    (eph [(1, 0x400)]).adds = [] ∧ streamBusy ((eph [(1, 0x400)]).array (eph [(1, 0x400)]).cluster) 0 = false ∧ (eph [(1, 0x400)]).g 2 = 0 ∧
    recordOk (eph [(1, 0x400)]) ((eph [(1, 0x400)]).mem.readN (localPlace (eph [(1, 0x400)]).cur ((eph [(1, 0x400)]).g 1).toNat) 576) = true ∧
    recordOk (eph [(1, 0x440)]) ((eph [(1, 0x440)]).mem.readN (localPlace (eph [(1, 0x440)]).cur ((eph [(1, 0x440)]).g 1).toNat) 576) = false ∧
    ((eph [(2, 1)]).array (eph [(2, 1)]).cluster).eph[(1 : Fin 16)] = none ∧
        ((eph [(2, 1)]).array (eph [(2, 1)]).cluster).eph[(0 : Fin 16)] = some stream0 := by
  refine ⟨.of_gate ?_, ?_, ?_, ?_, ?_, ?_, ?_, ?_, ?_, ?_⟩ <;> decide +kernel
theorem witness_EphemerisForms_others : Ready (.emap 0 1 2 3) (eph [(1, 63)]) ∧ ((eph [(1, 63)]).g 1).toNat < 64 ∧ eldOpen (eph [(1, 63)]) 0 = false ∧
    Ready (.eforce 0) (eph []) ∧ Ready (.esig 1 1 2 3) (eph []) ∧ (eph []).hart.wait = none ∧ ((eph []).array (eph []).cluster).eph[(1 : Fin 16)] = none ∧
    ((eph []).array (eph []).cluster).eph[(0 : Fin 16)] = some stream0 := by
  refine ⟨.of_gate ?_, ?_, ?_, .of_gate ?_, .of_gate ?_, ?_, ?_, ?_⟩ <;> decide +kernel
/-- ELD of a tile at 0x1000 of local memory (mode LO, pitch 256) into slot 0. -/
def eldSt : State := eph [(1, 0x1000), (2, 0x10001000000)]
theorem witness_EphemerisCommandsAreAccepted : ∃ pages s1, Ready (.eld 0 1 2) eldSt ∧ noResume eldSt ∧ eldSt.hart.lease.held = true ∧
    eldSt.hart.lease.left ≠ 0 ∧
    (eldSt.array eldSt.cluster).eph[(0 : Fin 16)] = some stream0 ∧ eldSt.g 2 &&& 0xF8C0F000 = 0 ∧ (eldSt.g 2).toNat % 2 ^ 12 < stream0.nbm.toNat + 1 ∧
    (∀ k ∈ slotPair stream0.aty ((eldSt.g 2).toNat / 2 ^ 16 % 64), ownsSlot eldSt k = true) ∧ (eldSt.g 1).toNat % 64 = 0 ∧
    (((eldSt.g 2).extractLsb' 32 32).signExtend 64).toNat % 64 = 0 ∧
    touchAll eldSt [(AddrMode.ofCode ((eldSt.g 2).toNat / 2 ^ 24 % 4), needR, loadRuns .mld stream0.aty stream0.scl (eldSt.g 1)
      (((eldSt.g 2).extractLsb' 32 32).signExtend 64) 256 256), (.gl, needRW, [(stream0.sigb.toNat + 4096 * ((eldSt.g 2).toNat % 2 ^ 12),
          2056)])] = (.ok pages, s1) := by
  refine ⟨_, _, .of_gate ?_, ?_, ?_, ?_, ?_, ?_, ?_, ?_, ?_, ?_, of_passed [] ?_⟩
  all_goals first | decide +kernel | (unfold noResume; decide +kernel)
/-- EMMA of slots 0 and 1 into tile 0, output in page 1. -/
def emmaSt : State := eph [(1, 0), (2, 1)]
theorem witness_EphemerisCommandsAreAccepted_emma : ∃ pages s1, Ready (.emma 0 1 2) emmaSt ∧ noResume emmaSt ∧
    (emmaSt.array emmaSt.cluster).eph[(0 : Fin 16)] = some stream0 ∧
    emmaSt.hart.lease.held = true ∧ emmaSt.hart.lease.left ≠ 0 ∧ (emmaSt.g 1).toNat < stream0.nbm.toNat + 1 ∧ (emmaSt.g 2).toNat < 2 ^ 16 ∧
    ownsTile emmaSt ((emmaSt.g 2).toNat / 2 ^ 12) = true ∧
    (∀ k ∈ slotPair stream0.aty ((emmaSt.g 2).toNat / 2 ^ 6 % 64) ++ slotPair stream0.bty ((emmaSt.g 2).toNat % 64), ownsSlot emmaSt k = true) ∧
    touchAll emmaSt [(.gl, needW, (List.range emmaSt.hart.lease.rows.toNat).map fun r =>
      (stream0.outb.toNat + 262144 * (emmaSt.g 1).toNat + 1024 * r, 4 * emmaSt.hart.lease.cols.toNat))] = (.ok pages, s1) := by
  refine ⟨_, _, .of_gate ?_, ?_, ?_, ?_, ?_, ?_, ?_, ?_, ?_, of_passed [] ?_⟩
  all_goals first | decide +kernel | (unfold noResume; decide +kernel)
/-- ESIG of a tile at 0x1000 of local memory to 0x10000. -/
def esigSt : State := eph [(1, 0x1000), (2, 0x10001000000), (3, 0x10000)]
theorem witness_EphemerisCommandsAreAccepted_esig : ∃ pages s1, Ready (.esig 0 1 2 3) esigSt ∧
    (esigSt.array esigSt.cluster).eph[(0 : Fin 16)] = some stream0 ∧
    esigSt.g 2 &&& 0xF8FFFFFF = 0 ∧ (esigSt.g 1).toNat % 64 = 0 ∧ (((esigSt.g 2).extractLsb' 32 32).signExtend 64).toNat % 64 = 0 ∧
        (esigSt.g 3).toNat % 64 = 0 ∧
    touchAll esigSt [(AddrMode.ofCode ((esigSt.g 2).toNat / 2 ^ 24 % 4), needR, loadRuns .mld stream0.aty stream0.scl (esigSt.g 1)
      (((esigSt.g 2).extractLsb' 32 32).signExtend 64) 256 256), (.gl, needW, [((esigSt.g 3).toNat, 2048)])] = (.ok pages, s1) := by
  refine ⟨_, _, .of_gate ?_, ?_, ?_, ?_, ?_, ?_, of_passed [] ?_⟩ <;> decide +kernel
theorem witness_StepEnds : ∃ s1, Ready (.estep 0 5) (eph []) ∧ ((eph []).array (eph []).cluster).eph[(0 : Fin 16)] = some stream0 ∧
    (eph []).hart.wait = none ∧
    (∀ q ∈ ((eph []).array (eph []).cluster).queue, q.op.stream ≠ some 0) ∧ refKind stream0.sctr = 1 ∧
    releaseWaits (eph []) = false ∧ releaseWaits s1 = false ∧ reachRef (eph []) needRW true stream0.sctr = (.ok (.at (eventPlace 0 5) true .rc), s1) :=
  ⟨eph [], .of_gate (by decide +kernel), by decide +kernel, by decide +kernel, by decide +kernel, by decide +kernel, by decide +kernel,
      by decide +kernel, rfl⟩

end Sys2Proof.Tests
end

