-- ==== Sys2Proof/Tests/Witness4.lean ====
section
/-! SUPPORT. For every statement with hypotheses, a state and operands that meet them all: counters, waits, block transfers. -/

namespace Sys2Proof.Tests

open Sys2Proof.Machine Sys2Proof.Claims

set_option Elab.async false

/-! ## Counters -/

/-- The state in user mode. -/
def asUser (s : State) : State := s.onHart fun h => { h with tsw := { h.tsw with mode := .user } }
/-- The cluster 191 belongs to a partition of its own. -/
def split (s : State) : State := { s with mgmt := { s.mgmt with nodes := [(383, .active)] } }
/-- A broken form (bit 55 of a KIND 00 reference), one off its word, one with both faults, the event unit of a cluster outside the partition, counter
4032 of an event unit in user mode, and a tag given to CINIT and CPOISON. -/
theorem witness_CounterReferenceChecks_form : counterRef (st [(1, 0x0080000000000000)]) (.cadd 1 2 none) = some (0x0080000000000000, false) ∧
    Ready (.cadd 1 2 none) (st [(1, 0x0080000000000000)]) ∧ (st [(1, 0x0080000000000000)]).hart.wait = none ∧ refForm 0x0080000000000000 = false ∧
    Ready (.cread 1 2 3 none) (st [(1, 0x10004)]) ∧ refForm 0x10004 = true ∧ (0x10004 : Word).extractLsb' 62 2 = 0 ∧ (0x10004 : Word).toNat % 8 ≠ 0 ∧
    Ready (.caddv 1 2 3 none) (st [(1, 0x0080000000000001)]) ∧ refForm 0x0080000000000001 = false ∧ (0x0080000000000001 : Word).toNat % 8 ≠ 0 := by
  refine ⟨?_, .of_gate ?_, ?_, ?_, .of_gate ?_, ?_, ?_, ?_, .of_gate ?_, ?_, ?_⟩ <;> decide +kernel
theorem witness_CounterReferenceChecks : Ready (.cwait 1 2 3 none) (split (st [(1, 0x6FC0000000000007)])) ∧ refForm 0x6FC0000000000007 = true ∧
    (0x6FC0000000000007 : Word).extractLsb' 62 2 = 1 ∧
        inPart (split (st [])) (split (st [])).part ((0x6FC0000000000007 : Word).extractLsb' 54 8).toNat = false ∧
    Ready (.caw 1 2 3 none) (asUser (st [(1, 0x4000000000000FC0)])) ∧ refForm 0x4000000000000FC0 = true ∧
    (asUser (st [])).hart.tsw.mode = .user ∧ 4032 ≤ (0x4000000000000FC0 : Word).toNat % 4096 ∧
    counterRef (st [(1, 0xC00000000000003F)]) (.cinit 1 2 3 none) = some (0xC00000000000003F, true) ∧ refForm 0xC00000000000003F = true ∧
    Ready (.cinit 1 2 3 none) (st [(1, 0xC00000000000003F)]) ∧ Ready (.cpoison 1 none) (st [(1, 0xC00000000000003F)]) := by
  refine ⟨.of_gate ?_, ?_, ?_, ?_, .of_gate ?_, ?_, ?_, ?_, ?_, ?_, .of_gate ?_, .of_gate ?_⟩ <;> decide +kernel
/-- A counter of the event unit of cluster 0 and the last word of page 1. -/
def ev : State := pst [(1, 0x4000000000000007), (2, 5), (3, 0x1FFF8), (4, 0xC00000000000003F)]
theorem witness_CounterForms : ∃ s1 s2 s3 s4, Ready (.cadd 1 2 none) ev ∧ coreRef ev needRW false (ev.g 1) = (.ok (.at (eventPlace 0 7) true .rc), s1) ∧
    Ready (.caddv 3 2 5 (some .pkg)) ev ∧ coreRef ev needRW false (ev.g 3) = (.ok (.at 0x13FFF8 true .rc), s2) ∧ orderWaits s2 0x13FFF8 .rc = false ∧
    Ready (.cread 3 5 6 none) ev ∧ coreRef ev needR false (ev.g 3) = (.ok (.at 0x13FFF8 true .rc), s3) ∧ counterWaits s3 0x13FFF8 .rc = false ∧
    Ready (.cadd 4 2 none) ev ∧ coreRef ev needRW false (ev.g 4) = (.ok (.tag 63), s4) :=
  ⟨_, _, _, _, .of_gate (by decide +kernel), of_fst (by decide +kernel), .of_gate (by decide +kernel), of_fst (by decide +kernel), by decide +kernel,
    .of_gate (by decide +kernel), of_fst (by decide +kernel), by decide +kernel, .of_gate (by decide +kernel), of_fst (by decide +kernel)⟩
/-- A store of core 0 to a replicated page stands in the sequence; one of a class that no release waits for does. -/
def replOf (un : Bool) : State := { ev with repl := [⟨3, 0, [], 0, 0, un⟩] }
theorem witness_CounterForms_tag : ∃ s1 s2, Ready (.cadd 4 2 (some .pkg)) (replOf false) ∧
    coreRef (replOf false) needRW false ((replOf false).g 4) = (.ok (.tag 63), s1) ∧ (∃ w ∈ (replOf false).repl, w.core = (replOf false).cur ∧ w.un = false) ∧
    Ready (.cadd 4 2 (some .pkg)) (replOf true) ∧ coreRef (replOf true) needRW false ((replOf true).g 4) = (.ok (.tag 63), s2) ∧
    (∀ w ∈ (replOf true).repl, w.core = (replOf true).cur → w.un = true) ∧ (∀ x ∈ (replOf true).adds, x.core = (replOf true).cur → x.ord = .un) :=
  ⟨_, _, .of_gate (by decide +kernel), of_fst (by decide +kernel), by decide +kernel, .of_gate (by decide +kernel), of_fst (by decide +kernel),
      by decide +kernel,
    by decide +kernel⟩
/-- The default scope of a counter of the own event unit, of global memory, and a larger one named (R216). -/
theorem witness_CounterForms_scope : scopeOf ev.cur (eventPlace 0 7) none = .clu ∧ scopeOf ev.cur (eventPlace 0 7) (some .sec) = .sec ∧
    scopeOf 3000 (eventPlace 0 7) (some .clu) = .pkg ∧ scopeOf ev.cur (hostPlace 1 8) none = .sys := by decide +kernel
/-- Core 9 waits for 4 at the counter; a waiter for 900 stands beside it. -/
def waitedFor : State := { ev with roll := [⟨eventPlace 0 7, .core 9, 4, .clu⟩, ⟨eventPlace 0 7, .core 8, 900, .clu⟩, ⟨eventPlace 0 8, .core 7, 1, .clu⟩] }
theorem witness_CounterManagementCompletes : ∃ s1 s2, Ready (.cinit 1 2 5 none) ev ∧
    coreRef ev needRW true (ev.g 1) = (.ok (.at (eventPlace 0 7) true .rc), s1) ∧
    orderWaits s1 (eventPlace 0 7) .rc = false ∧ (∀ e ∈ ev.roll, ctrPlace e.key ≠ ctrPlace (eventPlace 0 7)) ∧ Ready (.cinit 1 2 5 none) waitedFor ∧
        Ready (.cpoison 1 none) waitedFor ∧
    coreRef waitedFor needRW true (waitedFor.g 1) = (.ok (.at (eventPlace 0 7) true .rc), s2) ∧ orderWaits s2 (eventPlace 0 7) .rc = false ∧ 
    (∃ e ∈ waitedFor.roll, ctrPlace e.key = ctrPlace (eventPlace 0 7)) :=
  ⟨_, _, .of_gate (by decide +kernel), of_fst (by decide +kernel), by decide +kernel, by decide +kernel, .of_gate (by decide +kernel),
      .of_gate (by decide +kernel),
    of_fst (by decide +kernel), by decide +kernel, by decide +kernel⟩
/-- The counter is poisoned; AP is set; a wait has been woken. -/
def poisonedEv : State := { ev with poison := [eventPlace 0 7] }
def apEv : State := ev.onHart fun h => { h with tsw := { h.tsw with ap := true } }
def wokenEv : State := ev.onHart fun h => { h with wait := some (.woken 2 0 (some (9, 5))) }
theorem witness_CounterWaitsComplete : ∃ s1 s2, Ready (.cwait 1 2 5 none) ev ∧ ev.hart.wait = none ∧
    coreRef ev needR false (ev.g 1) = (.ok (.at (eventPlace 0 7) true .rc), s1) ∧
    counterWaits s1 (eventPlace 0 7) .rc = false ∧ ev.poisoned (eventPlace 0 7) = false ∧ ¬ reaches (ev.counter (eventPlace 0 7)) (ev.g 2) ∧
        rollFull s1 (eventPlace 0 7) = false ∧
    reaches (ev.counter (eventPlace 0 7)) (ev.g 0) ∧ Ready (.cwait 1 2 5 none) poisonedEv ∧ poisonedEv.poisoned (eventPlace 0 7) = true ∧
        Ready (.cwaitt 1 2 0 none) ev ∧ ev.g 0 = 0 ∧
    Ready (.cwaitt 1 2 5 none) wokenEv ∧ wokenEv.hart.wait = some (.woken 2 0 (some (9, 5))) ∧ Ready (.caw 1 2 0 none) ev ∧ ev.hart.tsw.ap = false ∧
    Ready (.caw 1 2 0 none) apEv ∧ apEv.hart.tsw.ap = true ∧ coreRef apEv needRW false (apEv.g 1) = (.ok (.at (eventPlace 0 7) true .rc), s2) ∧
    counterWaits s2 (eventPlace 0 7) .rc = false ∧ reaches (apEv.counter (eventPlace 0 7)) (apEv.g 0) := by
  refine ⟨_, _, .of_gate ?_, ?_, of_fst ?_, ?_, ?_, ?_, ?_, ?_, .of_gate ?_, ?_, .of_gate ?_, ?_, .of_gate ?_, ?_, .of_gate ?_, ?_, .of_gate ?_, ?_,
      of_fst ?_, ?_, ?_⟩
  all_goals first | decide +kernel | (unfold reaches; decide +kernel)
/-- The core's own earlier add is on its way. -/
def addBefore : State := { ev with adds := [⟨0, eventPlace 0 9, 1, false, .clu, .rc⟩] }
theorem witness_CounterWaitsComplete_caw : ∃ s1 s2, Ready (.caw 1 2 0 none) ev ∧ ev.hart.wait = none ∧ ev.hart.tsw.ap = false ∧
    coreRef ev needRW false (ev.g 1) = (.ok (.at (eventPlace 0 7) true .rc), s1) ∧ orderWaits s1 (eventPlace 0 7) .rc = false ∧
        Ready (.caw 1 2 0 none) addBefore ∧
    addBefore.hart.wait = none ∧ addBefore.hart.tsw.ap = false ∧ coreRef addBefore needRW false (addBefore.g 1) = (.ok (.at (eventPlace 0 7) true .rc), s2) ∧
    orderWaits s2 (eventPlace 0 7) .rc = true :=
  ⟨_, _, .of_gate (by decide +kernel), by decide +kernel, by decide +kernel, of_fst (by decide +kernel), by decide +kernel, .of_gate (by decide +kernel),
    by decide +kernel, by decide +kernel, of_fst (by decide +kernel), by decide +kernel⟩
/-- Core 2's add is on its way to a counter with waiters; a wake for core 9 is; core 9 polls, and core 6's CWAITT is over. -/
def adding : State := { waitedFor with
  adds := [⟨1, eventPlace 0 9, 1, false, .clu, .rc⟩, ⟨2, eventPlace 0 7, 6, true, .clu, .rc⟩]
  wakes := [⟨.core 9, 0⟩] }
def onCore (s : State) (n : Nat) (f : Hart → Hart) : State := s.modifyHart n f
def waiting9 (poll : Bool) : State := onCore adding 9 fun h => { h with wait := some (.counter (eventPlace 0 7) 0 poll 3 none) }
def late6 : State := onCore adding 6 fun h => { h with wait := some (.counter (eventPlace 0 7) 50 false 3 (some (10, 5))), irq := { h.irq with cycle := 13 } }
theorem witness_HomeroomStepsComplete : adding.adds[1]? = some ⟨2, eventPlace 0 7, 6, true, .clu, .rc⟩ ∧ (∀ b ∈ adding.adds.take 1, b.core ≠ 2) ∧
    adding.repl = [] ∧
    adding.poisoned (eventPlace 0 7) = false ∧ (waiting9 false).wakes[0]? = some ⟨.core 9, 0⟩ ∧
        (hartAt (waiting9 false) 9).wait = some (.counter (eventPlace 0 7) 0 false 3 none) ∧
    (hartAt (waiting9 true) 9).wait = some (.counter (eventPlace 0 7) 0 true 3 none) ∧ (waiting9 true).poisoned (eventPlace 0 7) = false ∧
    reaches ((waiting9 true).counter (eventPlace 0 7)) 0 ∧ (hartAt late6 6).wait = some (.counter (eventPlace 0 7) 50 false 3 (some (10, 5))) ∧
    (10 : Word).toNat ≤ ((hartAt late6 6).irq.cycle - 3).toNat := by
  unfold reaches
  decide +kernel
/-- Core 6's CWAITT on tag 2 is over: the tag holds 8, the wait asks for 9 or for 8. -/
def late6tag (thr : Word) : State := onCore adding 6 fun h =>
  { h with tagc := h.tagc.set 2 8, wait := some (.own 3 2 thr 3 (some (10, 5))), irq := { h.irq with cycle := 13 } }
theorem witness_HomeroomStepsComplete_tag : (hartAt (late6tag 9) 6).wait = some (.own 3 2 9 3 (some (10, 5))) ∧
    (10 : Word).toNat ≤ ((hartAt (late6tag 9) 6).irq.cycle - 3).toNat ∧ ¬ reaches (hartAt (late6tag 9) 6).tagc[2] 9 ∧
    (hartAt (late6tag 8) 6).wait = some (.own 3 2 8 3 (some (10, 5))) ∧ reaches (hartAt (late6tag 8) 6).tagc[2] 8 := by
  unfold reaches
  decide +kernel
/-- Tags 3 and 63 are ready, all others wait for 1; RDV is 2. -/
def tags : State := (st [(1, 8), (2, 0x8000000000000008), (3, 4), (4, 2), (5, 3)]).onHart fun h =>
  { h with rdv := 2, tagt := ((Vector.replicate 64 1).set 3 0).set 63 0 }
def noTags : State := (st [(3, 4)]).onHart fun h => { h with tagt := Vector.replicate 64 1 }
theorem witness_TagWaitsComplete : Ready (.twany 6 1) tags ∧ tags.hart.trdy &&& tags.g 1 ≠ 0 ∧ Ready (.twany 6 3) noTags ∧
    ¬ (noTags.g 3 = 0 ∨ noTags.hart.trdy &&& noTags.g 3 ≠ 0) ∧ Ready (.twall 6 2) tags ∧ tags.hart.trdy &&& tags.g 2 = tags.g 2 ∧ Ready (.twall 6 3) noTags ∧
    noTags.hart.trdy &&& noTags.g 3 ≠ noTags.g 3 ∧ Ready (.tfirst 6) tags ∧ tags.hart.trdy.getLsbD 3 = true ∧ (∀ j, j < 3 →
        tags.hart.trdy.getLsbD j = false) ∧
    Ready (.tfirst 6) noTags ∧ noTags.hart.trdy = 0 ∧ Ready (.join 6 4) tags ∧ reaches tags.hart.rdv (tags.g 4) ∧ Ready (.join 6 5) tags ∧
    ¬ reaches tags.hart.rdv (tags.g 5) ∧ Ready (.waitn 0 15 0 0) tags ∧ Ready (.waitn 0 15 0 0) loading ∧ Ready (.waitn 1 0 0 0) loading ∧
    (loading.hart.old.iss - loading.hart.old.ret).toNat = 1 := by
  unfold reaches
  refine ⟨.of_gate ?_, ?_, .of_gate ?_, ?_, .of_gate ?_, ?_, .of_gate ?_, ?_, .of_gate ?_, ?_, ?_, .of_gate ?_, ?_, .of_gate ?_, ?_, .of_gate ?_, ?_,
      .of_gate ?_, .of_gate ?_,
    .of_gate ?_, ?_⟩ <;> decide +kernel
/-- Two stores of the core are away; the second has put the write numbered 3 into the sequence, where it still stands. -/
def storing (r : List ReplWrite) : State :=
  { loading with repl := r }.onHart fun h => { h with stores := [⟨false, true, 3, 3⟩, ⟨false, true, 3, 4⟩], ost := ⟨2, 0⟩ }
theorem witness_ArrivalsComplete : loading.hart.loads[0]? = some ⟨.g 5, 0x100, 7, false, false⟩ ∧
    (let s := storing [⟨3, 0, [], 0, 0, false⟩]
     s.hart.stores[0]? = some ⟨false, true, 3, 3⟩ ∧ (∀ w ∈ s.repl, w.core = s.cur → w.num < 3 ∨ 3 ≤ w.num) ∧ s.hart.stores[1]? = some ⟨false, true, 3, 4⟩ ∧
     (∃ w ∈ s.repl, w.core = s.cur ∧ 3 ≤ w.num ∧ w.num < 4)) ∧
    (∀ w ∈ (storing []).repl, w.core = (storing []).cur → w.num < 3 ∨ 4 ≤ w.num) := by
  decide +kernel

/-! ## Block transfers -/

/-- A fill of 8 elements of 4 bytes at 0x2000, a record with reserved bits, a subscription of 2 tiles of 128 bytes from core 1 into a ring of 2 slots.
-/
def fillRec : List Word := [0, 0x2000, 0x11223344, 0x204, 8, 0, 0, 0]
def subRec : List Word := [0x80400, 0x80, 0x3000, 0x200000080, 2, 0x4000000000000001, 0x4000000000000002, 2]
/-- Records in local memory: a fill at 0x400, nonsense at 0x440, a subscription at 0x480. -/
def copySt : State := { st [(1, 0x400), (2, 0x4000000000000001), (3, 0x45), (4, 0x440), (5, 0x480)] with
  mem := (((Memory.write [] (localPlace 0 0x400) (fillRec.flatMap wordBytes)).write (localPlace 0 0x440) (List.replicate 64 0xFF)).write (localPlace 0 0x480)
    (subRec.flatMap wordBytes)).write (localPlace 1 0x400) [1, 2, 3] }
theorem witness_CopyForms : copyForm (.xfill 1 2 3 .pkg false true) = some (.fill, 1, 2, 3, false, true, false, .pkg) ∧
    Ready (.xfill 1 2 3 .pkg false true) copySt ∧
    recordFitsLocal (copySt.g 1) ∧ completionExc copySt (copySt.g 2) = none ∧ noAddTo copySt (localPlace copySt.cur (copySt.g 1).toNat) 64 ∧
    recordFits .fill (blockWords copySt (copySt.g 1).toNat) copySt.hart.chip = true ∧ copySt.hart.ocp.out < 64 ∧ recordFitsLocal (copySt.g 4) ∧
    recordFits .fill (blockWords copySt (copySt.g 4).toNat) copySt.hart.chip = false ∧ copySt.hart.wait = none ∧ Ready (.xsub 5 2 3 .pkg) copySt ∧
    recordFitsLocal (copySt.g 5) ∧ ringFits copySt (blockWords copySt (copySt.g 5).toNat) = true ∧ Ready (.xquery 1 6 7) copySt := by
  unfold recordFitsLocal noAddTo
  refine ⟨rfl, .of_gate ?_, ?_, ?_, ?_, ?_, ?_, ?_, ?_, ?_, .of_gate ?_, ?_, ?_, .of_gate ?_⟩ <;> decide +kernel
/-- A command of core 0. -/
def cmd (op : CopyOp) (w : List Word) (stage : CopyStage) : Copy :=
  ⟨4, .core 0, 0, op, w, 0x4000000000000003, some 5, false, false, false, .pkg, 0, 0, stage, 0, [], 0, none, none⟩
/-- A copy of 8 elements of 4 bytes from 0x400 to 0x2000. -/
def moveRec : List Word := [0x400, 0x2000, 0, 0x205, 8, 0, 0, 0]
def with1 (c : Copy) : State := { copySt with copies := [c] }
/-- The peer has answered HELD for the run of the command numbered 4. -/
def held4 : State := { with1 (cmd .put moveRec .begun) with links := { (st []).links with
  out := [⟨3, 0, 0, 0, 1, 2, [], .copy 4, 0, true, true⟩] } }
theorem witness_QueryCompletes_held : Ready (.xquery 3 6 7) held4 ∧ peerHolds held4 (cmd .put moveRec .begun) = true ∧
    held4.copies.find? (fun x => x.issuer == .core held4.cur && x.tag == some 5) = some (cmd .put moveRec .begun) ∧ (cmd .put moveRec .begun).susp = none ∧
    peerHolds (with1 (cmd .put moveRec .begun)) (cmd .put moveRec .begun) = false := by
  refine ⟨.of_gate ?_, ?_, ?_, ?_, ?_⟩ <;> decide +kernel
/-- Tag 5 is that of a fill that moves, of an XPUT with a run under way from element 2, and of a command that waits at a page. -/
theorem witness_QueryCompletes : Ready (.xquery 3 6 7) (with1 (cmd .fill fillRec .begun)) ∧ ((with1 (cmd .fill fillRec .begun)).g 3).toNat % 64 = 5 ∧
    (cmd .fill fillRec .begun).issuer = .core (with1 (cmd .fill fillRec .begun)).cur ∧ (cmd .fill fillRec .begun).tag = some 5 ∧
    (∀ y ∈ [((2 : Nat), (9 : Nat))], 2 ≤ y.1) ∧ Ready (.xquery 3 6 7) (with1 { cmd .put moveRec .begun with idx := [(2, 9)], pos := 5 }) ∧
    Ready (.xquery 3 6 7) (with1 { cmd .fill fillRec .begun with susp := some ⟨0x40000, 2, 1, 0, none⟩ }) ∧ Ready (.xquery 1 6 7) copySt ∧
        copySt.copies = [] := by
  refine ⟨.of_gate ?_, ?_, ?_, ?_, ?_, .of_gate ?_, .of_gate ?_, .of_gate ?_, ?_⟩ <;> decide +kernel
theorem witness_EngineRuns_accept : (with1 (cmd .fill fillRec .fabric)).copies = [] ++ cmd .fill fillRec .fabric :: [] ∧
    (cmd .fill fillRec .fabric).slice = 0 ∧
    ((with1 (cmd .fill fillRec .fabric)).copies.filter fun x => x.slice == 0 && x.stage != .fabric).length < 1024 ∧ (cmd .fill fillRec .moved).ref ≠ 0 := by
  decide +kernel
theorem witness_EngineRuns : (with1 (cmd .fill fillRec .fabric)).copies = [] ++ cmd .fill fillRec .fabric :: [] ∧
    findCopy (with1 (cmd .fill fillRec .queued)) 4 = some (cmd .fill fillRec .queued) ∧
    maystart (with1 (cmd .fill fillRec .queued)) (cmd .fill fillRec .queued) 0 ∧ recNdim fillRec = 0 ∧ recDam fillRec = .lo ∧
    (recDst fillRec).toNat + recN fillRec 0 * recE fillRec ≤ 2 ^ 19 ∧ maystart (with1 (cmd .copy moveRec .queued)) (cmd .copy moveRec .queued) 0 ∧
        recNdim moveRec = 0 ∧
    recSam moveRec = .lo ∧ recDam moveRec = .lo ∧ (recSrc moveRec).toNat + recN moveRec 0 * recE moveRec ≤ (recDst moveRec).toNat := by
  unfold maystart
  decide +kernel
/-- A gather of 2 elements of 4 bytes out of 3 at 0x600 into 0x2000, by the indexes 2 and 0xFFFFFFFF at 0x800 (the fill value). -/
def gatherRec : List Word := [0x600, 0x2000, 0x800, 0x215, 0x300000002, 0, 0x55, 0]
def gathering : State := { with1 (cmd .gath gatherRec .queued) with mem := copySt.mem.write (localPlace 0 0x800) [2, 0, 0, 0, 255, 255, 255, 255] }
theorem witness_EngineRuns_gather : findCopy gathering 4 = some (cmd .gath gatherRec .queued) ∧ maystart gathering (cmd .gath gatherRec .queued) 0 ∧
    (cmd .gath gatherRec .queued).idx = [] ∧ recSam gatherRec = .lo ∧ recDam gatherRec = .lo ∧ recIam gatherRec = .lo ∧ recMsk gatherRec = false ∧
    recE gatherRec = 4 ∧ recN gatherRec 0 = 2 ∧ recN gatherRec 1 = 3 ∧ (recSrc gatherRec).toNat = 0x600 ∧ (recDst gatherRec).toNat = 0x2000 ∧
    (recAux gatherRec).toNat = 0x800 ∧ leNat (gathering.mem.readN (localPlace 0 0x800) 4) = 2 ∧
    leNat (gathering.mem.readN (localPlace 0 (0x800 + 4 * 1)) 4) = 0xFFFFFFFF := by
  unfold maystart
  decide +kernel
def faulted (record : Option (Nat × Nat)) : Copy := { cmd .fill fillRec .begun with susp := some ⟨0x40000, 2, 1, 0, record⟩, tag := none }
theorem witness_EngineRuns_ends : ∃ s1, findCopy (with1 (cmd .fill fillRec .moved)) 4 = some (cmd .fill fillRec .moved) ∧
    partyRef (with1 (cmd .fill fillRec .moved)) 0 0 0 needRW 0x4000000000000003 = (.at (eventPlace 0 3), s1) ∧
        usagePlace 0 7 + 128 ≤ ctrPlace (eventPlace 0 3) ∧
    (with1 (cmd .fill fillRec .moved)).repl = [] ∧ findCopy (with1 (faulted none)) 4 = some (faulted none) ∧ (with1 (faulted none)).faults = [] :=
  ⟨_, by decide +kernel, of_fst (by decide +kernel), by decide +kernel, by decide +kernel, by decide +kernel, by decide +kernel⟩
theorem witness_SubscriptionMovesTiles : ∃ s1 s2, findCopy (with1 (cmd .sub subRec .begun)) 4 = some (cmd .sub subRec .begun) ∧
    partyRef (with1 (cmd .sub subRec .begun)) 0 0 0 needR (cmdWord subRec 6) = (.at (eventPlace 0 2), s1) ∧
        (with1 (cmd .sub subRec .begun)).poisoned (eventPlace 0 2) = false ∧
    reaches ((with1 (cmd .sub subRec .begun)).counter (eventPlace 0 2)) (1 - BitVec.ofNat 64 (ringQ subRec)) ∧ ringGam subRec = .cb ∧
        ringTb subRec = 128 ∧ ringTb subRec % 64 = 0 ∧
    (cmdWord subRec 0).toNat % 2 ^ 19 + ringTb subRec ≤ 2 ^ 19 ∧ (cmdWord subRec 0).toNat < 2 ^ 23 ∧ (cmdWord subRec 2).toNat + ringTb subRec ≤ 2 ^ 19 ∧
    0 / 16 * 16 + (cmdWord subRec 0).toNat / 2 ^ 19 ≠ 0 ∧
    findCopy (with1 { cmd .sub subRec .begun with idx := [(1, 0)], pos := 128 }) 4 = some { cmd .sub subRec .begun with idx := [(1, 0)], pos := 128 } ∧
    partyRef (with1 { cmd .sub subRec .begun with idx := [(1, 0)], pos := 128 }) 0 0 0 needRW (cmdWord subRec 5) = (.at (eventPlace 0 1), s2) := by
  unfold reaches
  exact ⟨_, _, by decide +kernel, of_fst (by decide +kernel), and_five (by decide +kernel) (and_five (by decide +kernel) (of_fst (by decide +kernel)))⟩

end Sys2Proof.Tests
end

