-- ==== Sys2Proof/Tests/Witness5.lean ====
section
/-! SUPPORT. For every statement with hypotheses, a state and operands that meet them all: object graphs. -/

namespace Sys2Proof.Tests

open Sys2Proof.Machine Sys2Proof.Claims

set_option Elab.async false

/-! ## Graph instructions -/

/-- A read that passes, with its words. -/
theorem read_eq {s : State} {q : Party} {va n : Nat} {l : List Word} (h : passed (walkerRead s q va n).1 = true) (e : okOf [] (walkerRead s q va n).1 = l) :
    walkerRead s q va n = (.ok l, (walkerRead s q va n).2) := by
  have := of_passed [] h
  rw [e] at this
  exact this

/-- Words at an offset of core 0's local memory. -/
def words0 (s : State) (o : Nat) (l : List Word) : State := { s with mem := s.mem.write (localPlace 0 o) (l.flatMap wordBytes) }
/-- Words at an address of page 1. -/
def page1 (s : State) (a : Nat) (l : List Word) : State := { s with mem := s.mem.write (0x130000 + a) (l.flatMap wordBytes) }
/-- The layout table of space 0 lies at 0x10000 and its type 0 has 3 words, the second a pointer; an object of that type at 0x10400 points to itself.
The work region is at 0x10800, the arena record at 0x10C00; g2 names the operand block at 0x400, g3 the root. -/
def graphSt (l : List (Reg × Word)) (blk : List Word) : State :=
  let s : State := { pages (st ([(2, 0x400), (3, 0x10400)] ++ l)) with bindings := [⟨0, 0, 0x10000, 1⟩] }
  page1 (page1 (page1 (words0 s 0x400 blk) 0 [0x8001000000000003, 1, 0, 0]) 0x400 [0x300020, 0x10400, 7]) 0xC00 [0x11000, 0x12000, 0x11000, 0]
/-- The record of the work region at 0x10800 can be read and closed. -/
theorem recordOpen_of {s : State} {q : Party} {x : Word} (h : walkerRead s q 0x10800 1 = (.ok [x], (walkerRead s q 0x10800 1).2))
    (k : passed (walkerWrite (walkerRead s q 0x10800 1).2 q 0x10800 [x &&& ~~~16]).1 = true) : recordOpen s q 0x10800 :=
  ⟨x, _, _, h, of_passed () k⟩
/-- The operand block. -/
def block : List Word := [0x10800, 0x400, 0, 0, 0, 0, 0, 0]
def arenaBlock (peer : Word) : List Word := [0x10800, 0x400, 0x10C00, 0, 0, peer, 0, 0]
def mapBlock (space count : Word) : List Word := [space, count, 0, 0, 0, 0, 0, 0]
theorem witness_LayoutBindingCompletes : Ready (.glmap 3 2 5 .core) (graphSt [] (mapBlock 0 4)) ∧ drained (graphSt [] (mapBlock 0 4)) ∧
    recordFitsLocal ((graphSt [] (mapBlock 0 4)).g 2) ∧
        mapStatus (graphSt [] (mapBlock 0 4)) ((graphSt [] (mapBlock 0 4)).g 3) ((graphSt [] (mapBlock 0 4)).g 2).toNat = 0 ∧
    Ready (.glmap 3 2 5 .core) (graphSt [] (mapBlock 0x100000 4)) ∧ (blockWord (graphSt [] (mapBlock 0x100000 4)) 0x400 0).toNat / 2 ^ 20 ≠ 0 ∧
    Ready (.glmap 3 2 5 .core) (graphSt [] (mapBlock 0 0x100001)) ∧ 2 ^ 20 < (blockWord (graphSt [] (mapBlock 0 0x100001)) 0x400 8).toNat := by
  unfold drained recordFitsLocal
  refine ⟨.of_gate ?_, ?_, ?_, ?_, .of_gate ?_, ?_, .of_gate ?_, ?_⟩ <;> decide +kernel
/-- A block that breaks a rule (a work size of 0), and one of a space without a table. -/
theorem witness_GraphForms : graphForm (.ghash 0 2 5 .core) = some (5, 0, 2, 5, .core) ∧ Ready (.ghash 0 2 5 .core) (graphSt [] (mapBlock 0 0)) ∧
    (graphSt [] (mapBlock 0 0)).hart.walk = none ∧ drained (graphSt [] (mapBlock 0 0)) ∧ recordFitsLocal ((graphSt [] (mapBlock 0 0)).g 2) ∧
    blockOk (graphSt [] (mapBlock 0 0)) 5 0x400 0 = false ∧ blockOk (graphSt [] block) 5 0x400 0 = true ∧
    bindingOf { graphSt [] block with bindings := [] } 0 0 = none ∧ bindingOf (graphSt [] block) 0 0 = some ⟨0, 0, 0x10000, 1⟩ ∧
    (graphSt [] block).hart.tsw.rs = false ∧ blockWord (graphSt [] block) 0x400 0x18 = 0 ∧ (graphSt [] block).g 0 = 0 ∧
    (graphSt [] block).part = 0 ∧ (graphSt [] block).hart.spid = 0 := by
  unfold drained recordFitsLocal
  refine ⟨rfl, .of_gate ?_, ?_, ?_, ?_, ?_, ?_, ?_, ?_, ?_, ?_, ?_, ?_, ?_⟩ <;> decide +kernel
theorem witness_GraphForms_arena : arenaOk (walking (graphSt [] (arenaBlock 0x50000)) 0x10800) 0x10C00 (fun u => recordOpen u (self (graphSt [] block)) 0x10800) ∧
    recordOpen (walking (graphSt [] block) 0x10800) (self (graphSt [] block)) 0x10800 ∧ blockOk (graphSt [] (arenaBlock 0)) 1 0x400 0 = true ∧
    blockOk (graphSt [] (arenaBlock 0x50000)) 3 0x400 0x10400 = true ∧ blockOk (graphSt [] (arenaBlock 0)) 6 0x400 0 = true ∧
        Ready (.grecv 3 2 5 .core) (graphSt [] (arenaBlock 0x50000)) ∧
    (∀ p ∈ (graphSt [] (arenaBlock 0x50000)).posts, p.chan ≠ BitVec.ofNat 8 ((blockWord (graphSt [] (arenaBlock 0x50000)) 0x400 0x28).toNat / 2 ^ 16)) :=
  ⟨⟨by decide +kernel, by decide +kernel, _, _, of_passed [] (by decide +kernel), by decide +kernel,
      recordOpen_of (read_eq (l := [0]) (by decide +kernel) (by decide +kernel)) (by decide +kernel)⟩,
    recordOpen_of (read_eq (l := [0]) (by decide +kernel) (by decide +kernel)) (by decide +kernel), by decide +kernel, by decide +kernel, by decide +kernel,
    .of_gate (by decide +kernel), by decide +kernel⟩
/-- The walk of a GHASH of the object at its end; as GCOPY with its one copy; as GSEND with all sent. -/
def walk5 : Walk := { newWalk (graphSt [] block) ⟨0, 0, 0x10000, 1⟩ 5 0x10400 0x400 5 .core with
  begun := true, checked := true, seen := [(0x10400, 0)], recs := [[0x300000, 1, 7]] }
def walk1 : Walk := { walk5 with fn := 1, seen := [(0x10400, 0x11000)] }
def walk2 : Walk := { walk5 with fn := 2, ended := true, sent := 48, length := 32 }
def walk6 : Walk := { walk5 with fn := 6, ended := true, freed := 1, decs := 2 }
def inWalk (w : Walk) : State := (graphSt [] block).onHart fun h => { h with walk := some w }
theorem witness_WalksEnd : ∃ s1 s2, Ready (.ghash 3 2 5 .core) (inWalk walk5) ∧ (inWalk walk5).hart.walk = some walk5 ∧ finished walk5 5 ∧
    walk5.creg = 5 ∧ walk5.seen ≠ [] ∧
    closes (inWalk walk5) walk5 ∧ Ready (.gcopy 3 2 5 .core) (inWalk walk1) ∧ finished walk1 1 ∧ walk1.seen = [(walk1.root, 0x11000)] ∧ walk1.ptrs = [] ∧
    walkerRead (inWalk walk1) walk1.party 0x11000 1 = (.ok [0], s1) ∧ walkerWrite s1 walk1.party 0x11000 [(0 &&& ~~~0xFFFF1) ||| 16] = (.ok (), s2) ∧
    closes s2 walk1 ∧
    Ready (.gsend 3 2 5 .core) (inWalk walk2) ∧ finished walk2 2 ∧ walk2.length < walk2.sent ∧ walk2.out = [] ∧ walk2.done = 0 ∧
        (inWalk walk2).links.out = [] ∧
    Ready (.grel 3 2 5 .core) (inWalk walk6) ∧ finished walk6 6 ∧ walk6.ended = true := by
  unfold finished unguarded
  exact ⟨_, _, .of_gate (by decide +kernel), by decide +kernel, by decide +kernel, by decide +kernel, by decide +kernel,
      fun _ => recordOpen_of (read_eq (l := [0]) (by decide +kernel) (by decide +kernel)) (by decide +kernel),
    .of_gate (by decide +kernel), by decide +kernel, by decide +kernel, by decide +kernel, read_eq (by decide +kernel) (by decide +kernel),
        of_passed () (by decide +kernel),
    fun _ => recordOpen_of (read_eq (l := [0]) (by decide +kernel) (by decide +kernel)) (by decide +kernel), .of_gate (by decide +kernel), by decide +kernel,
    by decide +kernel, by decide +kernel, by decide +kernel, by decide +kernel, .of_gate (by decide +kernel), by decide +kernel, by decide +kernel⟩
/-- GHASH of the object that points to itself. -/
theorem witness_GraphWalkVisitsTheRoot : ∃ s1 s2 s3 s4 s5 x z, Ready (.ghash 3 2 5 .core) (graphSt [] block) ∧ (graphSt [] block).hart.walk = none ∧
    drained (graphSt [] block) ∧
    recordFitsLocal ((graphSt [] block).g 2) ∧ blockOk (graphSt [] block) 5 0x400 0x10400 = true ∧ (graphSt [] block).g 3 = 0x10400 ∧
        (0x300020 : Word).getLsbD 0 = false ∧
    walkerRead (walking (graphSt [] block) 0x10800) (self (graphSt [] block)) 0x10400 1 = (.ok [0x300020], s1) ∧
    walkerRead s1 (self (graphSt [] block)) 0x10000 4 = (.ok [0x8001000000000003, 1, 0, 0], s2) ∧ layValid [0x8001000000000003, 1, 0, 0] = true ∧
    layFits [0x8001000000000003, 1, 0, 0] 3 = true ∧ walkerRead s2 (self (graphSt [] block)) 0x10400 3 = (.ok [0x300020, 0x10400, 7], s3) ∧
    walkerAccess s3 (self (graphSt [] block)) needRW 0x10800 96 = (.ok x, s4) ∧
        walkerAccess s4 (self (graphSt [] block)) needRW (0x10800 + 64) 32 = (.ok z, s5) ∧
    (∀ g ∈ z, pteRepl g.entry = false) := by
  unfold drained recordFitsLocal
  exact ⟨_, _, _, _, _, _, _, .of_gate (by decide +kernel), by decide +kernel, by decide +kernel, by decide +kernel, by decide +kernel,
      by decide +kernel, by decide +kernel,
    read_eq (by decide +kernel) (by decide +kernel), read_eq (by decide +kernel) (by decide +kernel), by decide +kernel, by decide +kernel,
    read_eq (by decide +kernel) (by decide +kernel), of_passed [] (by decide +kernel), of_passed [] (by decide +kernel), by decide +kernel⟩
/-- The same walk after its first step: the object lies on the stack, its record holds its header. -/
def visited : Walk := { walk5 with recs := [[0x300000, 0, 0]], stack := [⟨0x10400, [0x300020, 0x10400, 7], 0, [], [0x8001000000000003, 1, 0, 0], [0x8001000000000003, 1, 0, 0], 1⟩] }
theorem witness_GraphWalkVisitsTheRoot_ends : Ready (.ghash 3 2 5 .core) (inWalk visited) ∧ (inWalk visited).hart.walk = some visited ∧
    unguarded visited 5 ∧ visited.creg = 5 ∧
    visited.seen = [(0x10400, 0)] ∧
    (∀ k, k < 3 → isPtr [0x8001000000000003, 1, 0, 0] k = true →
        [0x300020, 0x10400, 7][k]? = some (0 : Word) ∨ [0x300020, 0x10400, 7][k]? = some (0x10400 : Word)) ∧
    (∀ k, k < 3 → 0 < k → [0x300000, 1, 7][k]? = if isPtr [0x8001000000000003, 1, 0, 0] k = true
      then some (if [0x300020, 0x10400, 7][k]? = some (0 : Word) then 0 else 1) else [0x300020, 0x10400, (7 : Word)][k]?) ∧
          closes (inWalk visited) visited := by
  unfold unguarded
  exact ⟨.of_gate (by decide +kernel), by decide +kernel, by decide +kernel, by decide +kernel, by decide +kernel, by decide +kernel, by decide +kernel,
    fun _ => recordOpen_of (read_eq (l := [0]) (by decide +kernel) (by decide +kernel)) (by decide +kernel)⟩

/-! ## Suspended units -/

/-- A walk and a command that wait on a page fault. -/
def lost : Walk := { walk5 with susp := some ⟨0x50000, 1, 1, 0, none⟩ }
def stuck : Copy := { cmd .fill fillRec .begun with susp := some ⟨0x40000, 2, 1, 0, some (0, 0)⟩, off := 8 }
def stuckSt : State := { with1 stuck with faults := [⟨0, 0, [0, 0x40000, 0, 0x102, 8, 0]⟩], roll := [⟨eventPlace 0 3, .core 9, 4, .clu⟩] }
/-- A receive whose one object and end record have arrived. -/
def received : Post := ⟨0, 0, 7, 0, 0, 0, .core, 0x10000, 1, 0x10800, 0x400, 0x10C00, 0x4000000000000003, 0x10600, [(32, 0xFFFFFFFF, 1), (40, 1, 2)], [1, 2],
  [⟨0, 0x11000, 3, [0x8001000000000003, 1, 0, 0]⟩], 32, 32, [], [], [], none, none⟩
def receiving : State := { graphSt [] block with posts := [received] }
theorem witness_SuspendedUnitsResumeOrEnd : ∃ s1 s2 s3, (inWalk lost).hart.walk = some lost ∧ (inWalk lost).faults = [] ∧ lost.fn ≠ 3 ∧
    findCopy stuckSt 4 = some stuck ∧
    stuck.susp = some ⟨0x40000, 2, 1, 0, some (0, 0)⟩ ∧ refKind stuck.ref = 1 ∧ stuck.tag = some 5 ∧ receiving.posts[0]? = some received ∧
        received.taken = received.next ∧
    refKind received.doneRef = 1 ∧ walkerRead receiving received.party 0x11000 1 = (.ok [0], s1) ∧
    walkerWrite s1 received.party 0x11000 [(0 &&& ~~~0xFFFF1) ||| 16] = (.ok (), s2) ∧
        walkerWrite s2 received.party 0x10600 [0x11000] = (.ok (), s3) ∧ s3.repl = [] := by
  exact ⟨_, _, _, and_five (by decide +kernel) (and_five (by decide +kernel) ⟨read_eq (by decide +kernel) (by decide +kernel),
      of_passed () (by decide +kernel), of_passed () (by decide +kernel), by decide +kernel⟩)⟩

end Sys2Proof.Tests
end

