-- ==== Sys2Proof/Tests/Witness6.lean ====
section
/-! SUPPORT. For every statement with hypotheses, a state and operands that meet them all: the Timetable, the service kernel. -/

namespace Sys2Proof.Tests

open Sys2Proof.Machine Sys2Proof.Claims

set_option Elab.async false

/-! ## Computations that pass -/

def ranOk {ε σ α : Type} (x : EStateM.Result ε σ α) : Bool := match x with | .ok _ _ => true | .error _ _ => false
def ranVal {ε σ α : Type} (d : α) (x : EStateM.Result ε σ α) : α := match x with | .ok v _ => v | .error _ _ => d
def ranState {ε σ α : Type} (x : EStateM.Result ε σ α) : σ := match x with | .ok _ s => s | .error _ s => s
theorem ran_eq {ε σ α : Type} (d v : α) {x : EStateM.Result ε σ α} (h : ranOk x = true) (e : ranVal d x = v) : x = .ok v (ranState x) := by
  cases x
  · rw [← e]; rfl
  · cases h

/-! ## A partition with a schedule record -/

/-- The schedule record: ring at 0x10100, SUBF, SUBD and GENC in the event unit, areas at 0x30000, dispatch words at 0x18000, stall report at 0x1C000,
one slot, two areas, all three periods 1. -/
def schedRec : List Word := [0x10100, 0x4000000000000010, 0x4000000000000011, 0x30000, 0x18000, 0x4000000000000012, 0x1C000, 0x0101000100000100]
/-- A graph of two MARK nodes, the first leading to the second. -/
def graphRec : List Word := [0x10300, 2, 0x10400, 0, 0x10500, 0, 5, 0]
/-- A cohort of core 0. -/
def cohortRec : List Word := [0x20000, 0, 0, 0, 0, 0, 0xFFFFFFFFFFFFFFFF, 0] ++ List.replicate 8 0 ++ [0x100] ++ List.replicate 15 0
/-- A request: its operation, address, argument and entry; the result goes to 0x10600. -/
def request (op va arg ent : Word) : List Word := [op, va, 5, arg, ent, 0, 0x10600, 0]
def desc1 : Descriptor := ⟨1, 0, 0x10000, 0x20000, 2, 0, 0, 0, [], 0⟩
/-- Partition 1 holds the clusters of sector 0. Its space 5 maps pages 1, 2, 3 and 14, with key 1; a request lies in the ring of slice 0. -/
def tt (req : List Word) : State :=
  let s : State := { st [] with
    spaces := [(5, ⟨1, 0x10⟩)]
    mgmt := { Management.reset with nodes := [(1, .active)], descs := [desc1] } }
  let w (m : Memory) (a : Nat) (l : List Word) : Memory := m.write a (l.flatMap wordBytes)
  let m := w (w (w [] 0x100000 [0x110001]) 0x110000 [0x120001]) 0x120008 [0x0010000000130107, 0x001000000014010B, 0x0010000000150107]
  let m := w (w (w m 0x120070 [0x0010000000160107]) 0x130000 schedRec) 0x130100 [0x10200]
  let m := w (w (w m 0x130200 graphRec) 0x130300 [0x10006, 0, 0, 0, 6, 0, 0, 0]) 0x130400 [1]
  let m := w (w (w m (eventPlace 0 16) [1]) 0x140000 req) 0x160000 [1]
  { s with mem := m }
/-- A node of a kind in a state. -/
def node (kind : Nat) (succ : List Nat) (s : NodeState) : GNode := ⟨kind, succ, 0, 0, if kind = 0 then cohortRec else [], s, 0, false, 0, false, 0,
    none, none⟩
/-- The graph in slot 0 with its nodes. -/
def graph1 (l : List GNode) : Graph := ⟨0, 0, graphRec, true, l, false, none, none, 0⟩
def tg (l : List GNode) (f : Engine → Engine) : State := { tt (request 1 0x10000 1 0) with engines := [f { Engine.reset 1 with graphs := [graph1 l] }] }
def ts : State := tt (request 1 0x10000 1 0)

/-- A graph is calm: no waiting node has all its edges, and some node is still to run. -/
def calmG (g : Graph) : Bool :=
  ((List.range g.nodes.length).all fun j => match g.nodes[j]? with | some m => m.st != .waiting || decide (m.arrived < edgesInto g.nodes j) | none => true) &&
    g.nodes.any fun m => m.st == .waiting || m.st == .ready || m.st == .running
theorem calm_of {s : State} {p : BitVec 16} {k : Nat}
    (h : ((engineOf s p).graphs.all fun g => g.slot != k || !g.admitted || g.ending.isSome || calmG g) = true) : calm s p k := by
  intro g hg ha he
  have hk : g.slot = k := by have := List.find?_some hg; simpa using this
  have hc := List.all_eq_true.1 h g (List.mem_of_find?_eq_some hg)
  simp only [hk, bne_self_eq_false, ha, he, Option.isSome_none, Bool.not_true, Bool.false_or, calmG, Bool.and_eq_true, List.all_eq_true,
      List.any_eq_true] at hc
  obtain ⟨h1, m, hm, h2⟩ := hc
  refine ⟨fun j m hj hw => ?_, m, hm, by simpa [or_assoc] using h2⟩
  have := h1 j (List.mem_range.2 (List.getElem?_eq_some_iff.1 hj).1)
  simpa [hj, hw] using this
theorem calm_all {s : State} {p : BitVec 16} (h : ((engineOf s p).graphs.all fun g => !g.admitted || g.ending.isSome || calmG g) = true) (k : Nat) :
    calm s p k := calm_of (List.all_eq_true.2 fun g hg => by
      have := List.all_eq_true.1 h g hg
      simp only [Bool.or_eq_true] at this ⊢
      tauto)
theorem witness_Schedule : ∃ s1, (schedule 1).run ts = .ok schedRec s1 ∧ noOwnWrites Config.cores ts ∧ noOwnWrites 0 ts :=
  ⟨_, ran_eq [] _ (by decide +kernel) (by decide +kernel), by unfold noOwnWrites; decide +kernel, by unfold noOwnWrites; decide +kernel⟩
/-- Intake of the one slot; admission of its graph; a record that names no node. -/
def taken1 : State := { ts with engines := [{ Engine.reset 1 with graphs := [⟨0, 0, graphRec, false, [], false, none, none, 0⟩] }] }
theorem witness_GraphsAreTakenAndAdmitted : ∃ s1 s2 s3 s4 ns, descOf ts 1 = some desc1 ∧ (engineOf ts 1).susp = none ∧ (engineOf ts 1).stopped = false ∧
    (engineOf ts 1).freeSlot = some 0 ∧ lowestSpace ts 1 = some 5 ∧ (schedule 1).run ts = .ok schedRec s1 ∧ refKind (schedRec.getD 1 0) = 1 ∧
    refKind (schedRec.getD 2 0) = 1 ∧ ts.poisoned (refPlace (schedRec.getD 1 0)) = false ∧
        reaches (ts.counter (refPlace (schedRec.getD 1 0))) ((engineOf ts 1).taken + 1) ∧
    (engWords 1 5 0 0x10100 1).run s1 = .ok [0x10200] s2 ∧ (engWords 1 5 0 0x10200 8).run s2 = .ok graphRec s3 ∧
    (engineOf taken1 1).graph 0 = some ⟨0, 0, graphRec, false, [], false, none, none, 0⟩ ∧
    (admission 1 ⟨0, 0, graphRec, false, [], false, none, none, 0⟩).run taken1 = .ok ns s4 ∧ s4.engines = taken1.engines ∧ (∀ k, calm s4 1 k) ∧
    graphRecordOk ⟨0, 0, [0x10300, 0, 0x10400, 0, 0x10500, 0, 5, 0], false, [], false, none, none, 0⟩ = false := by
  unfold reaches
  exact ⟨_, _, _, _, _, by decide +kernel, by decide +kernel, by decide +kernel, by decide +kernel, by decide +kernel,
    ran_eq [] _ (by decide +kernel) (by decide +kernel), by decide +kernel, by decide +kernel, by decide +kernel, by decide +kernel,
    ran_eq [] _ (by decide +kernel) (by decide +kernel), ran_eq [] _ (by decide +kernel) (by decide +kernel), by decide +kernel,
    ran_eq [] _ (by decide +kernel) rfl, by decide +kernel, calm_all (by decide +kernel), by decide +kernel⟩
theorem witness_NodesFire : findNode (tg [node 6 [1] .waiting, node 6 [] .waiting] id) 1 0 0 = some (graph1 [node 6 [1] .waiting, node 6 [] .waiting],
    node 6 [1] .waiting) ∧
    edgesInto [node 6 [1] .waiting, node 6 [] .waiting] 0 = 0 ∧ edgesInto [node 6 [1] .waiting, node 6 [] .waiting] 1 = 1 ∧
    findNode (tg [node 6 [1] .waiting, node 6 [] .waiting] id) 1 0 1 = some (graph1 [node 6 [1] .waiting, node 6 [] .waiting], node 6 [] .waiting) ∧
    accepts (tg [node 6 [1] .ready, node 6 [] .waiting] id) 1 = true ∧ backEdge [node 6 [1] .ready, node 6 [] .waiting] 0 1 = false ∧
    findNode (tg [node 1 [1] .ready, node 6 [] .waiting] id) 1 0 0 = some (graph1 [node 1 [1] .ready, node 6 [] .waiting], node 1 [1] .ready) ∧
    ∀ m ∈ [node 6 [1] .waiting, node 6 [] .waiting], m.anyDone = false ∧ m.susp = none := by decide +kernel
theorem witness_NodesFire_others : (∀ j m, (graph1 [node 6 [1] .waiting, node 6 [] .waiting]).nodes[j]? = some m → m.st = .waiting →
    edgesInto [node 6 [1] .waiting, node 6 [] .waiting] j ≤ m.arrived → edgesInto [node 6 [1] .waiting, node 6 [] .waiting] j = 0 ∨ m.anyDone = true) ∧
    ∀ k, k ≠ 0 → calm (tg [node 6 [1] .waiting, node 6 [] .waiting] id) 1 k := by
  refine ⟨fun j m h _ => ?_, fun k hk => calm_of ?_⟩
  · match j, h with
    | 0, _ => exact fun _ => .inl (by decide)
    | 1, h => cases h; decide
  · have h : (engineOf (tg [node 6 [1] .waiting, node 6 [] .waiting] id) 1).graphs = [graph1 [node 6 [1] .waiting, node 6 [] .waiting]] := by decide +kernel
    have h0 : ((graph1 [node 6 [1] .waiting, node 6 [] .waiting]).slot != k) = true := by simpa [graph1] using Ne.symm hk
    simp only [h, List.all_cons, List.all_nil, h0, Bool.true_or, Bool.and_self]
theorem witness_staysOpen (k : Nat) (st : NodeState) (h : k < 4) : staysOpen (graph1 [node k [1] st, node 6 [] .waiting]) 0 (node k [1] st) := by
  refine ⟨?_, 1, node 6 [] .waiting, by decide, rfl, rfl⟩
  interval_cases k <;> cases st <;> decide +kernel
/-- A transfer node: the record of a fill at 0x10700. -/
def xfer (st : NodeState) : GNode := { node 2 [1] st with arg := 0x10700, aux := 3 }
def fillGl : List Word := [0, 0x10780, 0x11, 0x200, 4, 0, 0, 0]
def txf (st : NodeState) : State :=
  let s := tg [xfer st, node 6 [] .waiting] id
  { s with mem := s.mem.write 0x130700 (fillGl.flatMap wordBytes) }
/-- A cohort whose root has been reached. -/
def tco : State := { tg [{ node 0 [1] .running with cohort := 9 }, node 6 [] .waiting] fun e => { e with tree := [⟨9, eventPlace 0 4064, 1, none, false⟩] } with
  mem := (ts.mem.write (eventPlace 0 4064) [1]) }
theorem witness_NodesComplete : ∃ s1 m, findNode (txf .ready) 1 0 0 = some (graph1 [xfer .ready, node 6 [] .waiting], xfer .ready) ∧
    (transferOf 1 (graph1 [xfer .ready, node 6 [] .waiting]) 0 (xfer .ready)).run (txf .ready) = .ok (fillGl, m) s1 ∧
        recordFits .fill fillGl (chipNo s1) = true ∧
    (∀ ok, findNode (tg [{ xfer .running with result := some ok }, node 6 [] .waiting] id) 1 0 0 =
      some (graph1 [{ xfer .running with result := some ok }, node 6 [] .waiting], { xfer .running with result := some ok })) ∧
    { node 0 [1] .running with cohort := 9 }.words.getD 5 0 = 0 ∧
    rootOf (engineOf tco 1) 9 = some ⟨9, eventPlace 0 4064, 1, none, false⟩ ∧ tco.poisoned (eventPlace 0 4064) = false ∧
    reaches (tco.counter (eventPlace 0 4064)) (BitVec.ofNat 64 1) ∧ accepts (txf .ready) 1 = true := by
  unfold reaches
  exact ⟨_, 0, by decide +kernel, ran_eq ([], 0) _ (by decide +kernel) (by decide +kernel), by decide +kernel⟩

/-! ## Cohorts and contexts -/

/-- The cohort is ready and heads the pool. -/
def cohort1 : GNode := node 0 [1] .ready
def tpl : State := tg [cohort1, node 6 [] .waiting] fun e => { e with pool := [(0, 0)] }
theorem witness_CohortsArePlaced : ∃ s1 s2, poolHead (engineOf tpl 1) = some (0, 0) ∧
    findNode tpl 1 0 0 = some (graph1 [cohort1, node 6 [] .waiting], cohort1) ∧
    accepts tpl 1 = true ∧ (schedule 1).run tpl = .ok schedRec s1 ∧ placeBase s1 1 schedRec cohort1.words = some 0 ∧
        ((cohCores 0 cohort1.words).map (·.1)).Nodup ∧
    (writeStart 1 (graph1 [cohort1, node 6 [] .waiting]) 0 schedRec cohort1.words (startJobs s1 1 schedRec cohort1.words 0)).run s1 = .ok () s2 :=
  ⟨_, _, by decide +kernel, by decide +kernel, by decide +kernel, ran_eq [] _ (by decide +kernel) (by decide +kernel), by decide +kernel, by decide +kernel,
    ran_eq () _ (by decide +kernel) (Subsingleton.elim _ _)⟩
/-- A context of core 0 runs in the first area; its end add has been made; STATE says how it ended. -/
def ctx0 : Context := ⟨0, 0x30000, 9, .busy, false, false, 0xFFFFFFFFFFFFFFFF, 5, 0, 0⟩
def tctx (state : Word) (c : Context) (pool : List (Nat × Nat)) : State :=
  let s := tg [cohort1, node 6 [] .waiting] fun e => { e with ctxs := [c], pool := pool }
  { s with mem := (s.mem.write (endcPlace 0) [1]).write 0x150000 (wordBytes state) }
theorem witness_ContextsEndAndResume : ∃ s1 s2 dm1 dm2, (engineOf (tctx 1 ctx0 []) 1).endc = [] ∧ (tctx 1 ctx0 []).counter (endcPlace 0) ≠ 0 ∧
    partOfCluster (tctx 1 ctx0 []) (clusterOf 0) = 1 ∧
    (engineOf (tctx 1 ctx0 []) 1).ctxs.find? (fun c => c.core == 0 && c.use != .saved) = some ctx0 ∧
        (readArea 1 ctx0.area).run (tctx 1 ctx0 []) = .ok (1, false, dm1, false) s1 ∧
    0 ∉ (tctx 1 ctx0 []).doubles ∧ forcedQuiet s1 1 = false ∧ ctx0 ∈ (engineOf s1 1).ctxs ∧ (∀ k, calm s1 1 k) ∧
    (engineOf (tctx 1 { ctx0 with use := .again } []) 1).ctxs.find? (fun c => c.core == 0 && c.use != .saved) = some { ctx0 with use := .again } ∧
    (readArea 1 ctx0.area).run (tctx 2 ctx0 []) = .ok (2, false, dm2, false) s2 :=
  ⟨_, _, 0, 0, by decide +kernel, by decide +kernel, by decide +kernel, by decide +kernel, ran_eq (0, false, 0,
      false) _ (by decide +kernel) (by decide +kernel),
    by decide +kernel, by decide +kernel, by decide +kernel, calm_all (by decide +kernel), by decide +kernel, ran_eq (0, false, 0,
        false) _ (by decide +kernel) (by decide +kernel)⟩
/-- A tree counter with a parent has been reached, and one has been poisoned. -/
def ttree : State := { tg [] fun e => { e with tree := [⟨9, eventPlace 0 4064, 1, some (eventPlace 0 4065), false⟩] } with
  wakes := [⟨.forward (eventPlace 0 4064), 0⟩, ⟨.forward (eventPlace 0 4064), 1⟩] }
theorem witness_TreeForward : treeAt ttree (eventPlace 0 4064) = some (1, ⟨9, eventPlace 0 4064, 1, some (eventPlace 0 4065), false⟩) ∧
    ttree.wakes[0]? = some ⟨.forward (eventPlace 0 4064), 0⟩ ∧ ttree.wakes[1]? = some ⟨.forward (eventPlace 0 4064), 1⟩ := by decide +kernel
/-- Core 0's context waits in its save for its copies. -/
def theld : State :=
  let s := tctx 0 ctx0 []
  { s with mem := s.mem.write 0x140100 (bytesOfWord ((Instr.waitn 15 15 0 15).words.headD 0)) }.onHart fun h =>
    { h with pc := 0x20100, spid := 5, tsw := { h.tsw with mode := .supervisor, ie := false }, trap := { h.trap with int := true }, ocp := { h.ocp with iss := 1 } }
theorem witness_Held : ∃ s1 s2, forcedQuiet theld 1 = false ∧ resumesOn theld 1 ctx0 0 ∧ contextWaits theld 1 ctx0 = false ∧
    (schedule 1).run theld = .ok schedRec s1 ∧ together s1 (engineOf s1 1) (schedLevel schedRec) ctx0 = some [ctx0] ∧ savedOthers ctx0 [ctx0] = [] ∧
    resumeCores (engineOf s1 1) [0] [] = some [] ∧ heldOthers ctx0 [ctx0] = [] ∧ (writeResume 1 schedRec [(ctx0, 0)]).run s1 = .ok () s2 ∧
    ctx0 ∈ (engineOf s2 1).ctxs ∧ noOwnWrites Config.cores s2 := by
  unfold noOwnWrites
  exact ⟨_, _, by decide +kernel, .inl (by decide +kernel), by decide +kernel, ran_eq [] _ (by decide +kernel) (by decide +kernel), by decide +kernel,
    by decide +kernel, by decide +kernel, by decide +kernel, ran_eq () _ (by decide +kernel) (Subsingleton.elim _ _), by decide +kernel, by decide +kernel⟩
/-- Saved contexts of domain 0 of cores 0 and 1, the first at the head of the pool; core 1 may run another context, which may belong to the domain and be
asked for its slice. -/
def dom0 (core : Nat) : Context := { ctx0 with core := core, area := BitVec.ofNat 64 (0x30000 + 0x1000 * core), use := .saved, dmem := 0 }
def other1 : Context := { ctx0 with core := 1, area := 0x34000, cohort := 8 }
def tdom (l : List Context) (member : Bool) : State :=
  let s := tg [cohort1, node 6 [] .waiting] fun e => { e with ctxs := [dom0 0, dom0 1] ++ l, pool := [(16, 0x30000), (16, 0x31000)] }
  onCore s 1 fun h => { h with dmem := if member then 0 else h.dmem, irq := { h.irq with pend := if member then 2 else h.irq.pend } }
theorem resumesOn_head {s : State} (h : ((engineOf s 1).ctxs.find? fun c => c.core == 0 && heldContext s c) = none ∧
    poolHead (engineOf s 1) = some (16, 0x30000) ∧ ((engineOf s 1).ctxs.find? fun c => c.area.toNat == 0x30000 && c.use == .saved) = some (dom0 0) ∧
    mayResume (engineOf s 1) [] (dom0 0) 0 = true) : resumesOn s 1 (dom0 0) 0 := .inr ⟨h.1, ⟨_, h.2.1, h.2.2.1⟩, h.2.2.2⟩
theorem witness_Resume : ∃ s1 s2, forcedQuiet (tdom [] false) 1 = false ∧ resumesOn (tdom [] false) 1 (dom0 0) 0 ∧
    contextWaits (tdom [] false) 1 (dom0 0) = false ∧
    (schedule 1).run (tdom [] false) = .ok schedRec s1 ∧ together s1 (engineOf s1 1) (schedLevel schedRec) (dom0 0) = some [dom0 0, dom0 1] ∧
    savedOthers (dom0 0) [dom0 0, dom0 1] = [dom0 1] ∧ resumeCores (engineOf s1 1) [0] [dom0 1] = some [(dom0 1, 1)] ∧
        heldOthers (dom0 0) [dom0 0, dom0 1] = [] ∧
    (writeResume 1 schedRec [(dom0 0, 0), (dom0 1, 1)]).run s1 = .ok () s2 ∧ (∀ y ∈ [dom0 0, dom0 1], y ∈ (engineOf s2 1).ctxs) ∧
        noOwnWrites Config.cores s2 := by
  unfold noOwnWrites
  exact ⟨_, _, by decide +kernel, resumesOn_head (by decide +kernel), by decide +kernel, ran_eq [] _ (by decide +kernel) (by decide +kernel),
      by decide +kernel,
    by decide +kernel, by decide +kernel, by decide +kernel, ran_eq () _ (by decide +kernel) (Subsingleton.elim _ _), by decide +kernel, by decide +kernel⟩
theorem witness_Resume_waits : ∃ s1 s2, resumesOn (tdom [other1] true) 1 (dom0 0) 0 ∧ (schedule 1).run (tdom [other1] true) = .ok schedRec s1 ∧
    together s1 (engineOf s1 1) (schedLevel schedRec) (dom0 0) = none ∧ resumesOn (tdom [other1] false) 1 (dom0 0) 0 ∧
    (schedule 1).run (tdom [other1] false) = .ok schedRec s2 ∧ together s2 (engineOf s2 1) (schedLevel schedRec) (dom0 0) = some [dom0 0, dom0 1] ∧
    resumeCores (engineOf s2 1) [0] (savedOthers (dom0 0) [dom0 0, dom0 1]) = none :=
  ⟨_, _, resumesOn_head (by decide +kernel), ran_eq [] _ (by decide +kernel) (by decide +kernel), by decide +kernel, resumesOn_head (by decide +kernel),
    ran_eq [] _ (by decide +kernel) (by decide +kernel), by decide +kernel, by decide +kernel⟩
/-- Core 0 runs a context, SLICE is requested, and a cohort waits for it. -/
def tslice : State := (tctx 0 ctx0 [(0, 0)]).onHart fun h => { h with irq := { h.irq with pend := 2 } }
theorem witness_Slicing : ∃ s1, (schedule 1).run tslice = .ok schedRec s1 ∧ schedQuant schedRec ≠ 0 ∧ schedForce schedRec ≠ 0 ∧
    coreFree (engineOf s1 1) 0 = false ∧
    domainAt (hartAt s1 0).dmem (schedLevel schedRec) = 0xFFFF ∧ (engineOf s1 1).pool.any (wants (engineOf s1 1) 1 [0]) = true ∧ pends s1 0 1 ∧
    partOfCluster tslice (clusterOf 0) = 1 := by
  unfold pends
  exact ⟨_, ran_eq [] _ (by decide +kernel) (by decide +kernel), by decide +kernel⟩
/-- Core 0 waits at a JOIN in page 2, while the pool holds a cohort of the whole first cluster. -/
def wide : GNode := { cohort1 with words := cohortRec.set 16 0xFFFF00 }
def tstall : State :=
  let s := tg [wide] fun e => { e with ctxs := [ctx0], pool := [(0, 0)] }
  { s with mem := s.mem.write 0x140100 (bytesOfWord ((Instr.join 1 2).words.headD 0)) }.onHart fun h =>
    { h with pc := 0x20100, spid := 5, g := h.g.set 2 7 }
theorem witness_Stall : ∃ s1 s2 w, (schedule 1).run tstall = .ok schedRec s1 ∧ allWaiting s1 (engineOf s1 1) = some [(0, w)] ∧ schedStall schedRec ≠ 0 ∧
    othersRunning (engineOf s1 1) = false ∧ stuckCohort s1 1 schedRec = true ∧
    (writeStall 1 schedRec (stallReport (hartAt s1 0).irq.cycle [(0, w)])).run s1 = .ok () s2 :=
  ⟨_, _, (2, 0, 7), ran_eq [] _ (by decide +kernel) (by decide +kernel), by decide +kernel, by decide +kernel, by decide +kernel, by decide +kernel,
    ran_eq () _ (by decide +kernel) (Subsingleton.elim _ _)⟩

/-! ## The service kernel -/

/-- Requests of slice 0's ring: a wrong operation, faults on page 1, a map of page 1, an unmap of page 3, attributes of page 9. -/
theorem next_eq (r : List Word) (h : ranOk ((nextRequest 1 0).run (tt r)) = true) (e : ranVal none ((nextRequest 1 0).run (tt r)) = some r) :
    (nextRequest 1 0).run (tt r) = .ok (some r) (ranState ((nextRequest 1 0).run (tt r))) := ran_eq none _ h e
def afterNext (r : List Word) : State := ranState ((nextRequest 1 0).run (tt r))
theorem witness_Requests : (nextRequest 1 0).run (tt (request 9 0 0 0)) = .ok (some (request 9 0 0 0)) (afterNext (request 9 0 0 0)) ∧
    requestOk (afterNext (request 9 0 0 0)) 1 (request 9 0 0 0) = false ∧
    (nextRequest 1 0).run (tt (request 1 0x10000 3 0)) = .ok (some (request 1 0x10000 3 0)) (afterNext (request 1 0x10000 3 0)) ∧
    requestOk (afterNext (request 1 0x10000 3 0)) 1 (request 1 0x10000 3 0) = true ∧
    (walkPath (afterNext (request 1 0x10000 3 0)) 1 5 0x10000).2 = some (0x0010000000130107, false) ∧
    pteR 0x0010000000130107 = true ∧ pteW 0x0010000000130107 = true ∧
    requestOk (afterNext (request 2 0x10000 1 0x0010000000000107)) 1 (request 2 0x10000 1 0x0010000000000107) = true ∧
    (walkPath (afterNext (request 2 0x10000 1 0x0010000000000107)) 1 5 0x10000).2 ≠ none :=
  ⟨next_eq _ (by decide +kernel) (by decide +kernel), by decide +kernel, next_eq _ (by decide +kernel) (by decide +kernel), by decide +kernel⟩
/-- A request for page 9, which no entry maps. -/
def mapReq : List Word := request 2 0x90000 1 0x0010000000000107
theorem witness_Requests_map : (nextRequest 1 0).run (tt mapReq) = .ok (some mapReq) (afterNext mapReq) ∧ requestOk (afterNext mapReq) 1 mapReq = true ∧
    reqCount mapReq = 1 ∧ walkPath (afterNext mapReq) 1 5 0x90000 = ([0x100000, 0x110000, 0x120000], none) ∧
    pteV ((afterNext mapReq).mem.readWord 0x120048) = false ∧ leafOk (reqEnt mapReq ||| 0x170000) 65536 = true ∧ hbmExhausted (afterNext mapReq) 1 = false ∧
    hbmReached (afterNext mapReq) 1 65536 = false ∧ (afterNext mapReq).mgmt.released = [] ∧ (afterNext mapReq).mgmt.kept = [] ∧
        0x120048 + 8 ≤ usagePlace 1 0 :=
  ⟨next_eq _ (by decide +kernel) (by decide +kernel), by decide +kernel⟩
/-- New attributes of page 3. -/
def attrReq : List Word := request 4 0x30000 1 0x0010000000000103
theorem witness_Requests_attributes : (nextRequest 1 0).run (tt attrReq) = .ok (some attrReq) (afterNext attrReq) ∧
    requestOk (afterNext attrReq) 1 attrReq = true ∧
    reqCount attrReq = 1 ∧ leafSlot (afterNext attrReq) 1 5 0x30000 = some (0x120018, 0x0010000000150107) ∧
    leafOk ((0x0010000000150107 &&& 0xFC0FFFFFFFFF0000) ||| reqEnt attrReq) 65536 = true ∧ pagesQuiet (afterNext attrReq) 1 5 [0x30000] = true :=
  ⟨next_eq _ (by decide +kernel) (by decide +kernel), by decide +kernel⟩
theorem witness_Requests_tables : (nextRequest 1 0).run (tt (request 3 0x30000 1 0)) = .ok (some (request 3 0x30000 1 0)) (afterNext (request 3 0x30000 1 0)) ∧
    requestOk (afterNext (request 3 0x30000 1 0)) 1 (request 3 0x30000 1 0) = true ∧
    leafSlot (afterNext (request 3 0x30000 1 0)) 1 5 0x30000 = some (0x120018, 0x0010000000150107) ∧ reqCount (request 3 0x30000 1 0) = 1 ∧
    pagesQuiet (afterNext (request 3 0x30000 1 0)) 1 5 [0x30000] = true ∧ 0x120018 + 8 ≤ usagePlace 1 0 ∧
    (nextRequest 1 0).run (tt (request 4 0x90000 1 0x0010000000000107)) = .ok (some (request 4 0x90000 1 0x0010000000000107)) (afterNext (request 4 0x90000 1 0x0010000000000107)) ∧
    requestOk (afterNext (request 4 0x90000 1 0x0010000000000107)) 1 (request 4 0x90000 1 0x0010000000000107) = true ∧
    leafSlot (afterNext (request 4 0x90000 1 0x0010000000000107)) 1 5 0x90000 = none :=
  ⟨next_eq _ (by decide +kernel) (by decide +kernel), by decide +kernel, by decide +kernel, by decide +kernel, by decide +kernel, by decide +kernel,
    next_eq _ (by decide +kernel) (by decide +kernel), by decide +kernel, by decide +kernel⟩
/-- Page 2 is not writable: a store's fault on it is fatal. -/
theorem witness_Requests_fatal : (nextRequest 1 0).run (tt (request 1 0x20000 2 0)) = .ok (some (request 1 0x20000 2 0)) (afterNext (request 1 0x20000 2 0)) ∧
    requestOk (afterNext (request 1 0x20000 2 0)) 1 (request 1 0x20000 2 0) = true ∧ (request 1 0x20000 2 0).getD 3 0 = 2 ∧
    (walkPath (afterNext (request 1 0x20000 2 0)) 1 5 0x20000).2 = some (0x001000000014010B, false) ∧ pteW 0x001000000014010B = false :=
  ⟨next_eq _ (by decide +kernel) (by decide +kernel), by decide +kernel, by decide +kernel, by decide +kernel, by decide +kernel⟩
/-- A request whose REPLY is counter 19 of cluster 0. -/
def replyReq : List Word := (request 1 0x10000 3 0).set 5 0x4000000000000013
theorem witness_Answers : ∃ s1 s2 u, (reqRes replyReq).toNat % 8 = 0 ∧ (reqRes replyReq).toNat < 2 ^ 55 ∧
    (svcWrite 0 1 5 0x10600 (toBytes 8 2)).run ts = .ok () s1 ∧
    addForm (reqReply replyReq) = true ∧ refReach s1 1 false (reqReply replyReq) = true ∧
    partyRef s1 0 1 5 needRW (reqReply replyReq) = (.at (eventPlace 0 19), s2) ∧ noOwnWrites Config.cores s2 ∧
    u = counterAdd s2 (eventPlace 0 19) 1 ∧ descOf u 1 = some desc1 ∧ lowestSpace u 1 = some 5 ∧
    (partyRef u 0 1 5 needRW (ringCounter desc1 0 1)).1 = .at (2 ^ 64 + 0x160008) :=
  ⟨_, _, _, by decide +kernel, by decide +kernel, ran_eq () _ (by decide +kernel) (Subsingleton.elim _ _), by decide +kernel, by decide +kernel,
      of_fst (by decide +kernel),
    by unfold noOwnWrites; decide +kernel, rfl, by decide +kernel, by decide +kernel,
    by decide +kernel⟩
/-- A posted LOAD whose block names no image (code 1) or a whole one, a posted UNLOAD before and after its add to GENC. -/
def svc (arg : Word) (pass : Nat) : GNode := { node 1 [1] .running with posted := true, arg := arg, aux := 0x10800, pass := pass }
def tsvc (arg : Word) (pass : Nat) : State := { tg [svc arg pass, node 6 [] .waiting] id with images := [⟨1, 5, 0, 0, 0, []⟩] }
/-- The block names an image of 128 bytes at 0x10A00, its text goes to page 2 and its data to page 3. -/
def wholeImage : State :=
  page1 (page1 (tsvc 0 0) 0x800 [0x10A00, 128, 0x20000, 0x30000]) 0xA00 [0x0003000159444C42, 0, 0, 0x400000040, 0x100000048, 0, 0, 0, 5, 0]
theorem witness_LoadingAndReplicas : ∃ s1 s2 s3 u, postedService (tsvc 0 0) 1 0 0 0 = some (graph1 [svc 0 0, node 6 [] .waiting], svc 0 0) ∧
    load 1 5 0x10800 0 (tsvc 0 0) = (some 1, s1) ∧ s1.engines = (tsvc 0 0).engines ∧
    postedService wholeImage 1 0 0 0 = some (graph1 [svc 0 0, node 6 [] .waiting], svc 0 0) ∧ load 1 5 0x10800 0 wholeImage = (some 0, s2) ∧
    postedService (tsvc 1 1) 1 0 0 1 = some (graph1 [svc 1 1, node 6 [] .waiting], svc 1 1) ∧
        unload 1 5 0x10800 none (BitVec.ofNat 24 (1 - 1)) (tsvc 1 1) = (some 0, s3) ∧
    (svc 1 2).pass ≠ 0 ∧ (generationsReached 1 (BitVec.ofNat 24 (2 - 1))).run (tsvc 1 2) = .ok false u :=
  ⟨_, _, _, _, by decide +kernel, of_fst (by decide +kernel), by decide +kernel, by decide +kernel, of_fst (by decide +kernel), by decide +kernel,
      of_fst (by decide +kernel),
    by decide +kernel, ran_eq true _ (by decide +kernel) (by decide +kernel)⟩
theorem witness_LoadingAndReplicas_pages : ∃ s1 s2 s3 g, leafSlot ts 1 5 0x10000 = some (0x120008, 0x0010000000130107) ∧
    globalAccess ts (firstSlice 1) 1 5 ⟨false, false⟩ 0x10700 [1, 2].length = (.ok [g], s1) ∧ g.ok = true ∧ pteRepl g.entry = false ∧ g.len = 2 ∧
    postedService (tsvc 1 0) 1 0 0 1 = some (graph1 [svc 1 0, node 6 [] .waiting], svc 1 0) ∧ (schedule 1).run (tsvc 1 0) = .ok schedRec s2 ∧
        lowestSpace s2 1 = some 5 ∧
    (engRef 1 5 0 needRW (schedRec.getD 5 0)).run s2 = .ok (eventPlace 0 18) s3 ∧ noOwnWrites Config.cores s3 ∧ s3.engines = (tsvc 1 0).engines := by
  unfold noOwnWrites
  exact ⟨_, _, _, ⟨0x130700, 2, true, 0x0010000000130107⟩, by decide +kernel,
    of_fst (by decide +kernel), by decide +kernel, by decide +kernel, by decide +kernel, by decide +kernel,
        ran_eq [] _ (by decide +kernel) (by decide +kernel),
    by decide +kernel, ran_eq 0 _ (by decide +kernel) (by decide +kernel), by decide +kernel, by decide +kernel⟩
def replicated : State :=
  { ts with repl := [⟨0, 0x200000, [1, 2], 0, 0, false⟩, ⟨1, 0x200000, [3], 0, 0, false⟩], applied := (Vector.replicate 3 0).set 1 1 }
theorem witness_ReplicaApply : replicated.repl[replicated.applied[(0 : Fin 3)]]? = some ⟨0, 0x200000, [1, 2], 0, 0, false⟩ ∧
    replicated.repl[replicated.applied[(0 : Fin 3)] + 1]? = some ⟨1, 0x200000, [3], 0, 0, false⟩ ∧ (2 : Fin 3) ≠ 0 ∧ replicated.applied[(2 : Fin 3)] = 0 := by
  decide +kernel

end Sys2Proof.Tests
end

