-- ==== Sys2Proof/Tests/Witness7.lean ====
section
/-! SUPPORT. For every statement with hypotheses, a state and operands that meet them all: hosts, links, the layout, management. -/

namespace Sys2Proof.Tests

open Sys2Proof.Machine Sys2Proof.Claims

set_option Elab.async false

/-! ## Hosts -/

/-- Host addresses from 0x10000 reach page 1 of space 5, through the first decoder. -/
def dec1 : BitVec 192 := BitVec.ofNat 192 (2 ^ 2 + 2 ^ 16 + 0x10000 * 2 ^ 105 + 5 * 2 ^ 160)
def port1 : HostPortState := { HostPortState.reset with tdisp := .run, parts := [1], decoders := (Vector.replicate 8 0).set 0 dec1 }
/-- Port 1, changed by `f`. -/
def hosted (f : HostPortState → HostPortState) : State := { ts with ports := ts.ports.set 1 (f port1) }
theorem witness_HostAccesses : ∃ s1 s2 l g, portServes (hosted id) 1 = true ∧ decode' (portAt (hosted id) 1) 0x10100 8 = some (5, 0x10100) ∧
    boundPart (hosted id) 1 5 = some 1 ∧ globalAccess (hosted id) (portSlice 1) 1 5 needR 0x10100 8 = (.ok l, s1) ∧ l.all Seg.ok = true ∧
    globalAccess (hosted id) (portSlice 1) 1 5 needW 0x10100 8 = (.ok [g], s2) ∧ g.ok = true ∧ pteRepl g.entry = false ∧ g.len = 8 ∧
    decode' (portAt (hosted id) 1) 0x9000 8 = none ∧ noOwnWrites Config.cores (hosted id) ∧ (hosted id).mgmt.power = true :=
  ⟨_, _, [⟨0x130100, 8, true, 0x0010000000130107⟩], ⟨0x130100, 8, true, 0x0010000000130107⟩, by decide +kernel, by decide +kernel, by decide +kernel,
    of_fst (by decide +kernel), by decide +kernel, of_fst (by decide +kernel), by decide +kernel, by decide +kernel, by decide +kernel, by decide +kernel,
    by unfold noOwnWrites; decide +kernel, by decide +kernel⟩
/-- The range of the decoder is HDM-DB. -/
def hdmdb : State := hosted fun h => { h with decoders := h.decoders.set 0 (dec1 ||| 2) }
theorem witness_HostExchanges : ∃ s1 g, portServes hdmdb 1 = true ∧ decoderOf (portAt hdmdb 1) 0x10100 8 = some (dec1 ||| 2) ∧ (dec1 ||| 2).getLsbD 1 = true ∧
    decode' (portAt hdmdb 1) 0x10100 8 = some (5, 0x10100) ∧ boundPart hdmdb 1 5 = some 1 ∧
    globalAccess hdmdb (portSlice 1) 1 5 needRW 0x10100 8 = (.ok [g], s1) ∧ g.ok = true ∧ pteRepl g.entry = false ∧ g.len = 8 ∧ hdmdb.mgmt.power = true :=
  ⟨_, ⟨0x130100, 8, true, 0x0010000000130107⟩, by decide +kernel, by decide +kernel, by decide +kernel, by decide +kernel, by decide +kernel,
    of_fst (by decide +kernel), by decide +kernel, by decide +kernel, by decide +kernel, by decide +kernel⟩
/-- Queue 0 of port 1, bound to partition 1. -/
def queue1 (f : QueueRegs → QueueRegs) : State :=
  hosted fun h => { h with queues := [(0, f { QueueRegs.reset with bound := true, part := 1, space := 5, cpla := 0x1000, cpln := 16 })] }
theorem witness_HostStores : acceptsStores (queue1 id) 1 0 = true ∧ acceptsStores (hosted id) 1 0 = false := by decide +kernel
/-- A store and a load of the second tier are under way on core 0; page 9 of space 5 lies there. -/
def farLoad : PendingLoad := ⟨.g 5, 0x90100, 7, false, false⟩
def farStore : PendingStore := ⟨false, true, 0, 0⟩
/-- A walk of partition 1's space 5. -/
def farWalk : Walk := { walk5 with part := 1, space := 5 }
def tierSt : State := { ts with mem := ts.mem.write 0x120048 (wordBytes 0x0014000000000107) }.onHart fun h =>
  { h with spid := 5, stores := [farStore], loads := [farLoad], old := ⟨1, 0⟩, ost := ⟨1, 0⟩, walk := some farWalk }
theorem witness_TierTimeouts : (hartAt tierSt 0).stores.find? PendingStore.far = some farStore ∧ (hartAt tierSt 0).loads[0]? = some farLoad ∧
    farPage tierSt (partOfCluster tierSt (clusterOf 0)) (hartAt tierSt 0).spid 0x90100 = true ∧ tierSt.hart.walk = some farWalk ∧
    farPage tierSt farWalk.part farWalk.space 0x90100 = true ∧ farWalk.susp = none ∧ farWalk.fail = none ∧ farWalk.failed = none ∧
        farWalk.closing = none := by
  decide +kernel
theorem witness_Interfaces : decodersPass (hosted fun h => { h with tdisp := .unlocked }) 1 = true ∧
    (portAt (hosted fun h => { h with tdisp := .unlocked }) 1).tdisp = .unlocked ∧ (portAt (hosted id) 1).tdisp = .run ∧
    (portAt (hosted fun h => { h with tdisp := .locked }) 1).tdisp = .locked ∧ (hosted fun h => { h with tdisp := .locked }).mgmt.power = true ∧
    (hosted fun h => { h with tdisp := .unlocked }).mgmt.power = true ∧ (run .powerOff (hosted id)).mgmt.power = false := by decide +kernel
/-- A record lies in the ring of queue 0, and CMDF is 1; the submission ring is empty. -/
def ordered (w : List Word) : State :=
  let s := queue1 id
  let m := s.mem.write (eventPlace 0 17) (wordBytes 1)
  { s with mem := (m.write (queuePlace 1 0 0x40) (wordBytes 1)).write (queuePlace 1 0 0x8000) (w.flatMap wordBytes) }
theorem witness_HostCommands : ∃ s1 s2, nextCommand (ordered [0, 0, 0, 0, 0, 0, 0, 0]) 1 0 0 = some (0, [0, 0, 0, 0, 0, 0, 0, 0]) ∧
    nextRecord (ordered [1, 0, 0, 0, 0, 0, 0, 0]) 1 0 = some (0, [1, 0, 0, 0, 0, 0, 0, 0]) ∧
    cmdRefusal (ordered [1, 0, 0, 0, 0, 0, 0, 0]) ((ordered [1, 0, 0, 0, 0, 0, 0, 0]).queue 1 0) 0 [1, 0, 0, 0, 0, 0, 0, 0] = some 2 ∧
    nextCommand (ordered [0, 2, 0x4000000000000013, 5, 0, 0, 0, 0]) 1 0 2 = some (0, [0, 2, 0x4000000000000013, 5, 0, 0, 0, 0]) ∧
    (svcRef 6 1 5 needRW 0x4000000000000013).run (ordered [0, 2, 0x4000000000000013, 5, 0, 0, 0, 0]) = .ok (eventPlace 0 0x13) s1 ∧
    nextCommand (ordered [0, 1, 0x10200, 0, 0, 0, 0, 0]) 1 0 1 = some (0, [0, 1, 0x10200, 0, 0, 0, 0, 0]) ∧
    noOwnWrites Config.cores (ordered [0, 2, 0x4000000000000013, 5, 0, 0, 0, 0]) ∧
    (submit 6 1 0x10200).run (ordered [0, 1, 0x10200, 0, 0, 0, 0, 0]) = .ok (some 2) s2 ∧ s2.ports = (ordered [0, 1, 0x10200, 0, 0, 0, 0, 0]).ports ∧
    nextCommand (ordered [0, 3, 18, 0, 0, 0, 0, 0]) 1 0 3 = some (0, [0, 3, 18, 0, 0, 0, 0, 0]) ∧ switchNumber 18 = false := by
  unfold noOwnWrites
  exact
  ⟨_, _, by decide +kernel, by decide +kernel, by decide +kernel, by decide +kernel, ran_eq 0 _ (by decide +kernel) (by decide +kernel), by decide +kernel,
    by decide +kernel, ran_eq none _ (by decide +kernel) (by decide +kernel), by decide +kernel, by decide +kernel, by decide +kernel⟩
/-- A management service that goes on, of the firmware's queue. -/
def managing : State :=
  let s := ordered [0, 3, 2, 0x10000, 0, 0, 0, 0]
  { s with ports := s.ports.set 1 { s.ports[1] with queues := [(0, { s.queue 1 0 with part := 0, space := 0 })] } }
theorem witness_ManagementCommands : nextCommand managing 1 0 3 = some (0, [0, 3, 2, 0x10000, 0, 0, 0, 0]) := by decide +kernel
def completing : State := queue1 fun q => { q with waiting := [⟨0, 0, 0⟩] }
theorem witness_Completions : (completing.queue 1 0).running = [] ∧ (completing.queue 1 0).waiting = [⟨0, 0, 0⟩] ∧ delivery completing 1 0 = .write ∧
    (completing.queue 1 0).cplw.toNat < (completing.queue 1 0).cplc.toNat + (completing.queue 1 0).cpln.toNat ∧ 0 < (completing.queue 1 0).cpln.toNat ∧
    completing.repl = [] ∧
    (completing.queue 1 0).cpla.toNat + 64 + 32 * (completing.queue 1 0).cpln.toNat ≤ 2 ^ 52 := by decide +kernel

/-! ## Links -/

/-- An ADD of 5 from chip 7, partition 3. -/
def flit (kind : BitVec 4) (payload : List Byte) : Flit := ⟨7, 0, 3, 0, kind, 0, 0, 16, 0, payload, true, true⟩
def adds5 : List Byte := wordBytes 0x4000000000000013 ++ wordBytes 5
def import1 : ImportEntry := ⟨1, 0, 0x8007000300000000, 5, 0xF⟩
def out1 (retries : Nat) : OutMsg := ⟨7, 3, 1, 0, 0, 0, [], .reply, retries, true, false⟩
def held1 : Held := ⟨7, 0, flit 3 adds5, adds5, some import1, ⟨0x10000, 2, 1, 5, some (0, 0)⟩⟩
/-- Messages out, partly received and held. -/
def linked (out : List OutMsg) (parts : List Partial) (held : List Held) : State :=
  { ts with links := { Links.reset with imports := [import1], out := out, partials := parts, held := held } }
theorem witness_LinkAdds : flitBad (linked [] [] []) { flit 3 adds5 with authentic := false } = true ∧ flitBad (linked [] [] []) (flit 3 adds5) = false ∧
    (flit 3 adds5).kind = 3 ∧ (flit 3 adds5).len = 16 ∧ (flit 3 adds5).off = 0 ∧ 16 ≤ (flit 3 adds5).payload.length ∧
        windowAnswer (linked [] [] []) 7 0 = none ∧
    importFor (linked [] [] []) 7 3 0 = some import1 ∧ import1.perm.getLsbD 3 = true ∧ spaceEntry (linked [] [] []) 1 import1.space ≠ none ∧
    refKind 0x4000000000000013 = 1 ∧ refForm 0x4000000000000013 = true ∧ refReach (linked [] [] []) 1 false 0x4000000000000013 = true ∧
    (linked [] [] []).repl = [] ∧
    (flit 3 adds5).src ≠ chipNo (linked [] [] []) ∧ BitVec.ofNat 64 (leNat (adds5.take 8)) = (0x4000000000000013 : Word) := by decide +kernel
theorem witness_LinkAnswers : flitBad (linked [out1 0] [] []) { flit 5 [0] with sseq := 3 } = false ∧
    findMessage (linked [out1 0] [] []) 7 3 = some (out1 0) ∧ flitBad (linked [] [] []) (flit 6 [1]) = false := by decide +kernel
theorem witness_LinkTimers : (⟨flit 3 adds5, [], false⟩ : Partial) ∈ (linked [] [⟨flit 3 adds5, [], false⟩] []).links.partials ∧
    findMessage (linked [out1 0] [] []) 7 3 = some (out1 0) ∧ (out1 0).sent = true ∧ findMessage (linked [out1 7] [] []) 7 3 = some (out1 7) ∧
    (7 : BitVec 12) ≠ chipNo (linked [out1 0] [] []) := by decide +kernel
theorem witness_HeldMessages : ∃ s1, findHeld (linked [] [] [held1]) 7 0 = some held1 ∧ held1.susp.record ≠ none ∧ held1.flit.src = 7 ∧
    held1.flit.sseq = 0 ∧ held1.flit.kind ≠ 2 ∧
    performMessage (dropHeld (takeRecord (linked [] [] [held1]) held1.susp) 7 0) held1.entry held1.flit held1.body = (.ack 0, s1) ∧
        (7 : BitVec 12) ≠ chipNo s1 :=
  ⟨_, by decide +kernel, by decide +kernel, by decide +kernel, by decide +kernel, by decide +kernel, of_fst (by decide +kernel), by decide +kernel⟩

/-! ## The layout -/

/-- A change list in page 1 of the firmware's space 0: one entry of an operation on a node. -/
def listing (op node : Nat) : State :=
  let s : State := { st [] with spaces := [(0, ⟨0, 0x10⟩)] }
  let w (m : Memory) (a : Nat) (l : List Word) : Memory := m.write a (l.flatMap wordBytes)
  let m := w (w (w [] 0x100000 [0x110001]) 0x110000 [0x120001]) 0x120008 [0x130107]
  { s with mem := w m 0x130000 [1, 1000, 0, 0, 0, 0, 0, 0, BitVec.ofNat 64 (op + 65536 * node), 0, 0, 0, 0, 0, 0, 0] }
def split1 : ChangeEntry := ⟨3, 1, [0, 0, 0, 0, 0, 0, 0], true⟩
def merge1 : ChangeEntry := ⟨4, 1, [0, 0, 0, 0, 0, 0, 0], true⟩
/-- What a list of operations comes to. -/
theorem apply_ok {k : Nat} {s : State} {old : List Nat} {es : List ChangeEntry} (h : passed (applyAll old k s es) = true) : ∃ t,
    applyAll old k s es = .ok t := by
  cases e : applyAll old k s es with
  | ok t => exact ⟨t, rfl⟩
  | error n => rw [e] at h; cases h
theorem apply_fails {k n : Nat} {s : State} {old : List Nat} {es : List ChangeEntry}
    (h : (match applyAll old k s es with | .ok _ => none | .error n => some n) = some n) : applyAll old k s es = .error n := by
  cases e : applyAll old k s es with
  | ok t => rw [e] at h; cases h
  | error m => rw [e] at h; cases h; rfl
theorem witness_LayoutChanges : ∃ s1 s2, (listing 3 1).mgmt.change = none ∧ (readList 0x10000).run (listing 3 1) = .ok (some ([split1], false)) s1 ∧
    (∃ t, applyAll s1.mgmt.revoked 0 s1 [split1] = .ok t) ∧ (readList 0x10000).run (listing 4 1) = .ok (some ([merge1], false)) s2 ∧
    (listing 4 1).mgmt.change = none ∧ s2.mgmt = (listing 4 1).mgmt ∧ applyAll s2.mgmt.revoked 0 s2 [merge1] = .error 0 :=
  ⟨_, _, by decide +kernel, ran_eq none _ (by decide +kernel) (by decide +kernel), apply_ok (by decide +kernel),
      ran_eq none _ (by decide +kernel) (by decide +kernel),
    by decide +kernel, by decide +kernel, apply_fails (by decide +kernel)⟩
/-- Queue 0 of port 0 waits to be bound to partition 0 and space 0. -/
def shadowed : State := { State.reset with mgmt := { Management.reset with shadow := [.queue 0 0 (some (0, 0))] } }
theorem witness_BellOfBindings : shadowed.mgmt.change = none ∧ shadowed.mgmt.shadow ≠ [] := by decide +kernel
/-- The bell binds the queue (R403, R377). -/
theorem test_bell_binds : ((run .bell shadowed).queue 0 0).bound = true ∧ ((run .bell shadowed).mgmt.shadow = []) := by decide +kernel

/-- A change that destroys partition 1. -/
def destroy1 (st : ChangeState) : Change := ⟨st, [⟨2, 1, [0, 0, 0, 0, 0, 0, 0], true⟩], false, some 0x10000, [(1, .active)], []⟩
def changing (st : ChangeState) : State :=
  { ts with mem := ts.mem.write 0x160000 (wordBytes 0), mgmt := { ts.mgmt with change := some (destroy1 st) } }
theorem witness_ChangeSteps : (changing .quiescing).mgmt.change = some (destroy1 .quiescing) ∧ destroyed (destroy1 .quiescing) = [1] ∧
    (∀ p ∈ destroyed (destroy1 .quiescing), quiet (changing .quiescing) p = true) ∧ (changing .ringing).mgmt.change = some (destroy1 .ringing) ∧
    (changing .rung).mgmt.change = some (destroy1 .rung) ∧ ts.mgmt.change = none ∧ (destroy1 .quiescing).force = false :=
  ⟨by decide +kernel, by decide +kernel, List.all_eq_true.1 (by decide +kernel), by decide +kernel, by decide +kernel, by decide +kernel, by decide +kernel⟩
/-- The log of partition 1 is page 1. -/
def desc2 : Descriptor := { desc1 with log := 0x10000, logn := 16 }
def logging : State := { ts with mgmt := { ts.mgmt with descs := [desc2] }, arrays := [(0, { ArrayUnit.reset with acyc := 9 })] }
theorem witness_UsageRecords : logging.mgmt.descs = [desc2] ∧
    logPlace logging desc2 (chainOf logging desc2.part).seq = some (0x130000, 0x0010000000130107) ∧ pteRepl 0x0010000000130107 = false ∧
    0x130000 + 384 ≤ usagePlace desc2.part 6 ∧ noOwnWrites Config.cores logging ∧ (logging.array 0).acyc ≠ 0 ∧
    descOf logging (partOfCluster logging 0) = some desc2 := by unfold noOwnWrites; decide +kernel

/-! ## Management -/

theorem witness_Management : State.reset.mgmt.fatal = false ∧ State.reset.mgmt.islands[(5 : Fin 120)].op ≠ 7 ∧ (105 : BitVec 8).toNat < 115 ∧
    (110 : BitVec 8).toNat < 115 ∧ 105 ≤ (110 : BitVec 8).toNat ∧ (State.reset.mgmt.islands[(5 : Fin 120)].sense 106 0).hot = true ∧
    mayGate State.reset 5 = true ∧ { State.reset.mgmt.islands[(5 : Fin 120)] with gate := true }.gate = true ∧
    State.reset.mgmt.islands[(5 : Fin 120)].hot = false ∧ overPower State.reset.mgmt.islands = false ∧
    anyActive (listing 3 1) = false ∧ checkpointFits (listing 3 1) 0x10000 = true ∧ (0x10000 : Word).getLsbD 0 = false ∧
    (listing 3 1).mgmt.saving = none := by decide +kernel
/-- A save of a checkpoint that has copied `k` stacks. -/
def savingAt (k : Nat) : State := { listing 3 1 with mgmt := { (listing 3 1).mgmt with saving := some (0x10000, k) } }
theorem witness_CheckpointSteps : (savingAt 5).mgmt.saving = some (0x10000, 5) ∧ 5 < 48 ∧ (savingAt 48).mgmt.saving = some (0x10000, 48) := by decide
theorem witness_Health : ∃ s1, (svcWrite 0 0 0 0x10000 ((List.finRange 120).flatMap (healthEntry (listing 3 1)) ++ List.replicate 128 0)).run (listing 3 1) = .ok () s1 :=
  ⟨_, ran_eq () _ (by decide +kernel) (Subsingleton.elim _ _)⟩
/-- A checkpoint lies in the second tier at 0. -/
def checkpointed : State := { st [] with mem := Memory.write [] (checkpointPlace 1 48) ([0x54534B43, 0, 1].flatMap wordBytes) }
theorem witness_Restore : anyActive checkpointed = false ∧ checkpointFits checkpointed 1 = true ∧ (1 : Word).getLsbD 0 = true ∧
    checkpointed.mem.readWord (checkpointPlace 1 48) = 0x54534B43 ∧
    checkpointed.mem.readWord (checkpointPlace 1 48 + 16) = 1 := by decide +kernel
/-- Addresses from 2^29 of space 0 reach 512 MiB of memory; the request for the dump's part at 0 lies in page 1. -/
def dumped : State :=
  let s := listing 3 1
  { s with mem := (s.mem.write 0x110008 (wordBytes 0x20000107)).write 0x130000 (wordBytes 0 ++ wordBytes 0x20000000) }
def dumpWords : EStateM.Result EHalt State (List Word) := (svcWords 0 0 0 0x10000 2).run dumped
def dumpAccess : Global × State := globalAccess (ranState dumpWords) 0 0 0 needW 0x20000000 (2 ^ 26)
def gsegsOf (x : Global) : List Seg := match x with | .ok l => l | .bad _ _ => []
theorem granted_eq {x : Global × State} (h : (match x.1 with | .ok l => l.all Seg.ok | .bad _ _ => false) = true) :
    x = (.ok (gsegsOf x.1), x.2) ∧ (gsegsOf x.1).all Seg.ok = true := by
  obtain ⟨x, s⟩ := x
  cases x
  · exact ⟨rfl, h⟩
  · cases h
theorem witness_Dumpread : anyActive dumped = false ∧ dumpWords = .ok [0, 0x20000000] (ranState dumpWords) ∧
    dumpAccess = (.ok (gsegsOf dumpAccess.1), dumpAccess.2) ∧ (gsegsOf dumpAccess.1).all Seg.ok = true :=
  ⟨by decide +kernel, ran_eq [] _ (by decide +kernel) (by decide +kernel), granted_eq (by decide +kernel)⟩
theorem witness_Resets : (1 : Nat) ≤ 3 ∧ 3 ≤ 9 ∧ State.reset.agenda = [] ∧ ({ State.reset.mgmt with keep := true }).keep = true ∧
    State.reset.mgmt.keep = false ∧ { State.reset.mgmt with power := false }.power = false ∧ State.reset.mgmt.power = true := by decide +kernel

end Sys2Proof.Tests
end

section
/-! SUPPORT. Loads and stores (R131–R140): how long the segments of an access are, what a write to segments leaves, and how an access
that has passed its checks ends. -/

namespace Sys2Proof.Machine

open Sys2Proof.Claims

/-! ## States that differ in their stations only -/

theorem StationsOnly.hart {s t : State} (h : StationsOnly s t) : t.hart = s.hart := by rw [h]
theorem StationsOnly.cur {s t : State} (h : StationsOnly s t) : t.cur = s.cur := by rw [h]
theorem StationsOnly.mem {s t : State} (h : StationsOnly s t) : t.mem = s.mem := by rw [h]
theorem StationsOnly.repl {s t : State} (h : StationsOnly s t) : t.repl = s.repl := by rw [h]
theorem StationsOnly.replNext {s t : State} (h : StationsOnly s t) : t.replNext = s.replNext := by rw [h]
theorem StationsOnly.applied {s t : State} (h : StationsOnly s t) : t.applied = s.applied := by rw [h]

/-- An access that passes has changed only what the stations cache. -/
theorem access_ok_stations {s s1 : State} {am : AddrMode} {align : Nat} {need : Need} {a : Word} {n : Nat} {l : List Seg}
    (h : access s am align need a n = (.ok l, s1)) : StationsOnly s s1 := by
  have hs := access_stations s am align need a n
  rwa [h] at hs

/-! ## The segments of an access -/

/-- The number of bytes in the segments of an access. -/
def segBytes (l : List Seg) : Nat := (l.map Seg.len).sum

@[simp] theorem segBytes_nil : segBytes [] = 0 := rfl
@[simp] theorem segBytes_cons (g : Seg) (r : List Seg) : segBytes (g :: r) = g.len + segBytes r := rfl

theorem segPlaces_cons (g : Seg) (r : List Seg) : segPlaces (g :: r) = (List.range g.len).map (fun i => g.place + i) ++ segPlaces r := rfl

/-- Cutting `n` bytes at the multiples of `c`, as pages and words are cut, loses none of them while the fuel lasts. -/
theorem runs_total {c : Nat} (hc : 0 < c) (f : Nat → Nat → Nat → List (Nat × Nat)) (h0 : ∀ a n, f 0 a n = [])
    (hs : ∀ k a n, f (k + 1) a n = if n = 0 then [] else
      (a, min n (c - a % c)) :: f k (a + min n (c - a % c)) (n - min n (c - a % c))) :
    ∀ k a n, n + a % c ≤ c * k → ((f k a n).map Prod.snd).sum = n := by
  have empty (k a : Nat) : f k a 0 = [] := by
    cases k with
    | zero => exact h0 a 0
    | succ k => simp [hs]
  intro k
  induction k with
  | zero => intro a n h; rw [h0]; simp at h ⊢; omega
  | succ k ih =>
    intro a n h
    have hmod := Nat.mod_lt a hc
    rw [Nat.mul_succ] at h
    rw [hs]
    by_cases hn : n = 0
    · simp [hn]
    rw [if_neg hn, List.map_cons, List.sum_cons]
    by_cases hlast : n ≤ c - a % c
    · simp [Nat.min_eq_left hlast, empty]
    · have hnext : (a + (c - a % c)) % c = 0 := by
        rw [← Nat.add_sub_assoc hmod.le, Nat.sub_add_comm (Nat.mod_le a c), Nat.add_mod_right]
        exact Nat.sub_mod_eq_zero_of_mod_eq (Nat.mod_mod a c).symm
      rw [Nat.min_eq_right (by omega), ih _ _ (by omega)]
      omega

theorem runsOf_total (va n : Nat) : ((runsOf va n).map Prod.snd).sum = n :=
  runs_total (c := 65536) (by decide) pageRuns (fun _ _ => rfl) (fun _ _ _ => rfl) _ _ _ (by omega)

theorem wordRuns_total (a n : Nat) : ((wordRuns (n / 8 + 2) a n).map Prod.snd).sum = n :=
  runs_total (c := 8) (by decide) wordRuns (fun _ _ => rfl) (fun _ _ _ => rfl) _ _ _ (by omega)

theorem segBytes_localSegs (core : Nat) (am : AddrMode) (a n : Nat) : segBytes (localSegs core am a n) = n := by
  cases am with
  | ci => simpa [segBytes, localSegs, Function.comp_def] using wordRuns_total a n
  | gl => rfl
  | lo => rfl
  | cb => rfl

/-- No key bars local memory. -/
theorem localSegs_ok (core : Nat) (am : AddrMode) (a n : Nat) : (localSegs core am a n).all Seg.ok = true := by
  cases am <;> simp [localSegs]

/-- Translation keeps the runs of an access. -/
theorem translateRuns_runs (m : Nat) (p : BitVec 16) (sp : BitVec 20) (l : List (Nat × Nat)) :
    ∀ s, (translateRuns s m p sp l).1.map Prod.fst = l := by
  induction l with
  | nil => exact fun _ => rfl
  | cons run rest ih => exact fun s => congrArg (run :: ·) (ih _)

/-- Where every run has a page, its segments are as long as the runs. -/
theorem segBytes_translated {seg : (Nat × Nat) × Option Page → Page → Seg} (hseg : ∀ x p, (seg x p).len = x.1.2) :
    ∀ l : List ((Nat × Nat) × Option Page), (∀ x ∈ l, x.2.isNone = false) →
      segBytes (l.filterMap fun x => x.2.map (seg x)) = ((l.map Prod.fst).map Prod.snd).sum := by
  intro l
  induction l with
  | nil => exact fun _ => rfl
  | cons x r ih =>
    intro h
    obtain ⟨run, _ | p⟩ := x
    · exact absurd (h _ List.mem_cons_self) (by simp)
    · simp [hseg, ih fun y hy => h y (List.mem_cons_of_mem _ hy)]

theorem segBytes_globalAccess {s s1 : State} {m : Nat} {p : BitVec 16} {sp : BitVec 20} {need : Need} {va n : Nat} {l : List Seg}
    (h : globalAccess s m p sp need va n = (.ok l, s1)) : segBytes l = n := by
  have hruns := translateRuns_runs m p sp (runsOf va n) s
  unfold globalAccess at h
  generalize translateRuns s m p sp (runsOf va n) = tr at h hruns
  obtain ⟨pages, t⟩ := tr
  dsimp only at h hruns
  split at h
  · simp at h
  next hpage =>
    split at h
    · simp at h
    · simp only [Prod.mk.injEq, Global.ok.injEq] at h
      rw [← h.1, segBytes_translated (fun _ _ => rfl) _ (by simpa [Option.isSome_iff_ne_none] using hpage), hruns, runsOf_total]

/-- An access that passes its checks is a global one, or a local one that changes nothing. -/
theorem access_ok_cases {s s1 : State} {am : AddrMode} {align : Nat} {need : Need} {a : Word} {n : Nat} {l : List Seg}
    (h : access s am align need a n = (.ok l, s1)) :
    (am = .gl ∧ globalAccess s (homeSlice s.cluster) s.part s.hart.spid need a.toNat n = (.ok l, s1)) ∨
      (am ≠ .gl ∧ l = localSegs s.cur am a.toNat n ∧ s1 = s) := by
  have local_ok {k : List Seg} (hk : (Access.ok k, s) = (Access.ok l, s1)) : l = k ∧ s1 = s := by
    simpa [eq_comm] using hk
  unfold access at h
  dsimp only at h
  split at h
  · simp at h
  split at h
  · simp at h
  cases am with
  | gl =>
    refine .inl ⟨rfl, ?_⟩
    dsimp only at h
    split at h <;> simp_all
  | lo => exact .inr ⟨by decide, local_ok h⟩
  | cb => exact .inr ⟨by decide, local_ok h⟩
  | ci => exact .inr ⟨by decide, local_ok h⟩

/-- The segments of an access hold its bytes, no more and no fewer. -/
theorem access_segBytes {s s1 : State} {am : AddrMode} {align : Nat} {need : Need} {a : Word} {n : Nat} {l : List Seg}
    (h : access s am align need a n = (.ok l, s1)) : segBytes l = n := by
  rcases access_ok_cases h with ⟨_, hg⟩ | ⟨_, rfl, _⟩
  · exact segBytes_globalAccess hg
  · exact segBytes_localSegs ..

/-- An access that stays in the core meets no refused page. -/
theorem access_ok_of_stays {s s1 : State} {am : AddrMode} {align : Nat} {need : Need} {a : Word} {n : Nat} {l : List Seg}
    (h : access s am align need a n = (.ok l, s1)) (stays : leaves s am l = false) : l.all Seg.ok = true := by
  rcases access_ok_cases h with ⟨rfl, _⟩ | ⟨_, rfl, _⟩
  · simp [leaves] at stays
  · exact localSegs_ok ..

/-! ## Reading runs of memory -/

theorem Memory.readN_congr {m k : Memory} {a n : Nat} (h : ∀ i < n, m.read (a + i) = k.read (a + i)) : m.readN a n = k.readN a n :=
  List.map_congr_left fun i hi => h i (List.mem_range.1 hi)

/-- A write elsewhere leaves a run of bytes. -/
theorem Memory.readN_write_other {m : Memory} {a b n : Nat} {bs : List Byte} (h : b + n ≤ a ∨ a + bs.length ≤ b) :
    (m.write a bs).readN b n = m.readN b n :=
  Memory.readN_congr fun i hi => Memory.read_write_other (by omega)

/-- Bit `k` of a number from bytes is bit `k mod 8` of byte `k div 8` (R9). -/
theorem testBit_leNat (bs : List Byte) : ∀ k, (leNat bs).testBit k = (bs.getD (k / 8) 0).getLsbD (k % 8) := by
  induction bs with
  | nil => intro k; simp [leNat]
  | cons b r ih =>
    intro k
    have split : (256 * leNat r + b.toNat).testBit k = if k < 8 then b.toNat.testBit k else (leNat r).testBit (k - 8) :=
      Nat.testBit_two_pow_mul_add (leNat r) b.isLt k
    rw [leNat, Nat.add_comm, split]
    by_cases hk : k < 8
    · rw [if_pos hk, Nat.div_eq_of_lt hk, Nat.mod_eq_of_lt hk]; rfl
    · rw [if_neg hk, ih, show k / 8 = (k - 8) / 8 + 1 by omega, show (k - 8) % 8 = k % 8 by omega, List.getD_cons_succ]

/-- The low bytes of a number are those of the list of more of its bytes. -/
theorem take_toBytes (n m x : Nat) (h : n ≤ m) : (toBytes m x).take n = toBytes n x := by
  induction n generalizing m x with
  | zero => rfl
  | succ n ih =>
    obtain ⟨m, rfl⟩ : ∃ k, m = k + 1 := ⟨m - 1, by omega⟩
    rw [toBytes, toBytes, List.take_succ_cons, ih m _ (by omega)]

/-! ## What a write to segments leaves -/

@[simp] theorem tagLines_repl (s : State) (key a n : Nat) : (tagLines s key a n).repl = s.repl := by
  unfold tagLines
  split <;> rfl
@[simp] theorem tagLines_replNext (s : State) (key a n : Nat) : (tagLines s key a n).replNext = s.replNext := by
  unfold tagLines
  split <;> rfl
@[simp] theorem tagLines_applied (s : State) (key a n : Nat) : (tagLines s key a n).applied = s.applied := by
  unfold tagLines
  split <;> rfl

@[simp] theorem writeKeyed_hart (s : State) (key a : Nat) (bs : List Byte) : (s.writeKeyed key a bs).hart = s.hart := tagLines_hart ..
@[simp] theorem writeKeyed_repl (s : State) (key a : Nat) (bs : List Byte) : (s.writeKeyed key a bs).repl = s.repl := tagLines_repl ..
@[simp] theorem writeKeyed_replNext (s : State) (key a : Nat) (bs : List Byte) : (s.writeKeyed key a bs).replNext = s.replNext :=
  tagLines_replNext ..
@[simp] theorem writeKeyed_applied (s : State) (key a : Nat) (bs : List Byte) : (s.writeKeyed key a bs).applied = s.applied := tagLines_applied ..

/-- A write by a replica keeps the hart. -/
theorem writeApplied_hart (s : State) (key a : Nat) (bs : List Byte) (v : Vector Nat 3) :
    ({ s.writeKeyed key a bs with applied := v } : State).hart = s.hart := writeKeyed_hart ..

/-- A replica makes the next write of the sequence. -/
theorem applyUpTo_cons {k : Fin 3} {n : Nat} {w : ReplWrite} (h : w.num < n) (r : List ReplWrite) (s : State) :
    applyUpTo k n (w :: r) s =
      applyUpTo k n r { s.writeKeyed w.key (w.place + k.val * 2 ^ 40) w.data with applied := s.applied.set k (s.applied[k] + 1) } := by
  simp only [applyUpTo, if_neg (Nat.not_le.2 h)]

/-- A replica that has come to the number it goes on to stops. -/
theorem applyUpTo_stops {k : Fin 3} {n : Nat} {w : ReplWrite} (h : ¬ w.num < n) (r : List ReplWrite) (s : State) :
    applyUpTo k n (w :: r) s = s := by
  simp only [applyUpTo, if_pos (Nat.not_lt.1 h)]

@[simp] theorem applyUpTo_hart (k : Fin 3) (n : Nat) (l : List ReplWrite) : ∀ s, (applyUpTo k n l s).hart = s.hart := by
  induction l with
  | nil => exact fun _ => rfl
  | cons w r ih =>
    intro s
    by_cases h : w.num < n
    · rw [applyUpTo_cons h, ih]
      exact writeApplied_hart ..
    · rw [applyUpTo_stops h]

@[simp] theorem dropApplied_hart (s : State) : (dropApplied s).hart = s.hart := by
  unfold dropApplied
  dsimp only
  split <;> rfl

@[simp] theorem settleAll_hart (s : State) : (settleAll s).hart = s.hart := by
  have fold : ∀ (ks : List (Fin 3)) (t : State),
      (ks.foldl (fun s k => applyUpTo k s.replNext (s.repl.drop s.applied[k]) s) t).hart = t.hart := by
    intro ks
    induction ks with
    | nil => exact fun _ => rfl
    | cons k r ih => exact fun t => (ih _).trans (applyUpTo_hart ..)
  rw [settleAll, dropApplied_hart]
  exact fold _ s

@[simp] theorem writeSeg_hart (s : State) (who : Nat) (g : Seg) (bs : List Byte) : (writeSeg s who g bs).hart = s.hart := by
  unfold writeSeg
  split
  · rfl
  · split
    · dsimp only
      split
      · exact settleAll_hart _
      · rfl
    · exact writeKeyed_hart ..

@[simp] theorem writeSegs_hart (who : Nat) (l : List Seg) : ∀ (bs : List Byte) (s : State), (writeSegs s who l bs).hart = s.hart := by
  induction l with
  | nil => exact fun _ _ => rfl
  | cons g r ih => exact fun bs s => (ih _ _).trans (writeSeg_hart ..)

/-- A write of an access leaves every place outside its segments, where no SO page is replicated. -/
theorem writeSegs_other (who : Nat) {p : Nat} (l : List Seg) : ∀ (bs : List Byte) (s : State),
    (∀ g ∈ l, pteRepl g.entry = false ∨ g.order ≠ .so) → p ∉ segPlaces l → (writeSegs s who l bs).mem.read p = s.mem.read p := by
  induction l with
  | nil => exact fun _ _ _ _ => rfl
  | cons g r ih =>
    intro bs s hr hp
    rw [segPlaces_cons, List.mem_append, not_or] at hp
    obtain ⟨hg, hrest⟩ := hp
    have outside : p < g.place ∨ g.place + (bs.take g.len).length ≤ p := by
      by_contra h
      exact hg (List.mem_map.2 ⟨p - g.place, List.mem_range.2 (by simp at h; omega), by omega⟩)
    rw [writeSegs, ih _ _ (fun x hx => hr x (List.mem_cons_of_mem _ hx)) hrest]
    exact writeSeg_other s who g _ (hr g List.mem_cons_self) outside

/-- The bytes of an access lie in its segments afterwards, where the segments share no byte, no key refuses them and no page is replicated. -/
theorem writeSegs_readBack (who : Nat) (l : List Seg) : ∀ (bs : List Byte) (s : State), (segPlaces l).Nodup →
    (∀ g ∈ l, g.ok = true ∧ pteRepl g.entry = false) → bs.length = segBytes l →
    (l.flatMap fun g => (writeSegs s who l bs).mem.readN g.place g.len) = bs := by
  induction l with
  | nil => exact fun bs _ _ _ h => (List.length_eq_zero_iff.1 h).symm
  | cons g r ih =>
    intro bs s hd hok hlen
    obtain ⟨ok, plain⟩ := hok g List.mem_cons_self
    have hrest := fun x hx => hok x (List.mem_cons_of_mem _ hx)
    rw [segPlaces_cons] at hd
    rw [segBytes_cons] at hlen
    have htake : (bs.take g.len).length = g.len := by simp; omega
    have first : (writeSegs s who (g :: r) bs).mem.readN g.place g.len = bs.take g.len := by
      calc (writeSegs s who (g :: r) bs).mem.readN g.place g.len
          = (writeSeg s who g (bs.take g.len)).mem.readN g.place g.len :=
            Memory.readN_congr fun i hi => writeSegs_other who r _ _ (fun x hx => .inl (hrest x hx).2) fun hr =>
              (List.disjoint_of_nodup_append hd) (List.mem_map.2 ⟨i, List.mem_range.2 hi, rfl⟩) hr
        _ = (s.mem.write g.place (bs.take g.len)).readN g.place (bs.take g.len).length := by
            simp [writeSeg, ok, plain, htake]
        _ = bs.take g.len := Memory.readN_write_same ..
    rw [List.flatMap_cons, first]
    exact (congrArg _ (ih (bs.drop g.len) _ hd.of_append_right hrest (by simp; omega))).trans (List.take_append_drop ..)

/-- A write to a replicated page joins the sequence and leaves memory (R312). -/
theorem writeSegs_replicated {s : State} {who : Nat} {g : Seg} {bs : List Byte} (hlen : bs.length = g.len) (ok : g.ok = true)
    (hr : pteRepl g.entry = true) (ho : g.order ≠ .so) :
    writeSegs s who [g] bs = { s with
      repl := s.repl ++ [⟨s.replNext, g.place, bs, who, pteKey g.entry, g.order == .un⟩]
      replNext := s.replNext + 1 } := by
  simp [writeSegs, writeSeg, ← hlen, ok, hr, ho]

/-! ## The replication sequence with one write -/

/-- Replica `k` has made the only write of the sequence, at the place `a`. -/
structure MadeOnly (s t : State) (w : ReplWrite) (k : Fin 3) (a : Nat) : Prop where
  repl : t.repl = [w]
  replNext : t.replNext = w.num + 1
  applied : t.applied = s.applied.set k 1
  mem : t.mem = s.mem.write a w.data

theorem madeOnly_write {s : State} {w : ReplWrite} {k : Fin 3} (a : Nat) (hr : s.repl = [w]) (hn : s.replNext = w.num + 1)
    (ha : s.applied[k] = 0) : MadeOnly s { s.writeKeyed w.key a w.data with applied := s.applied.set k (s.applied[k] + 1) } w k a :=
  ⟨(writeKeyed_repl ..).trans hr, (writeKeyed_replNext ..).trans hn, by rw [ha], writeKeyed_mem ..⟩

/-- A replica that has applied nothing makes the only write of the sequence. -/
theorem applyUpTo_only {s : State} {w : ReplWrite} {k : Fin 3} (hr : s.repl = [w]) (hn : s.replNext = w.num + 1) (ha : s.applied[k] = 0) :
    MadeOnly s (applyUpTo k s.replNext (s.repl.drop s.applied[k]) s) w k (w.place + k.val * 2 ^ 40) := by
  rw [hr, ha, List.drop_zero, applyUpTo_cons (by omega), applyUpTo]
  exact madeOnly_write _ hr hn ha

/-- The only write of the sequence, settled, has left the sequence and lies in all three replicas (R302, R312). -/
theorem settleAll_only {s : State} {w : ReplWrite} (hr : s.repl = [w]) (hn : s.replNext = w.num + 1) (ha : ∀ k : Fin 3, s.applied[k] = 0) :
    (settleAll s).repl = [] ∧ (settleAll s).mem =
      (List.finRange 3).foldl (fun m k => m.write (w.place + k.val * 2 ^ 40) w.data) s.mem := by
  have done : settleAll s = dropApplied ((List.finRange 3).foldl (fun s k => applyUpTo k s.replNext (s.repl.drop s.applied[k]) s) s) := rfl
  rw [done, show List.finRange 3 = [0, 1, 2] from rfl]
  simp only [List.foldl_cons, List.foldl_nil]
  have h0 := applyUpTo_only hr hn (ha 0)
  generalize applyUpTo 0 _ _ s = s0 at h0 ⊢
  have h1 := applyUpTo_only h0.repl h0.replNext (k := 1) (by rw [h0.applied]; simpa using ha 1)
  generalize applyUpTo 1 _ _ s0 = s1 at h1 ⊢
  have h2 := applyUpTo_only h1.repl h1.replNext (k := 2) (by rw [h1.applied, h0.applied]; simpa using ha 2)
  generalize applyUpTo 2 _ _ s1 = s2 at h2 ⊢
  have hall : s2.applied = Vector.replicate 3 1 := by
    rw [h2.applied, h1.applied, h0.applied]
    ext i hi
    interval_cases i <;> simp
  refine ⟨?_, ?_⟩
  · simp [dropApplied, hall, h2.repl]
  · rw [dropApplied_mem, h2.mem, h1.mem, h0.mem]

/-- The replicas of a page lie far enough apart that each holds the bytes written (R311). -/
theorem readN_replicas {m : Memory} {a : Nat} {bs : List Byte} (h : bs.length ≤ 2 ^ 40) (k : Fin 3) :
    ((List.finRange 3).foldl (fun m k => m.write (a + k.val * 2 ^ 40) bs) m).readN (a + k.val * 2 ^ 40) bs.length = bs := by
  rw [show List.finRange 3 = [0, 1, 2] from rfl]
  simp only [List.foldl_cons, List.foldl_nil]
  fin_cases k
  · rw [Memory.readN_write_other (by dsimp; omega), Memory.readN_write_other (by dsimp; omega)]
    exact Memory.readN_write_same ..
  · rw [Memory.readN_write_other (by dsimp; omega)]
    exact Memory.readN_write_same ..
  · exact Memory.readN_write_same ..

/-- A write to a replicated SO page that finds the sequence empty leaves it empty, and all three replicas hold the bytes (R302). -/
theorem writeSegs_strong {s : State} {who : Nat} {g : Seg} {bs : List Byte} (hlen : bs.length = g.len) (ok : g.ok = true)
    (hr : pteRepl g.entry = true) (ho : g.order = .so) (empty : s.repl = []) (idle : ∀ k : Fin 3, s.applied[k] = 0)
    (short : bs.length ≤ 2 ^ 40) :
    (writeSegs s who [g] bs).repl = [] ∧ ∀ k : Fin 3, (writeSegs s who [g] bs).mem.readN (g.place + k.val * 2 ^ 40) bs.length = bs := by
  let w : ReplWrite := ⟨s.replNext, g.place, bs, who, pteKey g.entry, g.order == .un⟩
  have made : writeSegs s who [g] bs = settleAll { s with repl := [w], replNext := s.replNext + 1 } := by
    simp [writeSegs, writeSeg, ← hlen, ok, hr, ho, empty, w]
  obtain ⟨hrepl, hmem⟩ := settleAll_only (s := { s with repl := [w], replNext := s.replNext + 1 }) (w := w) rfl rfl idle
  rw [made]
  refine ⟨hrepl, fun k => ?_⟩
  rw [hmem]
  exact readN_replicas short k

/-! ## What changes harts only -/

/-- The only changes are to harts. -/
def HartsOnly (s t : State) : Prop := t = { s with hart := t.hart, others := t.others }

theorem HartsOnly.trans {s t u : State} (h : HartsOnly s t) (k : HartsOnly t u) : HartsOnly s u := by
  unfold HartsOnly at *
  rw [k, h]

theorem HartsOnly.cur {s t : State} (h : HartsOnly s t) : t.cur = s.cur := by rw [h]
theorem HartsOnly.mem {s t : State} (h : HartsOnly s t) : t.mem = s.mem := by rw [h]
theorem HartsOnly.repl {s t : State} (h : HartsOnly s t) : t.repl = s.repl := by rw [h]

theorem retire_harts (s : State) (n : Nat) : HartsOnly s (s.retire n) := rfl

theorem dropMeeting_harts (s : State) (l : List (Nat × Nat)) : HartsOnly s (dropMeeting s l) := rfl

theorem dropAhead_harts (s : State) : HartsOnly s (dropAhead s) := rfl

theorem acquire_harts (s : State) (b : Bool) : HartsOnly s (acquire s b) := by cases b <;> rfl

theorem deliver_harts (s : State) (away un : Bool) (d : Dest) (addr : Word) (x : V512) (bad : Bool) :
    HartsOnly s (deliver s away un d addr x bad) := by cases away <;> rfl

theorem countStore_harts (s : State) (first : Nat) (away un far : Bool) : HartsOnly s (countStore s first away un far) := by
  cases away <;> rfl

theorem errIf_harts (s : State) (l : List Seg) : HartsOnly s (errIf s l) := by
  unfold errIf raise State.modifyHart
  split
  · rfl
  · split <;> rfl

/-- A store changes, but for harts, what the write of its segments changes. -/
theorem store_harts (s : State) (l : List Seg) (bs : List Byte) : HartsOnly (writeSegs s s.cur l bs) (s.store l bs) :=
  (errIf_harts ..).trans (dropAhead_harts ..)

/-! ## The hart after each part of a load or store -/

theorem acquire_hart (s : State) (b : Bool) : (acquire s b).hart = if b then freshStreams s.hart else s.hart := by
  cases b <;> rfl

/-- What an access reaches is given up from what streams have read ahead, and nothing else. -/
theorem dropMeeting_aheadOnly (s : State) (l : List (Nat × Nat)) : aheadOnly s.hart (dropMeeting s l).hart := by
  refine ⟨fun j => s.hart.streams[j].ahead.takeWhile fun p => !meet p.places l, ?_⟩
  have streams : (s.hart.streams.map fun st => { st with ahead := st.ahead.takeWhile fun p => !meet p.places l }) =
      Vector.ofFn fun j : Fin 8 =>
        { s.hart.streams[j] with ahead := s.hart.streams[j].ahead.takeWhile fun p => !meet p.places l } := by
    ext i hi : 1
    simp
  simp only [dropMeeting, streams]

/-- A g register takes good data. -/
theorem Hart.fill_g (h : Hart) (r : Reg) (addr : Word) (x : V512) : h.fill (.g r) addr x false = h.setG r (x.setWidth 64) := by
  rw [← BitVec.ofNat_toNat]
  rfl

/-- A v register takes good data. -/
theorem Hart.fill_v (h : Hart) (r : Reg) (addr : Word) (x : V512) : h.fill (.v r) addr x false = h.setV r x := rfl

/-- A load that leaves the core is issued; its register waits for the data (R132). -/
theorem deliver_away_hart (s : State) (un : Bool) (d : Dest) (addr : Word) (x : V512) (bad : Bool) :
    (deliver s true un d addr x bad).hart = issuedLoad s.hart un d addr x bad := rfl

/-- A load from the core's own memory fills its register at once. -/
theorem deliver_stays_hart (s : State) (un : Bool) (d : Dest) (addr : Word) (x : V512) (bad : Bool) :
    (deliver s false un d addr x bad).hart = s.hart.fill d addr x bad := rfl

theorem countStore_hart (s : State) (first : Nat) (away un far : Bool) :
    (countStore s first away un far).hart = issuedStore s.hart away ⟨un, far, first, s.replNext⟩ := by
  cases away <;> rfl

theorem freshStreams_idem (h : Hart) : freshStreams (freshStreams h) = freshStreams h := by
  simp [freshStreams]

/-- A store whose pages no key refuses leaves of the hart all but what streams have read ahead. -/
theorem store_hart {s : State} {l : List Seg} (ok : l.all Seg.ok = true) (bs : List Byte) : (s.store l bs).hart = freshStreams s.hart := by
  rw [State.store, errIf, if_pos ok, ← writeSegs_hart s.cur l bs s]
  rfl

/-! ## How a load ends -/

/-- The end of a load that has passed its checks: pieces read ahead are given up, and the value goes to its register. -/
def loadEnd (s : State) (l : List Seg) (acq away : Bool) (d : Dest) (addr : Word) (x : V512) : State :=
  (deliver (acquire (dropMeeting s (segRuns l)) acq) away (allUn l) d addr x (!l.all Seg.ok)).retire 4

/-- Memory is as before a load. -/
theorem loadEnd_mem (s : State) (l : List Seg) (acq away : Bool) (d : Dest) (addr : Word) (x : V512) :
    (loadEnd s l acq away d addr x).mem = s.mem :=
  ((dropMeeting_harts ..).trans ((acquire_harts ..).trans ((deliver_harts ..).trans (retire_harts ..)))).mem

/-- The hart after a load. What stays in the core meets no refused page, so that it leaves no poison (R133). -/
theorem loadEnd_hart (s : State) (l : List Seg) (acq away : Bool) (d : Dest) (addr : Word) (x : V512)
    (stays : away = false → l.all Seg.ok = true) :
    (loadEnd s l acq away d addr x).hart =
      loaded (dropMeeting s (segRuns l)).hart acq away (allUn l) d addr x (!l.all Seg.ok) := by
  have pc : (acquire (dropMeeting s (segRuns l)) acq).hart.pc = (dropMeeting s (segRuns l)).hart.pc := by cases acq <;> rfl
  unfold loaded
  rw [loadEnd, State.retire_eq, State.withHart_hart, ← acquire_hart]
  cases away with
  | true => rw [deliver_away_hart, if_pos rfl, ← pc]; rfl
  | false =>
    rw [deliver_stays_hart, stays rfl, if_neg Bool.false_ne_true, ← pc]
    cases d with
    | g r => rw [Bool.not_true, Hart.fill_g, Hart.setG_pc]; exact Hart.setG_goesOn ..
    | v r => rw [Bool.not_true, Hart.fill_v]; exact Hart.setV_goesOn ..

/-! ## How a store ends -/

/-- The end of a store that has passed its checks: the bytes are written, and a store that leaves the core is counted. -/
def storeEnd (s : State) (l : List Seg) (acq away : Bool) (bs : List Byte) : State :=
  (countStore (acquire (s.store l bs) acq) s.replNext away (allUn l) (l.any Seg.far)).retire 4

/-- A store changes, but for harts, what the write of its segments changes. -/
theorem storeEnd_harts (s : State) (l : List Seg) (acq away : Bool) (bs : List Byte) :
    HartsOnly (writeSegs s s.cur l bs) (storeEnd s l acq away bs) :=
  (store_harts ..).trans ((acquire_harts ..).trans ((countStore_harts ..).trans (retire_harts ..)))

/-- The hart after a store whose pages no key refuses. -/
theorem storeEnd_hart {s : State} {l : List Seg} (ok : l.all Seg.ok = true) (acq away : Bool) (bs : List Byte) :
    (storeEnd s l acq away bs).hart = (issuedStore (freshStreams s.hart) away
      ⟨allUn l, l.any Seg.far, s.replNext, (storeEnd s l acq away bs).replNext⟩).goesOn (s.hart.pc + 4) := by
  have fresh : (acquire (s.store l bs) acq).hart = freshStreams s.hart := by
    rw [acquire_hart, store_hart ok, freshStreams_idem, ite_self]
  have numbers : (storeEnd s l acq away bs).replNext = (acquire (s.store l bs) acq).replNext := by cases away <;> rfl
  have pc (p : PendingStore) : (issuedStore (freshStreams s.hart) away p).pc = s.hart.pc := by cases away <;> rfl
  rw [numbers, storeEnd, State.retire_eq, State.withHart_hart, countStore_hart, fresh, pc]
  rfl

end Sys2Proof.Machine
end

section
/-! SUPPORT. Scalar and vector loads and stores that pass their checks (R139, R140), and the statements about them. -/

namespace Sys2Proof.Machine

open Sys2Proof.Claims

/-- Whether an access leaves the core rests on which core it is. -/
theorem leaves_of_cur {s t : State} (h : t.cur = s.cur) (am : AddrMode) (l : List Seg) : leaves t am l = leaves s am l := by
  unfold leaves
  rw [h]

theorem State.cluster_of_cur {s t : State} (h : t.cur = s.cur) : t.cluster = s.cluster := congrArg clusterOf h

/-! ## Values -/

/-- The model's sign extension is the one the statements name (R139). -/
theorem extended_signed (n : Nat) : extended n true = sext n := by
  funext x
  simp [extended, sext, signedOf, BitVec.signExtend, BitVec.toInt_eq_toNat_cond]

theorem extended_plain (n : Nat) : extended n false = zext := rfl

/-- Bit `k` of bytes extended to a word: a bit of the bytes, or above them the sign where it is extended. -/
theorem getLsbD_extended {n : Nat} (hn : 0 < n) (sx : Bool) (bs : List Byte) (hlen : bs.length = n) (k : Nat) (hk : k < 64) :
    (extended n sx (leNat bs)).getLsbD k =
      if k < 8 * n then (leNat bs).testBit k else sx && (leNat bs).testBit (8 * n - 1) := by
  by_cases h : k < 8 * n
  · rw [if_pos h]
    cases sx with
    | true => simp only [extended, if_true, BitVec.getLsbD_signExtend, BitVec.getLsbD_ofNat, h, hk, decide_true, Bool.true_and]
    | false => simp only [extended, if_neg Bool.false_ne_true, BitVec.getLsbD_ofNat, hk, decide_true, Bool.true_and]
  · rw [if_neg h]
    cases sx with
    | true =>
      simp only [extended, if_true, BitVec.getLsbD_signExtend, BitVec.msb_eq_getLsbD_last, BitVec.getLsbD_ofNat, if_neg h, hk,
        show 8 * n - 1 < 8 * n by omega, decide_true, Bool.true_and]
    | false =>
      have beyond : (bs.getD (k / 8) 0).getLsbD (k % 8) = false := by
        rw [List.getD_eq_default _ _ (by omega)]
        exact BitVec.getLsbD_zero
      simp only [extended, if_neg Bool.false_ne_true, BitVec.getLsbD_ofNat, testBit_leNat, beyond, Bool.and_false, Bool.false_and]

/-! ## Scalar loads -/

/-- Each scalar load is the shared load with its own extension. -/
theorem exec_of_loadForm {i : Instr} {d b : Reg} {am : AddrMode} {oa : Order} {off : BitVec 8} {n : Nat} {sx : Bool}
    (h : loadForm i = some (d, b, am, oa, off, n, sx)) (s : State) :
    exec i s = scalarLoad i d b am oa off n (extended n sx) s := by
  unfold loadForm at h
  split at h <;> cases h
  all_goals
    simp only [extended_signed, extended_plain]
    rfl

theorem loadForm_size {i : Instr} {d b : Reg} {am : AddrMode} {oa : Order} {off : BitVec 8} {n : Nat} {sx : Bool}
    (h : loadForm i = some (d, b, am, oa, off, n, sx)) : 0 < n ∧ n ≤ 8 := by
  unfold loadForm at h
  split at h <;> cases h <;> decide

section
variable {s s1 : State} {i : Instr} {r b : Reg} {am : AddrMode} {oa : Order} {off : BitVec 8} {n : Nat} {l : List Seg}

/-- A scalar load that is ready, passes its checks and has nothing to wait for comes to its end. -/
theorem scalarLoad_passed (hready : Ready i s) (hacc : access s am 1 needR (scaledAddr s b off n) n = (.ok l, s1))
    (hgo : loadWaits s1 l = false) (ext : Nat → Word) :
    scalarLoad i r b am oa off n ext s = .next (loadEnd s1 l (isAcq oa) (leaves s am l) (.g r) (scaledAddr s b off n)
      ((ext (leNat (readSegs s1 (sectorOf s.cluster) l))).setWidth 512)) := by
  have hcur := (access_ok_stations hacc).cur
  rw [scalarLoad, issue_ready hready, ← leaves_of_cur hcur, ← State.cluster_of_cur hcur]
  dsimp only
  rw [show offsetAddr (s.g b) off n = scaledAddr s b off n from rfl, hacc]
  dsimp only
  rw [hgo, if_neg Bool.false_ne_true]
  rfl

/-- What the end of a load leaves, in the words of the statements. -/
theorem loadEnd_completes {align : Nat} {need : Need} {a : Word} (hacc : access s am align need a n = (.ok l, s1)) (acq : Bool) (d : Dest)
    (x : V512) :
    (loadEnd s1 l acq (leaves s am l) d a x).mem = s.mem ∧ ∃ h, aheadOnly s.hart h ∧
      (loadEnd s1 l acq (leaves s am l) d a x).hart = loaded h acq (leaves s am l) (allUn l) d a x (!l.all Seg.ok) := by
  have only := access_ok_stations hacc
  refine ⟨(loadEnd_mem ..).trans only.mem, _, only.hart ▸ dropMeeting_aheadOnly s1 (segRuns l), loadEnd_hart _ _ _ _ _ _ _ fun stays => ?_⟩
  exact access_ok_of_stays hacc stays

end

/-- A scalar load that has passed its checks. -/
theorem scalarLoads : ScalarLoads := by
  intro s s1 i d b am oa off n sx l hform hready hacc hgo
  obtain ⟨hmem, h, hahead, hhart⟩ := loadEnd_completes hacc (isAcq oa) (.g d)
    ((extended n sx (leNat (readSegs s1 (sectorOf s.cluster) l))).setWidth 512)
  exact ⟨_, h, (exec_of_loadForm hform s).trans (scalarLoad_passed hready hacc hgo _), fun a => by rw [hmem], hahead, hhart⟩

/-! ## Loads from the own local memory -/

/-- The one segment of a `.lo` access. -/
def ownSeg (s : State) (a n : Nat) : Seg := ⟨localPlace s.cur a, n, true, 0⟩

/-- With no add on its way, a load from the core's own memory does not wait. -/
theorem loadWaits_own {s : State} (h : s.adds = []) (a n : Nat) : loadWaits s [ownSeg s a n] = false := by
  simp [loadWaits, ownAdd, soWaits, replBusy, ownSeg, h, Seg.order, pteOrd, pteRepl, bits, bit1, field]

theorem readSegs_own (s : State) (sec a n : Nat) : readSegs s sec [ownSeg s a n] = s.mem.readN (localPlace s.cur a) n := by
  have far : 2 ^ 52 ≤ localPlace s.cur a := by unfold localPlace; omega
  have plain : readPlace sec (ownSeg s a n) = localPlace s.cur a := by simp [readPlace, ownSeg, pteRepl, bit1]
  rw [readSegs, List.flatMap_singleton, plain, State.readKeyed, if_pos (by rw [Bool.or_eq_true]; exact .inr (decide_eq_true far))]
  rfl

theorem testBit_readN_own (s : State) (a n k : Nat) (hk : k < 8 * n) :
    (leNat (s.mem.readN (localPlace s.cur a) n)).testBit k = localBit s (8 * a + k) := by
  rw [testBit_leNat, localBit, show (8 * a + k) / 8 = a + k / 8 by omega, show (8 * a + k) % 8 = k % 8 by omega]
  congr 1
  rw [Memory.readN, List.getD_eq_getElem _ _ (by simp; omega)]
  simp [localPlace, Nat.add_assoc]

theorem aheadOnly_regs {h k : Hart} (hk : aheadOnly h k) : k.g = h.g ∧ k.v = h.v ∧ k.old = h.old ∧ k.pc = h.pc := by
  obtain ⟨_, rfl⟩ := hk
  exact ⟨rfl, rfl, rfl, rfl⟩

/-- A load at once writes its register and goes on; the other registers and the counts are as before. -/
theorem loaded_own {s : State} {h : Hart} (hahead : aheadOnly s.hart h) (acq un : Bool) (d : Reg) (addr : Word) (x : Word) (bad : Bool) :
    ∃ k : Hart, loaded h acq false un (.g d) addr (x.setWidth 512) bad = k.wroteG d x (s.hart.pc + 4) ∧ k.g = s.hart.g ∧ k.v = s.hart.v ∧
      k.old = s.hart.old := by
  obtain ⟨hg, hv, hold, hpc⟩ := aheadOnly_regs hahead
  have back : (x.setWidth 512).setWidth 64 = x := by simp
  refine ⟨if acq then freshStreams h else h, ?_, ?_⟩
  · unfold loaded
    rw [if_neg Bool.false_ne_true, ← hpc, back]
  · cases acq
    · exact ⟨hg, hv, hold⟩
    · exact ⟨hg, hv, hold⟩

/-- A scalar load from the core's own memory, with no add on its way, writes its bytes into its register at once. -/
theorem ownLoad_completes {s : State} {i : Instr} {d b : Reg} {oa : Order} {off : BitVec 8} {n : Nat} {sx : Bool}
    (hform : loadForm i = some (d, b, .lo, oa, off, n, sx)) (hready : Ready i s) (hfit : (scaledAddr s b off n).toNat + n ≤ 2 ^ 19)
    (hadds : s.adds = []) :
    ∃ (t : State) (k : Hart), exec i s = .next t ∧ t.mem = s.mem ∧
      t.hart = k.wroteG d (extended n sx (leNat (s.mem.readN (localPlace s.cur (scaledAddr s b off n).toNat) n))) (s.hart.pc + 4) ∧
      k.g = s.hart.g ∧ k.v = s.hart.v ∧ k.old = s.hart.old := by
  let l : List Seg := [ownSeg s (scaledAddr s b off n).toNat n]
  have hacc : access s .lo 1 needR (scaledAddr s b off n) n = (.ok l, s) :=
    access_local s .lo 1 needR _ n (by decide) (by simpa [formOk] using hfit) (Nat.mod_one _)
  have hexec := (exec_of_loadForm hform s).trans (scalarLoad_passed hready hacc (loadWaits_own hadds _ n) (extended n sx))
  obtain ⟨hmem, h, hahead, hhart⟩ := loadEnd_completes hacc (isAcq oa) (.g d)
    ((extended n sx (leNat (readSegs s (sectorOf s.cluster) l))).setWidth 512)
  obtain ⟨k, hk, hregs⟩ := loaded_own hahead (isAcq oa) (allUn l) d (scaledAddr s b off n)
    (extended n sx (leNat (readSegs s (sectorOf s.cluster) l))) (!l.all Seg.ok)
  rw [← readSegs_own s (sectorOf s.cluster)]
  exact ⟨_, k, hexec, hmem, hhart.trans hk, hregs⟩

/-- The register written reads the value. -/
theorem State.g_of_wroteG {t : State} {k : Hart} {d : Reg} {x pc : Word} (h : t.hart = k.wroteG d x pc) (hd : d ≠ 0) : t.g d = x := by
  simp [State.g, h, Hart.wroteG, hd]

/-- Every other register reads as before. -/
theorem State.g_of_wroteG_other {s t : State} {k : Hart} {d r : Reg} {x pc : Word} (h : t.hart = k.wroteG d x pc) (hg : k.g = s.hart.g)
    (hr : r ≠ d) : t.g r = s.g r := by
  have other : d.val ≠ r.val := fun he => hr (Fin.ext he.symm)
  by_cases hd : d = 0
  · simp [State.g, h, Hart.wroteG, hd, hg]
  · simp [State.g, h, Hart.wroteG, hd, hg, other]

/-- A load from the core's own memory reads the bytes at its address. -/
theorem localLoadsReadTheirBytes : LocalLoadsReadTheirBytes := by
  intro s i d b oa off n sx hform hready hfit hadds hd
  obtain ⟨hn, hn8⟩ := loadForm_size hform
  obtain ⟨t, k, hexec, hmem, hhart, hg, hv, hold⟩ := ownLoad_completes hform hready hfit hadds
  generalize (scaledAddr s b off n).toNat = a at hhart ⊢
  have hres := State.g_of_wroteG hhart hd
  have hbits := getLsbD_extended hn sx (s.mem.readN (localPlace s.cur a) n) (by simp [Memory.readN])
  refine ⟨t, hexec, hmem, ?_, ?_, fun j hj => ?_, fun j hj hj64 => ?_, fun r hr => State.g_of_wroteG_other hhart hg hr, ?_⟩
  · rw [hhart]; exact hold
  · rw [hhart]; rfl
  · rw [hres, hbits j (by omega), if_pos hj, testBit_readN_own s a n j hj]
  · rw [hres, hbits j hj64, if_neg (by omega), testBit_readN_own s a n _ (by omega), Nat.add_sub_assoc (by omega)]
  · rw [hhart]; exact hv

/-- Settles O22: a load that passes its checks has one end, whose memory and hart are said once; a `.lo` access is one segment of the core's own
memory, whose bits are then read off. -/
theorem loadsComplete : Obligations.LoadsComplete := ⟨scalarLoads, localLoadsReadTheirBytes⟩

/-! ## Scalar stores -/

/-- Each scalar store is the shared store. -/
theorem exec_of_storeForm {i : Instr} {r b : Reg} {am : AddrMode} {oa : Order} {off : BitVec 8} {n : Nat}
    (h : storeForm i = some (r, b, am, oa, off, n)) (s : State) : exec i s = scalarStore i r b am oa off n s ∧ n ≤ 8 := by
  unfold storeForm at h
  split at h <;> cases h
  all_goals exact ⟨rfl, by decide⟩

section
variable {s s1 : State} {i : Instr} {r b : Reg} {am : AddrMode} {oa : Order} {off : BitVec 8} {n : Nat} {l : List Seg}

/-- A scalar store that is ready, passes its checks and has nothing to wait for comes to its end. -/
theorem scalarStore_passed (hready : Ready i s) (hacc : access s am 1 needW (scaledAddr s b off n) n = (.ok l, s1))
    (hgo : storeWaits s1 l oa = false) :
    scalarStore i r b am oa off n s = .next (storeEnd s1 l (isAcq oa) (leaves s am l) (toBytes n (s.g r).toNat)) := by
  have only := access_ok_stations hacc
  have hg : s1.g r = s.g r := by rw [State.g, State.g, only.hart]
  rw [scalarStore, issue_ready hready, ← leaves_of_cur only.cur, ← hg]
  dsimp only
  rw [show offsetAddr (s.g b) off n = scaledAddr s b off n from rfl, hacc]
  dsimp only
  rw [hgo, if_neg Bool.false_ne_true]
  rfl

end

section
variable {s s1 : State} {l : List Seg} (only : StationsOnly s s1) (acq away : Bool) (bs : List Byte)
include only

/-- A store leaves every byte outside its segments. -/
theorem storeEnd_sameOutside (h : ∀ g ∈ l, pteRepl g.entry = false ∨ g.order ≠ .so) : SameOutside l s (storeEnd s1 l acq away bs) := by
  intro a ha
  rw [(storeEnd_harts ..).mem, writeSegs_other _ l bs s1 h ha, only.mem]

/-- The hart after a store, in the words of the statements. -/
theorem storeEnd_completes (ok : l.all Seg.ok = true) : (storeEnd s1 l acq away bs).hart = (issuedStore (freshStreams s.hart) away
    ⟨allUn l, l.any Seg.far, s.replNext, (storeEnd s1 l acq away bs).replNext⟩).goesOn (s.hart.pc + 4) := by
  rw [storeEnd_hart ok, only.hart, only.replNext]

/-- A store to one segment of a replicated page joins the sequence and leaves memory. -/
theorem storeEnd_replicated {g : Seg} (hlen : bs.length = g.len) (ok : g.ok = true) (hr : pteRepl g.entry = true) (ho : g.order ≠ .so) :
    SameMemory s (storeEnd s1 [g] acq away bs) ∧
      (storeEnd s1 [g] acq away bs).repl = s.repl ++ [⟨s.replNext, g.place, bs, s.cur, pteKey g.entry, g.order == .un⟩] := by
  have harts := storeEnd_harts s1 [g] acq away bs
  rw [writeSegs_replicated hlen ok hr ho] at harts
  refine ⟨fun a => by rw [harts.mem, only.mem], ?_⟩
  rw [harts.repl, only.repl, only.replNext, only.cur]

/-- A store to one segment of a replicated SO page that meets an empty sequence lies in all three replicas. -/
theorem storeEnd_strong {g : Seg} (hlen : bs.length = g.len) (ok : g.ok = true) (hr : pteRepl g.entry = true) (ho : g.order = .so)
    (empty : s.repl = []) (idle : ∀ k : Fin 3, s.applied[k] = 0) (short : bs.length ≤ 2 ^ 40) :
    (storeEnd s1 [g] acq away bs).repl = [] ∧
      ∀ k : Fin 3, (storeEnd s1 [g] acq away bs).mem.readN (g.place + k.val * 2 ^ 40) bs.length = bs := by
  have harts := storeEnd_harts s1 [g] acq away bs
  rw [harts.repl, harts.mem]
  exact writeSegs_strong hlen ok hr ho (only.repl.trans empty) (fun k => by rw [only.applied]; exact idle k) short

end

/-- The bytes stored lie in the segments of the access. -/
theorem storeEnd_readBack {s : State} {l : List Seg} {bs : List Byte} (acq away : Bool) (hd : (segPlaces l).Nodup)
    (h : ∀ g ∈ l, g.ok = true ∧ pteRepl g.entry = false) (hlen : bs.length = segBytes l) :
    (l.flatMap fun g => (storeEnd s l acq away bs).mem.readN g.place g.len) = bs := by
  rw [(storeEnd_harts ..).mem]
  exact writeSegs_readBack _ l bs s hd h hlen

/-- A scalar store that has passed its checks. -/
theorem scalarStores : ScalarStores := by
  intro s s1 i r b am oa off n l hform hready hacc hgo
  obtain ⟨hexec, hn⟩ := exec_of_storeForm hform s
  have only := access_ok_stations hacc
  have hlen := toBytes_length n (s.g r).toNat
  have hsegs := access_segBytes hacc
  have hone {g : Seg} (h : l = [g]) : (toBytes n (s.g r).toNat).length = g.len := by rw [hlen, ← hsegs, h]; rfl
  refine ⟨_, hexec.trans (scalarStore_passed hready hacc hgo), storeEnd_sameOutside only _ _ _, storeEnd_completes only _ _ _,
    fun hd h => storeEnd_readBack _ _ hd h (hlen.trans hsegs.symm), ?_, ?_⟩
  · intro g hg ok hr ho
    have len := hone hg
    subst hg
    exact storeEnd_replicated only _ _ _ len ok hr ho
  · intro g hg ok hr ho empty idle
    have len := hone hg
    subst hg
    have strong := storeEnd_strong only (isAcq oa) (leaves s am [g]) _ len ok hr ho empty idle (by rw [hlen]; omega)
    rwa [hlen] at strong

/-! ## Vector loads and stores -/

theorem Hart.bound_of_stream {h : Hart} {r : Reg} {j : Fin 8} (hr : r.val = 24 + j.val) :
    h.bound r = if h.streams[j].en then some h.streams[j] else none := by
  have hj : (r.val - 24) % 8 = j.val := by omega
  rw [Hart.bound, if_neg (by omega)]
  simp only [hj]
  rfl

/-- An instruction whose v registers are bound to no stream names no stream. -/
theorem namedStreams_plain {h : Hart} {u : VUse} (plain : ∀ r, (r ∈ u.src ∨ r ∈ u.dst) → h.bound r = none) : namedStreams h u = [] := by
  rw [namedStreams, List.filter_eq_nil_iff]
  intro j _ hj
  rw [Bool.and_eq_true, List.any_eq_true] at hj
  obtain ⟨en, r, hmem, hr⟩ := hj
  have none := plain r (List.mem_append.1 hmem)
  rw [Hart.bound_of_stream (by simpa using hr), if_pos en] at none
  exact Option.some_ne_none _ none

/-- It has no stream operands. -/
theorem operands_plain {s : State} {u : VUse} (plain : ∀ r, (r ∈ u.src ∨ r ∈ u.dst) → s.hart.bound r = none) :
    operands s u = (.ok [] none, s) := by
  simp [operands, namedStreams_plain plain, popAll]

/-- It moves no stream on. -/
theorem advanceStreams_plain {s : State} {u : VUse} (plain : ∀ r, (r ∈ u.src ∨ r ∈ u.dst) → s.hart.bound r = none) :
    advanceStreams s u [] = s := by
  simp [advanceStreams, namedStreams_plain plain]

/-- Each vector load is the shared load. -/
theorem exec_of_vectorForm_load {i : Instr} {d b : Reg} {am : AddrMode} {oa : Order} {off : BitVec 8} {n : Nat}
    (h : vectorForm i = some (false, d, b, am, oa, off, n)) (s : State) : exec i s = vectorLoad i d b am oa off n s := by
  unfold vectorForm at h
  split at h <;> cases h
  all_goals rfl

/-- Each vector store is the shared store of one source register. -/
theorem exec_of_vectorForm_store {i : Instr} {r b : Reg} {am : AddrMode} {oa : Order} {off : BitVec 8} {n : Nat}
    (h : vectorForm i = some (true, r, b, am, oa, off, n)) (s : State) :
    exec i s = vectorStore i r b am oa off n s ∧ r ∈ (vUse i).src ∧ n ≤ 64 := by
  unfold vectorForm at h
  split at h <;> cases h
  all_goals exact ⟨rfl, List.mem_singleton_self _, by decide⟩

section
variable {s s1 : State} {i : Instr} {r b : Reg} {am : AddrMode} {oa : Order} {off : BitVec 8} {n : Nat} {l : List Seg}

/-- A vector load of an unbound register comes to the end of the scalar one. -/
theorem vectorLoad_passed (hready : Ready i s) (plain : plainRegs s i)
    (hacc : access s am 1 needR (scaledAddr s b off n) n = (.ok l, s1)) (hgo : loadWaits s1 l = false) :
    vectorLoad i r b am oa off n s = .next (loadEnd s1 l (isAcq oa) (leaves s am l) (.v r) (scaledAddr s b off n)
      (BitVec.ofNat 512 (leNat (readSegs s1 (sectorOf s.cluster) l)))) := by
  have hcur := (access_ok_stations hacc).cur
  have hcur' : (acquire (dropMeeting s1 (segRuns l)) (isAcq oa)).cur = s.cur := ((dropMeeting_harts ..).trans (acquire_harts ..)).cur.trans hcur
  rw [vectorLoad, issue_ready hready, ← leaves_of_cur hcur', ← State.cluster_of_cur hcur]
  dsimp only
  rw [operands_plain plain]
  dsimp only
  rw [show offsetAddr (s.g b) off n = scaledAddr s b off n from rfl, hacc]
  dsimp only
  rw [hgo, if_neg Bool.false_ne_true]
  rfl

/-- A vector store of an unbound register comes to the end of the scalar one. -/
theorem vectorStore_passed (hready : Ready i s) (plain : plainRegs s i) (hr : r ∈ (vUse i).src) (hn : n ≤ 64)
    (hacc : access s am 1 needW (scaledAddr s b off n) n = (.ok l, s1)) (hgo : storeWaits s1 l oa = false) :
    vectorStore i r b am oa off n s = .next (storeEnd s1 l (isAcq oa) (leaves s am l) (toBytes n (s.v r).toNat)) := by
  have only := access_ok_stations hacc
  have plain1 : ∀ q, (q ∈ (vUse i).src ∨ q ∈ (vUse i).dst) → s1.hart.bound q = none := by rw [only.hart]; exact plain
  have source : sourceV s1 [] r = s.v r := by
    rw [sourceV, plain1 r (.inl hr), State.v, only.hart]
    rfl
  rw [vectorStore, issue_ready hready, ← leaves_of_cur only.cur]
  dsimp only
  rw [operands_plain plain]
  dsimp only
  rw [show offsetAddr (s.g b) off n = scaledAddr s b off n from rfl, hacc]
  dsimp only
  rw [hgo, if_neg Bool.false_ne_true, advanceStreams_plain plain1, source, v512Bytes, take_toBytes n 64 _ hn]
  rfl

end

/-- Vector loads and stores of unbound registers that have passed their checks. -/
theorem vectorLoadsAndStoresComplete : VectorLoadsAndStoresComplete := by
  constructor
  · intro s s1 i d b am oa off n l hform hready plain hacc hgo
    obtain ⟨hmem, h, hahead, hhart⟩ := loadEnd_completes hacc (isAcq oa) (.v d)
      (BitVec.ofNat 512 (leNat (readSegs s1 (sectorOf s.cluster) l)))
    exact ⟨_, h, (exec_of_vectorForm_load hform s).trans (vectorLoad_passed hready plain hacc hgo), fun a => by rw [hmem], hahead, hhart⟩
  · intro s s1 i r b am oa off n l hform hready plain hacc hgo
    obtain ⟨hexec, hr, hn⟩ := exec_of_vectorForm_store hform s
    have only := access_ok_stations hacc
    exact ⟨_, hexec.trans (vectorStore_passed hready plain hr hn hacc hgo), storeEnd_sameOutside only _ _ _, storeEnd_completes only _ _ _,
      fun hd h => storeEnd_readBack _ _ hd h ((toBytes_length ..).trans (access_segBytes hacc).symm)⟩

/-- Settles O23: a store that passes its checks leaves, but for harts, what the write of its segments leaves, and the segments hold the bytes of the
access exactly; a vector access of unbound registers has no stream operands. -/
theorem storesComplete : Obligations.StoresComplete := ⟨scalarStores, vectorLoadsAndStoresComplete⟩

end Sys2Proof.Machine
end

section
/-! SUPPORT. The integer and immediate instructions (R99–R105): their values in the words of the statements, and the statements about them. -/

namespace Sys2Proof.Machine

open Sys2Proof.Claims

/-! ## Values -/

theorem divSigned_eq (a b : Word) : divSigned a b = if b = 0 then BitVec.allOnes 64 else a.sdiv b := by
  unfold divSigned
  congr 1
  rw [← BitVec.toInt_inj, BitVec.toInt_sdiv, BitVec.toInt_ofInt]

theorem divUnsigned_eq (a b : Word) : divUnsigned a b = if b = 0 then BitVec.allOnes 64 else a / b := by
  unfold divUnsigned
  congr 1
  rw [← BitVec.toNat_udiv, BitVec.ofNat_toNat, BitVec.setWidth_eq]

theorem remSigned_eq (a b : Word) : remSigned a b = if b = 0 then a else a.srem b := by
  unfold remSigned
  congr 1
  rw [← BitVec.toInt_srem, BitVec.ofInt_toInt]

theorem remUnsigned_eq (a b : Word) : remUnsigned a b = if b = 0 then a else a % b := by
  unfold remUnsigned
  congr 1
  rw [← BitVec.toNat_umod, BitVec.ofNat_toNat, BitVec.setWidth_eq]

/-- A choice by order is the same whether it is made strictly or not, where equal values give the same. -/
theorem ite_le_eq_ite_lt {α β : Type} [LinearOrder β] {f : α → β} {a b : α} {x y : Word} (h : f a = f b → x = y) :
    (if f a ≤ f b then x else y) = if f a < f b then x else y := by
  rcases lt_trichotomy (f a) (f b) with lt | eq | gt
  · rw [if_pos lt.le, if_pos lt]
  · rw [if_pos eq.le, if_neg eq.not_lt, h eq]
  · rw [if_neg gt.not_ge, if_neg gt.not_gt]

theorem minSigned_eq (a b : Word) : minSigned a b = if a.slt b then a else b := by
  simpa [minSigned, BitVec.slt] using ite_le_eq_ite_lt (f := BitVec.toInt) BitVec.eq_of_toInt_eq

theorem maxSigned_eq (a b : Word) : maxSigned a b = if a.slt b then b else a := by
  simpa [maxSigned, BitVec.slt] using ite_le_eq_ite_lt (f := BitVec.toInt) fun h => (BitVec.eq_of_toInt_eq h).symm

theorem minUnsigned_eq (a b : Word) : minUnsigned a b = if a.ult b then a else b := by
  simpa [minUnsigned, BitVec.ult] using ite_le_eq_ite_lt (f := BitVec.toNat) BitVec.eq_of_toNat_eq

theorem maxUnsigned_eq (a b : Word) : maxUnsigned a b = if a.ult b then b else a := by
  simpa [maxUnsigned, BitVec.ult] using ite_le_eq_ite_lt (f := BitVec.toNat) fun h => (BitVec.eq_of_toNat_eq h).symm

theorem popc_eq (a : Word) : popc a = BitVec.ofNat 64 ((List.range 64).countP fun i => a.getLsbD i) :=
  congrArg _ List.countP_eq_length_filter.symm

/-- The field of EXTS and EXTN as a bit string. -/
theorem ofNat_fieldOf (a : Word) (p w : Nat) : BitVec.ofNat (w + 1) (fieldOf a p w) = (a >>> p).setWidth (w + 1) := by
  apply BitVec.eq_of_toNat_eq
  simp [fieldOf, Nat.shiftRight_eq_div_pow]

theorem ofInt_signedOf (n x : Nat) : BitVec.ofInt 64 (signedOf n x) = (BitVec.ofNat n x).signExtend 64 := by
  simp [signedOf, BitVec.signExtend, BitVec.toInt_eq_toNat_cond]

theorem exts_value (a : Word) (p w : Nat) :
    BitVec.ofInt 64 (signedOf (w + 1) (fieldOf a p w)) = ((a >>> p).setWidth (w + 1)).signExtend 64 := by
  rw [ofInt_signedOf, ofNat_fieldOf]

theorem extn_value (a : Word) (p w : Nat) : BitVec.ofNat 64 (fieldOf a p w) = ((a >>> p).setWidth (w + 1)).setWidth 64 := by
  apply BitVec.eq_of_toNat_eq
  simp [fieldOf, Nat.shiftRight_eq_div_pow]

/-! ## Instructions that write one g register -/

/-- An instruction of major 0x01 writes the register and the value that the statements name. -/
theorem exec_of_integerResult {s : State} {i : Instr} {d : Reg} {x : Word} (h : integerResult s i = some (d, x)) :
    ∃ f : State → Word, exec i s = writesG i d f s ∧ f s = x := by
  unfold integerResult at h
  split at h <;> cases h
  case h_1 _ a b => exact ⟨_, (rfl : _ = execAdd d a b s), rfl⟩
  case h_2 _ a b => exact ⟨_, (rfl : _ = execSub d a b s), rfl⟩
  case h_3 _ a b => exact ⟨_, (rfl : _ = execMul d a b s), rfl⟩
  case h_4 _ a b => exact ⟨_, (rfl : _ = execMulh d a b s), rfl⟩
  case h_5 _ a b => exact ⟨_, (rfl : _ = execMulhn d a b s), rfl⟩
  case h_6 _ a b => exact ⟨_, (rfl : _ = execDiv d a b s), divSigned_eq ..⟩
  case h_7 _ a b => exact ⟨_, (rfl : _ = execDivn d a b s), divUnsigned_eq ..⟩
  case h_8 _ a b => exact ⟨_, (rfl : _ = execRem d a b s), remSigned_eq ..⟩
  case h_9 _ a b => exact ⟨_, (rfl : _ = execRemn d a b s), remUnsigned_eq ..⟩
  case h_10 _ a b => exact ⟨_, (rfl : _ = execAnd d a b s), rfl⟩
  case h_11 _ a b => exact ⟨_, (rfl : _ = execOr d a b s), rfl⟩
  case h_12 _ a b => exact ⟨_, (rfl : _ = execXor d a b s), rfl⟩
  case h_13 _ a b => exact ⟨_, (rfl : _ = execSll d a b s), rfl⟩
  case h_14 _ a b => exact ⟨_, (rfl : _ = execSrl d a b s), rfl⟩
  case h_15 _ a b => exact ⟨_, (rfl : _ = execSra d a b s), rfl⟩
  case h_16 _ a sh => exact ⟨_, (rfl : _ = execSlli d a sh s), rfl⟩
  case h_17 _ a sh => exact ⟨_, (rfl : _ = execSrli d a sh s), rfl⟩
  case h_18 _ a sh => exact ⟨_, (rfl : _ = execSrai d a sh s), rfl⟩
  case h_19 _ a b => exact ⟨_, (rfl : _ = execSlt d a b s), rfl⟩
  case h_20 _ a b => exact ⟨_, (rfl : _ = execSltn d a b s), rfl⟩
  case h_21 _ a b => exact ⟨_, (rfl : _ = execMin d a b s), minSigned_eq ..⟩
  case h_22 _ a b => exact ⟨_, (rfl : _ = execMax d a b s), maxSigned_eq ..⟩
  case h_23 _ a b => exact ⟨_, (rfl : _ = execMinn d a b s), minUnsigned_eq ..⟩
  case h_24 _ a b => exact ⟨_, (rfl : _ = execMaxn d a b s), maxUnsigned_eq ..⟩
  case h_25 _ a => exact ⟨_, (rfl : _ = execPopc d a s), popc_eq ..⟩
  case h_26 _ a p w => exact ⟨_, (rfl : _ = execExts d a p w s), exts_value ..⟩
  case h_27 _ a p w => exact ⟨_, (rfl : _ = execExtn d a p w s), extn_value ..⟩

theorem integerForms : IntegerForms := by
  intro s i d x hres hready
  obtain ⟨f, hexec, rfl⟩ := exec_of_integerResult hres
  rw [hexec, writesG_ready hready]

/-! ## Bit counts -/

/-- The zero bits above the highest 1 bit. -/
theorem clz_of_bits {a : Word} {n : Nat} (hn : n ≤ 64) (above : ∀ k, 64 - n ≤ k → a.getLsbD k = false)
    (highest : n < 64 → a.getLsbD (63 - n) = true) : clz a = BitVec.ofNat 64 n := by
  unfold clz
  congr 1
  have lt : a.toNat < 2 ^ (64 - n) := by
    refine Nat.lt_pow_two_of_testBit _ fun k hk => ?_
    exact above k hk
  by_cases h : n < 64
  · have ge : 2 ^ (63 - n) ≤ a.toNat := Nat.ge_two_pow_of_testBit (highest h)
    have ne : a ≠ 0 := by
      rintro rfl
      exact absurd (highest h) (by simp)
    have log : Nat.log2 a.toNat = 63 - n := by
      rw [Nat.log2_eq_iff (by intro h0; exact ne (BitVec.eq_of_toNat_eq h0))]
      exact ⟨ge, by rwa [show 63 - n + 1 = 64 - n by omega]⟩
    rw [if_neg ne, log]
    omega
  · obtain rfl : n = 64 := by omega
    rw [if_pos (BitVec.eq_of_toNat_eq (by simpa using lt))]

/-- The zero bits below the lowest 1 bit. -/
theorem ctz_of_bits {a : Word} {n : Nat} (hn : n ≤ 64) (below : ∀ k, k < n → a.getLsbD k = false)
    (lowest : n < 64 → a.getLsbD n = true) : ctz a = BitVec.ofNat 64 n := by
  unfold ctz
  congr 1
  have split : List.range 64 = List.range n ++ (List.range (64 - n)).map (n + ·) := by
    rw [← List.range_add, show n + (64 - n) = 64 by omega]
  have stop : ((List.range (64 - n)).map (n + ·)).takeWhile (fun i => !a.toNat.testBit i) = [] := by
    by_cases h : n < 64
    · obtain ⟨m, hm⟩ : ∃ m, 64 - n = m + 1 := ⟨63 - n, by omega⟩
      rw [hm, List.range_succ_eq_map, List.map_cons, List.takeWhile_cons_of_neg]
      exact Bool.not_eq_true _ ▸ congrArg Bool.not (lowest h)
    · rw [show 64 - n = 0 by omega]; rfl
  have go : ∀ k ∈ List.range n, (!a.toNat.testBit k) = true := fun k hk => congrArg Bool.not (below k (List.mem_range.1 hk))
  rw [split, List.takeWhile_append_of_pos go, stop, List.append_nil, List.length_range]

theorem exec_clz (d a : Reg) (s : State) : exec (.clz d a) s = writesG (.clz d a) d (fun s => clz (s.g a)) s := rfl
theorem exec_ctz (d a : Reg) (s : State) : exec (.ctz d a) s = writesG (.ctz d a) d (fun s => ctz (s.g a)) s := rfl

theorem bitCountsComplete : BitCountsComplete := by
  refine ⟨fun s d a n hready hn above highest => ?_, fun s d a n hready hn below lowest => ?_⟩
  · rw [exec_clz, writesG_ready hready, clz_of_bits hn above highest]
  · rw [exec_ctz, writesG_ready hready, ctz_of_bits hn below lowest]

/-! ## BINS and the immediate forms -/

/-- BINS replaces the field's bits and keeps the others (R102). -/
theorem getLsbD_insertField (t a : Word) {p w k : Nat} (hk : k < 64) :
    (insertField t a p w).getLsbD k = if p ≤ k ∧ k < p + w + 1 then a.getLsbD (k - p) else t.getLsbD k := by
  have low : (t.toNat % 2 ^ p) < 2 ^ p := Nat.mod_lt _ (Nat.two_pow_pos p)
  have field : (t.toNat % 2 ^ p + 2 ^ p * (a.toNat % 2 ^ (w + 1))) < 2 ^ (p + w + 1) := by
    have := Nat.mod_lt a.toNat (Nat.two_pow_pos (w + 1))
    calc t.toNat % 2 ^ p + 2 ^ p * (a.toNat % 2 ^ (w + 1)) < 2 ^ p * (a.toNat % 2 ^ (w + 1) + 1) := by rw [Nat.mul_add_one]; omega
      _ ≤ 2 ^ p * 2 ^ (w + 1) := Nat.mul_le_mul_left _ this
      _ = 2 ^ (p + w + 1) := by rw [← Nat.pow_add, Nat.add_assoc]
  have shape : t.toNat % 2 ^ p + 2 ^ p * (a.toNat % 2 ^ (w + 1)) + 2 ^ (p + w + 1) * (t.toNat / 2 ^ (p + w + 1)) =
      2 ^ (p + w + 1) * (t.toNat / 2 ^ (p + w + 1)) + (2 ^ p * (a.toNat % 2 ^ (w + 1)) + t.toNat % 2 ^ p) := by omega
  rw [insertField, BitVec.getLsbD_ofNat, shape, Nat.testBit_two_pow_mul_add _ (by omega), Nat.testBit_two_pow_mul_add _ low]
  simp only [hk, decide_true, Bool.true_and, Nat.testBit_mod_two_pow, Nat.testBit_div_two_pow, BitVec.getLsbD]
  by_cases h1 : k < p + w + 1 <;> by_cases h2 : k < p
  · simp [h1, h2, Nat.not_le.2 h2]
  · simp [h1, h2, Nat.not_lt.1 h2, show k - p < w + 1 by omega]
  · omega
  · simp [h1, show k - (p + w + 1) + (p + w + 1) = k by omega]

theorem exec_bins (d a : Reg) (p : Fin 64) (w : Fin 32) (s : State) :
    exec (.bins d a p w) s = writesG (.bins d a p w) d (fun s => insertField (s.g d) (s.g a) p.val w.val) s := rfl

theorem bitFieldInsertCompletes : BitFieldInsertCompletes :=
  fun s d a p w hready _ => ⟨_, (exec_bins d a p w s).trans (writesG_ready hready d _), fun _ hk => getLsbD_insertField _ _ hk⟩

/-- A product by a power of two is a shift. -/
theorem mul_eq_shiftLeft (x : Word) {n : Nat} {c : Word} (h : c = BitVec.twoPow 64 n) : x * c = x <<< n := by
  rw [h, BitVec.mul_twoPow_eq_shiftLeft]

/-- An immediate form writes the register and the value that the statements name. -/
theorem exec_of_immediateResult {s : State} {i : Instr} {d : Reg} {x : Word} (h : immediateResult s i = some (d, x)) :
    ∃ f : State → Word, exec i s = writesG i d f s ∧ f s = x := by
  unfold immediateResult at h
  split at h <;> cases h
  case h_1 _ a imm => exact ⟨_, (rfl : _ = execAddi d a imm s), rfl⟩
  case h_2 _ a imm => exact ⟨_, (rfl : _ = execAndi d a imm s), rfl⟩
  case h_3 _ a imm => exact ⟨_, (rfl : _ = execOri d a imm s), rfl⟩
  case h_4 _ a imm => exact ⟨_, (rfl : _ = execXori d a imm s), rfl⟩
  case h_5 _ a imm =>
    refine ⟨_, (rfl : _ = execSlti d a imm s), ?_⟩
    simp only [truth, asWord, BitVec.slt, BitVec.toInt_signExtend_of_le (show 16 ≤ 64 by decide)]
  case h_6 _ imm => exact ⟨_, (rfl : _ = execLih d imm s), mul_eq_shiftLeft _ (by decide)⟩
  case h_7 _ imm => exact ⟨_, (rfl : _ = execAddpc d imm s), congrArg (s.hart.pc + ·) (mul_eq_shiftLeft _ (by decide))⟩

theorem exec_li48 (d : Reg) (imm : BitVec 48) (s : State) :
    exec (.li48 d imm) s = issue (.li48 d imm) s fun s => (s.setG d (imm.signExtend 64)).retire 8 := rfl

theorem immediateFormsComplete : ImmediateFormsComplete := by
  refine ⟨fun s i d x hres hready => ?_, fun s d imm hready => ?_⟩
  · obtain ⟨f, hexec, rfl⟩ := exec_of_immediateResult hres
    rw [hexec, writesG_ready hready]
  · have hexec : exec (.li48 d imm) s = .next ((s.setG d (imm.signExtend 64)).retire 8) := (exec_li48 ..).trans (issue_ready hready _)
    rw [hexec]
    simp only [State.setG_eq, State.retire_eq, State.withHart_hart, State.withHart_withHart, Hart.setG_pc, Hart.setG_goesOn]
    rfl

/-- Settles O5: each of these instructions writes one g register, so that what is left to show is its value; the counts and BINS are read bit by
bit. -/
theorem integerInstructionsComplete : Obligations.IntegerInstructionsComplete :=
  ⟨integerForms, bitCountsComplete, bitFieldInsertCompletes, immediateFormsComplete⟩

end Sys2Proof.Machine
end

section
/-! SUPPORT. The checks before an instruction's own entry (R53, R56, R120, R132, R133, R155) and the interrupts (R125), and the statements about
them. -/

namespace Sys2Proof.Machine

open Sys2Proof.Claims

/-! ## What the checks decide -/

/-- An instruction of the program that a check stops takes the trap. -/
theorem exec_traps_of_gate {i : Instr} {s : State} (hi : i.isProgram = true) (hw : s.hart.wait = none) {code : Nat} {tval : Word}
    (h : gate i s = .trap code tval) : ∃ t, exec i s = .next t ∧ TrapTaken s t false code tval s.hart.pc := by
  obtain ⟨k, hexec⟩ := exec_issue i s hi
  rw [hexec]
  exact trapHere_of_gate h hw k

/-- An instruction of the program that a check makes wait changes nothing. -/
theorem exec_waits_of_gate {i : Instr} {s : State} (hi : i.isProgram = true) (h : gate i s = .hold) : exec i s = .next s := by
  obtain ⟨k, hexec⟩ := exec_issue i s hi
  rw [hexec, issue, h]

theorem gate_privileged {i : Instr} {s : State} (hi : supervisorOnly i = true) (hm : s.hart.tsw.mode = .user) :
    gate i s = .trap exPriv i.tval := by
  simp [gate, hi, hm]

/-- A mode that may issue the instruction passes the privilege check. -/
theorem privilege_passes {i : Instr} {s : State} (h : supervisorOnly i = true → s.hart.tsw.mode ≠ .user) :
    (supervisorOnly i && s.hart.tsw.mode == .user) = false := by
  simpa [Bool.and_eq_false_imp] using h

theorem gate_prefixed {i : Instr} {s : State} (hm : supervisorOnly i = true → s.hart.tsw.mode ≠ .user) (hp : s.hart.tsw.pp = true)
    (hi : acceptsPrefix i = false) : gate i s = .trap exIllegal i.tval := by
  simp [gate, privilege_passes hm, hp, hi]

/-- What the poison of the registers an instruction reads decides (R133). -/
def poisonGate (h : Hart) (i : Instr) : Gate :=
  match h.poison.find? fun p => (readDests h i).contains p.1 with
  | some p => .trap exDataErr p.2
  | none => .pass

/-- What is decided of an instruction that passes the checks before those of its registers. -/
theorem gate_admitted {i : Instr} {s : State} (h : Admitted i s) : gate i s =
    if unitHolds s i then .hold
    else if s.hart.loads.any fun l => l.dest != Dest.g 0 && (namedDests s.hart i).contains l.dest then .hold
    else if misuse s.hart (vUse i) then .trap exIllegal i.tval
    else poisonGate s.hart i := by
  obtain ⟨-, hm, hp, hw, hf, hs⟩ := h
  have pref : (s.hart.tsw.pp && !acceptsPrefix i) = false := by simpa [Bool.and_eq_false_imp] using hp
  simp only [gate, privilege_passes hm, pref, hw, hf, hs, Bool.not_true, Bool.or_self, Bool.false_eq_true, if_false, poisonGate] <;> rfl

/-- What is decided of one that waits for nothing. -/
theorem gate_unheld {i : Instr} {s : State} (h : Admitted i s) (hu : Unheld i s) : gate i s =
    if misuse s.hart (vUse i) then .trap exIllegal i.tval
    else poisonGate s.hart i := by
  obtain ⟨hunit, hloads⟩ := hu
  have loads : (s.hart.loads.any fun l => l.dest != Dest.g 0 && (namedDests s.hart i).contains l.dest) = false := by
    simpa [List.any_eq_false, not_imp_comm, ← imp_iff_not_or] using! hloads
  simp only [gate_admitted h, hunit, loads, Bool.false_eq_true, if_false]

theorem gate_interlocked {i : Instr} {s : State} {l : PendingLoad} (h : Admitted i s) (hl : l ∈ s.hart.loads) (hd : l.dest ≠ .g 0)
    (hn : l.dest ∈ namedDests s.hart i) : gate i s = .hold := by
  have loads : (s.hart.loads.any fun l => l.dest != Dest.g 0 && (namedDests s.hart i).contains l.dest) = true :=
    List.any_eq_true.2 ⟨l, hl, by simpa [hd] using hn⟩
  rw [gate_admitted h, if_pos loads, ite_self]

/-- The register poisoned first is the one reported (log entry 12). -/
theorem gate_poisoned {i : Instr} {s : State} {d : Dest} {va : Word} {l r : List (Dest × Word)} (h : Admitted i s) (hu : Unheld i s)
    (hm : misuse s.hart (vUse i) = false) (hp : s.hart.poison = l ++ (d, va) :: r) (before : ∀ p ∈ l, p.1 ∉ readDests s.hart i)
    (hd : d ∈ readDests s.hart i) : gate i s = .trap exDataErr va := by
  have found : (s.hart.poison.find? fun p => (readDests s.hart i).contains p.1) = some (d, va) := by
    rw [hp, List.find?_append, List.find?_eq_none.2 (by simpa using before), List.find?_cons_of_pos (by simpa using hd)]
    rfl
  rw [gate_unheld h hu, hm, if_neg Bool.false_ne_true, poisonGate, found]

theorem gate_misused {i : Instr} {s : State} (h : Admitted i s) (hu : Unheld i s) (hm : misuse s.hart (vUse i) = true) :
    gate i s = .trap exIllegal i.tval := by
  rw [gate_unheld h hu, if_pos hm]

/-! ## The statements about the checks -/

/-- Settles O9: the first of the checks takes the trap. -/
theorem privilegedInstructionsTrapInUserMode : Obligations.PrivilegedInstructionsTrapInUserMode := by
  intro s i hi hw hm
  obtain ⟨hprog, hsup⟩ : i.isProgram = true ∧ supervisorOnly i = true := by
    rcases hi with rfl | ⟨_, rfl⟩ | ⟨_, _, _, _, rfl⟩ | ⟨_, _, rfl⟩ | ⟨_, _, _, _, rfl⟩ <;> exact ⟨rfl, rfl⟩
  exact exec_traps_of_gate hprog hw (gate_privileged hsup hm)

theorem pendingPrefixTraps : PendingPrefixTraps := by
  intro s i hi hacc hw hp hm
  obtain ⟨t, hexec, htrap⟩ := exec_traps_of_gate hi hw (gate_prefixed hm hp hacc)
  exact ⟨t, hexec, htrap, by rw [htrap.saved, hp]⟩

theorem interlockedInstructionsWait : InterlockedInstructionsWait :=
  fun _ _ _ h hl hd hn => exec_waits_of_gate h.1 (gate_interlocked h hl hd hn)

theorem poisonedSourceTraps : PoisonedSourceTraps :=
  fun _ _ _ _ _ _ h hu hm hw hp before hd => exec_traps_of_gate h.1 hw (gate_poisoned h hu hm hp before hd)

theorem writingClearsPoison : WritingClearsPoison := by
  intro s i d x hres hready
  have hexec : exec i s = .next (s.withHart (s.hart.wroteG d x (s.hart.pc + 4))) :=
    hres.elim (fun h => integerForms s i d x h hready) fun h => immediateFormsComplete.1 s i d x h hready
  refine ⟨_, hexec, fun hd => ⟨State.g_of_wroteG rfl hd, fun p => ?_⟩, fun hd => ?_⟩
  · simp [Hart.wroteG, hd]
  · simp [Hart.wroteG, hd]

/-- A bound register is bound in its own direction. -/
theorem Hart.boundDir_of_bound {h : Hart} {r : Reg} {st : Stream} (hb : h.bound r = some st) : h.boundDir st.dir r = true := by
  simp [Hart.boundDir, hb]

/-- A use of a bound register against its direction is a misuse (R21, R155, R164, R168). -/
theorem misuse_of_bound {h : Hart} {u : VUse} {r : Reg} {st : Stream} (hb : h.bound r = some st)
    (use : (r ∈ u.src ∧ st.dir = true) ∨ (r ∈ u.dst ∧ st.dir = false) ∨ u.mask = some r ∨ (u.plain = true ∧ (r ∈ u.src ∨ r ∈ u.dst))) :
    misuse h u = true := by
  have hdir := Hart.boundDir_of_bound hb
  have hsome : (h.bound r).isSome = true := by rw [hb]; rfl
  simp only [misuse, Bool.or_eq_true, Bool.and_eq_true, List.any_eq_true, List.mem_append]
  rcases use with ⟨hr, hd⟩ | ⟨hr, hd⟩ | hr | ⟨hp, hr⟩
  · exact .inl (.inl (.inl ⟨r, hr, hd ▸ hdir⟩))
  · exact .inl (.inl (.inr ⟨r, hr, hd ▸ hdir⟩))
  · exact .inl (.inr ⟨r, by simp [hr], hsome⟩)
  · exact .inr ⟨hp, r, hr, hsome⟩

theorem streamMisuseIsIllegal : StreamMisuseIsIllegal :=
  fun _ _ _ _ h hu hw hb use => exec_traps_of_gate h.1 hw (gate_misused h hu (misuse_of_bound hb use))

/-- Settles O10: what each check decides is said once of `gate`, and every instruction of the program follows it. -/
theorem checksBeforeAnInstruction : Obligations.ChecksBeforeAnInstruction :=
  ⟨pendingPrefixTraps, interlockedInstructionsWait, poisonedSourceTraps, writingClearsPoison, streamMisuseIsIllegal⟩

/-! ## Interrupts -/

/-- The interrupt `b` is pending, enabled by IMASK and admitted by IE. -/
def interruptOn (h : Hart) (b : Nat) : Bool := h.irq.pend.getLsbD b && h.irq.mask.getLsbD b && h.tsw.ie

/-- PRE is taken: in user mode wherever it is pending (R125). -/
def preDue (h : Hart) : Bool := h.irq.pend.getLsbD 0 && (h.tsw.mode == .user || interruptOn h 0)

theorem interruptOn_iff (h : Hart) (b : Nat) :
    interruptOn h b = true ↔ h.irq.pend.getLsbD b = true ∧ h.irq.mask.getLsbD b = true ∧ h.tsw.ie = true := by
  rw [interruptOn, Bool.and_eq_true, Bool.and_eq_true, and_assoc]

theorem preDue_iff (h : Hart) : preDue h = true ↔ h.irq.pend.getLsbD 0 = true ∧ (h.tsw.mode = .user ∨ interruptOn h 0 = true) := by
  rw [preDue, Bool.and_eq_true, Bool.or_eq_true, beq_iff_eq]

theorem takeable_eq (h : Hart) : takeable h =
    if preDue h then some 0
    else if interruptOn h 5 then some 5
    else if interruptOn h 3 then some 3
    else if interruptOn h 4 then some 4
    else if interruptOn h 2 then some 2
    else none := rfl

/-- An interrupt that is taken is PRE where it is due, otherwise the first of ERR, STALL, SVC and TIMER that is on. -/
theorem takeable_some {h : Hart} {b : Nat} (ht : takeable h = some b) :
    (b = 0 ∧ preDue h = true) ∨ (interruptOn h b = true ∧ (b = 5 ∨ (b = 3 ∧ interruptOn h 5 = false) ∨
      (b = 4 ∧ interruptOn h 3 = false) ∨ (b = 2 ∧ interruptOn h 4 = false))) := by
  rw [takeable_eq] at ht
  split at ht
  next hp => exact .inl ⟨(Option.some.inj ht).symm, hp⟩
  all_goals grind

/-- With no walk in progress the interrupt is taken before the next instruction. -/
theorem takeInterrupt_taken {s : State} {b : Nat} (hw : s.hart.wait = none) (hk : s.hart.walk = none) (ht : takeable s.hart = some b) :
    ∃ t, exec .takeInterrupt s = .next t ∧ TrapTaken s t true b 0 s.hart.pc := by
  refine ⟨_, ?_, takeTrap_taken hw ..⟩
  show execTakeInterrupt s = _
  simp [execTakeInterrupt, ht, hk]

theorem takeInterrupt_none {s : State} (ht : takeable s.hart = none) : exec .takeInterrupt s = .next s := by
  show execTakeInterrupt s = _
  rw [execTakeInterrupt, ht]

/-- Settles O13: `takeable` is a chain of conditions, and the interrupt that it names is the one taken. -/
theorem interruptsAreTakenInOrder : Obligations.InterruptsAreTakenInOrder := by
  intro s hw hk
  have taken {b : Nat} (h : takeable s.hart = some b) := takeInterrupt_taken hw hk h
  simp only [← interruptOn_iff, ← preDue_iff]
  refine ⟨⟨?_, ?_, ?_, ?_, ?_, ?_, ?_⟩, fun _ => taken, takeInterrupt_none, ?_, ?_⟩
  · exact fun h0 => taken (by simp [takeable_eq, h0])
  · exact fun h0 h5 => taken (by simp [takeable_eq, h0, h5])
  · exact fun h0 h5 h3 => taken (by simp [takeable_eq, h0, h5, h3])
  · exact fun h0 h5 h3 h4 => taken (by simp [takeable_eq, h0, h5, h3, h4])
  · exact fun h0 h5 h3 h4 h2 => taken (by simp [takeable_eq, h0, h5, h3, h4, h2])
  · exact fun h0 h5 h3 h4 h2 => takeInterrupt_none (by simp [takeable_eq, h0, h5, h3, h4, h2])
  · intro hm h0 ht
    rcases takeable_some ht with ⟨-, hp⟩ | ⟨on, -⟩
    · exact ((preDue_iff _).1 hp).2.elim hm h0
    · exact h0 on
  · intro hm hp
    rw [takeable_eq, if_pos ((preDue_iff _).2 ⟨hp, .inl hm⟩)]
  · intro hp b ht
    rcases takeable_some ht with ⟨-, hd⟩ | ⟨on, first⟩
    · rw [((preDue_iff _).1 hd).1] at hp
      cases hp
    · obtain ⟨hpend, hmask, hie⟩ := (interruptOn_iff _ _).1 on
      refine ⟨hie, hpend, hmask, by omega, ?_, ?_, ?_⟩
      all_goals
        intro hb h
        simpa [interruptOn, hb, h, hie] using first

end Sys2Proof.Machine
end

section
/-! SUPPORT. What a step runs (R16, R52–R54), control registers read and at reset (R22–R40, R119), publication and recess (R122, R123), and the
statements about them. -/

namespace Sys2Proof.Machine

open Sys2Proof.Claims

/-! ## Fetching and decoding -/

theorem leNat_lt (bs : List Byte) : leNat bs < 256 ^ bs.length := by
  induction bs with
  | nil => exact Nat.one_pos
  | cons b r ih =>
    rw [leNat, List.length_cons, Nat.pow_succ]
    have := b.isLt
    omega

@[simp] theorem State.readKeyed_length (s : State) (key a n : Nat) : (s.readKeyed key a n).length = n := by
  unfold State.readKeyed
  split
  · simp [Memory.readN]
  · simp

theorem readSegs_length (s : State) (sec : Nat) (l : List Seg) : (readSegs s sec l).length = segBytes l := by
  simp [readSegs, segBytes, List.length_flatMap]

/-- Fetching changes only what the station caches. -/
theorem fetchWord_stations (s : State) (va : Word) : StationsOnly s (fetchWord s va).2 := by
  have h := translate_stations s (homeSlice s.cluster) s.part s.hart.spid va.toNat
  unfold fetchWord
  split
  next heq => rwa [heq] at h
  next heq =>
    rw [heq] at h
    split <;> exact h

theorem fetchWord_ok_stations {s s1 : State} {va : Word} {w : Option Nat} (h : fetchWord s va = (w, s1)) : StationsOnly s s1 := by
  have only := fetchWord_stations s va
  rwa [h] at only

/-- A fetched word has 32 bits (R52). -/
theorem fetchWord_lt {s s1 : State} {va : Word} {w : Nat} (h : fetchWord s va = (some w, s1)) : w < 2 ^ 32 := by
  have word (t : State) (sec : Nat) (g : Seg) (hg : g.len = 4) : leNat (readSegs t sec [g]) < 2 ^ 32 := by
    have := leNat_lt (readSegs t sec [g])
    rwa [readSegs_length, segBytes_cons, segBytes_nil, hg] at this
  unfold fetchWord at h
  split at h
  · simp at h
  · split at h
    · simp only [Prod.mk.injEq, Option.some.injEq] at h
      exact h.1 ▸ word _ _ _ rfl
    · simp at h

theorem wordOfBytes_bytesOfWord {w : Nat} (h : w < 2 ^ 32) (rest : List Byte) : wordOfBytes (bytesOfWord w ++ rest) = some (w, rest) := by
  simp only [bytesOfWord, List.cons_append, List.nil_append, wordOfBytes, BitVec.toNat_ofNat, Option.some.injEq, Prod.mk.injEq, and_true]
  omega

/-- The instruction of one word. -/
theorem decodeFirst_of_decode {w : Nat} {i : Instr} (hw : w < 2 ^ 32) (h : decode (bytesOfWord w) = .ok (i, [])) :
    decodeFirst w = .one (.ok i) := by
  rw [← List.append_nil (bytesOfWord w), decode, wordOfBytes_bytesOfWord hw] at h
  dsimp only at h
  split at h
  next hf => rw [hf, (Prod.mk.inj (Except.ok.inj h)).1]
  next => cases h
  next => cases h

/-- A word that is no instruction, and not the first word of one. -/
theorem decodeFirst_of_reject {w : Nat} {e : Reject} (hw : w < 2 ^ 32) (h : decode (bytesOfWord w) = .error e) (he : e ≠ .truncated) :
    decodeFirst w = .one (.error e) := by
  rw [← List.append_nil (bytesOfWord w), decode, wordOfBytes_bytesOfWord hw] at h
  dsimp only at h
  split at h
  next => cases h
  next hf => rw [hf, Except.error.inj h]
  next => exact absurd (Except.error.inj h).symm he

/-- The instruction of two words is LI48 (R52). -/
theorem decodeFirst_of_decode_two {w w1 : Nat} {i : Instr} (hw : w < 2 ^ 32) (hw1 : w1 < 2 ^ 32)
    (h : decode (bytesOfWord w ++ bytesOfWord w1) = .ok (i, [])) :
    ∃ d immh, decodeFirst w = .li48 d immh ∧ i = .li48 d (BitVec.ofNat 48 (immh.toNat * 2 ^ 32 + w1)) := by
  rw [decode, wordOfBytes_bytesOfWord hw] at h
  dsimp only at h
  split at h
  next => cases (Prod.mk.inj (Except.ok.inj h)).2
  next => cases h
  next d immh hf =>
    rw [← List.append_nil (bytesOfWord w1), wordOfBytes_bytesOfWord hw1] at h
    refine ⟨d, immh, hf, ?_⟩
    rw [← (Prod.mk.inj (Except.ok.inj h)).1, decodeLi48]
    congr 1
    apply BitVec.eq_of_toNat_eq
    rw [BitVec.toNat_append, BitVec.toNat_ofNat, BitVec.toNat_ofNat, Nat.mod_eq_of_lt hw1, Nat.shiftLeft_eq, Nat.mul_comm,
      ← Nat.two_pow_add_eq_or_of_lt hw1]
    have := immh.isLt
    omega

/-! ## What comes next -/

section
variable {s s1 s2 : State} {w w1 : Nat} {i : Instr} (hahead : s.hart.ahead = none) (hf : fetchWord s s.hart.pc = (some w, s1))
include hahead hf

/-- With nothing fetched ahead the hart executes the word in memory. -/
theorem currentWord_fetched : currentWord s1 w = (w, s1) := by
  rw [currentWord, (fetchWord_ok_stations hf).hart, hahead]

theorem nextInstr_of_decode (hd : decode (bytesOfWord w) = .ok (i, [])) : nextInstr s = (i, fetchAhead s1) := by
  simp only [nextInstr, hf, currentWord_fetched hahead hf, decodeFirst_of_decode (fetchWord_lt hf) hd]

theorem nextInstr_of_decode_two (hf1 : fetchWord s1 (s.hart.pc + 4) = (some w1, s2))
    (hd : decode (bytesOfWord w ++ bytesOfWord w1) = .ok (i, [])) : nextInstr s = (i, fetchAhead s2) := by
  obtain ⟨d, immh, hfirst, rfl⟩ := decodeFirst_of_decode_two (fetchWord_lt hf) (fetchWord_lt hf1) hd
  have hpc : s1.hart.pc = s.hart.pc := by rw [(fetchWord_ok_stations hf).hart]
  simp only [nextInstr, hf, currentWord_fetched hahead hf, hfirst, hpc, hf1]

theorem nextInstr_of_reject {e : Reject} (hd : decode (bytesOfWord w) = .error e) (he : e ≠ .truncated) :
    nextInstr s = (.illegalInstruction (BitVec.ofNat 32 w) none, fetchAhead s1) := by
  simp only [nextInstr, hf, currentWord_fetched hahead hf, decodeFirst_of_reject (fetchWord_lt hf) hd he]

end

theorem nextInstr_of_fault {s s1 : State} (hf : fetchWord s s.hart.pc = (none, s1)) : nextInstr s = (.fetchException s.hart.pc, s1) := by
  simp only [nextInstr, hf, (fetchWord_ok_stations hf).hart]

theorem fetchAhead_frame (s : State) :
    ∃ o, (fetchAhead s).hart = { s.hart with ahead := o, entering := false } ∧ (fetchAhead s).mem = s.mem := by
  have only := fetchWord_stations s (s.hart.pc + 4)
  refine ⟨(fetchWord s (s.hart.pc + 4)).1.map fun x => (s.hart.pc + 4, x), ?_, only.mem⟩
  unfold fetchAhead
  dsimp only
  rw [only.hart]

/-- A hart that may run and has no interrupt to take runs its next instruction, where no unit moves before it. -/
theorem step_runs {s t : State} {i : Instr} (hagenda : s.agenda = []) (hpower : s.mgmt.power = true) (halive : s.alive = true)
    (hhalt : s.hart.halted = false) (hgate : gatedCluster s s.cluster = false) (hint : takeable (s.hart.tick 1) = none)
    (hnext : nextInstr (passCycle s) = (i, t)) (hw : waits i t = false)
    (hunits : (s.hart.irq.cycle + 1).toNat % 16 ≠ 15 ∨ pendingEvent (passCycle s) = none) : step s = exec i t := by
  have run : hartTurn s = .run i t := by
    have halive' : (passCycle s).alive = true := halive
    have hhalt' : (passCycle s).hart.halted = false := hhalt
    have hgate' : gatedCluster (passCycle s) (passCycle s).cluster = false := hgate
    have hint' : takeable (passCycle s).hart = none := hint
    simp only [hartTurn, halive', hhalt', hgate', hint', hnext, hw, Bool.not_true, Bool.or_self, Bool.false_eq_true, if_false, Bool.false_or,
      beq_iff_eq]
    split
    next hc => rw [hunits.resolve_left fun h => h hc]
    next => rfl
  simp only [step, choose, hagenda, hpower, if_true, run]

/-- Settles O17: with an empty agenda the hart's turn is its next instruction, which is what the words at the program counter decode to. -/
theorem stepRunsTheDecodedInstruction : Obligations.StepRunsTheDecodedInstruction := by
  intro s hagenda hpower halive hhalt hahead hgate hint
  have runs {i : Instr} {t : State} (hnext : nextInstr (passCycle s) = (i, t)) :
      (waits i t = false → (s.hart.irq.cycle + 1).toNat % 16 ≠ 15 → step s = exec i t) ∧
        (waits i t = false → pendingEvent (passCycle s) = none → step s = exec i t) :=
    ⟨fun hw hc => step_runs hagenda hpower halive hhalt hgate hint hnext hw (.inl hc),
      fun hw hp => step_runs hagenda hpower halive hhalt hgate hint hnext hw (.inr hp)⟩
  exact ⟨fun _ _ _ hf hd => runs (nextInstr_of_decode hahead hf hd),
    fun _ _ _ _ _ hf hf1 hd => runs (nextInstr_of_decode_two hahead hf hf1 hd),
    fun _ _ _ hf hd he => runs (nextInstr_of_reject hahead hf hd he),
    fun _ hf => runs (nextInstr_of_fault hf), fetchAhead_frame⟩

/-! ## Reading control registers -/

theorem exec_mfk (d : Reg) (k : CtlReg) (s : State) : exec (.mfk d k) s = writesG (.mfk d k) d (fun s => controlRead s k) s := rfl

theorem controlReads : ControlReads := by
  intro s d k hready
  rw [exec_mfk, writesG_ready hready]

theorem coreIdWorkedCase : CoreIdWorkedCase := by
  intro s hcur hchip
  have read : controlRead s .coreid = coreId s.cur s.hart.chip := rfl
  rw [read, hcur, hchip]
  decide

/-- Settles O19: MFK writes one g register; the worked case is evaluated. -/
theorem controlReadsComplete : Obligations.ControlReadsComplete := ⟨controlReads, coreIdWorkedCase⟩

/-- Settles O18: each control register of the reset state is evaluated. -/
theorem resetControlRegisters : Obligations.ResetControlRegisters := by
  unfold Obligations.ResetControlRegisters
  decide

/-! ## Publication and recess -/

theorem Count.out_eq_zero (c : Count) : c.out = 0 ↔ c.iss = c.ret := by
  have zero : (c.iss - c.ret).toNat = 0 ↔ c.iss - c.ret = 0 := BitVec.toNat_inj (y := 0)
  rw [Count.out, zero, sub_eq_zero]

/-- The loads and stores of the core are back. -/
theorem out_free {s : State} (hold : s.hart.old.iss = s.hart.old.ret) (host : s.hart.ost.iss = s.hart.ost.ret) :
    ¬ (s.hart.old.out ≠ 0 ∨ s.hart.ost.out ≠ 0) := by
  rw [ne_eq, ne_eq, Count.out_eq_zero, Count.out_eq_zero]
  tauto

/-- Some load or store of the core is outstanding. -/
theorem out_busy {s : State} (h : s.hart.old.iss ≠ s.hart.old.ret ∨ s.hart.ost.iss ≠ s.hart.ost.ret) :
    s.hart.old.out ≠ 0 ∨ s.hart.ost.out ≠ 0 := by
  rwa [ne_eq, ne_eq, Count.out_eq_zero, Count.out_eq_zero]

/-- The distance of two generations, computed on numbers (log entry 79). -/
theorem toNat_gen_sub (x : Word) (gen : BitVec 24) :
    (BitVec.ofNat 24 x.toNat - gen).toNat = (x.toNat + 2 ^ 24 - gen.toNat) % 2 ^ 24 := by
  rw [BitVec.toNat_sub, BitVec.toNat_ofNat]
  have := gen.isLt
  omega

theorem exec_genpub (a : Reg) (s : State) : exec (.genpub a) s = execGenpub a s := rfl

theorem genpub_goesOn {s : State} {a : Reg} (hready : Ready (.genpub a) s) (hold : s.hart.old.iss = s.hart.old.ret)
    (host : s.hart.ost.iss = s.hart.ost.ret) : exec (.genpub a) s = .next (s.withHart { s.hart.goesOn (s.hart.pc + 4) with
      ahead := none
      tsw := { s.hart.tsw.completed with
        gen := if (((s.g a).toNat + 2 ^ 24 - s.hart.tsw.gen.toNat) % 2 ^ 24) < 2 ^ 23 then (s.g a).setWidth 24 else s.hart.tsw.gen } }) := by
  rw [exec_genpub, execGenpub, issue_ready hready, if_neg (out_free hold host), ← toNat_gen_sub]
  rfl

theorem exec_yield (s : State) : exec .yield s = execYield s := rfl

/-- The state after the recess point (R31, R123). -/
theorem yield_passed {s : State} (hready : Ready .yield s) (hold : s.hart.old.iss = s.hart.old.ret)
    (host : s.hart.ost.iss = s.hart.ost.ret) {t : State}
    (ht : t = s.withHart { s.hart.goesOn (s.hart.pc + 4) with dmem := s.hart.dmemNext }) :
    exec .yield s = .next (if sliceDue s.hart then takeTrap true irqSlice 0 (s.hart.pc + 4) t else t) := by
  rw [exec_yield, execYield, issue_ready hready, if_neg (out_free hold host), ht]
  rfl

/-- The hart after a trap, but for OTL and the lease, which parking a batch changes. -/
theorem takeTrap_hart {s : State} (h : s.hart.wait = none) (int : Bool) (code : Nat) (tval epc : Word) :
    ∃ o l, (takeTrap int code tval epc s).hart = { s.hart with
      otl := o
      lease := l
      tsws := s.hart.tsw
      trap := { s.hart.trap with int := int, code := BitVec.ofNat 16 code, tval := tval, tepc := epc }
      seq := { s.hart.seq with stopped := s.hart.seq.run }
      tsw := { s.hart.tsw.clearPending with mode := handlerMode s.hart.tsw.mode, ie := false }
      pc := s.hart.trap.tvec
      ahead := none
      entering := true } := by
  obtain ⟨⟨o, l, hp⟩, -⟩ := parkBatch_hart s
  refine ⟨o, l, ?_⟩
  rw [takeTrap, withdrawWait_none h]
  simp only [hp]

/-- Settles O16: both wait for OLD and OST; past the recess point a SLICE that is due is taken, and the trap leaves DMEM. -/
theorem publicationAndRecess : Obligations.PublicationAndRecess := by
  refine ⟨fun s a hready hold host => genpub_goesOn hready hold host, ?_, ?_, ?_, ?_⟩
  · intro s hready hold host hslice
    rw [yield_passed hready hold host rfl, hslice, if_neg Bool.false_ne_true]
  · intro s hready hold host hpend hmask hie
    have hslice : sliceDue s.hart = true := by simp [sliceDue, irqSlice, hpend, hmask, hie]
    obtain ⟨o, l, hhart⟩ := takeTrap_hart (s := s.withHart { s.hart.goesOn (s.hart.pc + 4) with dmem := s.hart.dmemNext }) rfl true irqSlice 0
      (s.hart.pc + 4)
    refine ⟨_, (yield_passed hready hold host rfl).trans (by rw [hslice, if_pos rfl]), ?_⟩
    rw [hhart]
    exact ⟨rfl, rfl, rfl, rfl, rfl, rfl⟩
  · intro s a hready hbusy
    rw [exec_genpub, execGenpub, issue_ready hready, if_pos (out_busy hbusy)]
  · intro s hready hbusy
    rw [exec_yield, execYield, issue_ready hready, if_pos (out_busy hbusy)]

end Sys2Proof.Machine
end

section
/-! SUPPORT. The checks of an access that fail (R131), and the statement about them. -/

namespace Sys2Proof.Machine

open Sys2Proof.Claims

/-- A trap taken once the checks have changed what the stations cache is taken of the state before them. -/
theorem trapHere_of_stations {s s1 : State} (only : StationsOnly s s1) (hw : s.hart.wait = none) (e : Exc) :
    TrapTaken s (trapHere e s1) false e.code e.tval s.hart.pc := by
  have h := trapHere_taken (s := s1) (by rw [only.hart, hw]) e
  rw [only.hart] at h
  refine ⟨?_, ?_, ?_, ?_, h.enable, h.pending, ?_, ?_, ?_, ?_, ?_, fun a => by rw [h.mem, only.mem]⟩
  · rw [h.saved, only.hart]
  · rw [h.trap, only.hart]
  · rw [h.pc, only.hart]
  · rw [h.mode, only.hart]
  · rw [h.status, only.hart]
  · rw [h.stopped, only.hart]
  · rw [← only.hart]; exact h.regs
  · rw [← only.hart]; exact h.counts
  · rw [← only.hart]; exact h.tags

/-! ## Which check fails -/

theorem access_badForm {s : State} {am : AddrMode} {align : Nat} {need : Need} {a : Word} {n : Nat} (hf : formOk am a.toNat n = false) :
    access s am align need a n = (.exc ⟨exAddress, a⟩, s) := by
  simp [access, hf]

theorem access_misaligned {s : State} {am : AddrMode} {align : Nat} {need : Need} {a : Word} {n : Nat} (hf : formOk am a.toNat n = true)
    (ha : a.toNat % align ≠ 0) : access s am align need a n = (.exc ⟨exMisalign, a⟩, s) := by
  simp [access, hf, ha]

theorem pageRuns_zero (f va : Nat) : pageRuns f va 0 = [] := by cases f <;> rfl

/-- An access inside one page is one run. -/
theorem runsOf_onePage {va n : Nat} (hn : 0 < n) (h : va % 65536 + n ≤ 65536) : runsOf va n = [(va, n)] := by
  have whole : min n (65536 - va % 65536) = n := by omega
  rw [runsOf, pageRuns, if_neg (by omega), whole]
  dsimp only
  rw [Nat.sub_self, pageRuns_zero]

/-- A page that fails the access is named by its code and the address. -/
theorem access_badPage {s s1 : State} {need : Need} {a : Word} {n code va : Nat} (hform : a.toNat < 2 ^ 55)
    (h : globalAccess s (homeSlice s.cluster) s.part s.hart.spid need a.toNat n = (.bad code va, s1)) :
    access s .gl 1 need a n = (.exc ⟨code, BitVec.ofNat 64 va⟩, s1) := by
  have form : formOk .gl a.toNat n = true := by rwa [formOk, decide_eq_true_eq]
  simp [access, form, Nat.mod_one, h]

section
variable {s s1 : State} {need : Need} {a : Word} {n : Nat} (hn : 0 < n) (hpage : a.toNat % 65536 + n ≤ 65536) (hform : a.toNat < 2 ^ 55)
include hn hpage hform

theorem access_unmapped (ht : translate s (homeSlice s.cluster) s.part s.hart.spid a.toNat = (none, s1)) :
    access s .gl 1 need a n = (.exc ⟨exPage, a⟩, s1) := by
  have global : globalAccess s (homeSlice s.cluster) s.part s.hart.spid need a.toNat n = (.bad exPage a.toNat, s1) := by
    simp [globalAccess, runsOf_onePage hn hpage, translateRuns, ht]
  rw [access_badPage hform global, BitVec.ofNat_toNat, BitVec.setWidth_eq]

theorem access_forbidden {p : Page} (ht : translate s (homeSlice s.cluster) s.part s.hart.spid a.toNat = (some p, s1))
    (hp : grants p.entry need = false) : access s .gl 1 need a n = (.exc ⟨exPerm, a⟩, s1) := by
  have global : globalAccess s (homeSlice s.cluster) s.part s.hart.spid need a.toNat n = (.bad exPerm a.toNat, s1) := by
    simp [globalAccess, runsOf_onePage hn hpage, translateRuns, ht, hp]
  rw [access_badPage hform global, BitVec.ofNat_toNat, BitVec.setWidth_eq]

end

/-! ## What an access that fails does -/

section
variable {s s1 : State} {i : Instr} {r b : Reg} {am : AddrMode} {oa : Order} {off : BitVec 8} {n : Nat} {e : Exc} (hready : Ready i s)
  (hw : s.hart.wait = none)
include hready hw

theorem load_traps {sx : Bool} (hform : loadForm i = some (r, b, am, oa, off, n, sx))
    (hacc : access s am 1 needR (scaledAddr s b off n) n = (.exc e, s1)) :
    ∃ t, exec i s = .next t ∧ TrapTaken s t false e.code e.tval s.hart.pc := by
  have only := access_stations s am 1 needR (scaledAddr s b off n) n
  rw [hacc] at only
  refine ⟨_, ?_, trapHere_of_stations only hw e⟩
  rw [exec_of_loadForm hform, scalarLoad, issue_ready hready]
  dsimp only
  rw [show offsetAddr (s.g b) off n = scaledAddr s b off n from rfl, hacc]

theorem store_traps (hform : storeForm i = some (r, b, am, oa, off, n))
    (hacc : access s am 1 needW (scaledAddr s b off n) n = (.exc e, s1)) :
    ∃ t, exec i s = .next t ∧ TrapTaken s t false e.code e.tval s.hart.pc := by
  have only := access_stations s am 1 needW (scaledAddr s b off n) n
  rw [hacc] at only
  refine ⟨_, ?_, trapHere_of_stations only hw e⟩
  rw [(exec_of_storeForm hform s).1, scalarStore, issue_ready hready]
  dsimp only
  rw [show offsetAddr (s.g b) off n = scaledAddr s b off n from rfl, hacc]

end

/-- Each atomic is the shared atomic, with its own new value. -/
theorem exec_of_atomicForm {i : Instr} {d a b : Reg} {n : Nat} {am : AddrMode} {oa : Order} (h : atomicForm i = some (d, a, b, n, am, oa))
    (s : State) : ∃ w f, exec i s = atomic i d a b w am oa f s ∧ n = if w then 8 else 4 := by
  unfold atomicForm at h
  split at h <;> cases h
  case h_1 _ w sc => exact ⟨w, _, (rfl : _ = execAtomAdd d a b w am oa sc s), rfl⟩
  case h_2 _ w sc => exact ⟨w, _, (rfl : _ = execAtomAnd d a b w am oa sc s), rfl⟩
  case h_3 _ w sc => exact ⟨w, _, (rfl : _ = execAtomOr d a b w am oa sc s), rfl⟩
  case h_4 _ w sc => exact ⟨w, _, (rfl : _ = execAtomXor d a b w am oa sc s), rfl⟩
  case h_5 _ w sc => exact ⟨w, _, (rfl : _ = execAtomMin d a b w am oa sc s), rfl⟩
  case h_6 _ w sc => exact ⟨w, _, (rfl : _ = execAtomMax d a b w am oa sc s), rfl⟩
  case h_7 _ w sc => exact ⟨w, _, (rfl : _ = execAtomSwp d a b w am oa sc s), rfl⟩
  case h_8 _ w sc => exact ⟨w, _, (rfl : _ = execAtomCas d a b w am oa sc s), rfl⟩

theorem atomic_misaligned_traps {s : State} {i : Instr} {d a b : Reg} {n : Nat} {am : AddrMode} {oa : Order}
    (hform : atomicForm i = some (d, a, b, n, am, oa)) (hready : Ready i s) (hw : s.hart.wait = none)
    (hf : formOk am (s.g a).toNat n = true) (ha : (s.g a).toNat % n ≠ 0) :
    ∃ t, exec i s = .next t ∧ TrapTaken s t false exMisalign (s.g a) s.hart.pc := by
  obtain ⟨w, f, hexec, hn⟩ := exec_of_atomicForm hform s
  refine ⟨_, ?_, trapHere_taken hw ⟨exMisalign, s.g a⟩⟩
  rw [hexec, atomic, issue_ready hready]
  dsimp only
  rw [← hn, access_misaligned hf ha]

theorem storeForm_size {i : Instr} {r b : Reg} {am : AddrMode} {oa : Order} {off : BitVec 8} {n : Nat}
    (h : storeForm i = some (r, b, am, oa, off, n)) : 0 < n := by
  unfold storeForm at h
  split at h <;> cases h <;> decide

/-- Settles O24: the check that fails is named by `access`, and what follows it is the trap of the state before the checks. -/
theorem accessChecksTrap : Obligations.AccessChecksTrap := by
  intro s hw
  refine ⟨fun i d b am oa off n sx hform hready hf => ?_, fun i r b am oa off n hform hready hf => ?_,
    fun i d a b n am oa hform hready hf ha => ?_, fun i d b oa off n sx s1 hform hready hlt hpage ht => ?_,
    fun i r b oa off n p s1 hform hready hlt hpage ht hp => ?_⟩
  · exact load_traps hready hw hform (access_badForm hf)
  · exact store_traps hready hw hform (access_badForm hf)
  · exact atomic_misaligned_traps hform hready hw hf ha
  · exact load_traps hready hw hform (access_unmapped (loadForm_size hform).1 hpage hlt ht)
  · exact store_traps hready hw hform (access_forbidden (storeForm_size hform) hpage hlt ht (by simp [grants, needW, hp]))

end Sys2Proof.Machine
end

section
/-! SUPPORT. Fences (R151, R152) and the tag table (R153), and the statements about them. -/

namespace Sys2Proof.Machine

open Sys2Proof.Claims

/-! ## What a fence waits for -/

/-- What went to a UN page is not waited for without ALL (R152). -/
def Unwaited (all un : Bool) : Prop := un = true ∧ all = false

/-- The adds of the current core on their way. -/
def ownAdds (s : State) : List AddInFlight := s.adds.filter fun a => a.core == s.cur

/-- The counts of the core let a release go on. -/
def CountsLet (s : State) (all : Bool) : Prop :=
  (s.hart.old.iss = s.hart.old.ret ∧ s.hart.ost.iss = s.hart.ost.ret) ∨
    (all = false ∧ s.hart.old.out ≤ (s.hart.loads.filter fun l => l.un).length ∧
      s.hart.ost.out ≤ (s.hart.stores.filter fun p => p.un).length + ((ownAdds s).filter fun a => a.ord == .un).length)

/-- The replicated writes and the adds of the core let a release go on. -/
def SentLets (s : State) (all : Bool) : Prop :=
  (∀ w ∈ s.repl, w.core = s.cur → Unwaited all w.un) ∧ ∀ a ∈ s.adds, a.core = s.cur → Unwaited all (a.ord == .un)

theorem loadsBack_iff (s : State) (all : Bool) : loadsBack s all = true ↔ ∀ l ∈ s.hart.loads, Unwaited all l.un := by
  simp [loadsBack, Unwaited]

theorem performed_iff (s : State) (all : Bool) : performed s all = true ↔ CountsLet s all ∧ SentLets s all := by
  cases all with
  | true =>
    simp only [performed, if_true, CountsLet, SentLets, Unwaited, replPending, Bool.and_eq_true, Bool.not_eq_true', beq_iff_eq,
      Count.out_eq_zero, List.any_eq_false, Bool.true_eq_false, and_false, false_and, or_false, and_assoc]
  | false =>
    have unAdds : (s.adds.filter fun a => a.core == s.cur && a.ord == .un) = (ownAdds s).filter fun a => a.ord == .un := by
      rw [ownAdds, List.filter_filter]
      simp only [Bool.and_comm]
    have counts : CountsLet s false ↔ s.hart.old.out ≤ unLoads s ∧ s.hart.ost.out ≤ unStores s := by
      rw [unLoads, unStores, unAdds]
      refine ⟨?_, fun h => .inr ⟨rfl, h⟩⟩
      rintro (⟨hold, host⟩ | ⟨-, h⟩)
      · rw [(Count.out_eq_zero _).2 hold, (Count.out_eq_zero _).2 host]
        exact ⟨Nat.zero_le _, Nat.zero_le _⟩
      · exact h
    have sent : SentLets s false ↔ releaseWaits s = false := by
      simp only [SentLets, Unwaited, releaseWaits, releaseHeld, Bool.or_eq_false_iff, List.any_eq_false]
      simp
      tauto
    rw [counts, sent]
    simp [performed, and_assoc]

theorem replSettled_iff (s : State) (sc : Scope) (all : Bool) :
    replSettled s sc all = true ↔ (sc = .pkg ∨ sc = .sys → ∀ w ∈ s.repl, Unwaited all w.un) := by
  have wide : scopeRank sc < scopeRank .pkg ↔ ¬ (sc = .pkg ∨ sc = .sys) := by cases sc <;> decide
  simp only [replSettled, Bool.or_eq_true, decide_eq_true_eq, wide, List.all_eq_true, Bool.and_eq_true, Bool.not_eq_true', Unwaited]
  tauto

/-- A store to a page that is not UN holds a release, where OST counts the stores and the adds. -/
theorem not_countsLet_of_store {s : State} {all : Bool} (hc : s.hart.stores.length + (ownAdds s).length ≤ s.hart.ost.out)
    (h : ∃ p ∈ s.hart.stores, p.un = false) : ¬ CountsLet s all := by
  obtain ⟨p, hp, hun⟩ := h
  have fewer : (s.hart.stores.filter fun p => p.un).length < s.hart.stores.length :=
    List.length_filter_lt_length_iff_exists.2 ⟨p, hp, by simp [hun]⟩
  have adds : ((ownAdds s).filter fun a => a.ord == .un).length ≤ (ownAdds s).length := List.length_filter_le ..
  rintro (⟨-, host⟩ | ⟨-, -, host⟩)
  · rw [(Count.out_eq_zero _).2 host] at hc
    omega
  · omega

/-- A load of a page that is not UN holds a release, where OLD counts the loads. -/
theorem not_countsLet_of_load {s : State} {all : Bool} (hc : s.hart.loads.length ≤ s.hart.old.out)
    (h : ∃ l ∈ s.hart.loads, l.un = false) : ¬ CountsLet s all := by
  obtain ⟨l, hl, hun⟩ := h
  have fewer : (s.hart.loads.filter fun l => l.un).length < s.hart.loads.length :=
    List.length_filter_lt_length_iff_exists.2 ⟨l, hl, by simp [hun]⟩
  rintro (⟨hold, -⟩ | ⟨-, hold, -⟩)
  · rw [(Count.out_eq_zero _).2 hold] at hc
    omega
  · omega

/-! ## What a fence does -/

section
variable {s : State} {sc : Scope} {all : Bool}

theorem fenceAcq_eq (hready : Ready (.fenceAcq sc all) s) : exec (.fenceAcq sc all) s =
    .next (if loadsBack s all then s.withHart ((freshStreams s.hart).goesOn (s.hart.pc + 4)) else s) :=
  (rfl : _ = execFenceAcq sc all s).trans (issue_ready hready _)

theorem fenceRel_eq (hready : Ready (.fenceRel sc all) s) : exec (.fenceRel sc all) s =
    .next (if performed s all then s.withHart (s.hart.goesOn (s.hart.pc + 4)) else s) :=
  (rfl : _ = execFenceRel sc all s).trans (issue_ready hready _)

theorem fenceSc_eq (hready : Ready (.fenceSc sc all) s) : exec (.fenceSc sc all) s =
    .next (if performed s all && loadsBack s all && replSettled s sc all then s.withHart ((freshStreams s.hart).goesOn (s.hart.pc + 4)) else s) :=
  (rfl : _ = execFenceSc sc all s).trans (issue_ready hready _)

theorem fenceRel_waits (hready : Ready (.fenceRel sc all) s) (h : ¬ (CountsLet s all ∧ SentLets s all)) :
    exec (.fenceRel sc all) s = .next s := by
  rw [fenceRel_eq hready, if_neg (mt (performed_iff s all).1 h)]

theorem fenceSc_waits (hready : Ready (.fenceSc sc all) s)
    (h : ¬ ((CountsLet s all ∧ SentLets s all) ∧ (∀ l ∈ s.hart.loads, Unwaited all l.un) ∧
      (sc = .pkg ∨ sc = .sys → ∀ w ∈ s.repl, Unwaited all w.un))) : exec (.fenceSc sc all) s = .next s := by
  rw [fenceSc_eq hready, if_neg]
  rwa [Bool.and_eq_true, Bool.and_eq_true, performed_iff, loadsBack_iff, replSettled_iff, and_assoc]

end

theorem fencesComplete : FencesComplete := by
  intro s sc all
  refine ⟨fun hready back => ?_, fun hready back => ?_, fun hready counts sent => ?_, fun hready h => ?_,
    fun hready back counts sent others => ?_, fun hready h => ?_, fun hc h => ⟨fun hready => ?_, fun hready => ?_⟩,
    fun hc h => ⟨fun hready => ?_, fun hready => ?_⟩⟩
  · rw [fenceAcq_eq hready, if_pos ((loadsBack_iff s all).2 back)]
  · rw [fenceAcq_eq hready, if_neg (mt (loadsBack_iff s all).1 back)]
  · rw [fenceRel_eq hready, if_pos ((performed_iff s all).2 ⟨counts, sent⟩)]
  · exact fenceRel_waits hready (not_and_or.2 h)
  · rw [fenceSc_eq hready, (performed_iff s all).2 ⟨counts, sent⟩, (loadsBack_iff s all).2 back, (replSettled_iff s sc all).2 others]
    rfl
  · refine fenceSc_waits hready fun ⟨⟨counts, sent⟩, back, others⟩ => ?_
    exact h.elim (· back) (Or.elim · (· counts) (Or.elim · (· sent) (· others)))
  · exact fenceRel_waits hready fun ⟨counts, _⟩ => not_countsLet_of_store hc h counts
  · exact fenceSc_waits hready fun ⟨⟨counts, _⟩, _⟩ => not_countsLet_of_store hc h counts
  · exact fenceRel_waits hready fun ⟨counts, _⟩ => not_countsLet_of_load hc h counts
  · exact fenceSc_waits hready fun ⟨⟨counts, _⟩, _⟩ => not_countsLet_of_load hc h counts

/-! ## The tag table -/

/-- The tag of an address is its bits [54:10]. -/
theorem tagOf_eq (a : Word) : tagOf a = a.extractLsb' 10 45 := by
  apply BitVec.eq_of_toNat_eq
  simp [tagOf, bits, field, BitVec.extractLsb'_toNat, Nat.shiftRight_eq_div_pow]

/-- Bits [63:55] of an address are zero below 2^55. -/
theorem bits_high_eq_zero (a : Word) : bits a 55 9 = 0 ↔ a.toNat < 2 ^ 55 := by
  have := a.isLt
  rw [bits, field]
  omega

theorem tagBarred_iff (s : State) (slot : Word) : tagBarred s slot = true ↔ s.hart.tregEn = false ∨ 255 < slot.toNat := by
  simp [tagBarred]

theorem tagOpen {s : State} {slot : Word} (hen : s.hart.tregEn = true) (hslot : slot.toNat ≤ 255) : tagBarred s slot ≠ true := by
  simp [tagBarred, hen, hslot]

/-- The slot whose tag matches. -/
def tagHit (h : Hart) (t : BitVec 45) : Option (Fin 256) := (List.finRange 256).find? fun k => h.tagTable[k] == some t

theorem tagHit_some {h : Hart} {t : BitVec 45} {k : Fin 256} (hk : h.tagTable[k] = some t)
    (only : ∀ j : Fin 256, j ≠ k → h.tagTable[j] ≠ some t) : tagHit h t = some k := by
  cases found : tagHit h t with
  | none => exact absurd (List.find?_eq_none.1 found k (List.mem_finRange k)) (by simp [hk])
  | some j =>
    have hj := List.find?_some found
    by_contra hne
    exact only j (fun h => hne (congrArg some h)) (by simpa using hj)

theorem tagHit_none {h : Hart} {t : BitVec 45} (none : ∀ j : Fin 256, h.tagTable[j] ≠ some t) : tagHit h t = Option.none :=
  List.find?_eq_none.2 fun j _ => by simpa using none j

/-- A write of g[d] that goes on, as one hart. -/
theorem setG_retire (s : State) (d : Reg) (x : Word) : (s.setG d x).retire 4 = s.withHart (s.hart.wroteG d x (s.hart.pc + 4)) := by
  simp only [State.setG_eq, State.retire_eq, State.withHart_hart, State.withHart_withHart, Hart.setG_pc, Hart.setG_goesOn]
  rfl

section
variable {s : State} {a b d : Reg}

theorem tlook_found (hready : Ready (.tlook d a) s) (hlow : (s.g a).toNat < 2 ^ 55) (hen : s.hart.tregEn = true) {k : Fin 256}
    (hit : tagHit s.hart (tagOf (s.g a)) = some k) :
    exec (.tlook d a) s = .next (s.withHart (s.hart.wroteG d (BitVec.ofNat 64 k.val) (s.hart.pc + 4))) := by
  refine (rfl : _ = execTlook d a s).trans ?_
  unfold tagHit at hit
  simp only [execTlook, issue_ready hready, if_neg (not_not.2 ((bits_high_eq_zero _).2 hlow)), hit, hen, setG_retire]

theorem tlook_missed (hready : Ready (.tlook d a) s) (hlow : (s.g a).toNat < 2 ^ 55)
    (miss : s.hart.tregEn = false ∨ tagHit s.hart (tagOf (s.g a)) = none) :
    exec (.tlook d a) s = .next (s.withHart (s.hart.wroteG d (BitVec.allOnes 64) (s.hart.pc + 4))) := by
  refine (rfl : _ = execTlook d a s).trans ?_
  unfold tagHit at miss
  rcases miss with hen | hit
  · simp only [execTlook, issue_ready hready, if_neg (not_not.2 ((bits_high_eq_zero _).2 hlow)), hen, setG_retire]
  · simp only [execTlook, issue_ready hready, if_neg (not_not.2 ((bits_high_eq_zero _).2 hlow)), hit, setG_retire]
    cases s.hart.tregEn <;> rfl

theorem tlook_address (hready : Ready (.tlook d a) s) (hhigh : 2 ^ 55 ≤ (s.g a).toNat) :
    exec (.tlook d a) s = .next (trapHere ⟨exAddress, s.g a⟩ s) := by
  refine (rfl : _ = execTlook d a s).trans ?_
  rw [execTlook, issue_ready hready, if_pos]
  rw [ne_eq, bits_high_eq_zero]
  omega

theorem tset_barred (hready : Ready (.tset a b) s) (hbar : tagBarred s (s.g a) = true) :
    exec (.tset a b) s = .next (trapHere ⟨exAccess, s.g a⟩ s) := by
  refine (rfl : _ = execTset a b s).trans ?_
  rw [execTset, issue_ready hready, if_pos hbar]

theorem tset_address (hready : Ready (.tset a b) s) (hopen : tagBarred s (s.g a) ≠ true) (hhigh : 2 ^ 55 ≤ (s.g b).toNat) :
    exec (.tset a b) s = .next (trapHere ⟨exAddress, s.g b⟩ s) := by
  refine (rfl : _ = execTset a b s).trans ?_
  rw [execTset, issue_ready hready, if_neg hopen, if_pos]
  rw [ne_eq, bits_high_eq_zero]
  omega

/-- TSET puts the tag in its slot and clears it elsewhere (R153). -/
theorem tset_sets (hready : Ready (.tset a b) s) (hopen : tagBarred s (s.g a) ≠ true) (hlow : (s.g b).toNat < 2 ^ 55) :
    exec (.tset a b) s = .next (s.withHart { s.hart.goesOn (s.hart.pc + 4) with
      tagTable := (s.hart.tagTable.map fun e => if e = some (tagOf (s.g b)) then none else e).setIfInBounds (s.g a).toNat
        (some (tagOf (s.g b))) }) := by
  refine (rfl : _ = execTset a b s).trans ?_
  rw [execTset, issue_ready hready, if_neg hopen, if_neg (not_not.2 ((bits_high_eq_zero _).2 hlow))]
  rfl

theorem tclr_barred (hready : Ready (.tclr a) s) (hbar : tagBarred s (s.g a) = true) :
    exec (.tclr a) s = .next (trapHere ⟨exAccess, s.g a⟩ s) := by
  refine (rfl : _ = execTclr a s).trans ?_
  rw [execTclr, issue_ready hready, if_pos hbar]

theorem tclr_clears (hready : Ready (.tclr a) s) (hopen : tagBarred s (s.g a) ≠ true) :
    exec (.tclr a) s = .next (s.withHart { s.hart.goesOn (s.hart.pc + 4) with
      tagTable := s.hart.tagTable.setIfInBounds (s.g a).toNat none }) := by
  refine (rfl : _ = execTclr a s).trans ?_
  rw [execTclr, issue_ready hready, if_neg hopen]
  rfl

end

theorem tagTableCompletes : TagTableCompletes := by
  refine ⟨fun s d a k hready hlow hen hk only => ?_, fun s d a hready hlow miss => ?_, fun s a b hready hen hslot hlow => ?_,
    fun s a hready hen hslot => ?_, fun s a b hready hw hbar => ?_, fun s a hready hw hbar => ?_, fun s d a hready hw hhigh => ?_,
    fun s a b hready hw hen hslot hhigh => ?_⟩
  · exact tlook_found hready hlow hen (by rw [tagOf_eq]; exact tagHit_some hk only)
  · exact tlook_missed hready hlow (miss.imp_right fun h => by rw [tagOf_eq]; exact tagHit_none h)
  · refine ⟨_, tset_sets hready (tagOpen hen hslot) hlow, fun k => ?_⟩
    simp [Vector.getElem_setIfInBounds, tagOf_eq, eq_comm]
  · refine ⟨_, tclr_clears hready (tagOpen hen hslot), fun k => ?_⟩
    simp [Vector.getElem_setIfInBounds, eq_comm]
  · exact ⟨_, tset_barred hready ((tagBarred_iff ..).2 hbar), trapHere_taken hw ⟨exAccess, s.g a⟩⟩
  · exact ⟨_, tclr_barred hready ((tagBarred_iff ..).2 hbar), trapHere_taken hw ⟨exAccess, s.g a⟩⟩
  · exact ⟨_, tlook_address hready hhigh, trapHere_taken hw ⟨exAddress, s.g a⟩⟩
  · exact ⟨_, tset_address hready (tagOpen hen hslot) hhigh, trapHere_taken hw ⟨exAddress, s.g b⟩⟩

/-- Settles O28: a fence is one condition on the counts, the loads and what has been sent; the tag table is read by its first match, which is its
only one. -/
theorem fencesAndTagTableComplete : Obligations.FencesAndTagTableComplete := ⟨fencesComplete, tagTableCompletes⟩

end Sys2Proof.Machine
end

section
/-! SUPPORT. Tag waits, JOIN and WAITN (R230–R233), and the statement about them. -/

namespace Sys2Proof.Machine

open Sys2Proof.Claims

/-- A number whose bits are those of `f`. -/
def sumBits (n : Nat) (f : Fin n → Bool) : Nat := ((List.finRange n).map fun i => if f i then 2 ^ i.val else 0).sum

theorem sumBits_succ (n : Nat) (f : Fin (n + 1) → Bool) :
    sumBits (n + 1) f = 2 ^ n * (if f (Fin.last n) then 1 else 0) + sumBits n fun i => f i.castSucc := by
  simp [sumBits, List.finRange_succ_last, Function.comp_def, Nat.add_comm]

theorem sumBits_lt (n : Nat) : ∀ f, sumBits n f < 2 ^ n := by
  induction n with
  | zero => exact fun _ => Nat.one_pos
  | succ n ih =>
    intro f
    have low := ih fun i => f i.castSucc
    rw [sumBits_succ, Nat.pow_succ]
    split <;> omega

theorem testBit_sumBits (n : Nat) : ∀ (f : Fin n → Bool) (k : Fin n), (sumBits n f).testBit k.val = f k := by
  induction n with
  | zero => exact fun _ k => k.elim0
  | succ n ih =>
    intro f k
    rw [sumBits_succ, Nat.testBit_two_pow_mul_add _ (sumBits_lt ..)]
    cases k using Fin.lastCases with
    | last => cases h : f (Fin.last n) <;> simp
    | cast k => rw [if_pos (by simp), Fin.val_castSucc, ih]

/-- A tag is ready once its count has reached its threshold (R37). -/
theorem trdy_getLsbD (h : Hart) (i : Fin 64) : h.trdy.getLsbD i.val = reached h.tagc[i] h.tagt[i] := by
  have bits : h.trdy = BitVec.ofNat 64 (sumBits 64 fun i => reached h.tagc[i] h.tagt[i]) := rfl
  rw [bits, BitVec.getLsbD_ofNat, testBit_sumBits]
  simp

theorem reached_iff (v t : Word) : reached v t = true ↔ reaches v t := decide_eq_true_iff

/-- The end of a wait: a write of g[d] that goes on, with the streams read afresh (R178). -/
theorem dropAhead_setG_retire (s : State) (d : Reg) (x : Word) : (dropAhead (s.setG d x)).retire 4 = s.withHart (waitedHart s.hart d x) := by
  have fresh : freshStreams (s.hart.setG d x) = (freshStreams s.hart).setG d x := by
    unfold Hart.setG
    split <;> rfl
  have hart : (dropAhead (s.setG d x)).retire 4 = s.withHart ((freshStreams (s.hart.setG d x)).goesOn (s.hart.pc + 4)) := by
    rw [← Hart.setG_pc s.hart d x]
    rfl
  rw [hart, fresh, Hart.setG_goesOn]
  rfl

section
variable {s : State} {d a : Reg}

theorem twany_eq (hready : Ready (.twany d a) s) : exec (.twany d a) s = .next (
    if s.g a = 0 || s.hart.trdy &&& s.g a ≠ 0 then s.withHart (waitedHart s.hart d (s.hart.trdy &&& s.g a)) else s) := by
  refine (rfl : _ = execTwany d a s).trans ?_
  rw [execTwany, issue_ready hready, ← dropAhead_setG_retire]

theorem twall_eq (hready : Ready (.twall d a) s) : exec (.twall d a) s = .next (
    if s.hart.trdy &&& s.g a = s.g a then s.withHart (waitedHart s.hart d (s.hart.trdy &&& s.g a)) else s) := by
  refine (rfl : _ = execTwall d a s).trans ?_
  rw [execTwall, issue_ready hready, ← dropAhead_setG_retire]

theorem tfirst_eq (hready : Ready (.tfirst d) s) :
    exec (.tfirst d) s = .next (s.withHart (waitedHart s.hart d (lowestReady s.hart.trdy))) := by
  refine (rfl : _ = execTfirst d s).trans ?_
  rw [execTfirst, issue_ready hready, dropAhead_setG_retire]

theorem join_eq (hready : Ready (.join d a) s) : exec (.join d a) s = .next (
    if reached s.hart.rdv (s.g a) then s.withHart (waitedHart s.hart d 0) else s) := by
  refine (rfl : _ = execJoin d a s).trans ?_
  rw [execJoin, issue_ready hready, ← dropAhead_setG_retire]

end

/-- The lowest bit set is the one that TFIRST gives. -/
theorem lowestReady_of_bits {t : Word} {k : Nat} (hk : k < 64) (set : t.getLsbD k = true) (below : ∀ j, j < k → t.getLsbD j = false) :
    lowestReady t = BitVec.ofNat 64 k := by
  have found : (List.range 64).find? (fun i => t.toNat.testBit i) = some k :=
    List.find?_range_eq_some.2 ⟨set, List.mem_range.2 hk, fun j hj => congrArg Bool.not (below j hj)⟩
  rw [lowestReady, found]

theorem waitn_eq {s : State} {ld st cp tl : Fin 16} (hready : Ready (.waitn ld st cp tl) s) : exec (.waitn ld st cp tl) s = .next (
    if s.hart.old.out ≤ ld.val && s.hart.ost.out ≤ st.val && s.hart.ocp.out ≤ cp.val && s.hart.otl.out ≤ tl.val
    then s.withHart (s.hart.goesOn (s.hart.pc + 4)) else s) :=
  (rfl : _ = execWaitn ld st cp tl s).trans (issue_ready hready _)

/-- Settles O42: each answers under one condition on the state, and otherwise leaves it. -/
theorem tagWaitsComplete : Obligations.TagWaitsComplete := by
  refine ⟨fun s i => ?_, fun s d a hready => ⟨fun h => ?_, fun h => ?_⟩, fun s d a hready => ⟨fun h => ?_, fun h => ?_⟩,
    fun s d hready => ⟨fun k hk set below => ?_, fun h => ?_⟩, fun s d a hready => ⟨fun h => ?_, fun h => ?_⟩,
    fun s ld st cp tl hready => ⟨fun h => ?_, fun h => ?_⟩⟩
  · rw [trdy_getLsbD, reached_iff]
  · rw [twany_eq hready, if_pos (by simpa using h)]
  · rw [twany_eq hready, if_neg (by simpa using h)]
  · rw [twall_eq hready, if_pos h, h]
  · rw [twall_eq hready, if_neg h]
  · rw [tfirst_eq hready, lowestReady_of_bits hk set below]
  · rw [tfirst_eq hready, h]
    rfl
  · rw [join_eq hready, if_pos ((reached_iff ..).2 h)]
  · rw [join_eq hready, if_neg (mt (reached_iff ..).1 h)]
  · rw [waitn_eq hready, if_pos (by simp only [Bool.and_eq_true, decide_eq_true_eq, and_assoc]; exact h)]
  · rw [waitn_eq hready, if_neg (by simp only [Bool.and_eq_true, decide_eq_true_eq, and_assoc]; exact h)]

end Sys2Proof.Machine
end

section
/-! SUPPORT. The steps of a homeroom (R213, R214, R224) and what reaches a hart (R39, R126, R133, R137), and the statements about them. -/

namespace Sys2Proof.Machine

open Sys2Proof.Claims

/-! ## What a changed hart leaves -/

@[simp] theorem State.modifyHart_adds (s : State) (n : Nat) (f : Hart → Hart) : (s.modifyHart n f).adds = s.adds := by
  unfold State.modifyHart; split <;> rfl
@[simp] theorem State.modifyHart_roll (s : State) (n : Nat) (f : Hart → Hart) : (s.modifyHart n f).roll = s.roll := by
  unfold State.modifyHart; split <;> rfl
@[simp] theorem State.modifyHart_wakes (s : State) (n : Nat) (f : Hart → Hart) : (s.modifyHart n f).wakes = s.wakes := by
  unfold State.modifyHart; split <;> rfl
@[simp] theorem State.modifyHart_counter (s : State) (n k : Nat) (f : Hart → Hart) : (s.modifyHart n f).counter k = s.counter k := by
  unfold State.modifyHart; split <;> rfl

/-- The hart that was changed. -/
@[simp] theorem hartAt_modifyHart (s : State) (n : Nat) (f : Hart → Hart) : hartAt (s.modifyHart n f) n = f (hartAt s n) := by
  simp [hartAt, State.hartOf_modifyHart]

/-! ## What a counter that is set does to its roll -/

/-- A line's key is all that tagging changes. -/
theorem tagLines_eq (s : State) (key a n : Nat) : ∃ l, tagLines s key a n = { s with lines := l } := by
  unfold tagLines
  split
  · exact ⟨s.lines, rfl⟩
  · exact ⟨_, rfl⟩

section
variable (s : State) (k : Nat) (w : Word)

theorem setCounter_wakes : (setCounter s k w).wakes = s.wakes ++ s.roll.filterMap fun e =>
    if sameCounter k e then (verdict (setCounter s k w) e.key e.thr).map fun st => (⟨e.waiter, st⟩ : Wake) else none := by
  unfold setCounter
  obtain ⟨l, hl⟩ := tagLines_eq s (ctrKid k) (ctrPlace k) 8
  rw [hl]
  rfl

theorem setCounter_roll : (setCounter s k w).roll =
    s.roll.filter fun e => !(sameCounter k e && (verdict (setCounter s k w) e.key e.thr).isSome) := by
  unfold setCounter
  obtain ⟨l, hl⟩ := tagLines_eq s (ctrKid k) (ctrPlace k) 8
  rw [hl]
  rfl

@[simp] theorem setCounter_poisoned (j : Nat) : (setCounter s k w).poisoned j = s.poisoned j := by
  unfold setCounter
  obtain ⟨l, hl⟩ := tagLines_eq s (ctrKid k) (ctrPlace k) 8
  rw [hl]
  rfl

@[simp] theorem setCounter_adds : (setCounter s k w).adds = s.adds := by
  unfold setCounter
  obtain ⟨l, hl⟩ := tagLines_eq s (ctrKid k) (ctrPlace k) 8
  rw [hl]
  rfl

@[simp] theorem setCounter_hartAt (n : Nat) : hartAt (setCounter s k w) n = hartAt s n := by
  unfold setCounter
  obtain ⟨l, hl⟩ := tagLines_eq s (ctrKid k) (ctrPlace k) 8
  rw [hl]
  rfl

end

theorem verdict_reached {s : State} {key : Nat} {thr : Word} (hp : s.poisoned key = false) (h : reaches (s.counter key) thr) :
    verdict s key thr = some 0 := by
  rw [verdict, hp, if_neg Bool.false_ne_true, if_pos ((reached_iff ..).2 h)]

theorem verdict_below {s : State} {key : Nat} {thr : Word} (hp : s.poisoned key = false) (h : ¬ reaches (s.counter key) thr) :
    verdict s key thr = none := by
  rw [verdict, hp, if_neg Bool.false_ne_true, if_neg (mt (reached_iff ..).1 h)]

theorem poisoned_congr {s : State} {j k : Nat} (h : ctrPlace j = ctrPlace k) : s.poisoned j = s.poisoned k := by
  rw [State.poisoned, State.poisoned, h]

section
variable {s : State} {k : Nat} {w : Word} {e : RollEntry} (he : e ∈ s.roll)
include he

/-- A waiter whose threshold the counter has reached wakes with status 0 (R214). -/
theorem setCounter_wakes_reached (hsame : ctrPlace e.key = ctrPlace k) (hp : s.poisoned k = false)
    (h : reaches ((setCounter s k w).counter e.key) e.thr) : ⟨e.waiter, 0⟩ ∈ (setCounter s k w).wakes := by
  have clean : (setCounter s k w).poisoned e.key = false := by rw [setCounter_poisoned, poisoned_congr hsame, hp]
  rw [setCounter_wakes, List.mem_append, List.mem_filterMap]
  exact .inr ⟨e, he, by simp [sameCounter, hsame, verdict_reached clean h]⟩

/-- A waiter whose threshold it has not reached stays. -/
theorem setCounter_roll_below (hsame : ctrPlace e.key = ctrPlace k) (hp : s.poisoned k = false)
    (h : ¬ reaches ((setCounter s k w).counter e.key) e.thr) : e ∈ (setCounter s k w).roll := by
  have clean : (setCounter s k w).poisoned e.key = false := by rw [setCounter_poisoned, poisoned_congr hsame, hp]
  rw [setCounter_roll, List.mem_filter]
  exact ⟨he, by simp [verdict_below clean h]⟩

/-- A waiter of another counter stays. -/
theorem setCounter_roll_other (h : ctrPlace e.key ≠ ctrPlace k) : e ∈ (setCounter s k w).roll := by
  rw [setCounter_roll, List.mem_filter]
  exact ⟨he, by simp [sameCounter, h]⟩

end

/-! ## The steps of a homeroom -/

/-- An add with nothing before it from its core, and no replicated write, does not wait. -/
theorem addWaits_first {s : State} {a : AddInFlight} {l : List AddInFlight} (hl : ∀ b ∈ l, b.core ≠ a.core) (hr : s.repl = []) :
    addWaits s a l = false := by
  simp only [addWaits, releaseHeld, hr, List.any_nil, Bool.or_false, Bool.or_eq_false_iff, List.any_eq_false]
  exact ⟨fun b hb => by simp [hl b hb], fun b hb => by simp [hl b hb]⟩

/-- The hart of a core whose add has been performed (R213, R226). -/
def addRetired (a : AddInFlight) (h : Hart) : Hart := { h with
  ost := h.ost.retire
  wait := if a.caw then none else h.wait
  tsw := { h.tsw with ap := h.tsw.ap || a.caw } }

theorem homeroomAdd_performs {s : State} {k : Nat} {a : AddInFlight} (ha : s.adds[k]? = some a) (hw : addWaits s a (s.adds.take k) = false) :
    exec (.homeroomAdd k) s = .next ((counterAdd { s with adds := s.adds.eraseIdx k } a.key a.amount).modifyHart a.core (addRetired a)) := by
  refine (rfl : _ = execHomeroomAdd k s).trans ?_
  simp only [execHomeroomAdd, ha, hw, Bool.false_eq_true, if_false]
  rfl

theorem bits_low_six (r : Word) : bits r 0 6 = r.toNat % 64 := by simp [bits, field]

theorem tagDone_eq (h : Hart) (r thr : Word) :
    h.tagDone 3 r thr = reached (h.tagc[r.toNat % 64]'(Nat.mod_lt _ (by decide))) thr := by
  simp [Hart.tagDone, bits_low_six]

/-- A CWAITT whose cycles have passed ends with status 2, and its registration is withdrawn (R224, R225). -/
theorem cwaittTimeout_ends {s : State} {n : Nat} {start : Word} {limit : Option (Word × Reg)} (h : timedOut (hartAt s n) = some (start, limit)) :
    exec (.cwaittTimeout n) s =
      .next ((withdraw s (.core n)).modifyHart n fun h => { h with wait := some (.woken 2 start limit) }) := by
  refine (rfl : _ = execCwaittTimeout n s).trans ?_
  rw [hartAt] at h
  simp only [execCwaittTimeout, h]

theorem cwaittTimeout_waits {s : State} {n : Nat} (h : timedOut (hartAt s n) = none) : exec (.cwaittTimeout n) s = .next s := by
  refine (rfl : _ = execCwaittTimeout n s).trans ?_
  rw [hartAt] at h
  simp only [execCwaittTimeout, h]

theorem homeroomStepsComplete : HomeroomStepsComplete := by
  refine ⟨fun s k a ha hfirst hr => ?_, fun s k n st key thr start l hwake hwait => ?_, fun s n key thr start l hwait hp hreach => ?_,
    fun s n r thr start limit c hwait hlate => ⟨fun hreach => ?_, fun hreach => ?_⟩, fun s n key thr start limit c poll hwait hlate => ?_⟩
  · refine ⟨_, homeroomAdd_performs ha (addWaits_first hfirst hr), ?_, fun p hp => ?_, ?_, ?_, fun hcaw => ?_, fun e he hsame hp h => ?_,
      fun e he hsame hp h => ?_, fun e he hother => ?_⟩
    · rw [State.modifyHart_counter, counterAdd_counter]
      rfl
    · rw [State.modifyHart_mem]
      exact counterAdd_other _ _ _ hp
    · rw [State.modifyHart_adds, counterAdd, setCounter_adds]
    · rw [hartAt_modifyHart, counterAdd, setCounter_hartAt]
      rfl
    · simp [addRetired, hcaw]
    · rw [State.modifyHart_counter] at h
      rw [State.modifyHart_wakes]
      exact setCounter_wakes_reached he hsame hp h
    · rw [State.modifyHart_counter] at h
      rw [State.modifyHart_roll]
      exact setCounter_roll_below he hsame hp h
    · rw [State.modifyHart_roll]
      exact setCounter_roll_other he hother
  · refine ⟨_, (rfl : _ = execCounterWake k s).trans (by simp only [execCounterWake, hwake]; rfl), ?_, ?_, ?_⟩
    · rw [hartAt_modifyHart]
      have same : hartAt { s with wakes := s.wakes.eraseIdx k } n = hartAt s n := rfl
      rw [same, hwait]
    · rw [State.modifyHart_wakes]
    · rw [State.modifyHart_mem]
  · rw [hartAt] at hwait
    refine ⟨_, (rfl : _ = execCounterRepoll n s).trans (by simp only [execCounterRepoll, hwait, verdict_reached hp hreach]; rfl), ?_, ?_⟩
    · rw [hartAt_modifyHart]
    · rw [State.modifyHart_mem]
  · exact cwaittTimeout_waits (by simp [timedOut, hwait, tagDone_eq, (reached_iff ..).2 hreach])
  · have below := eq_false_of_ne_true (mt (reached_iff ..).1 hreach)
    refine ⟨_, cwaittTimeout_ends (start := start) (limit := some (limit, c)) ?_, ?_, ?_⟩
    · simp [timedOut, hwait, tagDone_eq, below, hlate, -BitVec.toNat_sub]
    · rw [hartAt_modifyHart]
    · rw [State.modifyHart_mem]
      rfl
  · refine ⟨_, cwaittTimeout_ends (start := start) (limit := some (limit, c)) ?_, ?_, fun e he => ?_, ?_⟩
    · simp [timedOut, hwait, hlate, -BitVec.toNat_sub]
    · rw [hartAt_modifyHart]
    · rw [State.modifyHart_roll] at he
      simpa using (List.mem_filter.1 he).2
    · rw [State.modifyHart_mem]
      rfl

/-! ## What reaches a hart -/

theorem loadDataReturn_eq {s : State} {k : Nat} {l : PendingLoad} (hl : s.hart.loads[k]? = some l) (err : Bool) :
    exec (.loadDataReturn k err) s = .next (s.withHart
      ({ s.hart with loads := s.hart.loads.eraseIdx k, old := s.hart.old.retire }.fill l.dest l.addr l.data (l.bad || err))) := by
  refine (rfl : _ = execLoadDataReturn k err s).trans ?_
  simp only [execLoadDataReturn, hl]
  rfl

/-- Data or poison for g[r]: the write of the register, and what is added to the poison (R133). -/
theorem Hart.fill_g_eq (h : Hart) {r : Reg} (hr : r ≠ 0) (addr : Word) (x : V512) (bad : Bool) :
    h.fill (.g r) addr x bad = { h.setG r (x.setWidth 64) with
      poison := (h.setG r (x.setWidth 64)).poison ++ if bad then [(.g r, addr)] else [] } := by
  have named : (Dest.g r != Dest.g 0) = true := by simpa using hr
  rw [Hart.fill]
  dsimp only
  rw [BitVec.ofNat_toNat, named, Bool.and_true]
  cases bad
  · rw [if_neg Bool.false_ne_true, if_neg Bool.false_ne_true, List.append_nil]
  · rw [if_pos rfl, if_pos rfl]

/-- A store whose own writes no replica has to apply is done. -/
theorem storeDone_iff (s : State) (p : PendingStore) :
    storeDone s p = true ↔ ∀ w ∈ s.repl, w.core = s.cur → w.num < p.first ∨ p.upto ≤ w.num := by
  simp only [storeDone, Bool.not_eq_true', List.any_eq_false, Bool.and_eq_true, beq_iff_eq, decide_eq_true_eq]
  refine forall₂_congr fun w _ => ⟨fun h hc => ?_, fun h => ?_⟩
  · by_contra hw
    exact h ⟨⟨hc, by omega⟩, by omega⟩
  · rintro ⟨⟨hc, hlow⟩, hhigh⟩
    rcases h hc with h | h <;> omega

theorem storeAcknowledge_eq {s : State} {err : Bool} {k : Nat} {p : PendingStore} (hp : s.hart.stores[k]? = some p) :
    exec (.storeAcknowledge ⟨err, k⟩) s = .next (
      if storeDone s p then
        (if err then (raise · s.cur irqErr) else id)
          (s.withHart { s.hart with stores := s.hart.stores.eraseIdx k, ost := s.hart.ost.retire })
      else s) := by
  refine (rfl : _ = execStoreAcknowledge ⟨err, k⟩ s).trans ?_
  simp only [execStoreAcknowledge, hp]
  cases storeDone s p <;> cases err <;> rfl

/-- An interrupt input of the current core. -/
theorem raise_cur (s : State) (b : Nat) :
    raise s s.cur b = s.withHart { s.hart with irq := { s.hart.irq with pend := s.hart.irq.pend ||| BitVec.ofNat 6 (2 ^ b) } } := by
  rw [raise, State.modifyHart, if_pos rfl]
  rfl

/-- TIMER is set while CYCLE has reached TIMECMP (R126). -/
theorem Hart.tick_pend (h : Hart) (n : Nat) : (h.tick n).irq.pend =
    if h.irq.timecmp.toNat ≤ (h.tick n).irq.cycle.toNat then h.irq.pend ||| 4 else h.irq.pend := rfl

theorem arrivalsComplete : ArrivalsComplete := by
  refine ⟨fun s k r l hl hd hr => ⟨?_, ?_⟩, fun s k p hp hdone => ⟨?_, ?_⟩, fun s e k p hp hbusy => ?_, fun s n => ?_⟩
  · refine ⟨_, loadDataReturn_eq hl false, fun hbad => ?_, ?_⟩
    · rw [hd, Hart.fill_g_eq _ hr]
      simp [State.g, hr, Hart.setG_g]
    · rw [hd, Hart.fill_g_eq _ hr]
      refine ⟨by simp, by simp [Count.retire], fun q hq => ?_, by simp, rfl⟩
      exact State.g_setG_other (s.withHart { s.hart with loads := s.hart.loads.eraseIdx k, old := s.hart.old.retire }) _ hq
  · refine ⟨_, loadDataReturn_eq hl true, ?_⟩
    rw [hd, Hart.fill_g_eq _ hr]
    simp
  · rw [storeAcknowledge_eq hp, if_pos ((storeDone_iff ..).2 hdone)]
    rfl
  · refine ⟨_, storeAcknowledge_eq hp, ?_⟩
    rw [if_pos ((storeDone_iff ..).2 hdone), if_pos rfl, ← State.withHart_cur s, raise_cur]
    refine ⟨?_, rfl⟩
    simp [irqErr]
  · obtain ⟨w, hw, hc, hlow, hhigh⟩ := hbusy
    rw [storeAcknowledge_eq hp, if_neg fun hdone => ?_]
    rcases (storeDone_iff ..).1 hdone w hw hc with h | h <;> omega
  · refine ⟨_, rfl, rfl, rfl, rfl, rfl, fun hle => ?_, fun hlt => ?_⟩
    · rw [Hart.tick_pend, if_pos hle]
      simp
    · rw [Hart.tick_pend, if_neg (Nat.not_le.2 hlt)]

/-- Settles O43: the roll after an add is what its one evaluation leaves; each other step changes one hart. -/
theorem unitStepsReachHarts : Obligations.UnitStepsReachHarts := ⟨homeroomStepsComplete, arrivalsComplete⟩

end Sys2Proof.Machine
end

section
/-! SUPPORT. Words made of fields: what a write of some of the fields leaves bit by bit. -/

namespace Sys2Proof.Machine

/-- A field of a control register: its width, whether the write reaches it, and its value before. -/
structure Field where
  width : Nat
  written : Bool
  old : Nat

/-- The word of the fields, the lowest first. -/
def oldWord : List Field → Nat
  | [] => 0
  | f :: r => f.old % 2 ^ f.width + 2 ^ f.width * oldWord r

/-- The ones of the fields that are written. -/
def writtenMask : List Field → Nat
  | [] => 0
  | f :: r => (if f.written then 2 ^ f.width - 1 else 0) + 2 ^ f.width * writtenMask r

/-- The word after a write of `x`: each written field from `x`, each other one as before. -/
def newWord : List Field → Nat → Nat
  | [], _ => 0
  | f :: r, x => (if f.written then x else f.old) % 2 ^ f.width + 2 ^ f.width * newWord r (x / 2 ^ f.width)

/-- The write reaches exactly the bits of its mask. -/
theorem testBit_newWord (l : List Field) : ∀ x k,
    (newWord l x).testBit k = if (writtenMask l).testBit k then x.testBit k else (oldWord l).testBit k := by
  induction l with
  | nil => intro x k; simp [newWord, writtenMask, oldWord]
  | cons f r ih =>
    intro x k
    have low (y : Nat) : y % 2 ^ f.width < 2 ^ f.width := Nat.mod_lt _ (Nat.two_pow_pos _)
    have ones : (if f.written then 2 ^ f.width - 1 else 0) < 2 ^ f.width := by
      have := Nat.two_pow_pos f.width
      split <;> omega
    rw [newWord, writtenMask, oldWord, Nat.add_comm, Nat.add_comm (ite ..), Nat.add_comm (f.old % _), Nat.testBit_two_pow_mul_add _ (low _),
      Nat.testBit_two_pow_mul_add _ ones, Nat.testBit_two_pow_mul_add _ (low _)]
    by_cases hk : k < f.width
    · cases f.written <;> simp [hk, Nat.testBit_mod_two_pow, Nat.testBit_two_pow_sub_one]
    · rw [if_neg hk, if_neg hk, if_neg hk, ih, Nat.testBit_div_two_pow, Nat.sub_add_cancel (by omega)]

/-- A write of `x` reaches the bits of `mask` of a register and leaves the others. -/
def WritesMasked (mask x old new : Word) : Prop :=
  ∀ b, b < 64 → new.getLsbD b = if mask.getLsbD b then x.getLsbD b else old.getLsbD b

/-- A register that is the word of its fields before the write, and has the written ones from `x` after it. -/
theorem writesMasked_of_fields (l : List Field) {mask x old new : Word} (hmask : mask = BitVec.ofNat 64 (writtenMask l))
    (hold : old = BitVec.ofNat 64 (oldWord l)) (hnew : new = BitVec.ofNat 64 (newWord l x.toNat)) : WritesMasked mask x old new := by
  intro b hb
  rw [hmask, hold, hnew]
  simp only [BitVec.getLsbD_ofNat, hb, decide_true, Bool.true_and, testBit_newWord]
  rfl

/-- A register that is written whole. -/
theorem writesMasked_whole (x old : Word) : WritesMasked 0xFFFFFFFFFFFFFFFF x old x := by
  intro b hb
  have ones : (0xFFFFFFFFFFFFFFFF : Word) = BitVec.allOnes 64 := by decide
  rw [ones, BitVec.getLsbD_allOnes, decide_eq_true hb, if_pos rfl]

/-- A register that the write does not reach. -/
theorem writesMasked_none (x old : Word) : WritesMasked 0 x old old := by
  intro b _
  simp

/-- A number of one bit from a word (R9). -/
theorem ofBool_bit1 (x : Word) (b : Nat) : ofBool (bit1 x b) = x.toNat / 2 ^ b % 2 ^ 1 := by
  rw [ofBool, bit1, Nat.testBit_eq_decide_div_mod_eq, pow_one]
  have := Nat.mod_two_eq_zero_or_one (x.toNat / 2 ^ b)
  simp only [decide_eq_true_eq]
  split <;> omega

/-! ## Each control register as the word of its fields -/

/-- TSW: every mode writes the flags and RM, supervisor and firmware mode GEN and IE as well (R24). -/
def tswFields (t : Tsw) (user : Bool) : List Field :=
  [⟨2, false, t.mode.code⟩, ⟨1, !user, ofBool t.ie⟩, ⟨4, false, 0⟩, ⟨1, true, ofBool t.nx⟩, ⟨1, true, ofBool t.uf⟩, ⟨1, true, ofBool t.of⟩,
    ⟨1, true, ofBool t.dz⟩, ⟨1, true, ofBool t.nv⟩, ⟨2, true, t.rm.code⟩, ⟨7, false, t.rlane.toNat⟩, ⟨1, false, ofBool t.rs⟩,
    ⟨1, false, ofBool t.ap⟩, ⟨1, false, ofBool t.pp⟩, ⟨16, false, t.pfmt.toNat⟩, ⟨24, !user, t.gen.toNat⟩]

@[simp] theorem Mode.code_mod (m : Mode) : m.code % 2 ^ 2 = m.code := by cases m <;> rfl
@[simp] theorem Round.code_mod (r : Round) : r.code % 2 ^ 2 = r.code := by cases r <;> rfl
@[simp] theorem ofBool_mod (b : Bool) : ofBool b % 2 ^ 1 = ofBool b := by cases b <;> rfl

/-- The two bits of RM name a rounding mode (R25). -/
theorem Round.code_ofCode (n : Nat) : (Round.ofCode (n % 2 ^ 2)).code = n % 2 ^ 2 := by
  have : n % 2 ^ 2 < 4 := Nat.mod_lt _ (by decide)
  generalize n % 2 ^ 2 = m at this ⊢
  interval_cases m <;> rfl

theorem tsw_word (t : Tsw) (user : Bool) : t.word = BitVec.ofNat 64 (oldWord (tswFields t user)) := by
  rw [Tsw.word]
  refine congrArg (BitVec.ofNat 64) ?_
  simp only [oldWord, tswFields, Mode.code_mod, Round.code_mod, ofBool_mod, BitVec.toNat_mod_cancel]
  ring

/-- A field of a word cut off at its lower end. -/
theorem toNat_ofNat_bits (x : Word) (lo n : Nat) : (BitVec.ofNat n (bits x lo n)).toNat = x.toNat / 2 ^ lo % 2 ^ n := by
  rw [BitVec.toNat_ofNat, bits, field, Nat.mod_mod]

/-- Fields cut off one after another lie at the sum of their widths. -/
theorem div_two_pow_div (x a b : Nat) : x / 2 ^ a / 2 ^ b = x / 2 ^ (a + b) := by rw [Nat.div_div_eq_div_mul, Nat.pow_add]

theorem tsw_written (t : Tsw) (x : Word) :
    (t.write x).word = BitVec.ofNat 64 (newWord (tswFields t (t.mode == .user)) x.toNat) := by
  have rm (lo : Nat) : (Round.ofCode (bits x lo 2)).code = x.toNat / 2 ^ lo % 2 ^ 2 := Round.code_ofCode _
  rw [Tsw.word]
  refine congrArg (BitVec.ofNat 64) ?_
  by_cases h : t.mode = .user
  · have written : t.write x = t.writeUser x := if_pos h
    simp only [written, newWord, tswFields, Tsw.writeUser, Tsw.ofWord, h, beq_self_eq_true, Bool.not_true, Bool.false_eq_true, if_true, if_false,
      ofBool_bit1, rm, div_two_pow_div, Nat.reduceAdd, Mode.code_mod, ofBool_mod, BitVec.toNat_mod_cancel]
    ring
  · have written : t.write x = { t.writeUser x with gen := (Tsw.ofWord x t.mode).gen, ie := (Tsw.ofWord x t.mode).ie } := if_neg h
    simp only [written, newWord, tswFields, Tsw.writeUser, Tsw.ofWord, beq_eq_false_iff_ne.2 h, Bool.not_false, if_true, if_false,
      Bool.false_eq_true, ofBool_bit1, rm, toNat_ofNat_bits, div_two_pow_div, Nat.reduceAdd, Mode.code_mod, ofBool_mod,
      BitVec.toNat_mod_cancel]
    ring

/-- TSWS: every field (R26). -/
def tswsFields (t : Tsw) : List Field :=
  [⟨2, true, t.mode.code⟩, ⟨1, true, ofBool t.ie⟩, ⟨4, false, 0⟩, ⟨1, true, ofBool t.nx⟩, ⟨1, true, ofBool t.uf⟩, ⟨1, true, ofBool t.of⟩,
    ⟨1, true, ofBool t.dz⟩, ⟨1, true, ofBool t.nv⟩, ⟨2, true, t.rm.code⟩, ⟨7, true, t.rlane.toNat⟩, ⟨1, true, ofBool t.rs⟩,
    ⟨1, true, ofBool t.ap⟩, ⟨1, true, ofBool t.pp⟩, ⟨16, true, t.pfmt.toNat⟩, ⟨24, true, t.gen.toNat⟩]

theorem tsws_word (t : Tsw) : t.word = BitVec.ofNat 64 (oldWord (tswsFields t)) := by
  rw [Tsw.word]
  refine congrArg (BitVec.ofNat 64) ?_
  simp only [oldWord, tswsFields, Mode.code_mod, Round.code_mod, ofBool_mod, BitVec.toNat_mod_cancel]
  ring

/-- The mode of a word that names a legal one (R15, R26). -/
theorem Mode.code_ofCode (x : Word) (m : Mode) (h : x.toNat % 4 ≠ 2) : ((Mode.ofCode (bits x 0 2)).getD m).code = x.toNat % 2 ^ 2 := by
  have low : bits x 0 2 = x.toNat % 2 ^ 2 := by rw [bits, field, pow_zero, Nat.div_one]
  have : x.toNat % 2 ^ 2 < 4 := Nat.mod_lt _ (by decide)
  rw [low]
  rw [show (4 : Nat) = 2 ^ 2 from rfl] at h
  generalize x.toNat % 2 ^ 2 = c at *
  interval_cases c
  · rfl
  · rfl
  · exact absurd rfl h
  · rfl

theorem tsws_written (t : Tsw) (x : Word) (h : x.toNat % 4 ≠ 2) :
    (Tsw.ofWord x ((Mode.ofCode (bits x 0 2)).getD t.mode)).word = BitVec.ofNat 64 (newWord (tswsFields t) x.toNat) := by
  have rm (lo : Nat) : (Round.ofCode (bits x lo 2)).code = x.toNat / 2 ^ lo % 2 ^ 2 := Round.code_ofCode _
  rw [Tsw.word]
  refine congrArg (BitVec.ofNat 64) ?_
  simp only [newWord, tswsFields, Tsw.ofWord, if_true, if_false, Bool.false_eq_true, Mode.code_ofCode x t.mode h, ofBool_bit1, rm,
    toNat_ofNat_bits, div_two_pow_div, Nat.reduceAdd]
  ring

/-- LSTAT (R32). -/
def lstatFields (l : LeaseRegs) : List Field :=
  [⟨5, true, l.left.toNat⟩, ⟨1, true, ofBool l.held⟩, ⟨1, false, 0⟩, ⟨1, true, ofBool l.park⟩, ⟨8, true, l.pctx.toNat⟩]

theorem lstat_word (l : LeaseRegs) : l.lstat = BitVec.ofNat 64 (oldWord (lstatFields l)) := by
  rw [LeaseRegs.lstat]
  refine congrArg (BitVec.ofNat 64) ?_
  simp only [oldWord, lstatFields, ofBool_mod, BitVec.toNat_mod_cancel]
  ring

theorem lstat_written (l : LeaseRegs) (x : Word) :
    ({ l with pctx := BitVec.ofNat 8 (bits x 8 8), park := bit1 x 7, held := bit1 x 5, left := BitVec.ofNat 5 (bits x 0 5) } : LeaseRegs).lstat =
      BitVec.ofNat 64 (newWord (lstatFields l) x.toNat) := by
  rw [LeaseRegs.lstat]
  refine congrArg (BitVec.ofNat 64) ?_
  simp only [newWord, lstatFields, if_true, if_false, Bool.false_eq_true, ofBool_bit1, toNat_ofNat_bits, div_two_pow_div, Nat.reduceAdd,
    pow_zero, Nat.div_one]
  ring

/-- SEQ: CAPT is not written (R34, R180). -/
def seqFields (q : Sequencer) : List Field :=
  [⟨5, true, q.count.toNat⟩, ⟨3, false, 0⟩, ⟨1, false, ofBool q.capt⟩, ⟨1, true, ofBool q.run⟩, ⟨2, false, 0⟩, ⟨4, true, q.pos.toNat⟩]

theorem seq_word (q : Sequencer) : q.word = BitVec.ofNat 64 (oldWord (seqFields q)) := by
  rw [Sequencer.word]
  refine congrArg (BitVec.ofNat 64) ?_
  simp only [oldWord, seqFields, ofBool_mod, BitVec.toNat_mod_cancel]
  ring

theorem seq_written (q : Sequencer) (x : Word) : (q.write x).word = BitVec.ofNat 64 (newWord (seqFields q) x.toNat) := by
  rw [Sequencer.word]
  refine congrArg (BitVec.ofNat 64) ?_
  simp only [newWord, seqFields, Sequencer.write, if_true, if_false, Bool.false_eq_true, ofBool_bit1, ofBool_mod, toNat_ofNat_bits,
    div_two_pow_div, Nat.reduceAdd, pow_zero, Nat.div_one]
  ring

/-- SG of a stream (R35). -/
def geometryFields (st : Stream) : List Field :=
  [⟨1, true, ofBool st.en⟩, ⟨1, false, 0⟩, ⟨1, true, ofBool st.dir⟩, ⟨1, false, 0⟩, ⟨2, true, st.am.code⟩, ⟨1, true, ofBool st.nt⟩,
    ⟨1, true, ofBool st.exh⟩, ⟨24, false, 0⟩, ⟨32, true, st.stride.toNat⟩]

@[simp] theorem AddrMode.code_mod (m : AddrMode) : m.code % 2 ^ 2 = m.code := by cases m <;> rfl

/-- The two bits of AM name a mode (R41). -/
theorem AddrMode.code_ofCode (n : Nat) : (AddrMode.ofCode (n % 2 ^ 2)).code = n % 2 ^ 2 := by
  have : n % 2 ^ 2 < 4 := Nat.mod_lt _ (by decide)
  generalize n % 2 ^ 2 = m at this ⊢
  interval_cases m <;> rfl

theorem geometry_word (st : Stream) : st.geometry = BitVec.ofNat 64 (oldWord (geometryFields st)) := by
  rw [Stream.geometry]
  refine congrArg (BitVec.ofNat 64) ?_
  simp only [oldWord, geometryFields, ofBool_mod, AddrMode.code_mod, BitVec.toNat_mod_cancel]
  ring

theorem geometry_written (st : Stream) (x : Word) :
    (st.writeGeometry x).geometry = BitVec.ofNat 64 (newWord (geometryFields st) x.toNat) := by
  have am (lo : Nat) : (AddrMode.ofCode (bits x lo 2)).code = x.toNat / 2 ^ lo % 2 ^ 2 := AddrMode.code_ofCode _
  rw [Stream.geometry]
  refine congrArg (BitVec.ofNat 64) ?_
  simp only [newWord, geometryFields, Stream.writeGeometry, if_true, if_false, Bool.false_eq_true, ofBool_bit1, am, toNat_ofNat_bits,
    div_two_pow_div, Nat.reduceAdd, pow_zero, Nat.div_one]
  ring

/-- A count register takes the word written (R39). -/
theorem count_written (x : Word) : (Count.ofWord x).word = x := by
  apply BitVec.eq_of_toNat_eq
  have hx := x.isLt
  have low : bits x 0 32 = x.toNat % 2 ^ 32 := by rw [bits, field, pow_zero, Nat.div_one]
  have high : bits x 32 32 = x.toNat / 2 ^ 32 % 2 ^ 32 := rfl
  simp only [Count.ofWord, Count.word, BitVec.toNat_ofNat, low, high]
  omega

/-- A register of `n` bits and zeroes above them. -/
theorem writesMasked_low {n : Nat} (mask x : Word) (old : BitVec n) (hmask : mask = BitVec.ofNat 64 (2 ^ n - 1)) :
    WritesMasked mask x (old.setWidth 64) ((BitVec.ofNat n x.toNat).setWidth 64) := by
  intro b hb
  rw [hmask]
  by_cases hn : b < n <;> simp only [BitVec.getLsbD_ofNat, BitVec.getLsbD_setWidth, Nat.testBit_two_pow_sub_one, hb, hn, decide_true,
    decide_false, Bool.true_and, Bool.false_and, Bool.false_eq_true, if_true, if_false]
  · rfl
  · exact (BitVec.getLsbD_of_ge old b (Nat.not_lt.1 hn)).symm

/-- LCTX (R32). -/
def lctxFields (l : LeaseRegs) : List Field := [⟨8, true, l.ctx.toNat⟩, ⟨8, true, l.hctx.toNat⟩]

theorem lctx_word (l : LeaseRegs) : BitVec.ofNat 64 (l.ctx.toNat + 2 ^ 8 * l.hctx.toNat) = BitVec.ofNat 64 (oldWord (lctxFields l)) := by
  simp only [oldWord, lctxFields, BitVec.toNat_mod_cancel, Nat.mul_zero, Nat.add_zero]

theorem lctx_written (l : LeaseRegs) (x : Word) :
    BitVec.ofNat 64 ((BitVec.ofNat 8 (bits x 0 8)).toNat + 2 ^ 8 * (BitVec.ofNat 8 (bits x 8 8)).toNat) =
      BitVec.ofNat 64 (newWord (lctxFields l) x.toNat) := by
  simp only [newWord, lctxFields, if_true, toNat_ofNat_bits, pow_zero, Nat.div_one, Nat.mul_zero, Nat.add_zero]

/-- TREG (R46). -/
def tregFields (h : Hart) : List Field := [⟨1, true, ofBool h.tregEn⟩, ⟨1, true, ofBool h.tregHalf⟩]

theorem treg_word (h : Hart) : BitVec.ofNat 64 (ofBool h.tregEn + 2 * ofBool h.tregHalf) = BitVec.ofNat 64 (oldWord (tregFields h)) := by
  simp only [oldWord, tregFields, ofBool_mod, Nat.mul_zero, Nat.add_zero]
  rw [pow_one]

theorem treg_written (h : Hart) (x : Word) :
    BitVec.ofNat 64 (ofBool (bit1 x 0) + 2 * ofBool (bit1 x 1)) = BitVec.ofNat 64 (newWord (tregFields h) x.toNat) := by
  simp only [newWord, tregFields, if_true, ofBool_bit1, pow_zero, Nat.div_one, Nat.mul_zero, Nat.add_zero, pow_one]

/-- TCAUSE (R28). -/
def tcauseFields (r : TrapRegs) : List Field := [⟨16, true, r.code.toNat⟩, ⟨47, false, 0⟩, ⟨1, true, ofBool r.int⟩]

theorem tcause_word (r : TrapRegs) : BitVec.ofNat 64 (r.code.toNat + 2 ^ 63 * ofBool r.int) = BitVec.ofNat 64 (oldWord (tcauseFields r)) := by
  refine congrArg (BitVec.ofNat 64) ?_
  simp only [oldWord, tcauseFields, ofBool_mod, BitVec.toNat_mod_cancel]
  ring

theorem tcause_written (r : TrapRegs) (x : Word) :
    BitVec.ofNat 64 ((BitVec.ofNat 16 x.toNat).toNat + 2 ^ 63 * ofBool (bit1 x 63)) = BitVec.ofNat 64 (newWord (tcauseFields r) x.toNat) := by
  refine congrArg (BitVec.ofNat 64) ?_
  simp only [newWord, tcauseFields, if_true, if_false, Bool.false_eq_true, ofBool_bit1, BitVec.toNat_ofNat, div_two_pow_div, Nat.reduceAdd]
  ring

/-- COREID: only CHIP is written, from firmware mode (R30). -/
def coreidFields (n : Nat) (chip : BitVec 12) (fw : Bool) : List Field :=
  [⟨40, false, n % 16 + clusterOf n % 8 * 2 ^ 4 + clusterOf n / 8 * 2 ^ 7 + sectorOf (clusterOf n) * 2 ^ 12 + clusterOf n * 2 ^ 16 + n * 2 ^ 24⟩,
    ⟨12, fw, chip.toNat⟩]

theorem coreId_word {n : Nat} (hn : n < 3072) (chip : BitVec 12) (fw : Bool) :
    coreId n chip = BitVec.ofNat 64 (oldWord (coreidFields n chip fw)) := by
  rw [coreId]
  refine congrArg (BitVec.ofNat 64) ?_
  have low : n % 16 + clusterOf n % 8 * 2 ^ 4 + clusterOf n / 8 * 2 ^ 7 + sectorOf (clusterOf n) * 2 ^ 12 + clusterOf n * 2 ^ 16 + n * 2 ^ 24 <
      2 ^ 40 := by
    simp only [clusterOf, sectorOf]
    omega
  simp only [oldWord, coreidFields, BitVec.toNat_mod_cancel, Nat.mod_eq_of_lt low]
  ring

theorem coreId_written {n : Nat} (hn : n < 3072) (chip : BitVec 12) (fw : Bool) (x : Word) :
    coreId n (if fw then BitVec.ofNat 12 (bits x 40 12) else chip) = BitVec.ofNat 64 (newWord (coreidFields n chip fw) x.toNat) := by
  rw [coreId_word hn _ fw]
  cases fw <;> simp only [oldWord, newWord, coreidFields, if_true, if_false, Bool.false_eq_true, toNat_ofNat_bits, Nat.mod_mod]

/-! ## What MTK writes -/

open Sys2Proof.Claims

theorem controlWrite_cycle (x : Word) (h : Hart) : controlWrite .cycle x h =
    { h with irq := { h.irq with cycle := if h.tsw.mode = .firmware then x else h.irq.cycle } } := by
  by_cases hm : h.tsw.mode = .firmware <;> simp [controlWrite, hm]

theorem controlWrite_coreid (x : Word) (h : Hart) : controlWrite .coreid x h =
    { h with chip := if h.tsw.mode = .firmware then BitVec.ofNat 12 (bits x 40 12) else h.chip } := by
  by_cases hm : h.tsw.mode = .firmware <;> simp [controlWrite, hm]

theorem Tsw.write_mode (t : Tsw) (x : Word) : (t.write x).mode = t.mode := by
  unfold Tsw.write
  split <;> rfl

theorem Tsw.write_completed (t : Tsw) (x : Word) : (t.write x).completed = t.completed.write x := by
  by_cases hm : t.mode = .user
  · have written : t.write x = t.writeUser x := if_pos hm
    have completed : t.completed.write x = t.completed.writeUser x := if_pos hm
    rw [written, completed]
    rfl
  · have written : t.write x = { t.writeUser x with gen := (Tsw.ofWord x t.mode).gen, ie := (Tsw.ofWord x t.mode).ie } := if_neg hm
    have completed : t.completed.write x =
        { t.completed.writeUser x with gen := (Tsw.ofWord x t.mode).gen, ie := (Tsw.ofWord x t.mode).ie } := if_neg hm
    rw [written, completed]
    rfl

/-- A control write leaves what the hart does not hold in a control register. -/
theorem controlWrite_keeps (k : CtlReg) (x : Word) (h : Hart) :
    (controlWrite k x h).pc = h.pc ∧ (controlWrite k x h).g = h.g ∧ (controlWrite k x h).v = h.v ∧ (controlWrite k x h).tsw.mode = h.tsw.mode := by
  cases k with
  | tsw => exact ⟨rfl, rfl, rfl, Tsw.write_mode ..⟩
  | cycle => simp [controlWrite_cycle]
  | coreid => simp [controlWrite_coreid]
  | _ => exact ⟨rfl, rfl, rfl, rfl⟩

/-- Going on touches no control register that MTK writes, but for the pending fields of TSW, which MTK does not write. -/
theorem controlWrite_goesOn (k : CtlReg) (x : Word) (h : Hart) (pc : Word) :
    (controlWrite k x h).goesOn pc = controlWrite k x (h.goesOn pc) := by
  cases k with
  | tsw => simp [controlWrite, Hart.goesOn, Tsw.write_completed]
  | cycle => simp only [controlWrite_cycle]; rfl
  | coreid => simp only [controlWrite_coreid]; rfl
  | _ => rfl

/-- The control registers are the current hart's, and CHIP's beside the core's number (R22, R30). -/
theorem controlRead_withHart {s t : State} (h : s.cur = t.cur) (k : CtlReg) : controlRead s k = controlRead (t.withHart s.hart) k := by
  cases k
  case coreid => simp only [controlRead, State.withHart, h]
  all_goals rfl

theorem tsw_mask (t : Tsw) : writable t.mode .tsw = BitVec.ofNat 64 (writtenMask (tswFields t (t.mode == .user))) := by
  cases hm : t.mode <;> simp [writtenMask, tswFields, writable]

section
variable {s : State} {x : Word} {h : Hart} {k : CtlReg}

/-- MTK writes the bits of its mask: by what each register is made of. -/
theorem controlWrite_writesMasked (hown : ownRule k = false) (halign : k ≠ .tvec ∧ k ≠ .tepc) (hcur : k = .coreid → s.cur < 3072)
    (hmode : k = .tsws → x.toNat % 4 ≠ 2) :
    WritesMasked (writable h.tsw.mode k) x (controlRead (s.withHart h) k) (controlRead (s.withHart (controlWrite k x h)) k) := by
  cases k with
  | tsw => exact writesMasked_of_fields _ (tsw_mask h.tsw) (tsw_word ..) (tsw_written ..)
  | tsws =>
    exact writesMasked_of_fields (tswsFields h.tsws) (by simp [writtenMask, tswsFields, writable]) (tsws_word ..)
      (tsws_written _ _ (hmode rfl))
  | tcause => exact writesMasked_of_fields (tcauseFields h.trap) (by simp [writtenMask, tcauseFields, writable]) (tcause_word ..) (tcause_written ..)
  | imask => exact writesMasked_low _ x h.irq.mask rfl
  | cycle =>
    rw [controlWrite_cycle]
    by_cases hm : h.tsw.mode = .firmware
    · simpa [writable, controlRead, hm, State.withHart] using writesMasked_whole x h.irq.cycle
    · simpa [writable, controlRead, hm, State.withHart] using writesMasked_none x h.irq.cycle
  | spid => exact writesMasked_low _ x h.spid rfl
  | coreid =>
    rw [controlWrite_coreid]
    refine writesMasked_of_fields (coreidFields s.cur h.chip (decide (h.tsw.mode = .firmware))) ?_ (coreId_word (hcur rfl) ..) ?_
    · cases hm : h.tsw.mode <;> simp [writtenMask, coreidFields, writable]
    · rw [← coreId_written (hcur rfl)]
      simp [controlRead, State.withHart]
  | treg => exact writesMasked_of_fields (tregFields h) (by simp [writtenMask, tregFields, writable]) (treg_word ..) (treg_written ..)
  | lstat => exact writesMasked_of_fields (lstatFields h.lease) (by simp [writtenMask, lstatFields, writable]) (lstat_word ..) (lstat_written ..)
  | lctx => exact writesMasked_of_fields (lctxFields h.lease) (by simp [writtenMask, lctxFields, writable]) (lctx_word ..) (lctx_written ..)
  | seq => exact writesMasked_of_fields (seqFields h.seq) (by simp [writtenMask, seqFields, writable]) (seq_word ..) (seq_written ..)
  | sqi n =>
    have read : controlRead (s.withHart (controlWrite (.sqi n) x h)) (.sqi n) = (BitVec.ofNat 32 x.toNat).setWidth 64 :=
      congrArg (BitVec.setWidth 64) (Vector.getElem_set_self _)
    rw [read]
    exact writesMasked_low _ x h.seq.sqi[n] rfl
  | sa j =>
    have read : controlRead (s.withHart (controlWrite (.sa j) x h)) (.sa j) = x := congrArg Stream.sa (Vector.getElem_set_self _)
    rw [read]
    exact writesMasked_whole x _
  | sn j =>
    have read : controlRead (s.withHart (controlWrite (.sn j) x h)) (.sn j) = x := congrArg Stream.sn (Vector.getElem_set_self _)
    rw [read]
    exact writesMasked_whole x _
  | sg j =>
    have read : controlRead (s.withHart (controlWrite (.sg j) x h)) (.sg j) = (h.streams[j].writeGeometry x).geometry :=
      congrArg Stream.geometry (Vector.getElem_set_self _)
    rw [read]
    exact writesMasked_of_fields (geometryFields h.streams[j]) (by simp [writtenMask, geometryFields, writable]) (geometry_word ..)
      (geometry_written ..)
  | old | ost | ocp | otl =>
    simp only [controlRead, controlWrite, State.withHart, count_written]
    exact writesMasked_whole x _
  | tagc i =>
    have read : controlRead (s.withHart (controlWrite (.tagc i) x h)) (.tagc i) = x := Vector.getElem_set_self _
    rw [read]
    exact writesMasked_whole x _
  | tagt i =>
    have read : controlRead (s.withHart (controlWrite (.tagt i) x h)) (.tagt i) = x := Vector.getElem_set_self _
    rw [read]
    exact writesMasked_whole x _
  | ipend | dmem | lvc | trdy => cases hown
  | tvec => exact absurd rfl halign.1
  | tepc => exact absurd rfl halign.2
  | tval | tscr | timecmp | rdv => exact writesMasked_whole x _

/-- A read of one stream after a write of another, or of what the write keeps. -/
theorem onStream_read {α : Type} (g : Stream → α) {f : Stream → Stream} {i j : Fin 8} (h : Hart)
    (hf : i = j → g (f h.streams[j]) = g h.streams[j]) : g (h.onStream j f).streams[i] = g h.streams[i] := by
  by_cases hij : i = j
  · subst hij
    exact (congrArg g (Vector.getElem_set_self _)).trans (hf rfl)
  · exact congrArg g (Vector.getElem_set_ne j.isLt i.isLt fun e => hij (Fin.ext e.symm))

/-- MTK leaves every other control register; TRDY follows from the counts and thresholds of the tags. -/
theorem controlWrite_frame {k' : CtlReg} (hk : k' ≠ k) (ht : k' ≠ .trdy) :
    controlRead (s.withHart (controlWrite k x h)) k' = controlRead (s.withHart h) k' := by
  cases k with
  | cycle =>
    rw [controlWrite_cycle]
    cases k' <;> first | exact absurd rfl hk | rfl
  | coreid =>
    rw [controlWrite_coreid]
    cases k' <;> first | exact absurd rfl hk | rfl
  | sqi n => cases k' with
    | sqi m => exact congrArg (BitVec.setWidth 64) (Vector.getElem_set_ne n.isLt m.isLt fun e => hk (congrArg CtlReg.sqi (Fin.ext e.symm)))
    | _ => rfl
  | sa j => cases k' with
    | sa m => exact onStream_read Stream.sa h fun e => absurd (congrArg CtlReg.sa e) hk
    | sn m => exact onStream_read Stream.sn h fun _ => rfl
    | sg m => exact onStream_read Stream.geometry h fun _ => rfl
    | _ => rfl
  | sn j => cases k' with
    | sa m => exact onStream_read Stream.sa h fun _ => rfl
    | sn m => exact onStream_read Stream.sn h fun e => absurd (congrArg CtlReg.sn e) hk
    | sg m => exact onStream_read Stream.geometry h fun _ => rfl
    | _ => rfl
  | sg j => cases k' with
    | sa m => exact onStream_read Stream.sa h fun _ => rfl
    | sn m => exact onStream_read Stream.sn h fun _ => rfl
    | sg m => exact onStream_read Stream.geometry h fun e => absurd (congrArg CtlReg.sg e) hk
    | _ => rfl
  | tagc i => cases k' with
    | tagc m => exact Vector.getElem_set_ne i.isLt m.isLt fun e => hk (congrArg CtlReg.tagc (Fin.ext e.symm))
    | trdy => exact absurd rfl ht
    | _ => rfl
  | tagt i => cases k' with
    | tagt m => exact Vector.getElem_set_ne i.isLt m.isLt fun e => hk (congrArg CtlReg.tagt (Fin.ext e.symm))
    | trdy => exact absurd rfl ht
    | _ => rfl
  | _ => cases k' <;> first | exact absurd rfl hk | rfl

/-- Bits [1:0] of TVEC and TEPC read zero. -/
theorem aligned4_getLsbD (x : Word) (b : Nat) :
    (aligned4 x).getLsbD b = if (0xFFFFFFFFFFFFFFFC : Word).getLsbD b then x.getLsbD b else false := by
  have mask : ~~~(3 : Word) = 0xFFFFFFFFFFFFFFFC := by decide
  rw [aligned4, mask, BitVec.getLsbD_and]
  cases (0xFFFFFFFFFFFFFFFC : Word).getLsbD b <;> simp

end

/-! ## The effect of MTK -/

/-- The hart after an MTK: what streams and the fetch have read ahead under another address space is discarded (R16, R178). -/
def Hart.mtkEffect (h : Hart) (k : CtlReg) (x : Word) : Hart :=
  let h := h.goesOn (h.pc + 4)
  if k = .spid then { freshStreams (controlWrite k x h) with ahead := none } else controlWrite k x h

theorem discardPark_hart (s : State) (k : CtlReg) (x : Word) : (discardPark s k x).hart = s.hart := by
  unfold discardPark
  split <;> rfl

theorem discardPark_cur (s : State) (k : CtlReg) (x : Word) : (discardPark s k x).cur = s.cur := by
  unfold discardPark
  split <;> rfl

theorem discardPark_mem (s : State) (k : CtlReg) (x : Word) : (discardPark s k x).mem = s.mem := by
  unfold discardPark
  split <;> rfl

theorem discardPark_onHart (s : State) (k : CtlReg) (x : Word) (f : Hart → Hart) :
    (discardPark s k x).onHart f = (discardPark s k x).withHart (f s.hart) := by
  rw [← discardPark_hart s k x]
  rfl

/-- An MTK that is allowed to write. -/
theorem exec_mtk {s : State} {k : CtlReg} {a : Reg} (hready : Ready (.mtk k a) s)
    (hmode : k = .tsws → (s.g a).toNat % 4 ≠ 2 ∧ ((s.g a).toNat % 4 = 3 → s.hart.tsw.mode ≠ .supervisor)) :
    exec (.mtk k a) s = .next ((discardPark s k (s.g a)).withHart (s.hart.mtkEffect k (s.g a))) := by
  have low : bits (s.g a) 0 2 = (s.g a).toNat % 4 := by simp [bits, field]
  have reserved : ¬(k == .tsws && bits (s.g a) 0 2 == 2) = true := by simpa [low] using fun e => (hmode e).1
  have raised : ¬(k == .tsws && bits (s.g a) 0 2 == 3 && s.hart.tsw.mode == .supervisor) = true := by
    simpa [low, and_assoc] using fun e => (hmode e).2
  refine (rfl : _ = execMtk k a s).trans ?_
  rw [execMtk, issue_ready hready, if_neg reserved, if_neg raised, discardPark_onHart]
  have pc := (controlWrite_keeps k (s.g a) s.hart).1
  refine congrArg Host.Outcome.next ?_
  by_cases hk : k = .spid
  · simp only [Hart.mtkEffect, if_pos hk, ← controlWrite_goesOn, ← pc]
    rfl
  · simp only [Hart.mtkEffect, if_neg hk, ← controlWrite_goesOn, ← pc]
    rfl

/-- What an MTK leaves in the control registers: as the write alone. -/
theorem controlRead_mtkEffect (s : State) (k : CtlReg) (x : Word) (k' : CtlReg) :
    controlRead ((discardPark s k x).withHart (s.hart.mtkEffect k x)) k' =
      controlRead (s.withHart (controlWrite k x (s.hart.goesOn (s.hart.pc + 4)))) k' := by
  rw [controlRead_withHart (s := (discardPark s k x).withHart (s.hart.mtkEffect k x)) (t := s) (discardPark_cur s k x)]
  by_cases hk : k = .spid
  · subst hk
    rw [Hart.mtkEffect, if_pos rfl]
    cases k' with
    | sa j | sn j | sg j => simp [controlRead, State.withHart, freshStreams, controlWrite, Hart.goesOn, Stream.geometry]
    | _ => rfl
  · rw [Hart.mtkEffect, if_neg hk]
    rfl

theorem mtkEffect_keeps (h : Hart) (k : CtlReg) (x : Word) : (h.mtkEffect k x).pc = h.pc + 4 ∧ (h.mtkEffect k x).g = h.g ∧
    (h.mtkEffect k x).v = h.v ∧ (h.mtkEffect k x).tsw.mode = h.tsw.mode := by
  by_cases hk : k = .spid
  · rw [Hart.mtkEffect, if_pos hk]
    exact controlWrite_keeps k x (h.goesOn (h.pc + 4))
  · rw [Hart.mtkEffect, if_neg hk]
    exact controlWrite_keeps k x (h.goesOn (h.pc + 4))

theorem controlWritesReachTheirFields : Sys2Proof.Claims.ControlWritesReachTheirFields := by
  intro s k a hready ⟨huser, htsws⟩ hown hcur
  obtain ⟨hpc, hg, hv, hmode⟩ := mtkEffect_keeps s.hart k (s.g a)
  have allowed : k = .tsws → (s.g a).toNat % 4 ≠ 2 ∧ ((s.g a).toNat % 4 = 3 → s.hart.tsw.mode ≠ .supervisor) := fun e =>
    ⟨(htsws e).1, fun h3 => by rw [(htsws e).2 h3]; decide⟩
  refine ⟨_, exec_mtk hready allowed, hpc, hg, hv, discardPark_mem .., hmode, fun b hb => ?_, fun k' hk ht => ?_⟩
  · rw [controlRead_mtkEffect]
    by_cases hv : k = .tvec
    · subst hv
      exact (aligned4_getLsbD ..).trans (by simp [writable])
    by_cases he : k = .tepc
    · subst he
      exact (aligned4_getLsbD ..).trans (by simp [writable])
    have mode : (s.hart.goesOn (s.hart.pc + 4)).tsw.mode = s.hart.tsw.mode := rfl
    have written := controlWrite_writesMasked (s := s) (h := s.hart.goesOn (s.hart.pc + 4)) hown ⟨hv, he⟩ hcur (fun e => (htsws e).1) b hb
    rw [written, mode, bne_iff_ne.2 hv, bne_iff_ne.2 he, Bool.and_true, Bool.and_true]
  · rw [controlRead_mtkEffect, controlWrite_frame hk ht]

/-- Ones clear bits of IPEND, and TIMER stays set while CYCLE has reached TIMECMP (R29). -/
theorem clear_pend_getLsbD (r : IrqRegs) (x : Word) {b : Nat} (hb : b < 6) : (r.clear x).pend.getLsbD b =
    ((r.pend.getLsbD b && !x.getLsbD b) || (b == 2 && decide (r.timecmp.toNat ≤ r.cycle.toNat))) := by
  have cleared : (r.pend &&& ~~~(BitVec.ofNat 6 x.toNat)).getLsbD b = (r.pend.getLsbD b && !x.getLsbD b) := by
    simp only [BitVec.getLsbD_and, BitVec.getLsbD_not, BitVec.getLsbD_ofNat, hb, decide_true, Bool.true_and]
    rfl
  have timer : (4 : BitVec 6).getLsbD b = (b == 2) := by
    interval_cases b <;> rfl
  rw [IrqRegs.clear]
  by_cases due : r.timecmp.toNat ≤ r.cycle.toNat
  · simp only [if_pos due, BitVec.getLsbD_or, cleared, timer, decide_eq_true due, Bool.and_true]
  · simp only [if_neg due, cleared, decide_eq_false due, Bool.and_false, Bool.or_false]

theorem clampLvc_toNat (n : Nat) : (clampLvc n).toNat = min (max n 1) 256 := by
  rw [clampLvc, BitVec.toNat_ofNat, Nat.mod_eq_of_lt (by omega)]

theorem clampLvc_toNat_bounds (n : Nat) : 1 ≤ (clampLvc n).toNat ∧ (clampLvc n).toNat ≤ 256 := by
  rw [clampLvc_toNat]
  omega

theorem controlWritesWithOwnRules : Sys2Proof.Claims.ControlWritesWithOwnRules := by
  intro s k a hready hmode hown
  obtain ⟨hpc, hg, hv, -⟩ := mtkEffect_keeps s.hart k (s.g a)
  have allowed : k = .tsws → (s.g a).toNat % 4 ≠ 2 ∧ ((s.g a).toNat % 4 = 3 → s.hart.tsw.mode ≠ .supervisor) := by
    rintro rfl
    cases hown
  refine ⟨_, exec_mtk hready allowed, hpc, hg, hv, discardPark_mem .., ?_, ?_, ?_, ?_⟩
  · rintro rfl b hb
    exact clear_pend_getLsbD s.hart.irq (s.g a) hb
  · rintro rfl
    exact ⟨rfl, rfl⟩
  · rintro rfl
    refine ⟨clampLvc_toNat_bounds _, clampLvc_toNat_bounds _, fun low high => ?_⟩
    have rows : bits (s.g a) 0 9 = (s.g a).toNat % 512 := by simp [bits, field]
    exact (clampLvc_toNat (bits (s.g a) 0 9)).trans (by omega)
  · rintro rfl
    rw [controlRead_mtkEffect]
    rfl

/-- A user-mode MTK of a register without a W field (R120). -/
theorem gate_barred {s : State} {k : CtlReg} {a : Reg} (hm : s.hart.tsw.mode = .user) (hp : s.hart.tsw.pp = false) (hk : k ≠ .tsw) :
    gate (.mtk k a) s = .trap exPriv (Instr.mtk k a).tval := by
  simp [gate, supervisorOnly, mtkBarred, hm, hp, hk]

theorem forbiddenControlWritesTrap : Sys2Proof.Claims.ForbiddenControlWritesTrap := by
  refine ⟨fun s k a hw hm hp hk => exec_traps_of_gate rfl hw (gate_barred hm hp hk), fun s k a hready hw => ⟨?_, ?_⟩⟩
  · rintro - rfl hx
    have reserved : (CtlReg.tsws == .tsws && bits (s.g a) 0 2 == 2) = true := by simp [bits, field, hx]
    refine ⟨illegal (.mtk .tsws a) s, (rfl : _ = execMtk .tsws a s).trans ?_, trapHere_taken hw ⟨exIllegal, _⟩⟩
    rw [execMtk, issue_ready hready, if_pos reserved]
  · rintro hm rfl hx
    have legal : ¬(CtlReg.tsws == .tsws && bits (s.g a) 0 2 == 2) = true := by simp [bits, field, hx]
    have raised : (CtlReg.tsws == .tsws && bits (s.g a) 0 2 == 3 && s.hart.tsw.mode == .supervisor) = true := by simp [bits, field, hx, hm]
    refine ⟨privileged (.mtk .tsws a) s, (rfl : _ = execMtk .tsws a s).trans ?_, trapHere_taken hw ⟨exPriv, _⟩⟩
    rw [execMtk, issue_ready hready, if_neg legal, if_pos raised]

/-- Settles O15: the fields MTK writes, the registers with rules of their own, and the writes that trap. -/
theorem controlWritesComplete : Obligations.ControlWritesComplete :=
  ⟨controlWritesReachTheirFields, controlWritesWithOwnRules, forbiddenControlWritesTrap⟩

end Sys2Proof.Machine
end

section
/-! SUPPORT. FMT, leases and ownership (R187–R195), and the statement about them. -/

namespace Sys2Proof.Machine

open Sys2Proof.Claims

theorem resumePending_eq_false {s : State} (h : noResume s) : resumePending s = false := by
  simpa [resumePending, noResume] using h

/-- PFMT is bits [25:10] of the word of FMT. -/
theorem prefixBits_eq (aty bty : ElemType) (cty : AccType) (scl : ScaleMode) (sp : Bool) :
    prefixBits aty bty cty scl sp = BitVec.ofNat 16 ((Instr.fmt aty bty cty scl sp).words.headD 0 / 2 ^ 10) := by
  have word : (Instr.fmt aty bty cty scl sp).words.headD 0 = 48 * 2 ^ 26 + aty.code * 2 ^ 22 + bty.code * 2 ^ 18 + cty.code * 2 ^ 14 +
    scl.code * 2 ^ 12 + ofBool sp * 2 ^ 11 := rfl
  rw [word, prefixBits]
  apply BitVec.eq_of_toNat_eq
  simp only [BitVec.toNat_ofNat]
  omega

theorem exec_fmt {s : State} {aty bty : ElemType} {cty : AccType} {scl : ScaleMode} {sp : Bool} (hready : Ready (.fmt aty bty cty scl sp) s) :
    exec (.fmt aty bty cty scl sp) s = .next (s.withHart { s.hart.goesOn (s.hart.pc + 4) with
      tsw := { s.hart.tsw.completed with pp := true, pfmt := prefixBits aty bty cty scl sp } }) :=
  (rfl : _ = execFmt aty bty cty scl sp s).trans (issue_ready hready _)

section
variable {s : State}

theorem exec_mrel (hready : Ready .mrel s) (hres : noResume s) :
    exec .mrel s = .next ((if s.hart.lease.held then endLease s else s).retire 4) := by
  refine (rfl : _ = execMrel s).trans ?_
  rw [execMrel, issue_ready hready, resumePending_eq_false hres, if_neg Bool.false_ne_true]
  split <;> rfl

theorem exec_mvc {a b : Reg} (hready : Ready (.mvc a b) s) (hres : noResume s) : exec (.mvc a b) s = .next (
    if s.hart.lease.held then s.withHart { s.hart.goesOn (s.hart.pc + 4) with
      lease := { s.hart.lease with rows := clampCount (s.g a), cols := clampCount (s.g b) } }
    else trapHere ⟨exLease, (Instr.mvc a b).tval⟩ s) := by
  refine (rfl : _ = execMvc a b s).trans ?_
  rw [execMvc, issue_ready hready, resumePending_eq_false hres, if_neg Bool.false_ne_true]
  cases s.hart.lease.held <;> rfl

theorem exec_mlease_held {d : Reg} (hready : Ready (.mlease d) s) (hheld : s.hart.lease.held = true) :
    exec (.mlease d) s = .next (s.withHart (s.hart.wroteG d 1 (s.hart.pc + 4))) := by
  refine (rfl : _ = execMlease d s).trans ?_
  rw [execMlease, issue_ready hready]
  simp only [if_pos hheld]
  rw [setG_retire]

/-- The lease that a grant gives (R190). -/
theorem exec_mlease_granted {d : Reg} (hready : Ready (.mlease d) s) (hheld : s.hart.lease.held = false)
    (hwait : s.hart.wait = some .leaseGranted) : exec (.mlease d) s = .next (s.withHart { s.hart.wroteG d 0 (s.hart.pc + 4) with
      lease := { s.hart.lease with held := true, left := 16, rows := 256, cols := 256 } }) := by
  refine (rfl : _ = execMlease d s).trans ?_
  rw [execMlease, issue_ready hready]
  simp only [hheld, hwait, if_neg Bool.false_ne_true]
  rw [setG_retire]
  rfl

/-- A lease that ends has no holder left. -/
theorem endLease_holder (s : State) : ((endLease s).array s.cluster).holder ≠ some s.cur ∧
    ((endLease s).array s.cluster).queue = (s.array s.cluster).queue := by
  by_cases h : (s.array s.cluster).holder = some s.cur
  · have array : (endLease s).array s.cluster = { s.array s.cluster with holder := none } := by
      simp only [endLease, if_pos h]
      exact State.array_setArray_same ..
    rw [array]
    exact ⟨nofun, rfl⟩
  · have array : (endLease s).array s.cluster = s.array s.cluster := by
      simp only [endLease, if_neg h]
      rfl
    rw [array]
    exact ⟨h, rfl⟩

theorem clampCount_toNat (x : Word) : (clampCount x).toNat = min (max x.toNat 1) 256 := by
  rw [clampCount, BitVec.toNat_ofNat, Nat.mod_eq_of_lt (by omega)]

end

theorem leaseInstructionsComplete : Sys2Proof.Claims.LeaseInstructionsComplete := by
  refine ⟨fun s aty bty cty scl sp hready => ?_, fun s hready hres hheld => ?_, fun s hready hres hheld => ?_, fun s a b hready hres hheld => ?_,
    fun s d hready hheld => exec_mlease_held hready hheld, fun s d hready hheld hwait => ?_, fun s a b hready hres hheld hwait => ?_⟩
  · rw [exec_fmt hready, prefixBits_eq]
  · rw [exec_mrel hready hres, hheld]
    rfl
  · obtain ⟨hart, mem⟩ := endLease_hart s
    obtain ⟨holder, queue⟩ := endLease_holder s
    refine ⟨_, exec_mrel hready hres, ?_⟩
    rw [if_pos hheld]
    refine ⟨?_, holder, queue, mem⟩
    rw [State.retire_eq, hart]
    rfl
  · refine ⟨clampCount (s.g a), clampCount (s.g b), ?_, clampCount_toNat _, clampCount_toNat _⟩
    rw [exec_mvc hready hres, if_pos hheld]
  · exact ⟨_, exec_mlease_granted hready hheld hwait, rfl, rfl, rfl⟩
  · refine ⟨_, exec_mvc hready hres, ?_⟩
    rw [hheld]
    exact trapHere_taken hwait ⟨exLease, _⟩

/-! ## Ownership -/

/-- The entry of a slot, and with an anchor slot its tile's (R187). -/
theorem setOwner_tiles (a : ArrayUnit) (n : Fin 64) (o : Option Owner) (k : Fin 16) :
    (setOwner a n.val o).tiles[k] = if n.val = 4 * k.val then o else a.tiles[k] := by
  by_cases anchor : n.val % 4 = 0
  · have hn := n.isLt
    simp only [setOwner, if_pos anchor, Fin.getElem_fin, Vector.getElem_setIfInBounds k.isLt]
    exact ite_congr (propext (by omega)) (fun _ => rfl) fun _ => rfl
  · have other : n.val ≠ 4 * k.val := by omega
    simp only [setOwner, if_neg anchor, if_neg other]

theorem setOwner_slots (a : ArrayUnit) (n : Fin 64) (o : Option Owner) : (setOwner a n.val o).slots = a.slots.set n o := by
  ext i hi : 1
  exact (Vector.getElem_setIfInBounds hi).trans (Vector.getElem_set n.isLt hi).symm

section
variable {s : State} {n : Fin 64}

theorem exec_oclaim_free {d : Reg} (hready : Ready (.oclaim d n) s) (hfree : (s.array s.cluster).slots[n] = none) :
    exec (.oclaim d n) s = .next ((s.setArray s.cluster (setOwner (s.array s.cluster) n (some (contextOwner s)))).withHart
      (s.hart.wroteG d 0 (s.hart.pc + 4))) := by
  refine (rfl : _ = execOclaim d n s).trans ?_
  rw [execOclaim, issue_ready hready]
  simp only [hfree]
  rw [setG_retire]
  rfl

theorem exec_oclaim_owned {d : Reg} {o : Owner} (hready : Ready (.oclaim d n) s) (howned : (s.array s.cluster).slots[n] = some o) :
    exec (.oclaim d n) s = .next (s.withHart (s.hart.wroteG d (if o = contextOwner s then 1 else 2) (s.hart.pc + 4))) := by
  refine (rfl : _ = execOclaim d n s).trans ?_
  rw [execOclaim, issue_ready hready]
  simp only [howned]
  rw [setG_retire]
  rfl

theorem ownsSlot_iff : ownsSlot s n.val = true ↔ (s.array s.cluster).slots[n] = some (contextOwner s) := by
  simp [ownsSlot, contextOwner, State.owner, Hart.ctxId]

end

theorem ownershipCompletes : Sys2Proof.Claims.OwnershipCompletes := by
  refine ⟨fun s d n hready hfree => ⟨_, exec_oclaim_free hready hfree, rfl, ?_, fun k => ?_, rfl⟩,
    fun s d n o hready howned => exec_oclaim_owned hready howned, fun s n hready howned hqueue hparks => ?_, fun s n hready hwait howned => ?_⟩
  · exact (congrArg ArrayUnit.slots (State.array_setArray_same ..)).trans (setOwner_slots ..)
  · exact (congrArg (fun a : ArrayUnit => a.tiles[k]) (State.array_setArray_same ..)).trans (setOwner_tiles ..)
  · have owns : ownsSlot s n.val = true := ownsSlot_iff.2 howned
    have parks : ((s.array s.cluster).parks.any fun p => p.cmds.any (namesSlot (s.array s.cluster) n)) = false := by
      simpa using hparks
    have queue : (s.array s.cluster).queue.any (namesSlot (s.array s.cluster) n) = false := by simpa using hqueue
    refine ⟨(s.setArray s.cluster (setOwner (s.array s.cluster) n none)).retire 4, (rfl : _ = execOfree n s).trans ?_, rfl, ?_, fun k => ?_, rfl⟩
    · rw [execOfree, issue_ready hready]
      simp only [owns, parks, queue, Bool.not_true, Bool.or_false, if_neg Bool.false_ne_true]
    · exact (congrArg ArrayUnit.slots (State.array_setArray_same ..)).trans (setOwner_slots ..)
    · exact (congrArg (fun a : ArrayUnit => a.tiles[k]) (State.array_setArray_same ..)).trans (setOwner_tiles ..)
  · have owns : ownsSlot s n.val = false := Bool.eq_false_iff.2 (mt ownsSlot_iff.1 howned)
    refine ⟨trapHere ⟨exAccess, BitVec.ofNat 64 n.val⟩ s, (rfl : _ = execOfree n s).trans ?_, trapHere_taken hwait ⟨exAccess, _⟩⟩
    rw [execOfree, issue_ready hready]
    simp only [owns, Bool.not_false, Bool.true_or, if_true]

/-- Settles O34: the lease instructions and the ownership entries. -/
theorem leasesAndOwnershipComplete : Obligations.LeasesAndOwnershipComplete := ⟨leaseInstructionsComplete, ownershipCompletes⟩

end Sys2Proof.Machine
end

section
/-! SUPPORT. Stream operands (R177, R178) and VNOT, the instruction that shows them. -/

namespace Sys2Proof.Machine

open Sys2Proof.Claims

/-! ## VNOT -/

/-- The lanes of a number make it up again. -/
theorem packLanes_fields (w n : Nat) : ∀ x, packLanes w ((List.range n).map fun i => field x (w * i) w) = x % 2 ^ (w * n) := by
  induction n with
  | zero => intro x; simp [packLanes, Nat.mod_one]
  | succ n ih =>
    intro x
    have rest : ((List.range n).map fun i => field x (w * (i + 1)) w) = (List.range n).map fun i => field (x / 2 ^ w) (w * i) w :=
      List.map_congr_left fun i _ => by rw [field, field, Nat.div_div_eq_div_mul, ← Nat.pow_add, Nat.mul_succ, Nat.add_comm (w * i)]
    rw [List.range_succ_eq_map, List.map_cons, List.map_map, packLanes]
    refine (congrArg (fun l => field x (w * 0) w % 2 ^ w + 2 ^ w * packLanes w l) rest).trans ?_
    rw [ih, field, Nat.mul_zero, pow_zero, Nat.div_one, Nat.mod_mod, Nat.mul_succ, Nat.add_comm (w * n), Nat.pow_add, Nat.mod_mul]

/-- A register from its own lanes. -/
theorem ofLanes_lanes (x : V512) : ofLanes 64 ((List.range 8).map (lane 64 x)) = x := by
  apply BitVec.eq_of_toNat_eq
  rw [ofLanes, BitVec.toNat_ofNat]
  have fields : packLanes 64 ((List.range 8).map (lane 64 x)) = x.toNat := (packLanes_fields 64 8 x.toNat).trans (Nat.mod_eq_of_lt x.isLt)
  rw [fields, Nat.mod_eq_of_lt x.isLt]

/-- A lane of the complement. -/
theorem lane_not (x : V512) {i : Nat} (hi : i < 8) : lane 64 (~~~x) i = 2 ^ 64 - 1 - lane 64 x i := by
  have low : lane 64 x i < 2 ^ 64 := Nat.mod_lt _ (Nat.two_pow_pos _)
  rw [Nat.sub_sub, Nat.add_comm 1]
  apply Nat.eq_of_testBit_eq
  intro k
  rw [Nat.testBit_two_pow_sub_succ low, lane, lane, field, field, Nat.testBit_mod_two_pow, Nat.testBit_mod_two_pow, Nat.testBit_div_two_pow,
    Nat.testBit_div_two_pow]
  by_cases hk : k < 64
  · have not : (~~~x).toNat.testBit (k + 64 * i) = !x.toNat.testBit (k + 64 * i) :=
      (BitVec.getLsbD_not (x := x)).trans (by rw [decide_eq_true (by omega), Bool.true_and]; rfl)
    rw [not, decide_eq_true hk, Bool.true_and, Bool.true_and, Bool.true_and]
  · rw [decide_eq_false hk, Bool.false_and, Bool.false_and]

theorem lane_allOnes {i : Nat} (hi : i < 8) : lane 64 (BitVec.allOnes 512) i = 2 ^ 64 - 1 := by
  have zero : lane 64 (0 : V512) i = 0 := by simp [lane, field]
  have ones : BitVec.allOnes 512 = ~~~(0 : V512) := BitVec.not_zero.symm
  rw [ones, lane_not 0 hi, zero, Nat.sub_zero]

/-- Elements that are all active. -/
theorem perElement_active {w n : Nat} {x : VIn} (h : ∀ i, i < n → x.active i = true) (f : Nat → Nat × Fl) :
    perElement w n x f = ⟨ofLanes w ((List.range n).map fun i => (f i).1), none, ofLanes w ((List.range (512 / w)).map fun _ => 2 ^ w - 1), none,
      Fl.all ((List.range n).map fun i => (f i).2)⟩ := by
  have elements : ((List.range n).map fun i => if x.active i then f i else (if x.mode = .mu then lane w x.d i else 0, Fl.none)) =
      (List.range n).map f := List.map_congr_left fun i hi => if_pos (h i (List.mem_range.1 hi))
  have bits : ((List.range (512 / w)).map fun i => if n ≤ i || x.active i then 2 ^ w - 1 else 0) = (List.range (512 / w)).map fun _ => 2 ^ w - 1 :=
    List.map_congr_left fun i _ => if_pos (by
      rw [Bool.or_eq_true, decide_eq_true_eq]
      exact (Nat.lt_or_ge i n).symm.imp_right (h i))
  rw [perElement, elements, bits, List.map_map, List.map_map]
  rfl

/-- VNOT complements every bit of the register. -/
theorem effVnot_active {x : VIn} (h : ∀ i, i < 8 → x.active i = true) : effVnot .w64 x = ⟨~~~x.a, none, BitVec.allOnes 512, none, Fl.none⟩ := by
  have lanes : ofLanes 64 ((List.range 8).map fun i => 2 ^ 64 - 1 - lane 64 x.a i) = ~~~x.a := by
    rw [← ofLanes_lanes (~~~x.a)]
    exact congrArg (ofLanes 64) (List.map_congr_left fun i hi => (lane_not _ (List.mem_range.1 hi)).symm)
  have bits : ofLanes 64 ((List.range (512 / 64)).map fun _ => 2 ^ 64 - 1) = BitVec.allOnes 512 := by
    rw [← ofLanes_lanes (BitVec.allOnes 512)]
    exact congrArg (ofLanes 64) (List.map_congr_left fun i hi => (lane_allOnes (List.mem_range.1 hi)).symm)
  exact (perElement_active h _).trans (congrArg₂ (fun r b => VRes.mk r none b none Fl.none) lanes bits)

/-- Without a mask every lane is active (R155). -/
theorem effVnot_unmasked (s : State) (a b d : V512) (mode : Masking) (rm : Round) (gv : Word) :
    effVnot .w64 ⟨a, b, d, maskBits s .none, mode, rm, gv⟩ = ⟨~~~a, none, BitVec.allOnes 512, none, Fl.none⟩ :=
  effVnot_active fun i hi => by rw [VIn.active, maskBits, Nat.testBit_two_pow_sub_one, decide_eq_true (by omega)]

/-! ## The streams an instruction names -/

theorem filter_finRange_beq (j : Fin 8) : ((List.finRange 8).filter fun i => i == j) = [j] := by revert j; decide

/-- An instruction whose only bound register is that of stream `j`. -/
theorem namedStreams_single {h : Hart} {u : VUse} {j : Fin 8} (en : h.streams[j].en = true) (named : ∃ r ∈ u.src ++ u.dst, r.val = 24 + j.val)
    (others : ∀ r ∈ u.src ++ u.dst, r.val = 24 + j.val ∨ h.bound r = none) : namedStreams h u = [j] := by
  rw [namedStreams, ← filter_finRange_beq j]
  refine List.filter_congr fun i _ => ?_
  by_cases hij : i = j
  · subst hij
    obtain ⟨r, hr, hv⟩ := named
    have any : ((u.src ++ u.dst).any fun r => r.val == 24 + i.val) = true := List.any_eq_true.2 ⟨r, hr, beq_iff_eq.2 hv⟩
    rw [en, any, beq_self_eq_true]
    rfl
  · rw [beq_eq_false_iff_ne.2 hij, Bool.and_eq_false_iff]
    by_cases hen : h.streams[i].en = true
    · refine .inr (List.any_eq_false.2 fun r hr hv => ?_)
      have hv : r.val = 24 + i.val := beq_iff_eq.1 hv
      cases others r hr with
      | inl hj => exact hij (Fin.ext (by omega))
      | inr free =>
        rw [Hart.bound_of_stream hv, if_pos hen] at free
        exact Option.some_ne_none _ free
    · exact .inl (Bool.eq_false_iff.2 hen)

@[simp] theorem State.raiseFl_none (s : State) : s.raiseFl Fl.none = s := by
  have same : s.hart.tsw.raise Fl.none = s.hart.tsw := by simp [Tsw.raise, Fl.none]
  rw [State.raiseFl, same]

section
variable {s s1 : State} {u : VUse} {vd va : Reg} {pops : List (Fin 8 × V512 × Bool)}

/-- VNOT of register destinations, when its stream operands are there. -/
theorem vecApply_vnot (h : operands s u = (.ok pops none, s1)) : vecApply u ⟨va, va, vd, .none, 0⟩ (effVnot .w64) s =
    .done (advanceStreams (s1.setV vd (~~~(sourceV s1 pops va))) u pops) := by
  rw [vecApply, h]
  simp only [Option.isSome_none, Bool.false_eq_true, if_false, effVnot_unmasked, State.raiseFl_none]
  rfl

/-- VNOT of a write-bound destination. -/
theorem vecApply_vnot_push {j : Fin 8} {l : List Seg} (h : operands s u = (.ok pops (some (j, l)), s1)) :
    vecApply u ⟨va, va, vd, .none, 0⟩ (effVnot .w64) s =
      .done (advanceStreams (countPush (pushBits s1.freeV.2 l (~~~(sourceV s1 pops va)) (BitVec.allOnes 512)) s1.replNext (some (j, l))) u pops) := by
  rw [vecApply, h]
  simp only [Option.isSome_some, if_true, effVnot_unmasked, State.raiseFl_none]
  rfl

end

/-! ## Pops and pushes in the core's own memory -/

theorem v512_access_lo {s : State} {a : Word} (need : Need) (h : a.toNat + 64 ≤ 2 ^ 19) :
    access s .lo 1 need a 64 = (.ok [ownSeg s a.toNat 64], s) :=
  access_local s .lo 1 need a 64 (by decide) (by simpa [formOk] using h) (Nat.mod_one _)

section
variable {s : State} {u : VUse} {j : Fin 8}

/-- A read-bound stream in the core's own memory pops the piece at SA. -/
theorem popPiece_lo (ham : s.hart.streams[j].am = .lo) (hahead : s.hart.streams[j].ahead = [])
    (hfit : s.hart.streams[j].sa.toNat + 64 ≤ 2 ^ 19) (hadds : s.adds = []) :
    popPiece s j = (.ok (BitVec.ofNat 512 (leNat (s.mem.readN (localPlace s.cur s.hart.streams[j].sa.toNat) 64))) false,
      dropMeeting s (segRuns [ownSeg s s.hart.streams[j].sa.toNat 64])) := by
  have ok : [ownSeg s s.hart.streams[j].sa.toNat 64].all Seg.ok = true := rfl
  have piece : s.load [ownSeg s s.hart.streams[j].sa.toNat 64] = s.mem.readN (localPlace s.cur s.hart.streams[j].sa.toNat) 64 := readSegs_own ..
  simp only [popPiece, hahead, ham, v512_access_lo needR hfit, loadWaits_own hadds, Bool.false_eq_true, if_false, ok, if_true, piece]
  rfl

/-- One stream named, with pieces left, bound for reading: one pop. -/
theorem operands_pop {x : V512} {s1 : State} {away : Bool} (named : namedStreams s.hart u = [j]) (hsn : s.hart.streams[j].sn ≠ 0)
    (hdir : s.hart.streams[j].dir = false)
    (hpop : popPiece s j = (.ok x away, s1)) (hdir1 : s1.hart.streams[j].dir = false) : operands s u = (.ok [(j, x, away)] none, s1) := by
  have short : ([j].filter fun i => s.hart.streams[i].sn == 0) = [] := by simpa using hsn
  have pops : ([j].filter fun i => !s.hart.streams[i].dir) = [j] := by simpa using hdir
  have push : ([j].find? fun i => s1.hart.streams[i].dir) = none := by simpa using hdir1
  simp only [operands, named, short, pops, popAll, hpop, push]

/-- One stream named, with pieces left, bound for writing: one push. -/
theorem operands_push (named : namedStreams s.hart u = [j]) (hsn : s.hart.streams[j].sn ≠ 0) (hdir : s.hart.streams[j].dir = true)
    (ham : s.hart.streams[j].am = .lo) (hfit : s.hart.streams[j].sa.toNat + 64 ≤ 2 ^ 19) (hadds : s.adds = []) :
    operands s u = (.ok [] (some (j, [ownSeg s s.hart.streams[j].sa.toNat 64])), s) := by
  have short : ([j].filter fun i => s.hart.streams[i].sn == 0) = [] := by simpa using hsn
  have pops : ([j].filter fun i => !s.hart.streams[i].dir) = [] := by simpa using hdir
  have push : ([j].find? fun i => s.hart.streams[i].dir) = some j := by simpa using hdir
  simp only [operands, named, short, pops, popAll, push, ham, v512_access_lo needW hfit, loadWaits_own hadds, Bool.false_eq_true, if_false]

end

/-! ## A push writes the whole piece -/

theorem mergeByte_ones (o x : Byte) : mergeByte o x 255 = x := by
  have ones : (255 : Byte) = BitVec.allOnes 8 := rfl
  rw [mergeByte, ones, BitVec.not_allOnes, BitVec.and_zero, BitVec.and_allOnes, BitVec.zero_or]

/-- A mask of ones writes every byte. -/
theorem maskedBytes_ones (data : List Byte) : ∀ old : List Byte, old.length = data.length →
    maskedBytes old data (List.replicate data.length 255) = data.map some := by
  induction data with
  | nil => intro old _; simp [maskedBytes]
  | cons x r ih =>
    intro old h
    obtain ⟨o, old, rfl⟩ := List.exists_cons_of_length_eq_add_one h
    exact congrArg₂ List.cons (congrArg some (mergeByte_ones o x)) (ih old (Nat.succ.inj h))

/-- Bytes that are all written are one run. -/
theorem byteRuns_some (r : List Byte) : ∀ (b : Byte) (i : Nat), byteRuns i ((b :: r).map some) = [(i, b :: r)] := by
  induction r with
  | nil => intro b i; rfl
  | cons c r ih =>
    intro b i
    have rest := ih c (i + 1)
    rw [List.map_cons, byteRuns, rest]
    exact if_pos rfl

theorem toBytes_ones (n : Nat) : toBytes n (2 ^ (8 * n) - 1) = List.replicate n 255 := by
  induction n with
  | zero => rfl
  | succ n ih =>
    have pos := Nat.two_pow_pos (8 * n)
    have split : 2 ^ (8 * (n + 1)) = 256 * 2 ^ (8 * n) := by rw [Nat.mul_succ, Nat.pow_add, Nat.mul_comm]
    have low : BitVec.ofNat 8 (2 ^ (8 * (n + 1)) - 1) = 255 := by
      apply BitVec.eq_of_toNat_eq
      have last : (255 : BitVec 8).toNat = 255 := rfl
      rw [split, BitVec.toNat_ofNat, last]
      omega
    have high : (2 ^ (8 * (n + 1)) - 1) / 256 = 2 ^ (8 * n) - 1 := by omega
    rw [toBytes, low, high, ih, List.replicate_succ]

theorem v512Bytes_allOnes : v512Bytes (BitVec.allOnes 512) = List.replicate 64 255 := by
  have width : (512 : Nat) = 8 * 64 := rfl
  rw [v512Bytes, BitVec.toNat_allOnes, width, toBytes_ones]

/-- A push of a whole piece in the core's own memory. -/
theorem pushBits_lo (s : State) (a : Nat) (x : V512) : pushBits s [ownSeg s a 64] x (BitVec.allOnes 512) =
    dropAhead (s.writeKeyed (pteKey 0) (localPlace s.cur a) (v512Bytes x)) := by
  have hlen : (v512Bytes x).length = 64 := toBytes_length ..
  have hold : (s.load [ownSeg s a 64]).length = (v512Bytes x).length := (readSegs_length ..).trans hlen.symm
  have masked := maskedBytes_ones (v512Bytes x) _ hold
  rw [hlen] at masked
  obtain ⟨b, r, hbytes⟩ := List.exists_cons_of_length_eq_add_one hlen
  have runs : byteRuns 0 (maskedBytes (s.load [ownSeg s a 64]) (v512Bytes x) (List.replicate 64 255)) = [(0, v512Bytes x)] := by
    rw [masked, hbytes, byteRuns_some]
  have ok : [ownSeg s a 64].all Seg.ok = true := rfl
  have plain : pteRepl 0 = false := by decide
  have data : (v512Bytes x).take (ownSeg s a 64).len = v512Bytes x := List.take_of_length_le (Nat.le_of_eq hlen)
  have mask : (List.replicate 64 (255 : Byte)).take (ownSeg s a 64).len = List.replicate 64 255 :=
    List.take_of_length_le (Nat.le_of_eq (by simp [ownSeg]))
  have write : writeSeg s s.cur ((ownSeg s a 64).part 0 (v512Bytes x).length) (v512Bytes x) =
      s.writeKeyed (pteKey 0) (localPlace s.cur a) (v512Bytes x) :=
    (if_neg Bool.false_ne_true).trans (if_neg fun h => Bool.false_ne_true (plain.symm.trans h))
  rw [pushBits, errIf, if_pos ok, v512Bytes_allOnes]
  simp only [writeMasked, data, mask, runs, List.foldl_cons, List.foldl_nil, write]

/-! ## Streams that move on -/

theorem namedStreams_congr {h k : Hart} (u : VUse) (same : ∀ i : Fin 8, k.streams[i].en = h.streams[i].en) :
    namedStreams k u = namedStreams h u := by
  simp only [namedStreams, same]

/-- One stream moves on, and no pop of it left the core. -/
theorem advanceStreams_single {s : State} {u : VUse} {j : Fin 8} {pops : List (Fin 8 × V512 × Bool)} (named : namedStreams s.hart u = [j])
    (home : ∀ p ∈ pops, p.2.2 = false) : advanceStreams s u pops = s.withHart (s.hart.onStream j Stream.advance) := by
  have away : pops.filter (fun p => p.2.2) = [] := List.filter_eq_nil_iff.2 fun p hp => by simp [home p hp]
  simp only [advanceStreams, named, away, List.foldl_cons, List.foldl_nil, List.length_nil, BitVec.add_zero]
  rfl

theorem onStream_get (h : Hart) (i j : Fin 8) (f : Stream → Stream) :
    (h.onStream j f).streams[i] = if i = j then f h.streams[j] else h.streams[i] := by
  by_cases hij : i = j
  · subst hij
    rw [if_pos rfl]
    exact Vector.getElem_set_self _
  · rw [if_neg hij]
    exact Vector.getElem_set_ne j.isLt i.isLt fun e => hij (Fin.ext e.symm)

theorem dropMeeting_get (s : State) (l : List (Nat × Nat)) (i : Fin 8) : (dropMeeting s l).hart.streams[i] =
    { s.hart.streams[i] with ahead := s.hart.streams[i].ahead.takeWhile fun p => !meet p.places l } := by
  simp [dropMeeting]

theorem dropAhead_get (s : State) (i : Fin 8) : (dropAhead s).hart.streams[i] = { s.hart.streams[i] with ahead := [] } := by
  simp [dropAhead]

end Sys2Proof.Machine
end

section
/-! SUPPORT. Pops, pushes, exhaustion and the binding of streams (R176–R179), and the statement about them. -/

namespace Sys2Proof.Machine

open Sys2Proof.Claims

/-- VNOT whose operands are there. -/
theorem exec_vnot {s s' : State} {vd va : Reg} (hready : Ready (.vnot vd va .none .w64) s)
    (h : vecApply (vUse (.vnot vd va .none .w64)) ⟨va, va, vd, .none, 0⟩ (effVnot .w64) s = .done s') :
    exec (.vnot vd va .none .w64) s = .next (s'.retire 4) := by
  refine (rfl : _ = vecHart (.vnot vd va .none .w64) ⟨va, va, vd, .none, 0⟩ (effVnot .w64) s).trans ?_
  rw [vecHart, issue_ready hready]
  simp only [h]

/-- A register of a stream is bound to it. -/
theorem bound_isSome {h : Hart} {r : Reg} {j : Fin 8} (hr : r.val = 24 + j.val) (en : h.streams[j].en = true) : (h.bound r).isSome = true := by
  rw [Hart.bound_of_stream hr, if_pos en]
  rfl

/-- A register is bound where the stream of its number is enabled. -/
theorem bound_eq_none_congr {h k : Hart} (same : ∀ i : Fin 8, k.streams[i].en = h.streams[i].en) {r : Reg} (free : h.bound r = none) :
    k.bound r = none := by
  by_cases low : r.val < 24
  · exact if_pos low
  · have hr : r.val = 24 + (⟨r.val - 24, by omega⟩ : Fin 8).val := by simp only; omega
    rw [Hart.bound_of_stream hr] at free ⊢
    rw [same]
    split
    · rename_i en
      rw [if_pos en] at free
      exact absurd free (Option.some_ne_none _)
    · rfl

section
variable {s : State} {vd va : Reg} {j : Fin 8}

theorem vnot_pops (hva : va.val = 24 + j.val) (hvd : s.hart.bound vd = none) (hen : s.hart.streams[j].en = true)
    (hdir : s.hart.streams[j].dir = false) (ham : s.hart.streams[j].am = .lo) (hsn : s.hart.streams[j].sn ≠ 0)
    (hahead : s.hart.streams[j].ahead = []) (hfit : s.hart.streams[j].sa.toNat + 64 ≤ 2 ^ 19) (hadds : s.adds = [])
    (hready : Ready (.vnot vd va .none .w64) s) :
    exec (.vnot vd va .none .w64) s = .next (((dropMeeting s (segRuns [ownSeg s s.hart.streams[j].sa.toNat 64])).withHart
      (((dropMeeting s (segRuns [ownSeg s s.hart.streams[j].sa.toNat 64])).hart.setV vd
        (~~~(BitVec.ofNat 512 (leNat (s.mem.readN (localPlace s.cur s.hart.streams[j].sa.toNat) 64))))).onStream j Stream.advance)).retire 4) := by
  have named : namedStreams s.hart (vUse (.vnot vd va .none .w64)) = [j] := namedStreams_single hen ⟨va, by simp [vUse], hva⟩ fun r hr => by
    rcases List.mem_pair.1 hr with rfl | rfl
    · exact .inl hva
    · exact .inr hvd
  generalize hs1 : dropMeeting s (segRuns [ownSeg s s.hart.streams[j].sa.toNat 64]) = s1
  have same (i : Fin 8) : s1.hart.streams[i].en = s.hart.streams[i].en := by rw [← hs1, dropMeeting_get]
  have dir : s1.hart.streams[j].dir = false := by rw [← hs1, dropMeeting_get]; exact hdir
  have hpop := popPiece_lo ham hahead hfit hadds
  rw [hs1] at hpop
  have ops := operands_pop named hsn hdir hpop dir
  have source : sourceV s1 [(j, BitVec.ofNat 512 (leNat (s.mem.readN (localPlace s.cur s.hart.streams[j].sa.toNat) 64)), false)] va =
      BitVec.ofNat 512 (leNat (s.mem.readN (localPlace s.cur s.hart.streams[j].sa.toNat) 64)) := by
    have found : (j.val + 24 == va.val) = true := by rw [hva, Nat.add_comm, beq_self_eq_true]
    simp only [sourceV, bound_isSome hva ((same j).trans hen), if_true, List.find?_cons, found]
  have named1 := (namedStreams_congr (h := s.hart) (k := (s1.setV vd (~~~(BitVec.ofNat 512 (leNat
    (s.mem.readN (localPlace s.cur s.hart.streams[j].sa.toNat) 64))))).hart) _ same).trans named
  have done := vecApply_vnot (va := va) (vd := vd) ops
  rw [source, advanceStreams_single named1 (by simp)] at done
  exact exec_vnot hready done

theorem vnot_pushes (hvd : vd.val = 24 + j.val) (hva : s.hart.bound va = none) (hen : s.hart.streams[j].en = true)
    (hdir : s.hart.streams[j].dir = true) (ham : s.hart.streams[j].am = .lo) (hsn : s.hart.streams[j].sn ≠ 0)
    (hfit : s.hart.streams[j].sa.toNat + 64 ≤ 2 ^ 19) (hadds : s.adds = []) (hready : Ready (.vnot vd va .none .w64) s) :
    exec (.vnot vd va .none .w64) s = .next (((dropAhead (s.freeV.2.writeKeyed (pteKey 0) (localPlace s.cur s.hart.streams[j].sa.toNat)
      (v512Bytes (~~~(s.v va))))).onHart fun h => h.onStream j Stream.advance).retire 4) := by
  have named : namedStreams s.hart (vUse (.vnot vd va .none .w64)) = [j] := namedStreams_single hen ⟨vd, by simp [vUse], hvd⟩ fun r hr => by
    rcases List.mem_pair.1 hr with rfl | rfl
    · exact .inr hva
    · exact .inl hvd
  have source : sourceV s [] va = s.v va := by simp [sourceV, hva]
  have done := vecApply_vnot_push (va := va) (vd := vd) (operands_push named hsn hdir ham hfit hadds)
  have pushed : pushBits s.freeV.2 [ownSeg s s.hart.streams[j].sa.toNat 64] (~~~(s.v va)) (BitVec.allOnes 512) = _ := pushBits_lo s.freeV.2 ..
  rw [source, pushed] at done
  generalize hs1 : dropAhead (s.freeV.2.writeKeyed (pteKey 0) (localPlace s.cur s.hart.streams[j].sa.toNat) (v512Bytes (~~~(s.v va)))) = s1
  have stream (i : Fin 8) : s1.hart.streams[i] = { s.hart.streams[i] with ahead := [] } := by
    rw [← hs1, dropAhead_get, writeKeyed_hart]
    rfl
  have counted : countPush s1 s.replNext (some (j, [ownSeg s s.hart.streams[j].sa.toNat 64])) = s1 := by
    have stays : leaves s1 s1.hart.streams[j].am [ownSeg s s.hart.streams[j].sa.toNat 64] = false := by rw [stream, ham]; rfl
    simp only [countPush, countStore, stays, Bool.false_eq_true, if_false]
  have named1 : namedStreams s1.hart (vUse (.vnot vd va .none .w64)) = [j] :=
    (namedStreams_congr _ fun i => by rw [stream]).trans named
  have place : localPlace s.freeV.2.cur s.hart.streams[j].sa.toNat = localPlace s.cur s.hart.streams[j].sa.toNat := rfl
  rw [place, hs1, counted, advanceStreams_single named1 (by simp)] at done
  exact exec_vnot hready done

end

/-! ## Exhaustion -/

/-- The streams that an instruction names and that have no piece left, the lowest first. -/
def shortStreams (h : Hart) (u : VUse) : List (Fin 8) := (namedStreams h u).filter fun j => h.streams[j].sn == 0

theorem mem_shortStreams {h : Hart} {u : VUse} {k : Fin 8} :
    k ∈ shortStreams h u ↔ (h.streams[k].en = true ∧ ∃ r ∈ u.src ++ u.dst, r.val = 24 + k.val) ∧ h.streams[k].sn = 0 := by
  simp only [shortStreams, namedStreams, List.mem_filter, List.mem_finRange, true_and, Bool.and_eq_true, List.any_eq_true, beq_iff_eq]

/-- The lowest number of an ascending list stands first. -/
theorem filter_finRange_head (n : Nat) (p : Fin n → Bool) {j : Fin n} (hj : p j = true) (below : ∀ k, k < j → p k = false) :
    ∃ r, (List.finRange n).filter p = j :: r := by
  have found : (List.finRange n).find? p = some j := by
    refine List.find?_eq_some_iff_getElem.2 ⟨hj, j.val, by simp, by simp, fun k hk => ?_⟩
    have lt : k < n := hk.trans j.isLt
    have := below ⟨k, lt⟩ hk
    simpa using this
  rw [← List.head?_filter] at found
  exact List.head?_eq_some_iff.1 found

/-- Some streams changed by `f`, which it makes no difference to apply twice. -/
theorem foldl_onStream {f : Stream → Stream} (idem : ∀ st, f (f st) = f st) (l : List (Fin 8)) : ∀ h : Hart,
    ∃ v : Vector Stream 8, (l.foldl (fun h j => h.onStream j f) h) = { h with streams := v } ∧
      ∀ k : Fin 8, v[k] = if k ∈ l then f h.streams[k] else h.streams[k] := by
  induction l with
  | nil => exact fun h => ⟨h.streams, rfl, fun k => by simp⟩
  | cons j r ih =>
    intro h
    obtain ⟨v, hfold, hv⟩ := ih (h.onStream j f)
    refine ⟨v, hfold, fun k => ?_⟩
    rw [hv, onStream_get]
    by_cases hkj : k = j
    · subst hkj
      simp [idem]
    · simp [hkj]

section
variable {i : Instr} {s s1 : State} {e : Exc} (hready : Ready i s) (h : operands s (vUse i) = (.exc e, s1))
include hready h

theorem vecHart_exc (c : VArgs) (f : VIn → VRes) : vecHart i c f s = .next (trapHere e s1) := by
  rw [vecHart, issue_ready hready]
  simp only [vecApply, h]

theorem vectorLoad_exc (d b : Reg) (am : AddrMode) (oa : Order) (off : BitVec 8) (n : Nat) :
    vectorLoad i d b am oa off n s = .next (trapHere e s1) := by
  rw [vectorLoad, issue_ready hready]
  simp only [h]

theorem vectorStore_exc (r b : Reg) (am : AddrMode) (oa : Order) (off : BitVec 8) (n : Nat) :
    vectorStore i r b am oa off n s = .next (trapHere e s1) := by
  rw [vectorStore, issue_ready hready]
  simp only [h]

theorem laneLoad_exc (d : Reg) (mk : Mask) (et : ElemType) (addr : State → List (Fin 8 × V512 × Bool) → Nat → Word) :
    laneLoad i d mk et addr s = .next (trapHere e s1) := by
  rw [laneLoad, issue_ready hready]
  simp only [h]

theorem laneStore_exc (r : Reg) (mk : Mask) (et : ElemType) (addr : State → List (Fin 8 × V512 × Bool) → Nat → Word) :
    laneStore i r mk et addr s = .next (trapHere e s1) := by
  rw [laneStore, issue_ready hready]
  simp only [h]

theorem vatomic_exc (vd va : Reg) (am : AddrMode) (mk : Mask) (et : ElemType) (f : Nat → Nat → Nat) :
    vatomic i vd va am mk et f s = .next (trapHere e s1) := by
  rw [vatomic, issue_ready hready]
  simp only [h]

end

set_option maxRecDepth 20000 in
/-- An instruction with stream operands looks at them before anything else: what they raise is what it raises (R177). -/
theorem exec_operands_exc {i : Instr} (huse : (vUse i).src ++ (vUse i).dst ≠ []) {s s1 : State} (hready : Ready i s) {e : Exc}
    (h : operands s (vUse i) = (.exc e, s1)) : exec i s = .next (trapHere e s1) := by
  cases i
  case vld128 | vld256 | vld512 => exact vectorLoad_exc hready h ..
  case vst128 | vst256 | vst512 => exact vectorStore_exc hready h ..
  case vlds | vldx => exact laneLoad_exc hready h ..
  case vsts | vstx => exact laneStore_exc hready h ..
  case vatomAdd | vatomAnd | vatomOr | vatomXor | vatomMin | vatomMax | vatomSwp => exact vatomic_exc hready h ..
  all_goals first | exact absurd rfl huse | exact vecHart_exc hready h ..

/-- A stream with no piece left: EXH on every such stream, and STREAM with the lowest (R177). -/
theorem operands_exhausted {s : State} {u : VUse} {j : Fin 8} {r : List (Fin 8)} (h : shortStreams s.hart u = j :: r) :
    operands s u = (.exc ⟨exStream, BitVec.ofNat 64 (24 + j.val)⟩,
      s.onHart fun h => (j :: r).foldl (fun h j => h.onStream j fun st => { st with exh := true }) h) := by
  rw [shortStreams] at h
  simp only [operands, h]

/-- What a trap is taken from is the hart but for its streams. -/
theorem TrapTaken.of_streams {s t : State} {v : Vector Stream 8} {int : Bool} {code : Nat} {tval epc : Word}
    (h : TrapTaken (s.withHart { s.hart with streams := v }) t int code tval epc) : TrapTaken s t int code tval epc :=
  ⟨h.saved, h.trap, h.pc, h.mode, h.enable, h.pending, h.status, h.stopped, h.regs, h.counts, h.tags, h.mem⟩

theorem trapHere_streams {s : State} (hw : s.hart.wait = none) (e : Exc) : (trapHere e s).hart.streams = s.hart.streams := by
  obtain ⟨o, l, hart⟩ := takeTrap_hart hw false e.code e.tval s.hart.pc
  exact (congrArg Hart.streams hart).trans rfl

theorem streamOperandsPopAndPush : StreamOperandsPopAndPush := by
  refine ⟨?_, ?_, ?_⟩
  · intro s vd va j hva hvd hen hdir ham hsn hahead hfit hadds hready
    refine ⟨_, _, vnot_pops hva hvd hen hdir ham hsn hahead hfit hadds hready, rfl, rfl, ?_, ?_, fun k hk => ?_, rfl, rfl, rfl⟩
    · exact (congrArg Stream.sa (onStream_get ..)).trans (by rw [if_pos rfl]; exact congrArg (fun st => st.advance.sa) (dropMeeting_get ..))
    · exact (congrArg Stream.sn (onStream_get ..)).trans (by rw [if_pos rfl]; exact congrArg (fun st => st.advance.sn) (dropMeeting_get ..))
    · refine (congrArg (fun st : Stream => { st with ahead := s.hart.streams[k].ahead }) (onStream_get ..)).trans ?_
      rw [if_neg hk]
      exact congrArg (fun st : Stream => { st with ahead := s.hart.streams[k].ahead }) (dropMeeting_get s _ k)
  · intro s vd va j hvd hva hen hdir ham hsn hfit hadds hready
    have hlen : (v512Bytes (~~~(s.v va))).length = 64 := toBytes_length ..
    have mem : ((s.freeV.2.writeKeyed (pteKey 0) (localPlace s.cur s.hart.streams[j].sa.toNat) (v512Bytes (~~~(s.v va))))).mem =
        s.mem.write (localPlace s.cur s.hart.streams[j].sa.toNat) (v512Bytes (~~~(s.v va))) := writeKeyed_mem ..
    have hart : ((s.freeV.2.writeKeyed (pteKey 0) (localPlace s.cur s.hart.streams[j].sa.toNat) (v512Bytes (~~~(s.v va))))).hart = s.hart :=
      writeKeyed_hart ..
    have regs := congrArg Hart.v hart
    have stream (t : State) (ht : t.hart = s.hart) :
        ((dropAhead t).hart.onStream j Stream.advance).streams[j] = { s.hart.streams[j] with ahead := [] }.advance := by
      rw [onStream_get, if_pos rfl, dropAhead_get, ht]
    refine ⟨_, vnot_pushes hvd hva hen hdir ham hsn hfit hadds hready, regs, ?_, fun p hp => ?_, ?_, ?_⟩
    · refine (congrArg (fun m : Memory => m.readN _ 64) mem).trans ?_
      have back := Memory.readN_write_same s.mem (localPlace s.cur s.hart.streams[j].sa.toNat) (v512Bytes (~~~(s.v va)))
      rwa [hlen] at back
    · refine (congrArg (fun m : Memory => m.read p) mem).trans (Memory.read_write_other ?_)
      rwa [hlen]
    · exact congrArg Stream.sa (stream _ hart)
    · exact congrArg Stream.sn (stream _ hart)
  · intro s i j hprogram hready hw named short hshort hlowest
    have mem (k : Fin 8) : k ∈ shortStreams s.hart (vUse i) ↔ short k := mem_shortStreams
    have huse : (vUse i).src ++ (vUse i).dst ≠ [] := by
      obtain ⟨⟨-, reg, hreg, -⟩, -⟩ := hshort
      exact List.ne_nil_of_mem hreg
    obtain ⟨r, hlist⟩ : ∃ r, shortStreams s.hart (vUse i) = j :: r := by
      rw [shortStreams, namedStreams, List.filter_filter] at mem ⊢
      refine filter_finRange_head 8 _ ?_ fun k hk => ?_
      · have hj := (mem j).2 hshort
        exact (List.mem_filter.1 hj).2
      · exact Bool.eq_false_iff.2 fun hp => hlowest k hk ((mem k).1 (List.mem_filter.2 ⟨List.mem_finRange k, hp⟩))
    obtain ⟨v, hfold, hv⟩ := foldl_onStream (f := fun st => { st with exh := true }) (fun _ => rfl) (j :: r) s.hart
    have hexec := exec_operands_exc huse hready (operands_exhausted hlist)
    have marked : (s.onHart fun h => (j :: r).foldl (fun h j => h.onStream j fun st => { st with exh := true }) h) =
        s.withHart { s.hart with streams := v } := congrArg s.withHart hfold
    rw [marked] at hexec
    have hwait : (s.withHart { s.hart with streams := v }).hart.wait = none := hw
    have streams := trapHere_streams hwait ⟨exStream, BitVec.ofNat 64 (24 + j.val)⟩
    refine ⟨_, hexec, (trapHere_taken hwait ⟨exStream, _⟩).of_streams, fun k => ⟨fun hk => ?_, fun hk => ?_⟩⟩
    · have inList : k ∈ j :: r := hlist ▸ (mem k).2 hk
      simp only [streams]
      exact (hv k).trans (if_pos inList)
    · have notIn : k ∉ j :: r := fun h => hk ((mem k).1 (hlist ▸ h))
      simp only [streams]
      exact (hv k).trans (if_neg notIn)

/-! ## Binding a stream -/

/-- The fields of the second operand of STRCFG as the statement reads them. -/
theorem strcfg_fields (w : Word) :
    bits w 0 32 = w.toNat % 2 ^ 32 ∧ BitVec.ofNat 32 (bits w 32 32) = w.extractLsb' 32 32 ∧
      signedOf 32 (bits w 32 32) = (w.extractLsb' 32 32).toInt := by
  have low : bits w 0 32 = w.toNat % 2 ^ 32 := by rw [bits, field, pow_zero, Nat.div_one]
  have high : BitVec.ofNat 32 (bits w 32 32) = w.extractLsb' 32 32 := by
    apply BitVec.eq_of_toNat_eq
    rw [BitVec.extractLsb'_toNat, BitVec.toNat_ofNat, bits, field, Nat.mod_mod, Nat.shiftRight_eq_div_pow]
  refine ⟨low, high, ?_⟩
  rw [← high, BitVec.toInt_eq_toNat_cond, BitVec.toNat_ofNat]
  rfl

theorem pieceForm_iff (am : AddrMode) (a : Int) : pieceForm am a = true ↔ pieceFits am a := by
  unfold pieceFits
  rw [pieceForm, Bool.and_eq_true, decide_eq_true_eq]
  refine and_congr_right fun h => ?_
  lift a to ℕ using h
  cases am <;> simp only [formOk, Int.toNat_natCast, Bool.and_eq_true, decide_eq_true_eq] <;> omega

theorem streamExc_misaligned {am : AddrMode} {a w : Word} (h : a.toNat % 64 ≠ 0 ∨ (w.extractLsb' 32 32).toInt % 64 ≠ 0) :
    streamExc am a w = some ⟨exMisalign, a⟩ := by
  obtain ⟨-, -, stride⟩ := strcfg_fields w
  have bad : (a.toNat % 64 ≠ 0 || signedOf 32 (bits w 32 32) % 64 ≠ 0) = true := by
    rw [stride, Bool.or_eq_true, decide_eq_true_eq, decide_eq_true_eq]
    exact h
  exact if_pos bad

section
variable {am : AddrMode} {a w : Word} (ha : a.toNat % 64 = 0) (hs : (w.extractLsb' 32 32).toInt % 64 = 0)
include ha hs

theorem streamExc_aligned : streamExc am a w =
    if w.toNat % 2 ^ 32 = 0 then none
    else if pieceForm am a.toNat = false then some ⟨exAddress, a⟩
    else if pieceForm am (a.toNat + ((w.toNat % 2 ^ 32 : Nat) - 1) * (w.extractLsb' 32 32).toInt) = false then
      some ⟨exAddress, wordOfInt (a.toNat + ((w.toNat % 2 ^ 32 : Nat) - 1) * (w.extractLsb' 32 32).toInt)⟩
    else none := by
  obtain ⟨low, -, stride⟩ := strcfg_fields w
  have aligned : ¬(a.toNat % 64 ≠ 0 || signedOf 32 (bits w 32 32) % 64 ≠ 0) = true := by
    rw [stride, Bool.or_eq_true, decide_eq_true_eq, decide_eq_true_eq]
    exact not_or.2 ⟨not_not.2 ha, not_not.2 hs⟩
  rw [streamExc, if_neg aligned, low, stride]
  simp only [Bool.not_eq_true']

end

theorem streamBindingCompletes : StreamBindingCompletes := by
  refine ⟨?_, ?_, ?_, ?_⟩
  · intro s j a b dir nt am hready hrepl n stride first last hfirst hstride hfits
    have ha : (s.g a).toNat % 64 = 0 := by omega
    obtain ⟨low, high, -⟩ := strcfg_fields (s.g b)
    have passes : streamExc am (s.g a) (s.g b) = none := by
      rw [streamExc_aligned ha hstride]
      by_cases hn : n = 0
      · exact if_pos hn
      · obtain ⟨fits, fitsLast⟩ := hfits hn
        have passed := (pieceForm_iff ..).2 fits
        have passedLast := (pieceForm_iff ..).2 fitsLast
        rw [if_neg hn, if_neg (fun e => Bool.false_ne_true (e.symm.trans passed)), if_neg (fun e => Bool.false_ne_true (e.symm.trans passedLast))]
    have none : replPending s = false := by simp [replPending, hrepl]
    refine (rfl : _ = execStrcfg j a b dir am nt s).trans ?_
    rw [execStrcfg, issue_ready hready]
    simp only [passes]
    rw [none, Bool.and_false, if_neg Bool.false_ne_true, low, high]
    rfl
  · intro s j a b dir nt am hready hw ha hs hn hfits
    have fails : streamExc am (s.g a) (s.g b) = some ⟨exAddress, s.g a⟩ := by
      rw [streamExc_aligned ha hs, if_neg hn, if_pos (Bool.eq_false_iff.2 (mt (pieceForm_iff ..).1 hfits))]
    refine ⟨trapHere ⟨exAddress, s.g a⟩ s, (rfl : _ = execStrcfg j a b dir am nt s).trans ?_, trapHere_taken hw ⟨exAddress, _⟩,
      trapHere_streams hw _⟩
    rw [execStrcfg, issue_ready hready]
    simp only [fails]
  · intro s j a b dir nt am hready hw hbad
    refine ⟨trapHere ⟨exMisalign, s.g a⟩ s, (rfl : _ = execStrcfg j a b dir am nt s).trans ?_, trapHere_taken hw ⟨exMisalign, _⟩,
      trapHere_streams hw _⟩
    rw [execStrcfg, issue_ready hready]
    simp only [streamExc_misaligned hbad]
  · intro s j hready hrepl
    have none : replPending s = false := by simp [replPending, hrepl]
    refine (rfl : _ = execStrend j s).trans ?_
    rw [execStrend, issue_ready hready, none, Bool.and_false, if_neg Bool.false_ne_true]
    rfl

/-- Settles O32: the pops and pushes of VNOT, exhaustion, STRCFG and STREND. -/
theorem streamsComplete : Obligations.StreamsComplete := ⟨streamOperandsPopAndPush, streamBindingCompletes⟩

end Sys2Proof.Machine
end

section
/-! SUPPORT. The vector sequencer (R178, R180–R182, R231), and the statement about it. -/

namespace Sys2Proof.Machine

open Sys2Proof.Claims

/-! ## Capture -/

/-- Capture fetches and decodes, and changes only what the stations cache. -/
theorem captureWords_stations (n : Nat) : ∀ (va : Word) (s : State), StationsOnly s (captureWords n va s).2 := by
  induction n with
  | zero => exact fun _ s => .refl s
  | succ n ih =>
    intro va s
    rw [captureWords]
    have fetched := fetchWord_stations s va
    generalize fetchWord s va = r at fetched
    obtain ⟨_ | w, s1⟩ := r
    · exact fetched
    · dsimp only
      cases capturable w with
      | none => exact fetched
      | some i =>
        have rest := fetched.trans (ih (va + 4) s1)
        dsimp only
        generalize captureWords n (va + 4) s1 = q at rest
        obtain ⟨_ | l, s2⟩ := q <;> exact rest

/-- As many words as asked for. -/
theorem captureWords_length (n : Nat) : ∀ {va : Word} {s s1 : State} {l : List (Nat × Instr)}, captureWords n va s = (.ok l, s1) → l.length = n := by
  induction n with
  | zero =>
    intro va s s1 l h
    rw [captureWords] at h
    cases h
    rfl
  | succ n ih =>
    intro va s s1 l h
    rw [captureWords] at h
    generalize fetchWord s va = r at h
    obtain ⟨_ | w, s2⟩ := r
    · cases h
    · dsimp only at h
      cases hc : capturable w with
      | none =>
        rw [hc] at h
        cases h
      | some i =>
        rw [hc] at h
        dsimp only at h
        generalize hq : captureWords n (va + 4) s2 = q at h
        obtain ⟨_ | k, s3⟩ := q
        · cases h
        · cases h
          rw [List.length_cons, ih hq]

theorem captureCompletes : CaptureCompletes := by
  intro s s1 a n l hready hcap hshort
  have only : StationsOnly s s1 := by
    have := captureWords_stations (n.val + 1) (s.hart.pc + 4) s
    rwa [hcap] at this
  have hlen := captureWords_length _ hcap
  have hn := n.isLt
  have hart : s1.hart = s.hart := by rw [only]
  have mem : s1.mem = s.mem := by rw [only]
  have g := congrArg Hart.g hart
  have v := congrArg Hart.v hart
  have short : shortStream s1.hart (l.map Prod.snd) (s1.g a).toNat = none := by
    rw [State.g, hart]
    exact hshort
  refine ⟨_, (rfl : _ = execVloop a n s).trans (issue_ready hready _), ?_⟩
  simp only [hcap, short]
  refine ⟨?_, rfl, rfl, fun k => ?_, ?_, g, v, mem⟩
  · show (BitVec.ofNat 5 l.length).toNat = n.val + 1
    rw [hlen, BitVec.toNat_ofNat, Nat.mod_eq_of_lt (by omega)]
  · refine (Vector.getElem_ofFn k.isLt).trans ?_
    rw [List.getD_eq_getElem?_getD, List.getD_eq_getElem?_getD, List.getElem?_map, List.getElem?_map]
    cases l[k.val]? <;> rfl
  · show s1.hart.pc + BitVec.ofNat 64 (4 + 4 * (n.val + 1)) = _
    rw [hart]
    congr 2
    omega

/-! ## FORK -/

theorem exec_fork {s : State} {mb : Bool} (hready : Ready (.fork mb) s) :
    exec (.fork mb) s = .next (((if mb then forkArray s else s).onHart startLoop).retire 4) :=
  (rfl : _ = execFork mb s).trans (issue_ready hready _)

theorem startLoop_empty {h : Hart} (hc : h.seq.count = 0) : startLoop h = { h with rdv := h.rdv + 1 } := if_pos hc

theorem onHart_startLoop_empty {s : State} (hc : s.hart.seq.count = 0) : s.onHart startLoop = s.onHart fun h => { h with rdv := h.rdv + 1 } :=
  congrArg s.withHart (startLoop_empty hc)

/-- An armed sequencer starts at its first word where no loop stream is short (R181). -/
theorem startLoop_armed {h : Hart} (hc : h.seq.count ≠ 0)
    (long : shortStream h (loopBody { h with seq := { h.seq with pos := 0, run := true, stopped := false } }) 1 = none) :
    startLoop h = { h with seq := { h.seq with pos := 0, run := true, stopped := false } } := by
  have goes : ((shortStream h (loopBody { h with seq := { h.seq with pos := 0, run := true, stopped := false } }) 1).isSome ||
      (!true && (loopStreams h (loopBody { h with seq := { h.seq with pos := 0, run := true, stopped := false } })).isEmpty)) = false := by
    rw [long]
    rfl
  rw [startLoop, if_neg hc]
  exact if_neg (Bool.eq_false_iff.1 goes)

/-! ## A captured VNOT -/

/-- A word of major 0x2B. -/
theorem decodeFirst_2B {w : Nat} {x : Except Reject Instr} (major : field w 26 6 = 0x2B) (decoded : decode2B w = x) : decodeFirst w = .one x := by
  simp only [decodeFirst, major, decodeOne, decoded]
  rfl

section
variable {w : Nat} {vd va : Reg} (hw : encV 43 vd.val va.val 31 0 0 12 = w)
include hw

theorem vnotWord_registers : rd w = vd ∧ ra w = va := by
  have hvd := vd.isLt
  have hva := va.isLt
  rw [encV] at hw
  exact ⟨Fin.ext (by simp only [toReg, field]; omega), Fin.ext (by simp only [toReg, field]; omega)⟩

theorem vnotWord_fields :
    field w 26 6 = 43 ∧ field w 11 5 = 31 ∧ field w 6 5 = 0 ∧ field w 4 2 = 0 ∧ field w 0 2 = 0 ∧ field w 2 2 = 3 := by
  have hvd := vd.isLt
  have hva := va.isLt
  rw [encV] at hw
  simp only [field]
  omega

theorem decode2B_vnot : decode2B w = .ok (.vnot vd va .none .w64) := by
  obtain ⟨d, a⟩ := vnotWord_registers hw
  obtain ⟨-, uop, mask, masking, zero, width⟩ := vnotWord_fields hw
  have unmasked : Mask.ofCode 0 0 = .ok .none := rfl
  simp only [decode2B, uop, masked, mask, masking, unmasked, zero, width, d, a]
  rfl

end

/-- The word of a VNOT without a mask, over 64-bit lanes. -/
theorem decodeFirst_vnot (vd va : Reg) : decodeFirst ((Instr.vnot vd va .none .w64).words.headD 0) = .one (.ok (.vnot vd va .none .w64)) := by
  have encoded : encV 43 vd.val va.val 31 0 0 12 = (Instr.vnot vd va .none .w64).words.headD 0 := rfl
  obtain ⟨major, -⟩ := vnotWord_fields encoded
  exact decodeFirst_2B major (decode2B_vnot encoded)

theorem sequencerIssue_vnot {s : State} {vd va : Reg} (hrun : s.hart.seq.run = true) (hstopped : s.hart.seq.stopped = false)
    (hwalk : s.hart.walk = none) (hloads : s.hart.loads = []) (hpoison : s.hart.poison = []) (hvd : s.hart.bound vd = none)
    (hva : s.hart.bound va = none)
    (hword : (s.hart.seq.sqi[s.hart.seq.pos.toNat]'s.hart.seq.pos.isLt).toNat = (Instr.vnot vd va .none .w64).words.headD 0) :
    exec .sequencerIssue s = .next ((s.setV vd (~~~(s.v va))).onHart stepLoop) := by
  have running : (!s.hart.running || s.hart.walk.isSome) = false := by rw [Hart.running, hrun, hstopped, hwalk]; rfl
  have plain : ∀ r, (r ∈ (vUse (.vnot vd va .none .w64)).src ∨ r ∈ (vUse (.vnot vd va .none .w64)).dst) → s.hart.bound r = none := by
    rintro r (h | h)
    · rwa [List.mem_singleton.1 h]
    · rwa [List.mem_singleton.1 h]
  have done := vecApply_vnot (va := va) (vd := vd) (operands_plain plain)
  have used : misuse s.hart (vUse (.vnot vd va .none .w64)) = false := by
    simp [misuse, vUse, maskReg, Hart.boundDir, hvd, hva]
  have source : sourceV s [] va = s.v va := by simp [sourceV, hva]
  have plain1 : ∀ r, (r ∈ (vUse (.vnot vd va .none .w64)).src ∨ r ∈ (vUse (.vnot vd va .none .w64)).dst) →
      (s.setV vd (~~~(s.v va))).hart.bound r = none := plain
  rw [source, advanceStreams_plain plain1] at done
  refine (rfl : _ = execSequencerIssue s).trans ?_
  rw [execSequencerIssue]
  simp only [running, Bool.false_eq_true, if_false, hword, decodeFirst_vnot, hloads, List.any_nil, used, hpoison, List.find?_nil]
  have entry : captured (.vnot vd va .none .w64) = some (⟨va, va, vd, .none, 0⟩, effVnot .w64) := rfl
  simp only [entry, done]

/-- A loop that has not come to its end moves on by one word. -/
theorem stepLoop_next {h : Hart} (hpos : h.seq.pos.toNat + 1 < h.seq.count.toNat) :
    stepLoop h = { h with seq := { h.seq with pos := h.seq.pos + 1 } } := by
  have next : (h.seq.pos.toNat + 1) % max 1 h.seq.count.toNat = h.seq.pos.toNat + 1 := Nat.mod_eq_of_lt (by omega)
  have pos : BitVec.ofNat 4 (h.seq.pos.toNat + 1) = h.seq.pos + 1 := by
    apply BitVec.eq_of_toNat_eq
    rw [BitVec.toNat_ofNat, BitVec.toNat_add]
    rfl
  rw [stepLoop, next]
  simp only [Nat.add_one_ne_zero, if_false, pos]

/-! ## Reading ahead -/

theorem execStreamReadAhead_lo {s : State} {j : Fin 8} (hen : s.hart.streams[j].en = true) (hdir : s.hart.streams[j].dir = false)
    (ham : s.hart.streams[j].am = .lo) (hahead : s.hart.streams[j].ahead = []) (hsn : s.hart.streams[j].sn ≠ 0)
    (hfit : s.hart.streams[j].sa.toNat + 64 ≤ 2 ^ 19) (hadds : s.adds = []) (hwalk : s.hart.walk = none) :
    exec (.streamReadAhead j) s = .next (s.onHart fun h => h.onStream j fun st => { st with ahead := st.ahead ++
      [⟨v512OfBytes (s.load [ownSeg s s.hart.streams[j].sa.toNat 64]), segRuns [ownSeg s s.hart.streams[j].sa.toNat 64]⟩] }) := by
  have left : 0 < s.hart.streams[j].sn.toNat := by
    rw [Nat.pos_iff_ne_zero]
    exact fun h => hsn (BitVec.eq_of_toNat_eq h)
  have reads : (s.hart.streams[j].en && !s.hart.streams[j].dir && decide (s.hart.streams[j].ahead.length < 4) &&
      decide (s.hart.streams[j].ahead.length < s.hart.streams[j].sn.toNat) && s.hart.walk.isNone) = true := by
    rw [hen, hdir, hahead, hwalk]
    simpa using left
  have first : s.hart.streams[j].sa + BitVec.ofNat 64 s.hart.streams[j].ahead.length * s.hart.streams[j].stride.signExtend 64 =
      s.hart.streams[j].sa := by
    rw [hahead]
    simp
  have passes : (loadWaits s [ownSeg s s.hart.streams[j].sa.toNat 64] || ! [ownSeg s s.hart.streams[j].sa.toNat 64].all Seg.ok ||
      [ownSeg s s.hart.streams[j].sa.toNat 64].any fun g => g.order == .so) = false := by
    have order : (ownSeg s s.hart.streams[j].sa.toNat 64).order = .rc := by simp [ownSeg, Seg.order, pteOrd, bits, field]
    have later : ([ownSeg s s.hart.streams[j].sa.toNat 64].any fun g => g.order == .so) = false := by
      rw [List.any_cons, order]
      rfl
    rw [loadWaits_own hadds, later]
    rfl
  refine (rfl : _ = execStreamReadAhead j s).trans ?_
  rw [execStreamReadAhead]
  have home : BitVec.ofNat 32 (ofBool (leaves s .lo [ownSeg s s.hart.streams[j].sa.toNat 64])) = 0#32 := rfl
  simp only [reads, if_true, first, ham, v512_access_lo needR hfit, passes, Bool.false_eq_true, if_false, home, BitVec.add_zero]
  rfl

theorem sequencerRunsTheLoop : SequencerRunsTheLoop := by
  refine ⟨fun s hready hc => ?_, fun s hready hc => ⟨fun hids => ?_, fun hids => ?_⟩, fun s hready hc hlong => ?_, fun s hend hrepl => ?_,
    fun s vd va hrun hstopped hwalk hloads hpoison hvd hva hword hpos => ?_, fun s j hen hdir ham hahead hsn hfit hadds hwalk => ?_⟩
  · rw [exec_fork hready, if_neg Bool.false_ne_true, onHart_startLoop_empty hc]
    rfl
  · have array : forkArray s = s.onHart fun h => { h with rdv := h.rdv + 1 } := if_pos (List.isEmpty_iff.2 hids)
    have twice : s.hart.rdv + 1 + 1 = s.hart.rdv + 2 := BitVec.add_assoc ..
    have started := onHart_startLoop_empty (s := s.onHart fun h => { h with rdv := h.rdv + 1 }) hc
    rw [exec_fork hready, if_pos rfl, array, started, ← twice]
    rfl
  · have array : forkArray s = s.setArray s.cluster { s.array s.cluster with rdv := (s.array s.cluster).rdv ++ [(s.cur, _)] } :=
      if_neg (mt List.isEmpty_iff.1 hids)
    rw [exec_fork hready, if_pos rfl, array, onHart_startLoop_empty (by exact hc)]
    rfl
  · rw [exec_fork hready, if_neg Bool.false_ne_true, State.onHart, startLoop_armed hc (hlong _ rfl)]
    rfl
  · have due : (decide (0 < s.hart.seq.ending) && !replPending s) = true := by simp [hend, replPending, hrepl]
    exact (rfl : _ = execSequencerLoopEnd s).trans (if_pos due)
  · have hpos' : (s.hart.setV vd (~~~(s.v va))).seq.pos.toNat + 1 < (s.hart.setV vd (~~~(s.v va))).seq.count.toNat := hpos
    refine ⟨_, sequencerIssue_vnot hrun hstopped hwalk hloads hpoison hvd hva hword, ?_⟩
    rw [State.onHart, State.setV, stepLoop_next hpos']
    exact ⟨rfl, rfl, hrun, rfl, rfl, rfl⟩
  · refine ⟨_, execStreamReadAhead_lo hen hdir ham hahead hsn hfit hadds hwalk, rfl, ?_⟩
    have piece : s.load [ownSeg s s.hart.streams[j].sa.toNat 64] = s.mem.readN (localPlace s.cur s.hart.streams[j].sa.toNat) 64 := readSegs_own ..
    have read := onStream_get s.hart j j fun st => { st with ahead := st.ahead ++
      [⟨v512OfBytes (s.load [ownSeg s s.hart.streams[j].sa.toNat 64]), segRuns [ownSeg s s.hart.streams[j].sa.toNat 64]⟩] }
    have runs : segRuns [ownSeg s s.hart.streams[j].sa.toNat 64] = [(localPlace s.cur s.hart.streams[j].sa.toNat, 64)] := rfl
    refine read.trans ?_
    rw [if_pos rfl, hahead, piece, runs, v512OfBytes, List.nil_append]

/-- Settles O33: capture, FORK, the end of a loop, a captured VNOT and reading ahead. -/
theorem sequencerCompletes : Obligations.SequencerCompletes := ⟨captureCompletes, sequencerRunsTheLoop⟩

end Sys2Proof.Machine
end

section
/-! SUPPORT. What a command reads when no page of it fails, and a counterexample to the statement about ELD (R284, R311). -/

namespace Sys2Proof.Machine

open Sys2Proof.Claims

/-! ## Reads of a command -/

/-- With no replicated write on its way a read waits for none. -/
theorem settleBy_empty {s : State} (h : s.repl = []) (f : Nat → Bool) (sec : Nat) (l : List Seg) : settleBy f sec l s = s := by
  simp [settleBy, h]

theorem readParts_ok (sec : Nat) (l : List Seg) : ∀ s : State, (∀ g ∈ l, g.ok = true) → readParts sec l s = (readSegs s sec l, s) := by
  induction l with
  | nil => exact fun _ _ => rfl
  | cons g r ih =>
    intro s h
    rw [readParts, if_pos (h g List.mem_cons_self)]
    simp only [ih s fun x hx => h x (List.mem_cons_of_mem _ hx), readSegs, List.flatMap_cons, List.flatMap_nil, List.append_nil]

/-- A read of pages that report no error gives the bytes as they stand. -/
theorem cmdRead_ok {s : State} {c : Command} {am : AddrMode} {a n : Nat} (hrepl : s.repl = []) (h : ∀ g ∈ cmdSegs s c am a n, g.ok = true) :
    cmdRead s c am a n = (bytesAt s c am a n, s) := by
  have ok : (cmdSegs s c am a n).all Seg.ok = true := List.all_eq_true.2 h
  simp only [cmdRead, settleBy_empty hrepl, readParts_ok _ _ s h, ok, if_true]
  rfl

theorem readRows_ok {s : State} {c : Command} {am : AddrMode} (hrepl : s.repl = []) (l : List (Nat × Nat))
    (h : ∀ r ∈ l, ∀ g ∈ cmdSegs s c am r.1 r.2, g.ok = true) :
    readRows s c am l = (l.map fun r => leNat (bytesAt s c am r.1 r.2), s) := by
  induction l with
  | nil => rfl
  | cons r t ih =>
    simp only [readRows, cmdRead_ok hrepl (h r List.mem_cons_self), ih fun x hx => h x (List.mem_cons_of_mem _ hx), List.map_cons]

/-! ## Zeroes -/

theorem leNat_zeroes (n : Nat) : leNat (List.replicate n 0) = 0 := by
  induction n with
  | zero => rfl
  | succ n ih => rw [List.replicate_succ, leNat, ih]; rfl

theorem toBytes_zero (n : Nat) : toBytes n 0 = List.replicate n 0 := by
  induction n with
  | zero => rfl
  | succ n ih => rw [toBytes, Nat.zero_div, ih, List.replicate_succ]; rfl

/-- A byte of a list that holds one value only. -/
theorem getD_of_forall {α : Type} {l : List α} {x : α} (h : ∀ y ∈ l, y = x) (k : Nat) : l.getD k x = x := by
  rw [List.getD_eq_getElem?_getD]
  cases hk : l[k]? with
  | none => rfl
  | some y => exact h y (List.mem_of_getElem? hk)

/-- The signature of a tile of zeroes without scales. -/
theorem signature_zeroes {rows scales : List Nat} (hrows : ∀ x ∈ rows, x = 0) (hscales : ∀ x ∈ scales, x = 127) :
    signature .i8 rows scales = (List.range 256).map fun _ => (0, 0) := by
  have elem (c : Nat) : sigElem .i8 127 (elemOf .i8 0 c) = 0 := by
    have zero : elemOf .i8 0 c = 0 := by simp [elemOf]
    rw [zero]
    decide +kernel
  have sums : (pairSum f32Add 8 ((List.range 256).map fun _ => 0)).1 = 0 ∧
      (pairSum f32Add 8 (((List.range 256).map fun _ => 0).map f32Abs)).1 = 0 := by decide +kernel
  simp only [signature, getD_of_forall hrows, getD_of_forall hscales, elem, sums]

/-! ## The counterexample

`readable` bounds the place of a segment, but a core of sector 1 reads a replicated page 2⁴⁰ bytes further on (R311). The signature page of this
command stands so that its replica for sector 1 is the storage of slot 0, which the command itself loads before it reads the block word there. -/

/-- A step stream with its signatures in page 1, without scales. -/
def blockStream : StepStream := ⟨0x10000, 0x10000, 0, 0, 0, 0, .i8, .i8, true, false, false, false, 0, 0⟩

/-- ELD of block 0 by core 1024, of sector 1: a tile of its local memory into slot 0. Page 1 is replicated, 2⁴⁰ bytes below slot 0 of cluster 0. -/
def eldCommand : Command := ⟨0, 1024, .eld 0 0 0 0 256 .lo, 256, 256, [⟨1, 2 ^ 58 - 2 ^ 40, true, 64⟩], false⟩

/-- The byte of row 8 of slot 0 that holds bit 63 of the block word. -/
def markPlace : Nat := 2 ^ 58 + 2055

/-- The command is the only one of cluster 0, and memory is zero but for bit 63 of the block word. -/
def markedState : State := { State.reset with
  mem := Memory.write [] markPlace [0x80]
  arrays := [(0, { ArrayUnit.reset with queue := [eldCommand], eph := (Vector.replicate 16 none).set 0 (some blockStream) })] }

/-- The state in which the command has begun. -/
def begunState : State := markedState.setArray 0 { markedState.array 0 with queue := [{ eldCommand with begun := true }] }

/-- The array unit of the state. -/
theorem markedState_array : markedState.array 0 =
    { ArrayUnit.reset with queue := [eldCommand], eph := (Vector.replicate 16 none).set 0 (some blockStream) } := rfl

theorem markedState_begins : Begins markedState 0 0 eldCommand :=
  ⟨by decide, by rw [markedState_array]; exact ⟨rfl, rfl⟩, by simp, by decide +kernel, by decide⟩

/-- The signature and the block word lie in one segment. -/
theorem cmdSegs_signature (s : State) (hdark : s.dark = []) :
    cmdSegs s eldCommand .gl (sigAddr blockStream 0) 2056 = [⟨2 ^ 58 - 2 ^ 40, 2056, true, 64⟩] := by
  have addr : sigAddr blockStream 0 = 65536 := by decide
  have runs : runsOf 65536 2056 = [(65536, 2056)] := by decide
  have tier : tierOk s (2 ^ 58 - 2 ^ 40) 2056 = true := by simp [tierOk, hdark]
  have served : (eldCommand.pages.find? fun p => p.page == 1) = some ⟨1, 2 ^ 58 - 2 ^ 40, true, 64⟩ := rfl
  have page : 65536 / 65536 = 1 := rfl
  simp only [cmdSegs, addr, runs, List.filterMap_cons, List.filterMap_nil, page, served, Option.map_some, Nat.mod_self, Nat.add_zero, tier,
    Bool.true_and]

/-- It is read from slot 0. -/
theorem bytesAt_signature (s : State) (hdark : s.dark = []) :
    bytesAt s eldCommand .gl (sigAddr blockStream 0) 2056 = s.mem.readN (2 ^ 58) 2056 := by
  have sector : sectorOf (clusterOf eldCommand.core) = 1 := by decide
  have place : readPlace 1 ⟨2 ^ 58 - 2 ^ 40, 2056, true, 64⟩ = 2 ^ 58 := by decide
  have far : (s.lines.isEmpty && !s.sealed || decide (2 ^ 52 ≤ 2 ^ 58)) = true := by simp
  rw [bytesAt, cmdSegs_signature s hdark, sector, readSegs, List.flatMap_singleton, place, State.readKeyed, if_pos far]

theorem cmdSegs_tile (s : State) (a : Nat) : cmdSegs s eldCommand .lo a 256 = [⟨localPlace 1024 a, 256, true, 0⟩] := rfl

/-- A row of the tile is read from local memory, below the mark. -/
theorem bytesAt_tile {s : State} (hmem : s.mem = markedState.mem) {a : Nat} (ha : a < 2 ^ 57) :
    bytesAt s eldCommand .lo a 256 = List.replicate 256 0 := by
  have bound : localPlace 1024 a + 256 ≤ markPlace := by unfold localPlace markPlace; omega
  have far : (s.lines.isEmpty && !s.sealed || decide (2 ^ 52 ≤ localPlace 1024 a)) = true := by
    rw [Bool.or_eq_true, decide_eq_true_eq]
    exact .inr (by unfold localPlace; omega)
  have place (sec : Nat) : readPlace sec ⟨localPlace 1024 a, 256, true, 0⟩ = localPlace 1024 a := by
    have plain : pteRepl 0 = false := by decide
    simp only [readPlace, plain, Bool.false_eq_true, if_false]
  have below : s.mem.readN (localPlace 1024 a) 256 = List.replicate 256 0 := by
    rw [hmem]
    exact (Memory.readN_write_other (m := []) (.inl bound)).trans (by simp [Memory.readN])
  rw [bytesAt, cmdSegs_tile, readSegs, List.flatMap_singleton, place, State.readKeyed, if_pos far, below]

/-- The rows of the tile. -/
theorem loadRuns_tile : loadRuns .mld .i8 false 0 256 256 256 = (List.range 256).map fun r => (rowAddr 0 256 r, 256) := by
  simp [loadRuns, elemBytes, ElemType.elemBits, ElemType.laneBits]

theorem rowAddr_tile {r : Nat} (hr : r < 256) : rowAddr 0 256 r < 2 ^ 57 := by
  have base : (0 : Word).toNat = 0 := rfl
  have pitch : (256 : Word).toNat = 256 := rfl
  simp only [rowAddr, BitVec.toNat_add, BitVec.toNat_mul, BitVec.toNat_ofNat, base, pitch]
  omega

theorem markedState_readable :
    readable markedState eldCommand .lo (loadRuns .mld .i8 false 0 256 256 256) ∧
      readable markedState eldCommand .gl [(sigAddr blockStream 0, 2056)] := by
  refine ⟨⟨rfl, fun r hr g hg => ?_⟩, ⟨rfl, fun r hr g hg => ?_⟩⟩
  · rw [loadRuns_tile] at hr
    obtain ⟨k, hk, rfl⟩ := List.mem_map.1 hr
    have low := rowAddr_tile (List.mem_range.1 hk)
    rw [cmdSegs_tile, List.mem_singleton] at hg
    subst hg
    refine ⟨rfl, ?_⟩
    simp only [localPlace]
    omega
  · rw [List.mem_singleton.1 hr, cmdSegs_signature _ rfl, List.mem_singleton] at hg
    subst hg
    decide

/-- The tile is zero. -/
theorem tileRows_zero : ∀ x ∈ tileRows markedState eldCommand blockStream 0 256 .lo, x = 0 := by
  intro x hx
  obtain ⟨r, hr, rfl⟩ := List.mem_map.1 hx
  have bytes : bytesAt markedState eldCommand .lo (rowAddr 0 256 r) (rowBytes .i8) = List.replicate 256 0 :=
    bytesAt_tile rfl (rowAddr_tile (List.mem_range.1 hr))
  have aty : blockStream.aty = .i8 := rfl
  rw [aty, bytes, leNat_zeroes, Nat.zero_mod]

theorem tileScales_none : ∀ x ∈ tileScales markedState eldCommand blockStream 0 256 .lo, x = 127 := by
  intro x hx
  obtain ⟨r, -, hr⟩ := List.mem_flatMap.1 hx
  obtain ⟨b, -, rfl⟩ := List.mem_map.1 hr
  exact if_neg (by decide)

/-- Bytes below the mark are zero. -/
theorem markedState_below {a n : Nat} (h : a + n ≤ markPlace) : markedState.mem.readN a n = List.replicate n 0 :=
  (Memory.readN_write_other (m := []) (.inl h)).trans (by simp [Memory.readN])

/-- A part of a run of bytes. -/
theorem Memory.readN_part (m : Memory) (a : Nat) {n o k : Nat} (h : o + k ≤ n) : ((m.readN a n).drop o).take k = m.readN (a + o) k := by
  apply List.ext_getElem
  · simp only [Memory.readN, List.length_take, List.length_drop, List.length_map, List.length_range]
    omega
  · intro i h1 h2
    simp [Memory.readN, Nat.add_assoc]

/-- The signature kept for the block is zero. -/
theorem sigOf_marked : sigOf (markedState.mem.readN (2 ^ 58) 2056) = (List.range 256).map fun _ => (0, 0) := by
  refine List.map_congr_left fun p hp => ?_
  have hp := List.mem_range.1 hp
  rw [Memory.readN_part _ _ (by omega), Memory.readN_part _ _ (by omega), markedState_below (by unfold markPlace; omega),
    markedState_below (by unfold markPlace; omega), leNat_zeroes]

theorem unchanged_zeroes : unchanged 0 ((List.range 256).map fun _ => (0, 0)) ((List.range 256).map fun _ => (0, 0)) = true := by
  decide +kernel

/-- Bit 63 of the block word is set, the age bound is off, and the tile is as its signature says: the block is not computed. -/
theorem markedState_skips :
    computes blockStream (recWord (markedState.mem.readN (2 ^ 58) 2056) 2048) ((List.range 256).map fun _ => (0, 0))
      (sigOf (markedState.mem.readN (2 ^ 58) 2056)) = false := by
  have word : bit1 (recWord (markedState.mem.readN (2 ^ 58) 2056) 2048) 63 = true := by
    rw [recWord, Memory.readN_part _ _ (by decide)]
    decide +kernel
  have theta : blockStream.theta = 0 := rfl
  have age : (blockStream.f != 0) = false := rfl
  have force : blockStream.force = false := rfl
  rw [computes, sigOf_marked, word, theta, age, force, unchanged_zeroes]
  rfl

/-! ## What the command does -/

theorem readTile_tile {s : State} (hmem : s.mem = markedState.mem) (hrepl : s.repl = []) :
    ∃ rows scales, readTile s eldCommand blockStream 0 256 .lo = (rows, scales, s) ∧ ∀ x ∈ rows, x = 0 := by
  have ok : ∀ r ∈ loadRuns .mld .i8 false 0 256 256 256, ∀ g ∈ cmdSegs s eldCommand .lo r.1 r.2, g.ok = true := by
    intro r hr g hg
    rw [loadRuns_tile] at hr
    obtain ⟨k, -, rfl⟩ := List.mem_map.1 hr
    rw [cmdSegs_tile, List.mem_singleton] at hg
    subst hg
    rfl
  have zero : ∀ x ∈ (loadRuns .mld .i8 false 0 256 256 256).map (fun r => leNat (bytesAt s eldCommand .lo r.1 r.2)), x = 0 := by
    intro x hx
    rw [loadRuns_tile, List.map_map] at hx
    obtain ⟨r, hr, rfl⟩ := List.mem_map.1 hx
    exact (congrArg leNat (bytesAt_tile hmem (rowAddr_tile (List.mem_range.1 hr)))).trans (leNat_zeroes 256)
  have plain : blockStream.scl = false := rfl
  have aty : blockStream.aty = .i8 := rfl
  refine ⟨loadedRows .mld .i8 256 256 ((loadRuns .mld .i8 false 0 256 256 256).map fun r => leNat (bytesAt s eldCommand .lo r.1 r.2)),
    loadedScales .mld false 256 256 [], ?_, ?_⟩
  · rw [readTile, aty, plain, readRows_ok hrepl _ ok, List.drop_length]
    rfl
  · intro x hx
    obtain ⟨r, -, rfl⟩ := List.mem_map.1 hx
    split
    · rfl
    · rw [getD_of_forall zero, Nat.zero_mod]

/-- Writes one after another, as what they leave in memory. -/
theorem foldl_onMem {α : Type} (f : Memory → α → Memory) (l : List α) : ∀ s : State,
    l.foldl (fun s x => { s with mem := f s.mem x }) s = { s with mem := l.foldl f s.mem } := by
  induction l with
  | nil => exact fun _ => rfl
  | cons x r ih => exact fun s => ih _

/-- A byte that zeroes are written over reads zero. -/
theorem read_zeroed {p n : Nat} {place : Nat → Nat} (l : List Nat) : ∀ m : Memory,
    (m.read p = 0 ∨ ∃ r ∈ l, place r ≤ p ∧ p < place r + n) →
    (l.foldl (fun m r => m.write (place r) (toBytes n 0)) m).read p = 0 := by
  induction l with
  | nil => exact fun m h => h.resolve_right nofun
  | cons r t ih =>
    intro m h
    refine ih _ ?_
    by_cases hp : place r ≤ p ∧ p < place r + n
    · rw [Memory.read_write, toBytes_length, if_pos hp, toBytes_zero]
      exact .inl (getD_of_forall (fun y hy => List.eq_of_mem_replicate hy) _)
    · rw [Memory.read_write, toBytes_length, if_neg hp]
      exact h.imp_right fun ⟨q, hq, hin⟩ => ⟨q, (List.mem_cons.1 hq).resolve_left fun e => hp (e ▸ hin), hin⟩

/-- The rows of an 8-bit type in a slot. -/
theorem writeSlotRows_i8 (s : State) (c slot : Nat) (rows : List Nat) : writeSlotRows s c .i8 slot rows =
    { s with mem := (List.range 256).foldl (fun m r => m.write (slotPlace c slot r) (toBytes 256 (rows.getD r 0))) s.mem } :=
  foldl_onMem (fun m r => m.write (slotPlace c slot r) (toBytes 256 (rows.getD r 0))) _ s

/-- The slot is loaded with zeroes, the mark among what they are written over. -/
theorem loadedSlot (s : State) {rows : List Nat} (hrows : ∀ x ∈ rows, x = 0) (scales maps : List Nat) :
    ∃ m : Memory, (slotPair .i8 0).foldl (fun s n' => writeSide 0 n' scales maps s) (writeSlotRows s 0 .i8 0 rows) = { s with mem := m } ∧
      m.read markPlace = 0 := by
  rw [writeSlotRows_i8]
  refine ⟨_, rfl, ?_⟩
  simp only [getD_of_forall hrows]
  rw [Memory.read_write_other (.inl (by unfold bitmapPlace markPlace; omega)),
    Memory.read_write_other (.inl (by unfold scalePlace markPlace; omega))]
  exact read_zeroed _ _ (.inr ⟨8, by decide, by unfold slotPlace markPlace; omega⟩)

theorem setStream_eph (s : State) (c : Nat) (e : Fin 16) (x : Option StepStream) : ((setStream s c e x).array c).eph[e] = x := by
  rw [setStream, State.array_setArray_same]
  exact Vector.getElem_set_self _

theorem addCycles_array (s : State) (c n : Nat) : (addCycles s c n).array c = { s.array c with acyc := (s.array c).acyc + n } :=
  State.array_setArray_same ..

/-- The cycles of a port change no stream. -/
theorem portCycles_eph (s : State) (c : Nat) : ((portCycles s c).array c).eph = (s.array c).eph := by
  have cycles := congrArg ArrayUnit.eph (addCycles_array s.draw.2 c (256 + s.draw.1))
  exact cycles

/-- What the command finds is that the block has no word, so it computes the block. -/
theorem performEld_computes :
    ((performEld begunState 0 eldCommand 0 0 0 0 256 .lo).array 0).eph[(0 : Fin 16)] =
      some { blockStream with map := blockStream.map &&& ~~~(BitVec.ofNat 4096 (2 ^ 0)) } := by
  obtain ⟨rows, scales, hread, hrows⟩ := readTile_tile (s := begunState) rfl rfl
  obtain ⟨m, hslot, hmark⟩ := loadedSlot begunState hrows scales (rows.map (rowBitmaps .mld .i8))
  have bound : (begunState.array 0).eph[(0 : Fin 16)] = some blockStream := by decide +kernel
  have hsig : cmdRead { begunState with mem := m } eldCommand .gl (sigAddr blockStream 0) 2056 =
      (m.readN (2 ^ 58) 2056, { begunState with mem := m }) := by
    rw [cmdRead_ok rfl, bytesAt_signature _ rfl]
    rw [cmdSegs_signature _ rfl]
    simp
  have word : bit1 (recWord (m.readN (2 ^ 58) 2056) 2048) 63 = false := by
    have byte : (m.readN (2 ^ 58 + 2048) 8).getD (63 / 8) 0 = m.read markPlace := rfl
    rw [recWord, Memory.readN_part _ _ (by decide), bit1, BitVec.toNat_ofNat, Nat.testBit_mod_two_pow, testBit_leNat, byte, hmark]
    rfl
  have comp (new old : List (Nat × Nat)) : computes blockStream (recWord (m.readN (2 ^ 58) 2056) 2048) new old = true := by
    rw [computes, word]
    rfl
  have aty : blockStream.aty = .i8 := rfl
  rw [performEld, bound]
  simp only [hread, aty, hslot, hsig, comp, if_true]
  exact setStream_eph ..

/-- Refutes O36: ELD reads its block word after it has loaded its slot, and the page of the word may be one whose replica for the core's sector is
that slot: the statement's hypotheses bound the place of a segment, not that of the replica read. -/
theorem not_arrayCommandsBeginAndRetire : ¬ Obligations.ArrayCommandsBeginAndRetire := by
  rintro ⟨-, -, -, -, eld, -⟩
  obtain ⟨readTile, readBlock⟩ := markedState_readable
  have bound : (markedState.array 0).eph[(0 : Fin 16)] = some blockStream := by decide +kernel
  have skips : computes blockStream (recWord (bytesAt markedState eldCommand .gl (sigAddr blockStream 0) 2056) 2048)
      (signature blockStream.aty (tileRows markedState eldCommand blockStream 0 256 .lo) (tileScales markedState eldCommand blockStream 0 256 .lo))
      (sigOf (bytesAt markedState eldCommand .gl (sigAddr blockStream 0) 2056)) = false := by
    have tile := signature_zeroes tileRows_zero tileScales_none
    have aty : blockStream.aty = .i8 := rfl
    rw [bytesAt_signature _ rfl, aty, tile]
    exact markedState_skips
  obtain ⟨u, m, hexec, -, -, hstream, hmap, -⟩ := eld markedState 0 0 eldCommand 0 blockStream 0 0 0 256 .lo markedState_begins rfl bound (by decide)
    rfl (by decide) readTile readBlock (by rw [skips]; exact nofun)
  have performed : exec (.arrayCommandBegin 0 0) markedState = .next (portCycles (performEld begunState 0 eldCommand 0 0 0 0 256 .lo) 0) := rfl
  have state := Host.Outcome.next.inj (performed.symm.trans hexec)
  rw [← state, portCycles_eph, performEld_computes] at hstream
  have cleared : blockStream.map &&& ~~~(BitVec.ofNat 4096 (2 ^ 0)) = m := congrArg StepStream.map (Option.some.inj hstream)
  have bit := hmap 0 (by decide)
  rw [skips, ← cleared, BitVec.getLsbD_and] at bit
  have empty : blockStream.map = 0#4096 := rfl
  rw [empty, BitVec.getLsbD_zero] at bit
  exact Bool.false_ne_true bit

end Sys2Proof.Machine
end

section
/-! SUPPORT. Words and their fields (R57–R70): what the decoder reads in a field, and for each layout of the encoder which fields its word holds, in
the decoder's own terms. Both directions between words and instructions rest on these equivalences. -/

namespace Sys2Proof

/-! ## Fields as operands -/

theorem field_lt (w lo n : Nat) : field w lo n < 2 ^ n := Nat.mod_lt _ (by positivity)

theorem toReg_field_eq_iff {w lo : Nat} {r : Reg} : toReg (field w lo 5) = r ↔ field w lo 5 = r.val := by
  rw [Fin.ext_iff, toReg]
  exact (Nat.mod_eq_of_lt (field_lt w lo 5)).congr_left

theorem toFin_eq_iff {n k : Nat} (h : 0 < k) (hn : n < k) {x : Fin k} : toFin k n h = x ↔ n = x.val := by
  rw [Fin.ext_iff, toFin]
  exact (Nat.mod_eq_of_lt hn).congr_left

theorem fin8_field_eq_iff {w lo : Nat} {x : Fin 8} : fin8 (field w lo 3) = x ↔ field w lo 3 = x.val := toFin_eq_iff _ (field_lt ..)
theorem fin16_field_eq_iff {w lo : Nat} {x : Fin 16} : fin16 (field w lo 4) = x ↔ field w lo 4 = x.val := toFin_eq_iff _ (field_lt ..)
theorem fin32_field_eq_iff {w lo : Nat} {x : Fin 32} : fin32 (field w lo 5) = x ↔ field w lo 5 = x.val := toFin_eq_iff _ (field_lt ..)
theorem fin64_field_eq_iff {w lo : Nat} {x : Fin 64} : fin64 (field w lo 6) = x ↔ field w lo 6 = x.val := toFin_eq_iff _ (field_lt ..)

theorem flag_eq_iff {w b : Nat} {x : Bool} : flag w b = x ↔ field w b 1 = bit x := by
  have := field_lt w b 1
  cases x <;> simp [bit]
  omega

theorem ofNat_field_eq_iff {w lo n : Nat} {x : BitVec n} : BitVec.ofNat n (field w lo n) = x ↔ field w lo n = x.toNat := by
  rw [← BitVec.toNat_inj, BitVec.toNat_ofNat, Nat.mod_eq_of_lt (field_lt w lo n)]

/-- A decoding of the `n` numbers below `k` that undoes `code` is its inverse. -/
theorem ofCode_eq_iff {α : Type} {k : Nat} {ofCode : Nat → α} {code : α → Nat} (left : ∀ x, ofCode (code x) = x)
    (right : ∀ n < k, code (ofCode n) = n) {n : Nat} (hn : n < k) {x : α} : ofCode n = x ↔ n = code x :=
  ⟨fun h => h ▸ (right n hn).symm, fun h => h ▸ left x⟩

theorem AddrMode.ofCode_field_eq_iff {w lo : Nat} {x : AddrMode} : AddrMode.ofCode (field w lo 2) = x ↔ field w lo 2 = x.code :=
  ofCode_eq_iff (fun x => by cases x <;> rfl) (by decide) (field_lt w lo 2)

theorem Order.ofCode_field_eq_iff {w lo : Nat} {x : Order} : Order.ofCode (field w lo 2) = x ↔ field w lo 2 = x.code :=
  ofCode_eq_iff (fun x => by cases x <;> rfl) (by decide) (field_lt w lo 2)

theorem LaneWidth.ofCode_field_eq_iff {w lo : Nat} {x : LaneWidth} : LaneWidth.ofCode (field w lo 2) = x ↔ field w lo 2 = x.code :=
  ofCode_eq_iff (fun x => by cases x <;> rfl) (by decide) (field_lt w lo 2)

theorem ScaleMode.ofCode_field_eq_iff {w lo : Nat} {x : ScaleMode} : ScaleMode.ofCode (field w lo 2) = x ↔ field w lo 2 = x.code :=
  ofCode_eq_iff (fun x => by cases x <;> rfl) (by decide) (field_lt w lo 2)

theorem ElemType.ofCode_eq_iff {n : Nat} (hn : n < 16) {x : ElemType} : ElemType.ofCode n = x ↔ n = x.code :=
  Sys2Proof.ofCode_eq_iff (fun x => by cases x <;> rfl) (by decide) hn

theorem ElemType.ofCode_field_eq_iff {w lo : Nat} {x : ElemType} : ElemType.ofCode (field w lo 4) = x ↔ field w lo 4 = x.code :=
  ElemType.ofCode_eq_iff (field_lt w lo 4)

/-! ### Codes of some numbers only -/

/-- A decoding of some numbers that undoes `code`, and that takes no number but a code. -/
theorem ofCode_eq_some_iff {α : Type} {ofCode : Nat → Option α} {code : α → Nat} (left : ∀ x, ofCode (code x) = some x)
    (right : ∀ n x, ofCode n = some x → n = code x) {n : Nat} {x : α} : ofCode n = some x ↔ n = code x :=
  ⟨right n x, fun h => h ▸ left x⟩

theorem Scope.ofCode_eq_some_iff {n : Nat} {x : Scope} : Scope.ofCode n = some x ↔ n = x.code :=
  Sys2Proof.ofCode_eq_some_iff (fun x => by cases x <;> rfl) fun n x => by unfold Scope.ofCode; split <;> rintro ⟨⟩ <;> rfl

theorem FType.ofCode_eq_some_iff {n : Nat} {x : FType} : FType.ofCode n = some x ↔ n = x.code :=
  Sys2Proof.ofCode_eq_some_iff (fun x => by cases x <;> rfl) fun n x => by unfold FType.ofCode; split <;> rintro ⟨⟩ <;> rfl

theorem FCond.ofCode_eq_some_iff {n : Nat} {x : FCond} : FCond.ofCode n = some x ↔ n = x.code :=
  Sys2Proof.ofCode_eq_some_iff (fun x => by cases x <;> rfl) fun n x => by unfold FCond.ofCode; split <;> rintro ⟨⟩ <;> rfl

theorem VCond.ofCode_eq_some_iff {n : Nat} {x : VCond} : VCond.ofCode n = some x ↔ n = x.code :=
  Sys2Proof.ofCode_eq_some_iff (fun x => by cases x <;> rfl) fun n x => by unfold VCond.ofCode; split <;> rintro ⟨⟩ <;> rfl

theorem AccType.ofCode_eq_some_iff {n : Nat} {x : AccType} : AccType.ofCode n = some x ↔ n = x.code :=
  Sys2Proof.ofCode_eq_some_iff (fun x => by cases x <;> rfl) fun n x => by unfold AccType.ofCode; split <;> rintro ⟨⟩ <;> rfl

theorem OutType.ofCode_eq_some_iff {n : Nat} {x : OutType} : OutType.ofCode n = some x ↔ n = x.code :=
  Sys2Proof.ofCode_eq_some_iff (fun x => by cases x <;> rfl) fun n x => by unfold OutType.ofCode; split <;> rintro ⟨⟩ <;> rfl

/-- The ranges of numbers of the indexed control registers hold no number of another register (R22). -/
theorem CtlReg.ofCode_eq_some_iff {n : Nat} {x : CtlReg} : CtlReg.ofCode n = some x ↔ n = x.code := by
  refine Sys2Proof.ofCode_eq_some_iff (fun x => ?_) fun n x h => ?_
  · cases x with
    | sqi k | sa k | sn k | sg k | tagc k | tagt k => revert k; decide
    | _ => rfl
  · unfold CtlReg.ofCode at h
    split_ifs at h
    case neg => split at h <;> cases h <;> rfl
    all_goals
      cases h
      simp only [CtlReg.code, toFin]
      omega

theorem Mask.ofCode_eq_ok_iff {m mk : Nat} (hm : m < 32) {x : Mask} : Mask.ofCode m mk = .ok x ↔ m = x.reg ∧ mk = x.mk := by
  constructor
  · unfold Mask.ofCode
    split
    case h_1 => split <;> (intro h; cases h); exact ⟨‹_›, rfl⟩
    case h_2 | h_3 =>
      intro h
      cases h
      exact ⟨(Nat.mod_eq_of_lt hm).symm, rfl⟩
    case h_4 => exact nofun
  · rintro ⟨rfl, rfl⟩
    cases x with
    | none => rfl
    | mu r | ma r => simp only [Mask.ofCode, Mask.reg, Mask.mk, toReg, Nat.mod_eq_of_lt r.isLt]

/-! ### Register fields that must be zero (R53), one by one and side by side -/

theorem reserved_iff {w lo : Nat} : toReg (field w lo 5) = 0 ↔ field w lo 5 = 0 := toReg_field_eq_iff

theorem reserved_ab_iff {w : Nat} : field w 11 10 = 0 ↔ ra w = 0 ∧ rb w = 0 := by
  simp only [reserved_iff, field]
  omega

theorem reserved_da_iff {w : Nat} : field w 16 10 = 0 ↔ rd w = 0 ∧ ra w = 0 := by
  simp only [reserved_iff, field]
  omega

theorem reserved_dab_iff {w : Nat} : field w 11 15 = 0 ↔ rd w = 0 ∧ ra w = 0 ∧ rb w = 0 := by
  simp only [reserved_iff, field]
  omega

/-! ## Words, layout by layout -/

/-! ### Three register fields and eleven bits (R57, R61, R64) -/

/-- The word of the A, B and E formats, cut into its fields. -/
theorem encA_eq_iff {maj d a b f w : Nat} (hd : d < 32) (ha : a < 32) (hb : b < 32) (hf : f < 2048) :
    encA maj d a b f = w ↔ w / 2 ^ 26 = maj ∧ field w 21 5 = d ∧ field w 16 5 = a ∧ field w 11 5 = b ∧ field w 0 11 = f := by
  simp only [encA, field]
  omega

/-- The same word where its three register fields are registers: what is left to say is what the low bits hold. -/
theorem encA_regs_iff {maj f w : Nat} {d a b : Reg} {low : Prop} (hf : f < 2048) (hlow : field w 0 11 = f ↔ low) :
    encA maj d.val a.val b.val f = w ↔ w / 2 ^ 26 = maj ∧ rd w = d ∧ ra w = a ∧ rb w = b ∧ low := by
  rw [encA_eq_iff d.isLt a.isLt b.isLt hf, hlow]
  simp only [toReg_field_eq_iff]

/-- A type in a field wider than its code (R111, R161). -/
theorem elemType_field_iff {w : Nat} {t : ElemType} : (field w 11 5 < 16 ∧ ElemType.ofCode (field w 11 5) = t) ↔ field w 11 5 = t.code :=
  ⟨fun ⟨h, e⟩ => (ElemType.ofCode_eq_iff h).1 e, fun h => ⟨h ▸ t.code_lt, (ElemType.ofCode_eq_iff (h ▸ t.code_lt)).2 h⟩⟩

theorem aluWord_iff {w fn : Nat} (hfn : fn < 32) {d a b : Reg} :
    encA 1 d.val a.val b.val (fn * 64) = w ↔
      w / 2 ^ 26 = 1 ∧ rd w = d ∧ ra w = a ∧ rb w = b ∧ field w 6 5 = fn ∧ field w 0 6 = 0 :=
  encA_regs_iff (by omega) (by simp only [field]; omega)

theorem bitsWord_iff {w fn : Nat} (hfn : fn < 32) {d a : Reg} {p : Fin 64} {width : Fin 32} :
    encA 1 d.val a.val width.val (fn * 64 + p.val) = w ↔
      w / 2 ^ 26 = 1 ∧ rd w = d ∧ ra w = a ∧ rb w = width ∧ field w 6 5 = fn ∧ fin64 (field w 0 6) = p :=
  encA_regs_iff (by omega) (by simp only [fin64_field_eq_iff]; simp only [field]; omega)

theorem floatWord_iff {w fn : Nat} (hfn : fn < 16) {d a b : Reg} {t : FType} :
    encA 12 d.val a.val b.val (fn * 128 + t.code * 8) = w ↔
      w / 2 ^ 26 = 12 ∧ rd w = d ∧ ra w = a ∧ rb w = b ∧ field w 7 4 = fn ∧ FType.ofCode (field w 3 4) = some t ∧ field w 0 3 = 0 := by
  have := t.code_lt
  exact encA_regs_iff (by omega) (by simp only [FType.ofCode_eq_some_iff]; simp only [field]; omega)

theorem fcmpWord_iff {w : Nat} {c : FCond} {d a b : Reg} {t : FType} :
    encA 12 d.val a.val b.val (8 * 128 + t.code * 8 + c.code) = w ↔
      w / 2 ^ 26 = 12 ∧ rd w = d ∧ ra w = a ∧ rb w = b ∧ field w 7 4 = 8 ∧ FType.ofCode (field w 3 4) = some t ∧
        FCond.ofCode (field w 0 3) = some c := by
  have := t.code_lt
  have := c.code_lt
  exact encA_regs_iff (by omega) (by simp only [FType.ofCode_eq_some_iff, FCond.ofCode_eq_some_iff]; simp only [field]; omega)

theorem fcvtWord_iff {w : Nat} {t u : ElemType} {d a : Reg} :
    encA 12 d.val a.val u.code (9 * 128 + t.code * 8) = w ↔
      w / 2 ^ 26 = 12 ∧ rd w = d ∧ ra w = a ∧ (field w 11 5 < 16 ∧ ElemType.ofCode (field w 11 5) = u) ∧ field w 7 4 = 9 ∧
        ElemType.ofCode (field w 3 4) = t ∧ field w 0 3 = 0 := by
  have := t.code_lt
  have := u.code_lt
  rw [encA_eq_iff d.isLt a.isLt (by omega) (by omega)]
  simp only [elemType_field_iff, toReg_field_eq_iff, ElemType.ofCode_field_eq_iff, and_congr_right_iff]
  intros
  simp only [field]
  omega

theorem lbfWord_iff {w : Nat} {sx : Bool} {d a b : Reg} {width : Fin 32} :
    encA 18 d.val a.val b.val (bit sx * 512 + width.val * 16) = w ↔
      w / 2 ^ 26 = 18 ∧ rd w = d ∧ ra w = a ∧ rb w = b ∧ field w 10 1 = 0 ∧ flag w 9 = sx ∧ fin32 (field w 4 5) = width ∧ field w 0 4 = 0 := by
  have := bit_lt sx
  exact encA_regs_iff (by omega) (by simp only [flag_eq_iff, fin32_field_eq_iff]; simp only [field]; omega)

theorem sbfWord_iff {w : Nat} {d a b : Reg} {width : Fin 32} :
    encA 18 d.val a.val b.val (1024 + width.val * 16) = w ↔
      w / 2 ^ 26 = 18 ∧ rd w = d ∧ ra w = a ∧ rb w = b ∧ field w 10 1 = 1 ∧ fin32 (field w 4 5) = width ∧ field w 0 4 + field w 9 1 = 0 :=
  encA_regs_iff (by omega) (by simp only [fin32_field_eq_iff]; simp only [field]; omega)

theorem atomicWord_iff {w fn : Nat} (hfn : fn < 8) {d a b : Reg} {x : Bool} {am : AddrMode} {oa : Order} {sc : Scope} :
    encA 19 d.val a.val b.val (fn * 256 + bit x * 128 + am.code * 32 + oa.code * 8 + sc.code) = w ↔
      w / 2 ^ 26 = 19 ∧ rd w = d ∧ ra w = a ∧ rb w = b ∧ field w 8 3 = fn ∧ flag w 7 = x ∧ AddrMode.ofCode (field w 5 2) = am ∧
        Order.ofCode (field w 3 2) = oa ∧ Scope.ofCode (field w 0 3) = some sc := by
  have := bit_lt x
  have := am.code_lt
  have := oa.code_lt
  have := sc.code_lt
  refine encA_regs_iff (by omega) ?_
  simp only [flag_eq_iff, AddrMode.ofCode_field_eq_iff, Order.ofCode_field_eq_iff, Scope.ofCode_eq_some_iff]
  simp only [field]
  omega

theorem fenceWord_iff {w fn : Nat} (hfn : fn < 4) {sc : Scope} {all : Bool} :
    encA 20 0 0 0 (fn * 512 + sc.code * 64 + bit all * 32) = w ↔
      w / 2 ^ 26 = 20 ∧ field w 11 15 = 0 ∧ field w 9 2 = fn ∧ Scope.ofCode (field w 6 3) = some sc ∧ flag w 5 = all ∧ field w 0 5 = 0 := by
  have := bit_lt all
  have := sc.code_lt
  rw [encA_eq_iff (by decide) (by decide) (by decide) (by omega), reserved_dab_iff]
  simp only [reserved_iff, flag_eq_iff, Scope.ofCode_eq_some_iff, and_assoc, and_congr_right_iff]
  intros
  simp only [field]
  omega

theorem tagWord_iff {w fn : Nat} (hfn : fn < 4) {d a b : Reg} :
    encA 21 d.val a.val b.val (fn * 512) = w ↔ w / 2 ^ 26 = 21 ∧ rd w = d ∧ ra w = a ∧ rb w = b ∧ field w 9 2 = fn ∧ field w 0 9 = 0 :=
  encA_regs_iff (by omega) (by simp only [field]; omega)

/-! ### The M format (R62) -/

theorem encM_eq_encA {maj sz : Nat} {d base : Reg} {am : AddrMode} {oa : Order} {nt : Bool} {off : BitVec 8} :
    encM maj d base am sz oa nt off = encA maj d.val base.val (am.code * 8 + sz) (oa.code * 512 + bit nt * 256 + off.toNat) := by
  simp only [encM, encA]
  omega

theorem memWord_iff {w maj sz : Nat} (hsz : sz < 8) {d base : Reg} {am : AddrMode} {oa : Order} {nt : Bool} {off : BitVec 8} :
    encM maj d base am sz oa nt off = w ↔
      w / 2 ^ 26 = maj ∧ rd w = d ∧ ra w = base ∧ AddrMode.ofCode (field w 14 2) = am ∧ field w 11 3 = sz ∧ Order.ofCode (field w 9 2) = oa ∧
        flag w 8 = nt ∧ BitVec.ofNat 8 (field w 0 8) = off := by
  have := am.code_lt
  have := oa.code_lt
  have := bit_lt nt
  have := off.isLt
  rw [encM_eq_encA, encA_eq_iff d.isLt base.isLt (by omega) (by omega)]
  simp only [toReg_field_eq_iff, AddrMode.ofCode_field_eq_iff, Order.ofCode_field_eq_iff, flag_eq_iff, ofNat_field_eq_iff, and_congr_right_iff]
  intros
  simp only [field]
  omega

/-! ### The I format and the words of larger immediates (R58–R61) -/

theorem encI_eq_iff {maj d a imm w : Nat} (hd : d < 32) (ha : a < 32) (himm : imm < 2 ^ 16) :
    encI maj d a imm = w ↔ w / 2 ^ 26 = maj ∧ field w 21 5 = d ∧ field w 16 5 = a ∧ field w 0 16 = imm := by
  simp only [encI, field]
  omega

theorem immWord_iff {w maj : Nat} {d a : Reg} {imm : BitVec 16} :
    encI maj d.val a.val imm.toNat = w ↔ w / 2 ^ 26 = maj ∧ rd w = d ∧ ra w = a ∧ BitVec.ofNat 16 (field w 0 16) = imm := by
  rw [encI_eq_iff d.isLt a.isLt imm.isLt]
  simp only [toReg_field_eq_iff, ofNat_field_eq_iff]

theorem branchWord_iff {w maj c : Nat} (hc : c < 4) {a b : Reg} {off : BitVec 14} :
    encI maj a.val b.val (off.toNat * 4 + c) = w ↔
      w / 2 ^ 26 = maj ∧ rd w = a ∧ ra w = b ∧ BitVec.ofNat 14 (field w 2 14) = off ∧ field w 0 2 = c := by
  have := off.isLt
  rw [encI_eq_iff a.isLt b.isLt (by omega)]
  simp only [toReg_field_eq_iff, ofNat_field_eq_iff, and_congr_right_iff]
  intros
  simp only [field]
  omega

theorem lihWord_iff {w : Nat} {d : Reg} {imm : BitVec 20} :
    7 * 2 ^ 26 + d.val * 2 ^ 21 + imm.toNat = w ↔
      w / 2 ^ 26 = 7 ∧ rd w = d ∧ field w 20 1 = 0 ∧ BitVec.ofNat 20 (field w 0 20) = imm := by
  have := imm.isLt
  simp only [toReg_field_eq_iff, ofNat_field_eq_iff]
  simp only [field]
  omega

theorem addpcWord_iff {w : Nat} {d : Reg} {imm : BitVec 20} :
    7 * 2 ^ 26 + d.val * 2 ^ 21 + 2 ^ 20 + imm.toNat = w ↔
      w / 2 ^ 26 = 7 ∧ rd w = d ∧ field w 20 1 = 1 ∧ BitVec.ofNat 20 (field w 0 20) = imm := by
  have := imm.isLt
  simp only [toReg_field_eq_iff, ofNat_field_eq_iff]
  simp only [field]
  omega

theorem jalWord_iff {w : Nat} {d : Reg} {off : BitVec 21} :
    8 * 2 ^ 26 + d.val * 2 ^ 21 + off.toNat = w ↔ w / 2 ^ 26 = 8 ∧ rd w = d ∧ BitVec.ofNat 21 (field w 0 21) = off := by
  have := off.isLt
  simp only [toReg_field_eq_iff, ofNat_field_eq_iff]
  simp only [field]
  omega

theorem li48Word_iff {w : Nat} {d : Reg} {immh : BitVec 16} :
    63 * 2 ^ 26 + d.val * 2 ^ 21 + immh.toNat = w ↔
      w / 2 ^ 26 = 63 ∧ rd w = d ∧ field w 16 5 = 0 ∧ BitVec.ofNat 16 (field w 0 16) = immh := by
  have := immh.isLt
  simp only [toReg_field_eq_iff, ofNat_field_eq_iff]
  simp only [field]
  omega

/-- A system instruction: its function and twelve bits (R116). -/
theorem systemWord_iff {w n fn k : Nat} {d a : Reg} (hn : n = fn * 4096 + k) (hfn : fn < 16) (hk : k < 4096) :
    encI 61 d.val a.val n = w ↔ w / 2 ^ 26 = 61 ∧ rd w = d ∧ ra w = a ∧ field w 12 4 = fn ∧ field w 0 12 = k := by
  rw [encI_eq_iff d.isLt a.isLt (by omega)]
  simp only [toReg_field_eq_iff, and_congr_right_iff]
  intros
  simp only [field]
  omega

theorem codeWord_iff {w n fn : Nat} {k : BitVec 12} (hfn : fn < 16) (hn : n = fn * 4096 + k.toNat) :
    encI 61 0 0 n = w ↔ w / 2 ^ 26 = 61 ∧ field w 21 5 = 0 ∧ field w 16 5 = 0 ∧ field w 12 4 = fn ∧ BitVec.ofNat 12 (field w 0 12) = k := by
  have := k.isLt
  rw [encI_eq_iff (by decide) (by decide) (by omega), ofNat_field_eq_iff]
  simp only [and_congr_right_iff]
  intros
  simp only [field]
  omega

/-! ### The V format (R63) -/

theorem encV_eq_encA {maj vd va vb m mk e : Nat} : encV maj vd va vb m mk e = encA maj vd va vb (m * 64 + mk * 16 + e) := by
  simp only [encV, encA]
  omega

theorem encV_eq_iff {w maj vb e : Nat} (hvb : vb < 32) (he : e < 16) {vd va : Reg} {mk : Mask} :
    encV maj vd.val va.val vb mk.reg mk.mk e = w ↔
      w / 2 ^ 26 = maj ∧ rd w = vd ∧ ra w = va ∧ field w 11 5 = vb ∧ Mask.ofCode (field w 6 5) (field w 4 2) = .ok mk ∧ field w 0 4 = e := by
  have := mk.reg_lt
  have := mk.mk_lt
  rw [encV_eq_encA, encA_eq_iff vd.isLt va.isLt hvb (by omega)]
  simp only [toReg_field_eq_iff, Mask.ofCode_eq_ok_iff (field_lt w 6 5), and_congr_right_iff]
  intros
  simp only [field]
  omega

theorem vecWord_iff {w maj : Nat} {vd va vb : Reg} {mk : Mask} {et : ElemType} :
    encV maj vd.val va.val vb.val mk.reg mk.mk et.code = w ↔
      w / 2 ^ 26 = maj ∧ rd w = vd ∧ ra w = va ∧ rb w = vb ∧ Mask.ofCode (field w 6 5) (field w 4 2) = .ok mk ∧ etOf w = et := by
  rw [encV_eq_iff vb.isLt et.code_lt]
  simp only [toReg_field_eq_iff, ElemType.ofCode_field_eq_iff]

theorem unaryWord_iff {w uop : Nat} (huop : uop < 32) {vd va : Reg} {mk : Mask} {et : ElemType} :
    encV 43 vd.val va.val uop mk.reg mk.mk et.code = w ↔
      w / 2 ^ 26 = 43 ∧ rd w = vd ∧ ra w = va ∧ field w 11 5 = uop ∧ Mask.ofCode (field w 6 5) (field w 4 2) = .ok mk ∧ etOf w = et := by
  rw [encV_eq_iff huop et.code_lt]
  simp only [ElemType.ofCode_field_eq_iff]

theorem vatomWord_iff {w fn : Nat} (hfn : fn < 8) {vd va : Reg} {am : AddrMode} {mk : Mask} {et : ElemType} :
    encV 30 vd.val va.val (am.code * 8 + fn) mk.reg mk.mk et.code = w ↔
      w / 2 ^ 26 = 30 ∧ rd w = vd ∧ ra w = va ∧ (AddrMode.ofCode (field w 14 2) = am ∧ field w 11 3 = fn) ∧
        Mask.ofCode (field w 6 5) (field w 4 2) = .ok mk ∧ etOf w = et := by
  have := am.code_lt
  have cut : field w 11 5 = am.code * 8 + fn ↔ field w 14 2 = am.code ∧ field w 11 3 = fn := by
    simp only [field]
    omega
  rw [encV_eq_iff (by omega) et.code_lt, cut]
  simp only [AddrMode.ofCode_field_eq_iff, ElemType.ofCode_field_eq_iff]

theorem logicWord_iff {w fn : Nat} (hfn : fn < 4) {vd va vb : Reg} {mk : Mask} {lw : LaneWidth} :
    encV 38 vd.val va.val vb.val mk.reg mk.mk (lw.code * 4 + fn) = w ↔
      w / 2 ^ 26 = 38 ∧ rd w = vd ∧ ra w = va ∧ rb w = vb ∧ Mask.ofCode (field w 6 5) (field w 4 2) = .ok mk ∧
        LaneWidth.ofCode (field w 2 2) = lw ∧ field w 0 2 = fn := by
  have := lw.code_lt
  rw [encV_eq_iff vb.isLt (by omega)]
  simp only [toReg_field_eq_iff, LaneWidth.ofCode_field_eq_iff, and_congr_right_iff]
  intros
  simp only [field]
  omega

/-- Shifts are selected by bits 3 and 0 of the low field `e`. -/
theorem vshiftWord_iff {w e : Nat} (he : e ∈ [0, 1, 8]) {vd va vb : Reg} {mk : Mask} {lw : LaneWidth} :
    encV 39 vd.val va.val vb.val mk.reg mk.mk (lw.code * 2 + e) = w ↔
      w / 2 ^ 26 = 39 ∧ rd w = vd ∧ ra w = va ∧ rb w = vb ∧ Mask.ofCode (field w 6 5) (field w 4 2) = .ok mk ∧
        LaneWidth.ofCode (field w 1 2) = lw ∧ field w 3 1 * 2 + field w 0 1 = e / 8 * 2 + e % 2 := by
  have := lw.code_lt
  simp only [List.mem_cons, List.not_mem_nil, or_false] at he
  rw [encV_eq_iff vb.isLt (by omega)]
  simp only [toReg_field_eq_iff, LaneWidth.ofCode_field_eq_iff, and_congr_right_iff]
  intros
  simp only [field]
  omega

theorem vnotWord_iff {w : Nat} {vd va : Reg} {mk : Mask} {lw : LaneWidth} :
    encV 43 vd.val va.val 31 mk.reg mk.mk (lw.code * 4) = w ↔
      w / 2 ^ 26 = 43 ∧ rd w = vd ∧ ra w = va ∧ field w 11 5 = 31 ∧ Mask.ofCode (field w 6 5) (field w 4 2) = .ok mk ∧
        LaneWidth.ofCode (field w 2 2) = lw ∧ field w 0 2 = 0 := by
  have := lw.code_lt
  rw [encV_eq_iff (by decide) (by omega)]
  simp only [LaneWidth.ofCode_field_eq_iff, and_congr_right_iff]
  intros
  simp only [field]
  omega

theorem vselWord_iff {w : Nat} {vd va vb m : Reg} {lw : LaneWidth} :
    encV 38 vd.val va.val vb.val m.val 0 (lw.code * 4 + 3) = w ↔
      w / 2 ^ 26 = 38 ∧ rd w = vd ∧ ra w = va ∧ rb w = vb ∧ toReg (field w 6 5) = m ∧ field w 4 2 = 0 ∧ LaneWidth.ofCode (field w 2 2) = lw ∧
        field w 0 2 = 3 := by
  have := lw.code_lt
  rw [encV_eq_encA]
  exact encA_regs_iff (by omega) (by simp only [toReg_field_eq_iff, LaneWidth.ofCode_field_eq_iff]; simp only [field]; omega)

theorem vcmpWord_iff {w : Nat} {c : VCond} {vd va vb : Reg} {et : ElemType} :
    encV 40 vd.val va.val vb.val c.code 0 et.code = w ↔
      w / 2 ^ 26 = 40 ∧ rd w = vd ∧ ra w = va ∧ rb w = vb ∧ VCond.ofCode (field w 6 5) = some c ∧ field w 4 2 = 0 ∧ etOf w = et := by
  have := c.code_lt
  have := et.code_lt
  rw [encV_eq_encA]
  exact encA_regs_iff (by omega) (by simp only [VCond.ofCode_eq_some_iff, ElemType.ofCode_field_eq_iff]; simp only [field]; omega)

theorem vcvtWord_iff {w : Nat} {t u : ElemType} {vd va : Reg} {mk : Mask} :
    encV 43 vd.val va.val u.code mk.reg mk.mk t.code = w ↔
      w / 2 ^ 26 = 43 ∧ rd w = vd ∧ ra w = va ∧ (field w 11 5 < 16 ∧ ElemType.ofCode (field w 11 5) = u) ∧
        Mask.ofCode (field w 6 5) (field w 4 2) = .ok mk ∧ etOf w = t := by
  have := u.code_lt
  rw [encV_eq_iff (by omega) t.code_lt]
  simp only [elemType_field_iff, ElemType.ofCode_field_eq_iff]

theorem moveWord_iff {w uop : Nat} (huop : uop < 32) {d a : Reg} {n : Fin 64} {et : ElemType} :
    encA 43 d.val a.val uop (n.val * 32 + et.code) = w ↔
      w / 2 ^ 26 = 43 ∧ rd w = d ∧ ra w = a ∧ field w 11 5 = uop ∧ fin64 (field w 5 6) = n ∧ field w 4 1 = 0 ∧ etOf w = et := by
  have := et.code_lt
  rw [encA_eq_iff d.isLt a.isLt huop (by omega)]
  simp only [toReg_field_eq_iff, fin64_field_eq_iff, ElemType.ofCode_field_eq_iff, and_congr_right_iff]
  intros
  simp only [field]
  omega

/-! ### Streams, the array, counters, copies, graphs and the Ephemeris (R64–R70) -/

/-- The field of a stream register holds the numbers 24–31 (R176). -/
theorem stream_field_iff {w : Nat} {j : Fin 8} : field w 21 5 = 24 + j.val ↔ field w 24 2 = 3 ∧ fin8 (field w 21 3) = j := by
  rw [fin8_field_eq_iff]
  simp only [field]
  omega

theorem strcfgWord_iff {w : Nat} {j : Fin 8} {a b : Reg} {dir nt : Bool} {am : AddrMode} :
    encA 44 (24 + j.val) a.val b.val (bit dir * 1024 + am.code * 256 + bit nt * 128) = w ↔
      w / 2 ^ 26 = 44 ∧ (field w 24 2 = 3 ∧ fin8 (field w 21 3) = j) ∧ ra w = a ∧ rb w = b ∧ flag w 10 = dir ∧
        AddrMode.ofCode (field w 8 2) = am ∧ flag w 7 = nt ∧ field w 0 7 = 0 := by
  have := bit_lt dir
  have := bit_lt nt
  have := am.code_lt
  rw [encA_eq_iff (by omega) a.isLt b.isLt (by omega), stream_field_iff]
  simp only [toReg_field_eq_iff, flag_eq_iff, AddrMode.ofCode_field_eq_iff, and_congr_right_iff]
  intros
  simp only [field]
  omega

theorem strendWord_iff {w : Nat} {j : Fin 8} :
    encA 45 (24 + j.val) 0 0 0 = w ↔ w / 2 ^ 26 = 45 ∧ (field w 24 2 = 3 ∧ fin8 (field w 21 3) = j) ∧ field w 0 21 = 0 := by
  rw [encA_eq_iff (by omega) (by decide) (by decide) (by decide), stream_field_iff]
  simp only [and_congr_right_iff]
  intros
  simp only [field]
  omega

theorem vloopWord_iff {w : Nat} {a : Reg} {n : Fin 16} :
    encA 46 0 a.val 0 n.val = w ↔ w / 2 ^ 26 = 46 ∧ field w 21 5 = 0 ∧ ra w = a ∧ field w 4 12 = 0 ∧ fin16 (field w 0 4) = n := by
  rw [encA_eq_iff (by decide) a.isLt (by decide) (by omega)]
  simp only [toReg_field_eq_iff, fin16_field_eq_iff, and_congr_right_iff]
  intros
  simp only [field]
  omega

theorem fmtWord_iff {w : Nat} {aty bty : ElemType} {cty : AccType} {scl : ScaleMode} {sp : Bool} :
    48 * 2 ^ 26 + aty.code * 2 ^ 22 + bty.code * 2 ^ 18 + cty.code * 2 ^ 14 + scl.code * 2 ^ 12 + bit sp * 2 ^ 11 = w ↔
      w / 2 ^ 26 = 48 ∧ ElemType.ofCode (field w 22 4) = aty ∧ ElemType.ofCode (field w 18 4) = bty ∧ AccType.ofCode (field w 14 4) = some cty ∧
        ScaleMode.ofCode (field w 12 2) = scl ∧ flag w 11 = sp ∧ field w 0 11 = 0 := by
  have := aty.code_lt
  have := bty.code_lt
  have := cty.code_lt
  have := scl.code_lt
  have := bit_lt sp
  simp only [ElemType.ofCode_field_eq_iff, AccType.ofCode_eq_some_iff, ScaleMode.ofCode_field_eq_iff, flag_eq_iff]
  simp only [field]
  omega

/-- Leases, ownership and counts: the function and seven bits. -/
theorem leaseWord_iff {w fn n : Nat} (hfn : fn < 16) (hn : n < 128) {d a b : Reg} :
    encA 49 d.val a.val b.val (fn * 128 + n) = w ↔
      w / 2 ^ 26 = 49 ∧ rd w = d ∧ ra w = a ∧ rb w = b ∧ field w 7 4 = fn ∧ field w 0 7 = n :=
  encA_regs_iff (by omega) (by simp only [field]; omega)

theorem slotWord_iff {w fn : Nat} (hfn : fn < 4) {a b : Reg} {am : AddrMode} {nt : Bool} {slot : Fin 64} :
    encA 50 0 a.val b.val (fn * 512 + am.code * 128 + bit nt * 64 + slot.val) = w ↔
      w / 2 ^ 26 = 50 ∧ field w 21 5 = 0 ∧ ra w = a ∧ rb w = b ∧ field w 9 2 = fn ∧ AddrMode.ofCode (field w 7 2) = am ∧ flag w 6 = nt ∧
        fin64 (field w 0 6) = slot := by
  have := am.code_lt
  have := bit_lt nt
  rw [encA_eq_iff (by decide) a.isLt b.isLt (by omega)]
  simp only [toReg_field_eq_iff, AddrMode.ofCode_field_eq_iff, flag_eq_iff, fin64_field_eq_iff, and_congr_right_iff]
  intros
  simp only [field]
  omega

theorem mstWord_iff {w : Nat} {ot : OutType} {a b : Reg} {am : AddrMode} {nt : Bool} {t : Fin 16} :
    encA 50 ot.code a.val b.val (1536 + am.code * 128 + bit nt * 64 + t.val) = w ↔
      w / 2 ^ 26 = 50 ∧ (field w 25 1 = 0 ∧ OutType.ofCode (field w 21 4) = some ot) ∧ ra w = a ∧ rb w = b ∧ field w 9 2 = 3 ∧
        AddrMode.ofCode (field w 7 2) = am ∧ flag w 6 = nt ∧ field w 4 2 = 0 ∧ fin16 (field w 0 4) = t := by
  have := ot.code_lt
  have := am.code_lt
  have := bit_lt nt
  have cut : field w 21 5 = ot.code ↔ field w 25 1 = 0 ∧ field w 21 4 = ot.code := by
    simp only [field]
    omega
  rw [encA_eq_iff (by omega) a.isLt b.isLt (by omega), cut]
  simp only [toReg_field_eq_iff, OutType.ofCode_eq_some_iff, AddrMode.ofCode_field_eq_iff, flag_eq_iff, fin16_field_eq_iff, and_congr_right_iff]
  intros
  simp only [field]
  omega

theorem mmaWord_iff {w : Nat} {t : Fin 16} {sa sb : Fin 64} :
    51 * 2 ^ 26 + t.val * 2 ^ 12 + sa.val * 2 ^ 6 + sb.val = w ↔
      w / 2 ^ 26 = 51 ∧ field w 16 10 = 0 ∧ fin16 (field w 12 4) = t ∧ fin64 (field w 6 6) = sa ∧ fin64 (field w 0 6) = sb := by
  simp only [fin16_field_eq_iff, fin64_field_eq_iff]
  simp only [field]
  omega

/-- The scope fields of a counter instruction (R70, R220). -/
def CounterScope (w : Nat) : Option Scope → Prop
  | none => field w 8 3 = 0 ∧ field w 3 1 = 1 ∧ field w 0 3 = 0
  | some sc => Scope.ofCode (field w 8 3) = some sc ∧ field w 3 1 = 0 ∧ field w 0 3 = 0

theorem counterWord_iff {w fn : Nat} (hfn : fn < 16) {a b c : Reg} {sc : Option Scope} :
    encA 54 a.val b.val c.val (fn * 16 + encScope sc) = w ↔
      w / 2 ^ 26 = 54 ∧ rd w = a ∧ ra w = b ∧ rb w = c ∧ field w 4 4 = fn ∧ CounterScope w sc := by
  cases sc with
  | none => exact encA_regs_iff (by simp only [encScope]; omega) (by simp only [CounterScope, encScope, field]; omega)
  | some sc =>
    have := sc.code_lt
    refine encA_regs_iff (by simp only [encScope]; omega) ?_
    simp only [CounterScope, encScope, Scope.ofCode_eq_some_iff]
    simp only [field]
    omega

/-- Tag waits and joins: the function and eight bits. -/
theorem tagWaitWord_iff {w fn : Nat} (hfn : fn < 8) {d a : Reg} :
    encA 55 d.val a.val 0 (fn * 256) = w ↔
      w / 2 ^ 26 = 55 ∧ rd w = d ∧ ra w = a ∧ field w 11 5 = 0 ∧ field w 8 3 = fn ∧ field w 0 8 = 0 := by
  rw [encA_eq_iff d.isLt a.isLt (by decide) (by omega)]
  simp only [toReg_field_eq_iff, and_congr_right_iff]
  intros
  simp only [field]
  omega

theorem forkWord_iff {w : Nat} {mb : Bool} :
    encA 55 0 0 0 (768 + bit mb) = w ↔
      w / 2 ^ 26 = 55 ∧ field w 21 5 = 0 ∧ field w 16 5 = 0 ∧ field w 11 5 = 0 ∧ field w 8 3 = 3 ∧ field w 1 7 = 0 ∧ flag w 0 = mb := by
  have := bit_lt mb
  rw [encA_eq_iff (by decide) (by decide) (by decide) (by omega)]
  simp only [flag_eq_iff, and_congr_right_iff]
  intros
  simp only [field]
  omega

theorem waitnWord_iff {w : Nat} {ld st cp tl : Fin 16} :
    56 * 2 ^ 26 + ld.val * 2 ^ 12 + st.val * 2 ^ 8 + cp.val * 2 ^ 4 + tl.val = w ↔
      w / 2 ^ 26 = 56 ∧ field w 16 10 = 0 ∧ fin16 (field w 12 4) = ld ∧ fin16 (field w 8 4) = st ∧ fin16 (field w 4 4) = cp ∧
        fin16 (field w 0 4) = tl := by
  simp only [fin16_field_eq_iff]
  simp only [field]
  omega

theorem copyWord_iff {w fn : Nat} (hfn : fn < 16) {a b c : Reg} {sc : Scope} {acq rel : Bool} :
    encA 57 a.val b.val c.val (sc.code * 256 + fn * 16 + bit acq * 8 + bit rel * 4) = w ↔
      w / 2 ^ 26 = 57 ∧ rd w = a ∧ ra w = b ∧ rb w = c ∧ Scope.ofCode (field w 8 3) = some sc ∧ field w 4 4 = fn ∧ flag w 3 = acq ∧
        flag w 2 = rel ∧ field w 0 2 = 0 := by
  have := sc.code_lt
  have := bit_lt acq
  have := bit_lt rel
  exact encA_regs_iff (by omega) (by simp only [Scope.ofCode_eq_some_iff, flag_eq_iff]; simp only [field]; omega)

theorem xscatWord_iff {w : Nat} {a b c : Reg} {sc : Scope} {acq rel ord : Bool} :
    encA 57 a.val b.val c.val (sc.code * 256 + 2 * 16 + bit acq * 8 + bit rel * 4 + bit ord * 2) = w ↔
      w / 2 ^ 26 = 57 ∧ rd w = a ∧ ra w = b ∧ rb w = c ∧ Scope.ofCode (field w 8 3) = some sc ∧ field w 4 4 = 2 ∧ flag w 3 = acq ∧
        flag w 2 = rel ∧ flag w 1 = ord ∧ field w 0 1 = 0 := by
  have := sc.code_lt
  have := bit_lt acq
  have := bit_lt rel
  have := bit_lt ord
  exact encA_regs_iff (by omega) (by simp only [Scope.ofCode_eq_some_iff, flag_eq_iff]; simp only [field]; omega)

/-- Subscriptions and object graphs: three registers, the scope and the function. -/
theorem scopedWord_iff {w maj fn : Nat} (hfn : fn < 16) {a b c : Reg} {sc : Scope} :
    encA maj a.val b.val c.val (sc.code * 256 + fn * 16) = w ↔
      w / 2 ^ 26 = maj ∧ rd w = a ∧ ra w = b ∧ rb w = c ∧ Scope.ofCode (field w 8 3) = some sc ∧ field w 4 4 = fn ∧ field w 0 4 = 0 := by
  have := sc.code_lt
  exact encA_regs_iff (by omega) (by simp only [Scope.ofCode_eq_some_iff]; simp only [field]; omega)

theorem xqueryWord_iff {w : Nat} {a b c : Reg} :
    encA 58 a.val b.val c.val 32 = w ↔
      w / 2 ^ 26 = 58 ∧ rd w = a ∧ ra w = b ∧ rb w = c ∧ field w 8 3 = 0 ∧ field w 4 4 = 2 ∧ field w 0 4 = 0 :=
  encA_regs_iff (by decide) (by simp only [field]; omega)

theorem ephemerisWord_iff {w fn : Nat} (hfn : fn < 16) {e : Fin 16} {a b c : Reg} :
    encA 60 a.val b.val c.val (fn * 16 + e.val) = w ↔
      w / 2 ^ 26 = 60 ∧ rd w = a ∧ ra w = b ∧ rb w = c ∧ field w 8 3 = 0 ∧ field w 4 4 = fn ∧ fin16 (field w 0 4) = e :=
  encA_regs_iff (by omega) (by simp only [fin16_field_eq_iff]; simp only [field]; omega)

end Sys2Proof
end

section
/-! SUPPORT. Decoding undoes encoding (R57–R70): the word of each instruction of the program, read field by field. -/

namespace Sys2Proof

/-! ## The checks of an arm -/

@[simp] theorem toFin_val {k : Nat} (x : Fin k) (h : 0 < k) : toFin k x.val h = x := (toFin_eq_iff h x.isLt).2 rfl

theorem zeroes_ok_iff {r : Nat} {i j : Instr} : zeroes r i = .ok j ↔ r = 0 ∧ i = j := by
  unfold zeroes
  split <;> simp [*]

theorem accept_ok_iff {i j : Instr} : accept i = .ok j ↔ i.wf = true ∧ i = j := by
  unfold accept
  split <;> simp [*]

theorem coded_ok_iff {α : Type} {c : Option α} {k : α → Except Reject Instr} {i : Instr} :
    coded c k = .ok i ↔ ∃ x, c = some x ∧ k x = .ok i := by
  cases c <;> simp [coded]

theorem masked_ok_iff {w : Nat} {k : Mask → Except Reject Instr} {i : Instr} :
    masked w k = .ok i ↔ ∃ m, Mask.ofCode (field w 6 5) (field w 4 2) = .ok m ∧ k m = .ok i := by
  unfold masked
  split <;> simp [*]

theorem ite_ok_iff {p : Prop} [Decidable p] {x : Except Reject Instr} {e : Reject} {i : Instr} :
    (if p then x else .error e) = .ok i ↔ p ∧ x = .ok i := by
  split <;> simp [*]

theorem ite_error_ok_iff {p : Prop} [Decidable p] {x : Except Reject Instr} {e : Reject} {i : Instr} :
    (if p then .error e else x) = .ok i ↔ ¬p ∧ x = .ok i := by
  split <;> simp [*]

theorem zeroes_of {r : Nat} {i : Instr} (h : r = 0) : zeroes r i = .ok i := zeroes_ok_iff.2 ⟨h, rfl⟩

theorem accept_of {i : Instr} (wf : i.wf = true) : accept i = .ok i := accept_ok_iff.2 ⟨wf, rfl⟩

theorem coded_of {α : Type} {c : Option α} {x : α} {k : α → Except Reject Instr} {i : Instr} (h : c = some x) (hk : k x = .ok i) :
    coded c k = .ok i := coded_ok_iff.2 ⟨x, h, hk⟩

theorem masked_of {w : Nat} {m : Mask} {k : Mask → Except Reject Instr} {i : Instr} (h : Mask.ofCode (field w 6 5) (field w 4 2) = .ok m)
    (hk : k m = .ok i) : masked w k = .ok i := masked_ok_iff.2 ⟨m, h, hk⟩

theorem counterScope_ok {w : Nat} {k : Option Scope → Except Reject Instr} {i : Instr} (h : counterScope w k = .ok i) :
    ∃ sc, CounterScope w sc ∧ k sc = .ok i := by
  unfold counterScope at h
  split at h
  case isTrue => cases h
  case isFalse low =>
    split at h
    case isTrue ds =>
      split at h
      case isTrue zero => exact ⟨none, ⟨zero, ds, not_not.1 low⟩, h⟩
      case isFalse => cases h
    case isFalse ds =>
      obtain ⟨sc, code, h⟩ := coded_ok_iff.1 h
      have := field_lt w 3 1
      exact ⟨some sc, ⟨code, by omega, not_not.1 low⟩, h⟩

theorem counterScope_of {w : Nat} {sc : Option Scope} (h : CounterScope w sc) (k : Option Scope → Except Reject Instr) : counterScope w k = k sc := by
  cases sc with
  | none =>
    obtain ⟨zero, ds, fl⟩ := h
    simp [counterScope, zero, ds, fl]
  | some sc =>
    obtain ⟨code, ds, fl⟩ := h
    simp [counterScope, coded, code, ds, fl]

/-! ## The words of the instructions -/

/-- A word of a one-word major. -/
theorem decodeFirst_of_major {w m : Nat} {x : Except Reject Instr} (major : w / 2 ^ 26 = m) (hm : m < 63) (h : field w 26 6 = m → decodeOne w = x) :
    w < 2 ^ 32 ∧ decodeFirst w = .one x := by
  have fieldEq : field w 26 6 = m := by simp only [field]; omega
  refine ⟨by omega, ?_⟩
  rw [decodeFirst, if_neg (by omega), h fieldEq]

/-- Each word is read back: its layout's fields, then the arm of the decoder that they select. Steps of the device have no word and LI48 has two. -/
theorem decodeFirst_of_words {i : Instr} {w : Nat} (wf : i.wf = true) (h : i.words = [w]) : w < 2 ^ 32 ∧ decodeFirst w = .one (.ok i) := by
  cases i with
  | add d a b | sub d a b | mul d a b | mulh d a b | mulhn d a b | div d a b | divn d a b | rem d a b | remn d a b | and d a b | or d a b
  | xor d a b | sll d a b | srl d a b | sra d a b | slt d a b | sltn d a b | min d a b | max d a b | minn d a b | maxn d a b =>
    obtain ⟨major, rfl, rfl, rfl, fn, zero⟩ := Iff.mp (aluWord_iff (by decide)) (List.singleton_inj.1 h)
    exact decodeFirst_of_major major (by decide) fun m => by rw [decodeOne, m, decode01, fn]; exact zeroes_of zero
  | slli d a sh | srli d a sh | srai d a sh =>
    obtain ⟨major, rfl, rfl, zero, fn, rfl⟩ := Iff.mp (bitsWord_iff (width := 0) (by decide)) (List.singleton_inj.1 h)
    exact decodeFirst_of_major major (by decide) fun m => by rw [decodeOne, m, decode01, fn]; exact zeroes_of (reserved_iff.1 zero)
  | clz d a | ctz d a | popc d a =>
    obtain ⟨major, rfl, rfl, zero, fn, sh⟩ := Iff.mp (aluWord_iff (b := 0) (by decide)) (List.singleton_inj.1 h)
    exact decodeFirst_of_major major (by decide) fun m => by rw [decodeOne, m, decode01, fn]; exact zeroes_of (by simp [reserved_iff.1 zero, sh])
  | exts d a p width | extn d a p width | bins d a p width =>
    obtain ⟨major, rfl, rfl, rfl, fn, rfl⟩ := Iff.mp (bitsWord_iff (by decide)) (List.singleton_inj.1 h)
    exact decodeFirst_of_major major (by decide) fun m => by rw [decodeOne, m, decode01, fn]; exact accept_of wf
  | addi d a imm | andi d a imm | ori d a imm | xori d a imm | slti d a imm | jalr d a imm =>
    obtain ⟨major, rfl, rfl, rfl⟩ := immWord_iff.1 (List.singleton_inj.1 h)
    exact decodeFirst_of_major major (by decide) fun m => by rw [decodeOne, m]; rfl
  | lih d imm =>
    obtain ⟨major, rfl, upper, rfl⟩ := lihWord_iff.1 (List.singleton_inj.1 h)
    exact decodeFirst_of_major major (by decide) fun m => by rw [decodeOne, m]; exact if_pos upper
  | addpc d imm =>
    obtain ⟨major, rfl, upper, rfl⟩ := addpcWord_iff.1 (List.singleton_inj.1 h)
    exact decodeFirst_of_major major (by decide) fun m => by rw [decodeOne, m]; exact if_neg (by omega)
  | jal d off =>
    obtain ⟨major, rfl, rfl⟩ := jalWord_iff.1 (List.singleton_inj.1 h)
    exact decodeFirst_of_major major (by decide) fun m => by rw [decodeOne, m]; rfl
  | beq a b off | bne a b off | blt a b off | bge a b off | bltn a b off | bgen a b off =>
    obtain ⟨major, rfl, rfl, rfl, cond⟩ := Iff.mp (branchWord_iff (by decide)) (List.singleton_inj.1 h)
    exact decodeFirst_of_major major (by decide) fun m => by rw [decodeOne, m]; simp [decodeImm, cond]
  | fadd t d a b | fsub t d a b | fmul t d a b | ffma t d a b | fdiv t d a b | fmin t d a b | fmax t d a b =>
    obtain ⟨major, rfl, rfl, rfl, fn, type, zero⟩ := Iff.mp (floatWord_iff (by decide)) (List.singleton_inj.1 h)
    exact decodeFirst_of_major major (by decide) fun m => by rw [decodeOne, m, decode0C, fn]; exact coded_of type (zeroes_of zero)
  | fsqrt t d a =>
    obtain ⟨major, rfl, rfl, b, fn, type, zero⟩ := Iff.mp (floatWord_iff (b := 0) (by decide)) (List.singleton_inj.1 h)
    exact decodeFirst_of_major major (by decide) fun m => by
      rw [decodeOne, m, decode0C, fn]
      exact coded_of type (zeroes_of (by simp [zero, reserved_iff.1 b]))
  | fcmp c t d a b =>
    obtain ⟨major, rfl, rfl, rfl, fn, type, cond⟩ := fcmpWord_iff.1 (List.singleton_inj.1 h)
    exact decodeFirst_of_major major (by decide) fun m => by rw [decodeOne, m, decode0C, fn]; exact coded_of type (coded_of cond rfl)
  | fcvt t u d a =>
    obtain ⟨major, rfl, rfl, ⟨lt, rfl⟩, fn, rfl, zero⟩ := fcvtWord_iff.1 (List.singleton_inj.1 h)
    exact decodeFirst_of_major major (by decide) fun m => by rw [decodeOne, m, decode0C, fn]; exact (if_pos ⟨zero, lt⟩).trans (accept_of wf)
  | ldI8 d b am oa nt off | ldI16 d b am oa nt off | ldI32 d b am oa nt off | ld64 d b am oa nt off | ldN8 d b am oa nt off
  | ldN16 d b am oa nt off | ldN32 d b am oa nt off =>
    obtain ⟨major, rfl, rfl, rfl, size, rfl, rfl, rfl⟩ := Iff.mp (memWord_iff (by decide)) (List.singleton_inj.1 h)
    exact decodeFirst_of_major major (by decide) fun m => by rw [decodeOne, m, decode10, size]; rfl
  | st8 d b am oa nt off | st16 d b am oa nt off | st32 d b am oa nt off | st64 d b am oa nt off =>
    obtain ⟨major, rfl, rfl, rfl, size, rfl, rfl, rfl⟩ := Iff.mp (memWord_iff (by decide)) (List.singleton_inj.1 h)
    exact decodeFirst_of_major major (by decide) fun m => by rw [decodeOne, m, decode11, size]; rfl
  | vld128 d b am oa nt off | vld256 d b am oa nt off | vld512 d b am oa nt off =>
    obtain ⟨major, rfl, rfl, rfl, size, rfl, rfl, rfl⟩ := Iff.mp (memWord_iff (by decide)) (List.singleton_inj.1 h)
    exact decodeFirst_of_major major (by decide) fun m => by rw [decodeOne, m, decode18, size]; rfl
  | vst128 d b am oa nt off | vst256 d b am oa nt off | vst512 d b am oa nt off =>
    obtain ⟨major, rfl, rfl, rfl, size, rfl, rfl, rfl⟩ := Iff.mp (memWord_iff (by decide)) (List.singleton_inj.1 h)
    exact decodeFirst_of_major major (by decide) fun m => by rw [decodeOne, m, decode19, size]; rfl
  | lbf sx d a b width =>
    obtain ⟨major, rfl, rfl, rfl, store, rfl, rfl, zero⟩ := lbfWord_iff.1 (List.singleton_inj.1 h)
    exact decodeFirst_of_major major (by decide) fun m => by rw [decodeOne, m]; exact (if_pos store).trans (zeroes_of zero)
  | sbf d a b width =>
    obtain ⟨major, rfl, rfl, rfl, store, rfl, zero⟩ := sbfWord_iff.1 (List.singleton_inj.1 h)
    exact decodeFirst_of_major major (by decide) fun m => by rw [decodeOne, m]; exact (if_neg (by omega)).trans (zeroes_of zero)
  | atomAdd d a b x am oa sc | atomAnd d a b x am oa sc | atomOr d a b x am oa sc | atomXor d a b x am oa sc | atomMin d a b x am oa sc
  | atomMax d a b x am oa sc | atomSwp d a b x am oa sc | atomCas d a b x am oa sc =>
    obtain ⟨major, rfl, rfl, rfl, fn, rfl, rfl, rfl, scope⟩ := Iff.mp (atomicWord_iff (by decide)) (List.singleton_inj.1 h)
    exact decodeFirst_of_major major (by decide) fun m => by rw [decodeOne, m, decode13, fn]; exact coded_of scope (accept_of wf)
  | fenceAcq sc all | fenceRel sc all | fenceSc sc all =>
    obtain ⟨major, high, fn, scope, rfl, low⟩ := Iff.mp (fenceWord_iff (by decide)) (List.singleton_inj.1 h)
    exact decodeFirst_of_major major (by decide) fun m => by
      rw [decodeOne, m, decode14, fn]
      exact (if_neg (by simp [high, low])).trans (coded_of scope (accept_of wf))
  | tlook d a =>
    obtain ⟨major, rfl, rfl, b, fn, zero⟩ := Iff.mp (tagWord_iff (fn := 0) (b := 0) (by decide)) (List.singleton_inj.1 h)
    exact decodeFirst_of_major major (by decide) fun m => by rw [decodeOne, m, decode15, fn]; exact zeroes_of (by simp [zero, reserved_iff.1 b])
  | tset a b =>
    obtain ⟨major, d, rfl, rfl, fn, zero⟩ := Iff.mp (tagWord_iff (fn := 1) (d := 0) (by decide)) (List.singleton_inj.1 h)
    exact decodeFirst_of_major major (by decide) fun m => by rw [decodeOne, m, decode15, fn]; exact zeroes_of (by simp [zero, reserved_iff.1 d])
  | tclr a =>
    obtain ⟨major, d, rfl, b, fn, zero⟩ := Iff.mp (tagWord_iff (fn := 2) (d := 0) (b := 0) (by decide)) (List.singleton_inj.1 h)
    exact decodeFirst_of_major major (by decide) fun m => by
      rw [decodeOne, m, decode15, fn]
      exact zeroes_of (by simp [zero, reserved_iff.1 d, reserved_iff.1 b])
  | vlds vd va vb mk et | vsts vd va vb mk et | vldx vd va vb mk et | vstx vd va vb mk et | vadd vd va vb mk et | vsub vd va vb mk et
  | vmul vd va vb mk et | vfma vd va vb mk et | vmin vd va vb mk et | vmax vd va vb mk et | vperm vd va vb mk et | vpack vd va vb mk et =>
    obtain ⟨major, rfl, rfl, rfl, mask, rfl⟩ := vecWord_iff.1 (List.singleton_inj.1 h)
    exact decodeFirst_of_major major (by decide) fun m => by rw [decodeOne, m]; exact masked_of mask (accept_of wf)
  | vatomAdd vd va am mk et | vatomAnd vd va am mk et | vatomOr vd va am mk et | vatomXor vd va am mk et | vatomMin vd va am mk et
  | vatomMax vd va am mk et | vatomSwp vd va am mk et =>
    obtain ⟨major, rfl, rfl, ⟨rfl, fn⟩, mask, rfl⟩ := Iff.mp (vatomWord_iff (by decide)) (List.singleton_inj.1 h)
    exact decodeFirst_of_major major (by decide) fun m => by
      rw [decodeOne, m, decode1E, fn]
      exact masked_of mask (accept_of wf)
  | vand vd va vb mk lw | vor vd va vb mk lw | vxor vd va vb mk lw =>
    obtain ⟨major, rfl, rfl, rfl, mask, rfl, fn⟩ := Iff.mp (logicWord_iff (by decide)) (List.singleton_inj.1 h)
    exact decodeFirst_of_major major (by decide) fun m => by rw [decodeOne, m, decode26, fn]; exact masked_of mask rfl
  | vsel vd va vb k lw =>
    obtain ⟨major, rfl, rfl, rfl, rfl, zero, rfl, fn⟩ := vselWord_iff.1 (List.singleton_inj.1 h)
    exact decodeFirst_of_major major (by decide) fun m => by rw [decodeOne, m, decode26, fn]; exact if_pos zero
  | vshl vd va vb mk lw | vshr vd va vb mk lw | vsra vd va vb mk lw =>
    obtain ⟨major, rfl, rfl, rfl, mask, rfl, fn⟩ := Iff.mp (vshiftWord_iff (by decide)) (List.singleton_inj.1 h)
    exact decodeFirst_of_major major (by decide) fun m => by rw [decodeOne, m, decode27, fn]; exact masked_of mask rfl
  | vcmp c vd va vb et =>
    obtain ⟨major, rfl, rfl, rfl, cond, zero, rfl⟩ := vcmpWord_iff.1 (List.singleton_inj.1 h)
    exact decodeFirst_of_major major (by decide) fun m => by rw [decodeOne, m]; exact (if_neg (not_not.2 zero)).trans (coded_of cond (accept_of wf))
  | vcvt t u vd va mk =>
    obtain ⟨major, rfl, rfl, ⟨lt, rfl⟩, mask, rfl⟩ := vcvtWord_iff.1 (List.singleton_inj.1 h)
    exact decodeFirst_of_major major (by decide) fun m => by rw [decodeOne, m]; exact (if_pos lt).trans (masked_of mask (accept_of wf))
  | vredAdd vd va mk et | vredMin vd va mk et | vredMax vd va mk et | vredOr vd va mk et | vscanAdd vd va mk et | vscanMax vd va mk et
  | vunpk vd va mk et | vbcast vd va mk et | vexp2 vd va mk et | vlog2 vd va mk et | vrcp vd va mk et | vrsq vd va mk et
  | vtanh vd va mk et =>
    obtain ⟨major, rfl, rfl, uop, mask, rfl⟩ := Iff.mp (unaryWord_iff (by decide)) (List.singleton_inj.1 h)
    exact decodeFirst_of_major major (by decide) fun m => by
      rw [decodeOne, m, decode2B, uop]
      exact masked_of mask (accept_of wf)
  | vmvg d a n et | vmgv d a n et =>
    obtain ⟨major, rfl, rfl, uop, rfl, zero, rfl⟩ := Iff.mp (moveWord_iff (by decide)) (List.singleton_inj.1 h)
    exact decodeFirst_of_major major (by decide) fun m => by rw [decodeOne, m, decode2B, uop]; exact (if_pos zero).trans (accept_of wf)
  | vnot vd va mk lw =>
    obtain ⟨major, rfl, rfl, uop, mask, rfl, zero⟩ := vnotWord_iff.1 (List.singleton_inj.1 h)
    exact decodeFirst_of_major major (by decide) fun m => by rw [decodeOne, m, decode2B, uop]; exact masked_of mask (zeroes_of zero)
  | strcfg j a b dir am nt =>
    obtain ⟨major, ⟨bound, rfl⟩, rfl, rfl, rfl, rfl, rfl, zero⟩ := strcfgWord_iff.1 (List.singleton_inj.1 h)
    exact decodeFirst_of_major major (by decide) fun m => by rw [decodeOne, m]; exact (if_neg (not_not.2 bound)).trans (zeroes_of zero)
  | strend j =>
    obtain ⟨major, ⟨bound, rfl⟩, zero⟩ := strendWord_iff.1 (List.singleton_inj.1 h)
    exact decodeFirst_of_major major (by decide) fun m => by rw [decodeOne, m]; exact (if_neg (not_not.2 bound)).trans (zeroes_of zero)
  | vloop a n =>
    obtain ⟨major, d, rfl, zero, rfl⟩ := vloopWord_iff.1 (List.singleton_inj.1 h)
    exact decodeFirst_of_major major (by decide) fun m => by rw [decodeOne, m]; exact zeroes_of (by simp [d, zero])
  | fmt aty bty cty scl sp =>
    obtain ⟨major, rfl, rfl, type, rfl, rfl, zero⟩ := fmtWord_iff.1 (List.singleton_inj.1 h)
    exact decodeFirst_of_major major (by decide) fun m => by rw [decodeOne, m]; exact coded_of type (zeroes_of zero)
  | mlease d =>
    obtain ⟨major, rfl, a, b, fn, zero⟩ :=
      Iff.mp (leaseWord_iff (fn := 0) (n := 0) (a := 0) (b := 0) (by decide) (by decide)) (List.singleton_inj.1 h)
    exact decodeFirst_of_major major (by decide) fun m => by
      rw [decodeOne, m, decode31, fn]
      exact zeroes_of (by simp [zero, reserved_ab_iff.2 ⟨a, b⟩])
  | mrel =>
    obtain ⟨major, d, a, b, fn, zero⟩ :=
      Iff.mp (leaseWord_iff (fn := 1) (n := 0) (d := 0) (a := 0) (b := 0) (by decide) (by decide)) (List.singleton_inj.1 h)
    exact decodeFirst_of_major major (by decide) fun m => by
      rw [decodeOne, m, decode31, fn]
      exact zeroes_of (by simp [zero, reserved_ab_iff.2 ⟨a, b⟩, reserved_iff.1 d])
  | oclaim d n =>
    obtain ⟨major, rfl, a, b, fn, num⟩ := Iff.mp (leaseWord_iff (fn := 2) (a := 0) (b := 0) (by decide) (by omega)) (List.singleton_inj.1 h)
    exact decodeFirst_of_major major (by decide) fun m => by
      rw [decodeOne, m, decode31, fn]
      simp [zeroes, num, reserved_ab_iff.2 ⟨a, b⟩]
  | ofree n =>
    obtain ⟨major, d, a, b, fn, num⟩ := Iff.mp (leaseWord_iff (fn := 3) (d := 0) (a := 0) (b := 0) (by decide) (by omega)) (List.singleton_inj.1 h)
    exact decodeFirst_of_major major (by decide) fun m => by
      rw [decodeOne, m, decode31, fn]
      simp [zeroes, num, reserved_ab_iff.2 ⟨a, b⟩, reserved_iff.1 d]
  | mzero t =>
    obtain ⟨major, d, a, b, fn, num⟩ := Iff.mp (leaseWord_iff (fn := 4) (d := 0) (a := 0) (b := 0) (by decide) (by omega)) (List.singleton_inj.1 h)
    exact decodeFirst_of_major major (by decide) fun m => by
      rw [decodeOne, m, decode31, fn]
      simp [zeroes, num, reserved_ab_iff.2 ⟨a, b⟩, reserved_iff.1 d]
  | mvc a b =>
    obtain ⟨major, d, rfl, rfl, fn, zero⟩ := Iff.mp (leaseWord_iff (fn := 5) (n := 0) (d := 0) (by decide) (by decide)) (List.singleton_inj.1 h)
    exact decodeFirst_of_major major (by decide) fun m => by
      rw [decodeOne, m, decode31, fn]
      exact zeroes_of (by simp [zero, reserved_iff.1 d])
  | mld a b am nt slot | mldt a b am nt slot | mlds a b am nt slot =>
    obtain ⟨major, zero, rfl, rfl, fn, rfl, rfl, rfl⟩ := Iff.mp (slotWord_iff (by decide)) (List.singleton_inj.1 h)
    exact decodeFirst_of_major major (by decide) fun m => by rw [decodeOne, m, decode32, fn]; exact zeroes_of zero
  | mst ot a b am nt t =>
    obtain ⟨major, ⟨high, type⟩, rfl, rfl, fn, rfl, rfl, zero, rfl⟩ := mstWord_iff.1 (List.singleton_inj.1 h)
    exact decodeFirst_of_major major (by decide) fun m => by rw [decodeOne, m, decode32, fn]; exact coded_of type (zeroes_of (by simp [high, zero]))
  | mma t sa sb =>
    obtain ⟨major, zero, rfl, rfl, rfl⟩ := mmaWord_iff.1 (List.singleton_inj.1 h)
    exact decodeFirst_of_major major (by decide) fun m => by rw [decodeOne, m]; exact zeroes_of zero
  | cadd a b sc =>
    obtain ⟨major, rfl, rfl, c, fn, scope⟩ := Iff.mp (counterWord_iff (c := 0) (by decide)) (List.singleton_inj.1 h)
    exact decodeFirst_of_major major (by decide) fun m => by
      rw [decodeOne, m]
      change decode36 w = _
      rw [decode36, counterScope_of scope, fn]
      exact zeroes_of (reserved_iff.1 c)
  | caddv a b c sc | cread a b c sc | cwait a b c sc | cwaitt a b c sc | caw a b c sc | cinit a b c sc =>
    obtain ⟨major, rfl, rfl, rfl, fn, scope⟩ := Iff.mp (counterWord_iff (by decide)) (List.singleton_inj.1 h)
    exact decodeFirst_of_major major (by decide) fun m => by rw [decodeOne, m]; change decode36 w = _; rw [decode36, counterScope_of scope, fn]; rfl
  | cpoison a sc =>
    obtain ⟨major, rfl, b, c, fn, scope⟩ := Iff.mp (counterWord_iff (b := 0) (c := 0) (by decide)) (List.singleton_inj.1 h)
    exact decodeFirst_of_major major (by decide) fun m => by
      rw [decodeOne, m]
      change decode36 w = _
      rw [decode36, counterScope_of scope, fn]
      exact zeroes_of (reserved_ab_iff.2 ⟨b, c⟩)
  | twany d a | twall d a | join d a =>
    obtain ⟨major, rfl, rfl, b, fn, zero⟩ := Iff.mp (tagWaitWord_iff (by decide)) (List.singleton_inj.1 h)
    exact decodeFirst_of_major major (by decide) fun m => by rw [decodeOne, m, decode37, fn]; exact zeroes_of (by simp [b, zero])
  | tfirst d =>
    obtain ⟨major, rfl, a, b, fn, zero⟩ := Iff.mp (tagWaitWord_iff (a := 0) (by decide)) (List.singleton_inj.1 h)
    exact decodeFirst_of_major major (by decide) fun m => by
      rw [decodeOne, m, decode37, fn]
      exact zeroes_of (by simp [reserved_iff.1 a, b, zero])
  | fork mb =>
    obtain ⟨major, d, a, b, fn, zero, rfl⟩ := forkWord_iff.1 (List.singleton_inj.1 h)
    exact decodeFirst_of_major major (by decide) fun m => by rw [decodeOne, m, decode37, fn]; exact zeroes_of (by simp [d, a, b, zero])
  | waitn ld st cp tl =>
    obtain ⟨major, zero, rfl, rfl, rfl, rfl⟩ := waitnWord_iff.1 (List.singleton_inj.1 h)
    exact decodeFirst_of_major major (by decide) fun m => by rw [decodeOne, m]; exact zeroes_of zero
  | xcopy a b c sc acq rel | xgath a b c sc acq rel | xfill a b c sc acq rel | xput a b c sc acq rel | xget a b c sc acq rel =>
    obtain ⟨major, rfl, rfl, rfl, scope, fn, rfl, rfl, zero⟩ := Iff.mp (copyWord_iff (by decide)) (List.singleton_inj.1 h)
    exact decodeFirst_of_major major (by decide) fun m => by rw [decodeOne, m, decode39, fn]; exact coded_of scope (zeroes_of zero)
  | xscat a b c sc acq rel ord =>
    obtain ⟨major, rfl, rfl, rfl, scope, fn, rfl, rfl, rfl, zero⟩ := xscatWord_iff.1 (List.singleton_inj.1 h)
    exact decodeFirst_of_major major (by decide) fun m => by rw [decodeOne, m, decode39, fn]; exact coded_of scope (zeroes_of zero)
  | xsub a b c sc | xpub a b c sc =>
    obtain ⟨major, rfl, rfl, rfl, scope, fn, zero⟩ := Iff.mp (scopedWord_iff (by decide)) (List.singleton_inj.1 h)
    exact decodeFirst_of_major major (by decide) fun m => by rw [decodeOne, m, decode3A, fn]; exact coded_of scope (zeroes_of zero)
  | xquery a b c =>
    obtain ⟨major, rfl, rfl, rfl, scope, fn, zero⟩ := xqueryWord_iff.1 (List.singleton_inj.1 h)
    exact decodeFirst_of_major major (by decide) fun m => by rw [decodeOne, m, decode3A, fn]; exact zeroes_of (by simp [scope, zero])
  | glmap a b c sc | gcopy a b c sc | gsend a b c sc | grecv a b c sc | gcmp a b c sc | ghash a b c sc | grel a b c sc =>
    obtain ⟨major, rfl, rfl, rfl, scope, fn, zero⟩ := Iff.mp (scopedWord_iff (by decide)) (List.singleton_inj.1 h)
    exact decodeFirst_of_major major (by decide) fun m => by rw [decodeOne, m, decode3B, fn]; exact coded_of scope (zeroes_of zero)
  | ebind e a b c | emap e a b c | esig e a b c =>
    obtain ⟨major, rfl, rfl, rfl, zero, fn, rfl⟩ := Iff.mp (ephemerisWord_iff (by decide)) (List.singleton_inj.1 h)
    exact decodeFirst_of_major major (by decide) fun m => by rw [decodeOne, m, decode3C, fn]; exact zeroes_of zero
  | estep e c =>
    obtain ⟨major, a, b, rfl, zero, fn, rfl⟩ := Iff.mp (ephemerisWord_iff (a := 0) (b := 0) (by decide)) (List.singleton_inj.1 h)
    exact decodeFirst_of_major major (by decide) fun m => by
      rw [decodeOne, m, decode3C, fn]
      exact zeroes_of (by simp [zero, reserved_da_iff.2 ⟨a, b⟩])
  | eld e a b | emma e a b =>
    obtain ⟨major, rfl, rfl, c, zero, fn, rfl⟩ := Iff.mp (ephemerisWord_iff (c := 0) (by decide)) (List.singleton_inj.1 h)
    exact decodeFirst_of_major major (by decide) fun m => by rw [decodeOne, m, decode3C, fn]; exact zeroes_of (by simp [zero, reserved_iff.1 c])
  | eforce e =>
    obtain ⟨major, a, b, c, zero, fn, rfl⟩ := Iff.mp (ephemerisWord_iff (a := 0) (b := 0) (c := 0) (by decide)) (List.singleton_inj.1 h)
    exact decodeFirst_of_major major (by decide) fun m => by
      rw [decodeOne, m, decode3C, fn]
      exact zeroes_of (by simp [zero, reserved_dab_iff.2 ⟨a, b, c⟩])
  | trap k =>
    obtain ⟨major, d, a, fn, rfl⟩ := Iff.mp (codeWord_iff (fn := 0) (k := k) (by decide) (by omega)) (List.singleton_inj.1 h)
    exact decodeFirst_of_major major (by decide) fun m => by rw [decodeOne, m, decode3D, fn]; exact zeroes_of (by simp [d, a])
  | brk k =>
    obtain ⟨major, d, a, fn, rfl⟩ := Iff.mp (codeWord_iff (fn := 4) (by decide) rfl) (List.singleton_inj.1 h)
    exact decodeFirst_of_major major (by decide) fun m => by rw [decodeOne, m, decode3D, fn]; exact zeroes_of (by simp [d, a])
  | tret =>
    obtain ⟨major, d, a, fn, zero⟩ :=
      Iff.mp (systemWord_iff (fn := 1) (k := 0) (d := 0) (a := 0) rfl (by decide) (by decide)) (List.singleton_inj.1 h)
    exact decodeFirst_of_major major (by decide) fun m => by
      rw [decodeOne, m, decode3D, fn]
      exact zeroes_of (by simp [reserved_iff.1 d, reserved_iff.1 a, zero])
  | yield =>
    obtain ⟨major, d, a, fn, zero⟩ :=
      Iff.mp (systemWord_iff (fn := 6) (k := 0) (d := 0) (a := 0) rfl (by decide) (by decide)) (List.singleton_inj.1 h)
    exact decodeFirst_of_major major (by decide) fun m => by
      rw [decodeOne, m, decode3D, fn]
      exact zeroes_of (by simp [reserved_iff.1 d, reserved_iff.1 a, zero])
  | genpub a =>
    obtain ⟨major, d, rfl, fn, zero⟩ := Iff.mp (systemWord_iff (fn := 5) (k := 0) (d := 0) rfl (by decide) (by decide)) (List.singleton_inj.1 h)
    exact decodeFirst_of_major major (by decide) fun m => by
      rw [decodeOne, m, decode3D, fn]
      exact zeroes_of (by simp [reserved_iff.1 d, zero])
  | mfk d k =>
    obtain ⟨major, rfl, a, fn, code⟩ := Iff.mp (systemWord_iff (fn := 2) (a := 0) rfl (by decide) k.code_lt) (List.singleton_inj.1 h)
    exact decodeFirst_of_major major (by decide) fun m => by
      rw [decodeOne, m, decode3D, fn]
      exact coded_of (CtlReg.ofCode_eq_some_iff.2 code) (zeroes_of (reserved_iff.1 a))
  | mtk k a =>
    obtain ⟨major, d, rfl, fn, code⟩ := Iff.mp (systemWord_iff (fn := 3) (d := 0) rfl (by decide) k.code_lt) (List.singleton_inj.1 h)
    exact decodeFirst_of_major major (by decide) fun m => by
      rw [decodeOne, m, decode3D, fn]
      exact coded_of (CtlReg.ofCode_eq_some_iff.2 code) (zeroes_of (reserved_iff.1 d))
  | _ => cases h

end Sys2Proof
end

section
/-! SUPPORT. What the decoder accepts (R53, R55, R57–R70): each arm, inverted, names an instruction whose word it has read. -/

namespace Sys2Proof

/-- `w` is the word of the well-formed instruction `i`. -/
def Encodes (w : Nat) (i : Instr) : Prop := i.wf = true ∧ i.words = [w]

theorem Encodes.of {w e : Nat} {i : Instr} (wf : i.wf = true) (words : i.words = [e]) (h : e = w) : Encodes w i := ⟨wf, h ▸ words⟩

/-- The major of a word of 32 bits. -/
theorem major_eq {w m : Nat} (hw : w < 2 ^ 32) (h : field w 26 6 = m) : w / 2 ^ 26 = m := by
  simp only [field] at h
  omega

section
variable {w : Nat} {i : Instr}

theorem decode01_encodes (major : w / 2 ^ 26 = 1) (h : decode01 w = .ok i) : Encodes w i := by
  unfold decode01 at h
  split at h
  case h_1 fn | h_2 fn | h_3 fn | h_4 fn | h_5 fn | h_6 fn | h_7 fn | h_8 fn | h_9 fn | h_10 fn | h_11 fn | h_12 fn | h_13 fn | h_14 fn
    | h_15 fn | h_19 fn | h_20 fn | h_21 fn | h_22 fn | h_23 fn | h_24 fn =>
    obtain ⟨zero, rfl⟩ := zeroes_ok_iff.1 h
    exact .of rfl rfl (Iff.mpr (aluWord_iff (by decide)) ⟨major, rfl, rfl, rfl, fn, zero⟩)
  case h_16 fn | h_17 fn | h_18 fn =>
    obtain ⟨zero, rfl⟩ := zeroes_ok_iff.1 h
    exact .of rfl rfl (Iff.mpr (bitsWord_iff (width := 0) (by decide)) ⟨major, rfl, rfl, reserved_iff.2 zero, fn, rfl⟩)
  case h_25 fn | h_26 fn | h_27 fn =>
    obtain ⟨zero, rfl⟩ := zeroes_ok_iff.1 h
    obtain ⟨b, sh⟩ := Nat.add_eq_zero_iff.1 zero
    exact .of rfl rfl (Iff.mpr (aluWord_iff (b := 0) (by decide)) ⟨major, rfl, rfl, reserved_iff.2 b, fn, sh⟩)
  case h_28 fn | h_29 fn | h_30 fn =>
    obtain ⟨wf, rfl⟩ := accept_ok_iff.1 h
    exact .of wf rfl (Iff.mpr (bitsWord_iff (by decide)) ⟨major, rfl, rfl, rfl, fn, rfl⟩)
  case h_31 => cases h

theorem decode0C_encodes (major : w / 2 ^ 26 = 12) (h : decode0C w = .ok i) : Encodes w i := by
  unfold decode0C at h
  split at h
  case h_1 fn | h_2 fn | h_3 fn | h_4 fn | h_5 fn | h_6 fn | h_7 fn =>
    obtain ⟨t, type, h⟩ := coded_ok_iff.1 h
    obtain ⟨zero, rfl⟩ := zeroes_ok_iff.1 h
    exact .of rfl rfl (Iff.mpr (floatWord_iff (by decide)) ⟨major, rfl, rfl, rfl, fn, type, zero⟩)
  case h_8 fn =>
    obtain ⟨t, type, h⟩ := coded_ok_iff.1 h
    obtain ⟨zero, rfl⟩ := zeroes_ok_iff.1 h
    obtain ⟨cc, b⟩ := Nat.add_eq_zero_iff.1 zero
    exact .of rfl rfl (Iff.mpr (floatWord_iff (b := 0) (by decide)) ⟨major, rfl, rfl, reserved_iff.2 b, fn, type, cc⟩)
  case h_9 fn =>
    obtain ⟨t, type, h⟩ := coded_ok_iff.1 h
    obtain ⟨c, cond, h⟩ := coded_ok_iff.1 h
    cases h
    exact .of rfl rfl (fcmpWord_iff.2 ⟨major, rfl, rfl, rfl, fn, type, cond⟩)
  case h_10 fn =>
    obtain ⟨⟨zero, lt⟩, h⟩ := ite_ok_iff.1 h
    obtain ⟨wf, rfl⟩ := accept_ok_iff.1 h
    exact .of wf rfl (fcvtWord_iff.2 ⟨major, rfl, rfl, ⟨lt, rfl⟩, fn, rfl, zero⟩)
  case h_11 => cases h

/-- Loads and stores: the size selects the arm. -/
theorem mfields_encodes {maj sz : Nat} {k : Reg → Reg → AddrMode → Order → Bool → BitVec 8 → Instr} (major : w / 2 ^ 26 = maj)
    (size : field w 11 3 = sz) (words : ∀ d b am oa nt off, (k d b am oa nt off).words = [encM maj d b am sz oa nt off])
    (wf : ∀ d b am oa nt off, (k d b am oa nt off).wf = true) (h : mfields w k = .ok i) : Encodes w i := by
  cases h
  exact .of (wf ..) (words ..) ((memWord_iff (size ▸ field_lt w 11 3)).2 ⟨major, rfl, rfl, rfl, size, rfl, rfl, rfl⟩)

theorem decode10_encodes (major : w / 2 ^ 26 = 16) (h : decode10 w = .ok i) : Encodes w i := by
  unfold decode10 at h
  split at h
  case h_8 => cases h
  all_goals exact mfields_encodes major ‹_› (fun _ _ _ _ _ _ => rfl) (fun _ _ _ _ _ _ => rfl) h

theorem decode11_encodes (major : w / 2 ^ 26 = 17) (h : decode11 w = .ok i) : Encodes w i := by
  unfold decode11 at h
  split at h
  case h_5 => cases h
  all_goals exact mfields_encodes major ‹_› (fun _ _ _ _ _ _ => rfl) (fun _ _ _ _ _ _ => rfl) h

theorem decode18_encodes (major : w / 2 ^ 26 = 24) (h : decode18 w = .ok i) : Encodes w i := by
  unfold decode18 at h
  split at h
  case h_4 => cases h
  all_goals exact mfields_encodes major ‹_› (fun _ _ _ _ _ _ => rfl) (fun _ _ _ _ _ _ => rfl) h

theorem decode19_encodes (major : w / 2 ^ 26 = 25) (h : decode19 w = .ok i) : Encodes w i := by
  unfold decode19 at h
  split at h
  case h_4 => cases h
  all_goals exact mfields_encodes major ‹_› (fun _ _ _ _ _ _ => rfl) (fun _ _ _ _ _ _ => rfl) h

theorem decode12_encodes (major : w / 2 ^ 26 = 18) (h : decode12 w = .ok i) : Encodes w i := by
  unfold decode12 at h
  split at h
  case isTrue load =>
    obtain ⟨zero, rfl⟩ := zeroes_ok_iff.1 h
    exact .of rfl rfl (lbfWord_iff.2 ⟨major, rfl, rfl, rfl, load, rfl, rfl, zero⟩)
  case isFalse store =>
    obtain ⟨zero, rfl⟩ := zeroes_ok_iff.1 h
    have := field_lt w 10 1
    exact .of rfl rfl (sbfWord_iff.2 ⟨major, rfl, rfl, rfl, by omega, rfl, zero⟩)

/-- The last of the eight functions is the one the other arms leave over. -/
theorem decode13_encodes (major : w / 2 ^ 26 = 19) (h : decode13 w = .ok i) : Encodes w i := by
  have functions := field_lt w 8 3
  unfold decode13 at h
  split at h
  all_goals
    obtain ⟨sc, scope, h⟩ := coded_ok_iff.1 h
    obtain ⟨wf, rfl⟩ := accept_ok_iff.1 h
    exact .of wf rfl (Iff.mpr (atomicWord_iff (by decide)) ⟨major, rfl, rfl, rfl, by grind, rfl, rfl, rfl, scope⟩)

theorem decode14_encodes (major : w / 2 ^ 26 = 20) (h : decode14 w = .ok i) : Encodes w i := by
  obtain ⟨zero, h⟩ := ite_error_ok_iff.1 h
  obtain ⟨high, low⟩ := Nat.add_eq_zero_iff.1 (not_not.1 zero)
  obtain ⟨sc, scope, h⟩ := coded_ok_iff.1 h
  split at h
  case h_4 => cases h
  all_goals
    obtain ⟨wf, rfl⟩ := accept_ok_iff.1 h
    exact .of wf rfl (Iff.mpr (fenceWord_iff (by decide)) ⟨major, high, ‹_›, scope, rfl, low⟩)

theorem decode15_encodes (major : w / 2 ^ 26 = 21) (h : decode15 w = .ok i) : Encodes w i := by
  unfold decode15 at h
  split at h
  case h_1 fn =>
    obtain ⟨zero, rfl⟩ := zeroes_ok_iff.1 h
    obtain ⟨low, b⟩ := Nat.add_eq_zero_iff.1 zero
    exact .of rfl rfl (Iff.mpr (tagWord_iff (fn := 0) (b := 0) (by decide)) ⟨major, rfl, rfl, reserved_iff.2 b, fn, low⟩)
  case h_2 fn =>
    obtain ⟨zero, rfl⟩ := zeroes_ok_iff.1 h
    obtain ⟨low, d⟩ := Nat.add_eq_zero_iff.1 zero
    exact .of rfl rfl (Iff.mpr (tagWord_iff (fn := 1) (d := 0) (by decide)) ⟨major, reserved_iff.2 d, rfl, rfl, fn, low⟩)
  case h_3 fn =>
    obtain ⟨zero, rfl⟩ := zeroes_ok_iff.1 h
    obtain ⟨lowb, d⟩ := Nat.add_eq_zero_iff.1 zero
    obtain ⟨low, b⟩ := Nat.add_eq_zero_iff.1 lowb
    exact .of rfl rfl (Iff.mpr (tagWord_iff (fn := 2) (d := 0) (b := 0) (by decide))
      ⟨major, reserved_iff.2 d, rfl, reserved_iff.2 b, fn, low⟩)
  case h_4 => cases h

theorem decode1E_encodes (major : w / 2 ^ 26 = 30) (h : decode1E w = .ok i) : Encodes w i := by
  unfold decode1E at h
  split at h
  case h_8 => cases h
  all_goals
    obtain ⟨mk, mask, h⟩ := masked_ok_iff.1 h
    obtain ⟨wf, rfl⟩ := accept_ok_iff.1 h
    exact .of wf rfl (Iff.mpr (vatomWord_iff (by decide)) ⟨major, rfl, rfl, ⟨rfl, ‹_›⟩, mask, rfl⟩)

theorem vform_encodes {maj : Nat} {k : Reg → Reg → Reg → Mask → ElemType → Instr} (major : w / 2 ^ 26 = maj)
    (words : ∀ vd va vb mk et, (k vd va vb mk et).words = [encV maj vd.val va.val vb.val mk.reg mk.mk et.code]) (h : vform w k = .ok i) :
    Encodes w i := by
  obtain ⟨mk, mask, h⟩ := masked_ok_iff.1 h
  obtain ⟨wf, rfl⟩ := accept_ok_iff.1 h
  exact .of wf (words ..) (vecWord_iff.2 ⟨major, rfl, rfl, rfl, mask, rfl⟩)

theorem decode26_encodes (major : w / 2 ^ 26 = 38) (h : decode26 w = .ok i) : Encodes w i := by
  unfold decode26 at h
  split at h
  case h_4 =>
    obtain ⟨zero, h⟩ := ite_ok_iff.1 h
    cases h
    have := field_lt w 0 2
    exact .of rfl rfl (vselWord_iff.2 ⟨major, rfl, rfl, rfl, rfl, zero, rfl, by grind⟩)
  all_goals
    obtain ⟨mk, mask, h⟩ := masked_ok_iff.1 h
    cases h
    exact .of rfl rfl (Iff.mpr (logicWord_iff (by decide)) ⟨major, rfl, rfl, rfl, mask, rfl, ‹_›⟩)

theorem decode27_encodes (major : w / 2 ^ 26 = 39) (h : decode27 w = .ok i) : Encodes w i := by
  unfold decode27 at h
  split at h
  case h_4 => cases h
  all_goals
    obtain ⟨mk, mask, h⟩ := masked_ok_iff.1 h
    cases h
    exact .of rfl rfl (Iff.mpr (vshiftWord_iff (by decide)) ⟨major, rfl, rfl, rfl, mask, rfl, ‹_›⟩)

theorem decode28_encodes (major : w / 2 ^ 26 = 40) (h : decode28 w = .ok i) : Encodes w i := by
  obtain ⟨zero, h⟩ := ite_error_ok_iff.1 h
  obtain ⟨c, cond, h⟩ := coded_ok_iff.1 h
  obtain ⟨wf, rfl⟩ := accept_ok_iff.1 h
  exact .of wf rfl (vcmpWord_iff.2 ⟨major, rfl, rfl, rfl, cond, not_not.1 zero, rfl⟩)

theorem decode2B_encodes (major : w / 2 ^ 26 = 43) (h : decode2B w = .ok i) : Encodes w i := by
  unfold decode2B at h
  dsimp only at h
  split at h
  case isTrue lt =>
    obtain ⟨mk, mask, h⟩ := masked_ok_iff.1 h
    obtain ⟨wf, rfl⟩ := accept_ok_iff.1 h
    exact .of wf rfl (vcvtWord_iff.2 ⟨major, rfl, rfl, ⟨lt, rfl⟩, mask, rfl⟩)
  case isFalse =>
    split at h
    case h_9 uop | h_10 uop =>
      obtain ⟨zero, h⟩ := ite_ok_iff.1 h
      obtain ⟨wf, rfl⟩ := accept_ok_iff.1 h
      exact .of wf rfl (Iff.mpr (moveWord_iff (by decide)) ⟨major, rfl, rfl, uop, rfl, zero, rfl⟩)
    case h_16 =>
      obtain ⟨mk, mask, h⟩ := masked_ok_iff.1 h
      obtain ⟨zero, rfl⟩ := zeroes_ok_iff.1 h
      have := field_lt w 11 5
      exact .of rfl rfl (vnotWord_iff.2 ⟨major, rfl, rfl, by grind, mask, rfl, zero⟩)
    all_goals
      obtain ⟨mk, mask, h⟩ := masked_ok_iff.1 h
      obtain ⟨wf, rfl⟩ := accept_ok_iff.1 h
      exact .of wf rfl (Iff.mpr (unaryWord_iff (by decide)) ⟨major, rfl, rfl, ‹_›, mask, rfl⟩)

theorem decode2C_encodes (major : w / 2 ^ 26 = 44) (h : decode2C w = .ok i) : Encodes w i := by
  obtain ⟨bound, h⟩ := ite_error_ok_iff.1 h
  obtain ⟨zero, rfl⟩ := zeroes_ok_iff.1 h
  exact .of rfl rfl (strcfgWord_iff.2 ⟨major, ⟨not_not.1 bound, rfl⟩, rfl, rfl, rfl, rfl, rfl, zero⟩)

theorem decode2D_encodes (major : w / 2 ^ 26 = 45) (h : decode2D w = .ok i) : Encodes w i := by
  obtain ⟨bound, h⟩ := ite_error_ok_iff.1 h
  obtain ⟨zero, rfl⟩ := zeroes_ok_iff.1 h
  exact .of rfl rfl (strendWord_iff.2 ⟨major, ⟨not_not.1 bound, rfl⟩, zero⟩)

theorem decode2E_encodes (major : w / 2 ^ 26 = 46) (h : decode2E w = .ok i) : Encodes w i := by
  obtain ⟨zero, rfl⟩ := zeroes_ok_iff.1 h
  obtain ⟨d, high⟩ := Nat.add_eq_zero_iff.1 zero
  exact .of rfl rfl (vloopWord_iff.2 ⟨major, d, rfl, high, rfl⟩)

theorem decode30_encodes (major : w / 2 ^ 26 = 48) (h : decode30 w = .ok i) : Encodes w i := by
  obtain ⟨c, type, h⟩ := coded_ok_iff.1 h
  obtain ⟨zero, rfl⟩ := zeroes_ok_iff.1 h
  exact .of rfl rfl (fmtWord_iff.2 ⟨major, rfl, rfl, type, rfl, rfl, zero⟩)

theorem regs_dab_eq_zero_iff : field w 21 5 + field w 11 10 = 0 ↔ rd w = 0 ∧ ra w = 0 ∧ rb w = 0 := by
  rw [Nat.add_eq_zero_iff, reserved_ab_iff, ← reserved_iff]

theorem decode31_encodes (major : w / 2 ^ 26 = 49) (h : decode31 w = .ok i) : Encodes w i := by
  unfold decode31 at h
  split at h
  case h_1 fn =>
    obtain ⟨zero, rfl⟩ := zeroes_ok_iff.1 h
    obtain ⟨regs, n⟩ := Nat.add_eq_zero_iff.1 zero
    obtain ⟨a, b⟩ := reserved_ab_iff.1 regs
    exact .of rfl rfl (Iff.mpr (leaseWord_iff (fn := 0) (n := 0) (a := 0) (b := 0) (by decide) (by decide))
      ⟨major, rfl, a, b, fn, n⟩)
  case h_2 fn =>
    obtain ⟨zero, rfl⟩ := zeroes_ok_iff.1 h
    obtain ⟨regs, n⟩ := Nat.add_eq_zero_iff.1 zero
    obtain ⟨d, a, b⟩ := regs_dab_eq_zero_iff.1 regs
    exact .of rfl rfl (Iff.mpr (leaseWord_iff (fn := 1) (n := 0) (d := 0) (a := 0) (b := 0) (by decide) (by decide)) ⟨major, d, a, b, fn, n⟩)
  case h_3 fn =>
    obtain ⟨lt, h⟩ := ite_ok_iff.1 h
    obtain ⟨regs, rfl⟩ := zeroes_ok_iff.1 h
    obtain ⟨a, b⟩ := reserved_ab_iff.1 regs
    exact .of rfl rfl (Iff.mpr (leaseWord_iff (fn := 2) (a := 0) (b := 0) (by decide) (by omega))
      ⟨major, rfl, a, b, fn, (toFin_eq_iff _ lt).1 rfl⟩)
  case h_4 fn =>
    obtain ⟨lt, h⟩ := ite_ok_iff.1 h
    obtain ⟨regs, rfl⟩ := zeroes_ok_iff.1 h
    obtain ⟨d, a, b⟩ := regs_dab_eq_zero_iff.1 regs
    exact .of rfl rfl (Iff.mpr (leaseWord_iff (fn := 3) (d := 0) (a := 0) (b := 0) (by decide) (by omega))
      ⟨major, d, a, b, fn, (toFin_eq_iff _ lt).1 rfl⟩)
  case h_5 fn =>
    obtain ⟨lt, h⟩ := ite_ok_iff.1 h
    obtain ⟨regs, rfl⟩ := zeroes_ok_iff.1 h
    obtain ⟨d, a, b⟩ := regs_dab_eq_zero_iff.1 regs
    exact .of rfl rfl (Iff.mpr (leaseWord_iff (fn := 4) (d := 0) (a := 0) (b := 0) (by decide) (by omega))
      ⟨major, d, a, b, fn, (toFin_eq_iff _ lt).1 rfl⟩)
  case h_6 fn =>
    obtain ⟨zero, rfl⟩ := zeroes_ok_iff.1 h
    obtain ⟨d, n⟩ := Nat.add_eq_zero_iff.1 zero
    exact .of rfl rfl (Iff.mpr (leaseWord_iff (fn := 5) (n := 0) (d := 0) (by decide) (by decide))
      ⟨major, reserved_iff.2 d, rfl, rfl, fn, n⟩)
  case h_7 => cases h

theorem decode32_encodes (major : w / 2 ^ 26 = 50) (h : decode32 w = .ok i) : Encodes w i := by
  unfold decode32 at h
  split at h
  case h_4 =>
    obtain ⟨ot, type, h⟩ := coded_ok_iff.1 h
    obtain ⟨zero, rfl⟩ := zeroes_ok_iff.1 h
    obtain ⟨high, low⟩ := Nat.add_eq_zero_iff.1 zero
    have := field_lt w 9 2
    exact .of rfl rfl (mstWord_iff.2 ⟨major, ⟨high, type⟩, rfl, rfl, by grind, rfl, rfl, low, rfl⟩)
  all_goals
    obtain ⟨zero, rfl⟩ := zeroes_ok_iff.1 h
    exact .of rfl rfl (Iff.mpr (slotWord_iff (by decide)) ⟨major, zero, rfl, rfl, ‹_›, rfl, rfl, rfl⟩)

theorem decode36_encodes (major : w / 2 ^ 26 = 54) (h : decode36 w = .ok i) : Encodes w i := by
  obtain ⟨sc, scope, h⟩ := counterScope_ok h
  split at h
  case h_1 fn =>
    obtain ⟨c, rfl⟩ := zeroes_ok_iff.1 h
    exact .of rfl rfl (Iff.mpr (counterWord_iff (c := 0) (by decide)) ⟨major, rfl, rfl, reserved_iff.2 c, fn, scope⟩)
  case h_8 fn =>
    obtain ⟨zero, rfl⟩ := zeroes_ok_iff.1 h
    obtain ⟨b, c⟩ := reserved_ab_iff.1 zero
    exact .of rfl rfl (Iff.mpr (counterWord_iff (b := 0) (c := 0) (by decide))
      ⟨major, rfl, b, c, fn, scope⟩)
  case h_9 => cases h
  all_goals
    cases h
    exact .of rfl rfl (Iff.mpr (counterWord_iff (by decide)) ⟨major, rfl, rfl, rfl, ‹_›, scope⟩)

theorem decode37_encodes (major : w / 2 ^ 26 = 55) (h : decode37 w = .ok i) : Encodes w i := by
  unfold decode37 at h
  split at h
  case h_1 fn | h_2 fn | h_5 fn =>
    obtain ⟨zero, rfl⟩ := zeroes_ok_iff.1 h
    obtain ⟨b, low⟩ := Nat.add_eq_zero_iff.1 zero
    exact .of rfl rfl (Iff.mpr (tagWaitWord_iff (by decide)) ⟨major, rfl, rfl, b, fn, low⟩)
  case h_3 fn =>
    obtain ⟨zero, rfl⟩ := zeroes_ok_iff.1 h
    obtain ⟨regs, low⟩ := Nat.add_eq_zero_iff.1 zero
    obtain ⟨b, a⟩ := Nat.add_eq_zero_iff.1 regs
    exact .of rfl rfl (Iff.mpr (tagWaitWord_iff (a := 0) (by decide)) ⟨major, rfl, reserved_iff.2 a, b, fn, low⟩)
  case h_4 fn =>
    obtain ⟨zero, rfl⟩ := zeroes_ok_iff.1 h
    obtain ⟨regs, low⟩ := Nat.add_eq_zero_iff.1 zero
    obtain ⟨ab, d⟩ := Nat.add_eq_zero_iff.1 regs
    obtain ⟨b, a⟩ := Nat.add_eq_zero_iff.1 ab
    exact .of rfl rfl (forkWord_iff.2 ⟨major, d, a, b, fn, low, rfl⟩)
  case h_6 => cases h

theorem decode39_encodes (major : w / 2 ^ 26 = 57) (h : decode39 w = .ok i) : Encodes w i := by
  unfold decode39 at h
  split at h
  case h_3 fn =>
    obtain ⟨sc, scope, h⟩ := coded_ok_iff.1 h
    obtain ⟨zero, rfl⟩ := zeroes_ok_iff.1 h
    exact .of rfl rfl (xscatWord_iff.2 ⟨major, rfl, rfl, rfl, scope, fn, rfl, rfl, rfl, zero⟩)
  case h_7 => cases h
  all_goals
    obtain ⟨sc, scope, h⟩ := coded_ok_iff.1 h
    obtain ⟨zero, rfl⟩ := zeroes_ok_iff.1 h
    exact .of rfl rfl (Iff.mpr (copyWord_iff (by decide)) ⟨major, rfl, rfl, rfl, scope, ‹_›, rfl, rfl, zero⟩)

theorem decode3A_encodes (major : w / 2 ^ 26 = 58) (h : decode3A w = .ok i) : Encodes w i := by
  unfold decode3A at h
  split at h
  case h_1 fn | h_2 fn =>
    obtain ⟨sc, scope, h⟩ := coded_ok_iff.1 h
    obtain ⟨zero, rfl⟩ := zeroes_ok_iff.1 h
    exact .of rfl rfl (Iff.mpr (scopedWord_iff (by decide)) ⟨major, rfl, rfl, rfl, scope, fn, zero⟩)
  case h_3 fn =>
    obtain ⟨zero, rfl⟩ := zeroes_ok_iff.1 h
    obtain ⟨low, scope⟩ := Nat.add_eq_zero_iff.1 zero
    exact .of rfl rfl (xqueryWord_iff.2 ⟨major, rfl, rfl, rfl, scope, fn, low⟩)
  case h_4 => cases h

theorem decode3B_encodes (major : w / 2 ^ 26 = 59) (h : decode3B w = .ok i) : Encodes w i := by
  obtain ⟨sc, scope, h⟩ := coded_ok_iff.1 h
  dsimp only at h
  split at h
  case h_8 => cases h
  all_goals
    obtain ⟨zero, rfl⟩ := zeroes_ok_iff.1 h
    exact .of rfl rfl (Iff.mpr (scopedWord_iff (by decide)) ⟨major, rfl, rfl, rfl, scope, ‹_›, zero⟩)

theorem decode3C_encodes (major : w / 2 ^ 26 = 60) (h : decode3C w = .ok i) : Encodes w i := by
  unfold decode3C at h
  split at h
  case h_1 fn | h_5 fn | h_6 fn =>
    obtain ⟨zero, rfl⟩ := zeroes_ok_iff.1 h
    exact .of rfl rfl (Iff.mpr (ephemerisWord_iff (by decide)) ⟨major, rfl, rfl, rfl, zero, fn, rfl⟩)
  case h_2 fn =>
    obtain ⟨zero, rfl⟩ := zeroes_ok_iff.1 h
    obtain ⟨scope, regs⟩ := Nat.add_eq_zero_iff.1 zero
    obtain ⟨a, b⟩ := reserved_da_iff.1 regs
    exact .of rfl rfl (Iff.mpr (ephemerisWord_iff (a := 0) (b := 0) (by decide))
      ⟨major, a, b, rfl, scope, fn, rfl⟩)
  case h_3 fn | h_4 fn =>
    obtain ⟨zero, rfl⟩ := zeroes_ok_iff.1 h
    obtain ⟨scope, c⟩ := Nat.add_eq_zero_iff.1 zero
    exact .of rfl rfl (Iff.mpr (ephemerisWord_iff (c := 0) (by decide)) ⟨major, rfl, rfl, reserved_iff.2 c, scope, fn, rfl⟩)
  case h_7 fn =>
    obtain ⟨zero, rfl⟩ := zeroes_ok_iff.1 h
    obtain ⟨scope, regs⟩ := Nat.add_eq_zero_iff.1 zero
    obtain ⟨a, b, c⟩ := reserved_dab_iff.1 regs
    exact .of rfl rfl (Iff.mpr (ephemerisWord_iff (a := 0) (b := 0) (c := 0) (by decide))
      ⟨major, a, b, c, scope, fn, rfl⟩)
  case h_8 => cases h

/-- A control register in the twelve low bits is the one of its number (R22). -/
theorem decode3D_encodes (major : w / 2 ^ 26 = 61) (h : decode3D w = .ok i) : Encodes w i := by
  unfold decode3D at h
  split at h
  case h_1 fn =>
    obtain ⟨zero, rfl⟩ := zeroes_ok_iff.1 h
    obtain ⟨d, a⟩ := Nat.add_eq_zero_iff.1 zero
    exact .of rfl rfl (Iff.mpr (codeWord_iff (fn := 0) (by decide) (by omega)) ⟨major, d, a, fn, rfl⟩)
  case h_2 fn =>
    obtain ⟨zero, rfl⟩ := zeroes_ok_iff.1 h
    obtain ⟨regs, k⟩ := Nat.add_eq_zero_iff.1 zero
    obtain ⟨d, a⟩ := Nat.add_eq_zero_iff.1 regs
    exact .of rfl rfl (Iff.mpr (systemWord_iff (fn := 1) (k := 0) (d := 0) (a := 0) rfl (by decide) (by decide))
      ⟨major, reserved_iff.2 d, reserved_iff.2 a, fn, k⟩)
  case h_3 fn =>
    obtain ⟨r, code, h⟩ := coded_ok_iff.1 h
    obtain ⟨a, rfl⟩ := zeroes_ok_iff.1 h
    exact .of rfl rfl (Iff.mpr (systemWord_iff (fn := 2) (a := 0) rfl (by decide) r.code_lt)
      ⟨major, rfl, reserved_iff.2 a, fn, CtlReg.ofCode_eq_some_iff.1 code⟩)
  case h_4 fn =>
    obtain ⟨r, code, h⟩ := coded_ok_iff.1 h
    obtain ⟨d, rfl⟩ := zeroes_ok_iff.1 h
    exact .of rfl rfl (Iff.mpr (systemWord_iff (fn := 3) (d := 0) rfl (by decide) r.code_lt)
      ⟨major, reserved_iff.2 d, rfl, fn, CtlReg.ofCode_eq_some_iff.1 code⟩)
  case h_5 fn =>
    obtain ⟨zero, rfl⟩ := zeroes_ok_iff.1 h
    obtain ⟨d, a⟩ := Nat.add_eq_zero_iff.1 zero
    exact .of rfl rfl (Iff.mpr (codeWord_iff (fn := 4) (by decide) rfl) ⟨major, d, a, fn, rfl⟩)
  case h_6 fn =>
    obtain ⟨zero, rfl⟩ := zeroes_ok_iff.1 h
    obtain ⟨d, k⟩ := Nat.add_eq_zero_iff.1 zero
    exact .of rfl rfl (Iff.mpr (systemWord_iff (fn := 5) (k := 0) (d := 0) rfl (by decide) (by decide))
      ⟨major, reserved_iff.2 d, rfl, fn, k⟩)
  case h_7 fn =>
    obtain ⟨zero, rfl⟩ := zeroes_ok_iff.1 h
    obtain ⟨regs, k⟩ := Nat.add_eq_zero_iff.1 zero
    obtain ⟨d, a⟩ := Nat.add_eq_zero_iff.1 regs
    exact .of rfl rfl (Iff.mpr (systemWord_iff (fn := 6) (k := 0) (d := 0) (a := 0) rfl (by decide) (by decide))
      ⟨major, reserved_iff.2 d, reserved_iff.2 a, fn, k⟩)
  case h_8 => cases h

theorem decodeImm_encodes {maj : Nat} (major : w / 2 ^ 26 = maj) (hmaj : 2 ≤ maj ∧ maj ≤ 11) (h : decodeImm maj w = .ok i) : Encodes w i := by
  unfold decodeImm at h
  split at h
  case h_1 | h_2 | h_3 | h_4 | h_5 | h_8 =>
    cases h
    exact .of rfl rfl (immWord_iff.2 ⟨major, rfl, rfl, rfl⟩)
  case h_6 =>
    dsimp only at h
    split at h
    case isTrue lih =>
      cases h
      exact .of rfl rfl (lihWord_iff.2 ⟨major, rfl, lih, rfl⟩)
    case isFalse addpc =>
      cases h
      have := field_lt w 20 1
      exact .of rfl rfl (addpcWord_iff.2 ⟨major, rfl, by omega, rfl⟩)
  case h_7 =>
    cases h
    exact .of rfl rfl (jalWord_iff.2 ⟨major, rfl, rfl⟩)
  case h_9 =>
    split at h
    case h_3 => cases h
    all_goals
      cases h
      exact .of rfl rfl (Iff.mpr (branchWord_iff (by decide)) ⟨major, rfl, rfl, rfl, ‹_›⟩)
  case h_10 =>
    obtain rfl : maj = 11 := by grind
    have := field_lt w 0 2
    split at h
    all_goals
      cases h
      exact .of rfl rfl (Iff.mpr (branchWord_iff (by decide)) ⟨major, rfl, rfl, rfl, by grind⟩)

theorem decodeOne_encodes (hw : w < 2 ^ 32) (h : decodeOne w = .ok i) : Encodes w i := by
  unfold decodeOne at h
  split at h
  case h_1 m => exact decode01_encodes (major_eq hw m) h
  case h_2 m | h_3 m | h_4 m | h_5 m | h_6 m | h_7 m | h_8 m | h_9 m | h_10 m | h_11 m => exact decodeImm_encodes (major_eq hw m) (by decide) h
  case h_12 m => exact decode0C_encodes (major_eq hw m) h
  case h_13 m => exact decode10_encodes (major_eq hw m) h
  case h_14 m => exact decode11_encodes (major_eq hw m) h
  case h_15 m => exact decode12_encodes (major_eq hw m) h
  case h_16 m => exact decode13_encodes (major_eq hw m) h
  case h_17 m => exact decode14_encodes (major_eq hw m) h
  case h_18 m => exact decode15_encodes (major_eq hw m) h
  case h_19 m => exact decode18_encodes (major_eq hw m) h
  case h_20 m => exact decode19_encodes (major_eq hw m) h
  case h_25 m => exact decode1E_encodes (major_eq hw m) h
  case h_32 m => exact decode26_encodes (major_eq hw m) h
  case h_33 m => exact decode27_encodes (major_eq hw m) h
  case h_34 m => exact decode28_encodes (major_eq hw m) h
  case h_37 m => exact decode2B_encodes (major_eq hw m) h
  case h_38 m => exact decode2C_encodes (major_eq hw m) h
  case h_39 m => exact decode2D_encodes (major_eq hw m) h
  case h_40 m => exact decode2E_encodes (major_eq hw m) h
  case h_41 m => exact decode30_encodes (major_eq hw m) h
  case h_42 m => exact decode31_encodes (major_eq hw m) h
  case h_43 m => exact decode32_encodes (major_eq hw m) h
  case h_44 m =>
    obtain ⟨zero, rfl⟩ := zeroes_ok_iff.1 h
    exact .of rfl rfl (mmaWord_iff.2 ⟨major_eq hw m, zero, rfl, rfl, rfl⟩)
  case h_45 m => exact decode36_encodes (major_eq hw m) h
  case h_46 m => exact decode37_encodes (major_eq hw m) h
  case h_47 m =>
    obtain ⟨zero, rfl⟩ := zeroes_ok_iff.1 h
    exact .of rfl rfl (waitnWord_iff.2 ⟨major_eq hw m, zero, rfl, rfl, rfl, rfl⟩)
  case h_48 m => exact decode39_encodes (major_eq hw m) h
  case h_49 m => exact decode3A_encodes (major_eq hw m) h
  case h_50 m => exact decode3B_encodes (major_eq hw m) h
  case h_51 m => exact decode3C_encodes (major_eq hw m) h
  case h_52 m => exact decode3D_encodes (major_eq hw m) h
  case h_21 m | h_22 m | h_23 m | h_24 m | h_26 m | h_27 m | h_28 m | h_29 m | h_30 m | h_31 m | h_35 m | h_36 m =>
    exact vform_encodes (major_eq hw m) (fun _ _ _ _ _ => rfl) h
  case h_53 => cases h

end

end Sys2Proof
end

section
/-! SUPPORT. Instructions as bytes (R52, R66): LI48 and its two words, both directions between bytes and instructions, the words of the encoding
tables, and the exceptions of a fetch or a word that gives no instruction (R53, R54, R127, R129). -/

namespace Sys2Proof

open Sys2Proof.Machine Sys2Proof.Claims

/-! ## LI48 (R66, R105) -/

/-- The immediate of LI48 holds the half of the first word above the second word. -/
theorem append_toNat {immh : BitVec 16} {w1 : Nat} (h : w1 < 2 ^ 32) : (immh ++ BitVec.ofNat 32 w1).toNat = immh.toNat * 2 ^ 32 + w1 := by
  rw [BitVec.toNat_append, BitVec.toNat_ofNat, Nat.mod_eq_of_lt h, Nat.shiftLeft_eq, Nat.mul_comm, ← Nat.two_pow_add_eq_or_of_lt h]

/-- The words of LI48, from the halves of its immediate. -/
theorem li48_words {d : Reg} {immh : BitVec 16} {w1 : Nat} (h : w1 < 2 ^ 32) :
    (decodeLi48 d immh (BitVec.ofNat 32 w1)).words = [63 * 2 ^ 26 + d.val * 2 ^ 21 + immh.toNat, w1] := by
  have words (imm : BitVec 48) : (Instr.li48 d imm).words = [63 * 2 ^ 26 + d.val * 2 ^ 21 + imm.toNat / 2 ^ 32, imm.toNat % 2 ^ 32] := rfl
  have high : (immh.toNat * 2 ^ 32 + w1) / 2 ^ 32 = immh.toNat := by omega
  have low : (immh.toNat * 2 ^ 32 + w1) % 2 ^ 32 = w1 := by omega
  rw [decodeLi48, words, append_toNat h, high, low]

/-- Every immediate is made of its halves. -/
theorem li48_halves (d : Reg) (imm : BitVec 48) :
    ∃ immh w1, w1 < 2 ^ 32 ∧ Instr.li48 d imm = decodeLi48 d immh (BitVec.ofNat 32 w1) := by
  have lt := imm.isLt
  have low : imm.toNat % 2 ^ 32 < 2 ^ 32 := Nat.mod_lt _ (by decide)
  refine ⟨BitVec.ofNat 16 (imm.toNat / 2 ^ 32), imm.toNat % 2 ^ 32, low, ?_⟩
  rw [decodeLi48, Instr.li48.injEq, ← BitVec.toNat_inj, append_toNat low, BitVec.toNat_ofNat]
  exact ⟨rfl, by omega⟩

/-- Major 0x3F with SUB 0 is the first word of LI48, and no other word is (R53). -/
theorem decodeFirst_li48_iff {w : Nat} (hw : w < 2 ^ 32) {d : Reg} {immh : BitVec 16} :
    decodeFirst w = .li48 d immh ↔ 63 * 2 ^ 26 + d.val * 2 ^ 21 + immh.toNat = w := by
  have major : w / 2 ^ 26 = 63 ↔ field w 26 6 = 63 := by
    simp only [field]
    omega
  rw [li48Word_iff, major]
  unfold decodeFirst
  split
  case isTrue m => split <;> simp [*]
  case isFalse m => simp [m]

/-- Only LI48 has a second word (R52). -/
theorem eq_li48_of_words {i : Instr} {w w1 : Nat} {r : List Nat} (h : i.words = w :: w1 :: r) : ∃ d imm, i = .li48 d imm := by
  cases i with
  | li48 d imm => exact ⟨d, imm, rfl⟩
  | _ => cases h

/-! ## Bytes -/

/-- Four bytes are those of their word. -/
theorem wordOfBytes_some {bs rest : List Byte} {w : Nat} (h : wordOfBytes bs = some (w, rest)) : w < 2 ^ 32 ∧ bs = bytesOfWord w ++ rest := by
  unfold wordOfBytes at h
  split at h
  case h_1 b0 b1 b2 b3 r =>
    cases h
    have := b0.isLt
    have := b1.isLt
    have := b2.isLt
    have := b3.isLt
    refine ⟨by omega, ?_⟩
    simp only [bytesOfWord, List.cons_append, List.nil_append, List.cons.injEq, and_true]
    refine ⟨?_, ?_, ?_, ?_⟩ <;> (apply BitVec.eq_of_toNat_eq; rw [BitVec.toNat_ofNat]; omega)
  case h_2 => cases h

theorem decode_word {w : Nat} (hw : w < 2 ^ 32) {i : Instr} (first : decodeFirst w = .one (.ok i)) (rest : List Byte) :
    decode (bytesOfWord w ++ rest) = .ok (i, rest) := by
  rw [decode, wordOfBytes_bytesOfWord hw]
  simp only [first]

theorem decode_two {w w1 : Nat} (hw : w < 2 ^ 32) (hw1 : w1 < 2 ^ 32) {d : Reg} {immh : BitVec 16} (first : decodeFirst w = .li48 d immh)
    (rest : List Byte) : decode (bytesOfWord w ++ (bytesOfWord w1 ++ rest)) = .ok (decodeLi48 d immh (BitVec.ofNat 32 w1), rest) := by
  rw [decode, wordOfBytes_bytesOfWord hw]
  simp only [first, wordOfBytes_bytesOfWord hw1]

theorem decode_li48 (d : Reg) (imm : BitVec 48) (rest : List Byte) : decode ((Instr.li48 d imm).bytes ++ rest) = .ok (.li48 d imm, rest) := by
  obtain ⟨immh, w1, lt, eq⟩ := li48_halves d imm
  have hd := d.isLt
  have hi := immh.isLt
  rw [eq, Instr.bytes, li48_words lt, List.flatMap_cons, List.flatMap_singleton, List.append_assoc]
  have first : 63 * 2 ^ 26 + d.val * 2 ^ 21 + immh.toNat < 2 ^ 32 := by omega
  exact decode_two first lt ((decodeFirst_li48_iff first).2 rfl) rest

/-- A word that decodes on its own is not of major 0x3F. -/
theorem decodeOne_of_first {w : Nat} {i : Instr} (h : decodeFirst w = .one (.ok i)) : decodeOne w = .ok i := by
  unfold decodeFirst at h
  split at h
  case isTrue => split at h <;> cases h
  case isFalse => exact First.one.inj h

/-- Settles O1: the word of an instruction is decoded field by field, and LI48 from its two words. -/
theorem encodedInstructionsDecode : Obligations.EncodedInstructionsDecode := by
  intro i rest wf prog
  match words : i.words with
  | [] =>
    rw [Instr.isProgram, words] at prog
    cases prog
  | [w] =>
    obtain ⟨lt, first⟩ := decodeFirst_of_words wf words
    rw [Instr.bytes, words, List.flatMap_singleton]
    exact decode_word lt first rest
  | w :: w1 :: r =>
    obtain ⟨d, imm, rfl⟩ := eq_li48_of_words words
    exact decode_li48 d imm rest

/-- Settles O2: each arm of the decoder checks what its layout leaves free, so the fields it reads make up the word. -/
theorem acceptedBytesAreEncodings : Obligations.AcceptedBytesAreEncodings := by
  intro bs rest i h
  unfold decode at h
  split at h
  case h_1 => cases h
  case h_2 w r head =>
    obtain ⟨lt, rfl⟩ := wordOfBytes_some head
    split at h
    case h_1 j first =>
      cases h
      obtain ⟨wf, words⟩ := decodeOne_encodes lt (decodeOne_of_first first)
      exact ⟨wf, by rw [Instr.isProgram, words]; rfl, by rw [Instr.bytes, words, List.flatMap_singleton]⟩
    case h_2 => cases h
    case h_3 d immh first =>
      split at h
      case h_1 => cases h
      case h_2 w1 r1 next =>
        cases h
        obtain ⟨lt1, rfl⟩ := wordOfBytes_some next
        refine ⟨rfl, rfl, ?_⟩
        rw [Instr.bytes, li48_words lt1, (decodeFirst_li48_iff lt).1 first, List.flatMap_cons, List.flatMap_singleton, List.append_assoc]

/-! ## Words of the encoding tables -/

/-- A word of the tables that is the word of a well-formed instruction decodes to it. -/
theorem decodeTableWord_of_words {i : Instr} {w : Nat} (wf : i.wf = true) (words : i.words = [w]) : decodeTableWord 32 w = some i := by
  obtain ⟨lt, first⟩ := decodeFirst_of_words wf words
  rw [decodeTableWord, tableBytes, Nat.mod_mod, Nat.mod_eq_of_lt lt, decode_word lt first]

/-- Settles O3: the words are those of the encoder; CADD with FL[2] set is none of them. -/
theorem writtenWordsDecode : Obligations.WrittenWordsDecode := by
  have li48 : decodeTableWord 64 (0xFCE01234 + 0x56789ABC * 2 ^ 32) = some (.li48 7 0x123456789ABC) := rfl
  have cadd : decodeTableWord 32 0b110110_00001_00010_00000_0000000_1100 = none := rfl
  exact ⟨decodeTableWord_of_words rfl rfl, decodeTableWord_of_words rfl rfl, decodeTableWord_of_words rfl rfl, decodeTableWord_of_words rfl rfl,
    decodeTableWord_of_words rfl rfl, decodeTableWord_of_words rfl rfl, decodeTableWord_of_words rfl rfl, decodeTableWord_of_words rfl rfl, li48,
    decodeTableWord_of_words rfl rfl, cadd, decodeTableWord_of_words rfl rfl⟩

/-! ## Failed fetches and undecodable words -/

theorem exec_illegalInstruction (s : State) (w : BitVec 32) :
    exec (.illegalInstruction w none) s = .next (trapHere ⟨exIllegal, w.zeroExtend 64⟩ s) := by
  have word : BitVec.ofNat 64 (w.toNat + 2 ^ 32 * 0) = w.zeroExtend 64 := BitVec.eq_of_toNat_eq (by simp)
  change execIllegalInstruction w none s = _
  rw [execIllegalInstruction, word]

theorem exec_fetchException (s : State) (va : Word) (entering : s.hart.entering = false) :
    exec (.fetchException va) s = .next (trapHere ⟨exFetch, va⟩ s) := by
  change execFetchException va s = _
  rw [execFetchException, entering]
  rfl

/-- A fetch that fails at a handler's first instruction stops the core (R129). -/
theorem exec_fetchException_entering (s : State) (va : Word) (entering : s.hart.entering = true) :
    exec (.fetchException va) s = .next { s with hart := { s.hart with halted := true }, doubles := s.doubles ++ [s.cur] } := by
  change execFetchException va s = _
  rw [execFetchException, entering]
  rfl

/-- Settles O14: both are exceptions at the program counter, but for the fetch at a handler's first instruction. -/
theorem fetchAndDecodeExceptions : Obligations.FetchAndDecodeExceptions :=
  ⟨fun s w hw => ⟨_, exec_illegalInstruction s w, trapHere_taken hw _⟩,
    fun s va hw entering => ⟨_, exec_fetchException s va entering, trapHere_taken hw _⟩,
    exec_fetchException_entering⟩

end Sys2Proof
end

section
/-! SUPPORT. The scalar floating-point instructions (R107–R111), their NaN operands (R79, R80, R108), and the statement about them. -/

namespace Sys2Proof.Machine

open Sys2Proof.Claims

/-! ## Instructions that write one floating-point result -/

section
variable {s : State} {i : Instr}

/-- A floating-point result that goes to g[d] with its flags, when the instruction is ready. -/
theorem fpWrites_ready (hready : Ready i s) (d : Reg) (f : State → Nat × Fl) :
    fpWrites i d f s = .next (s.withHart ((s.hart.wroteG d (BitVec.ofNat 64 (f s).1) (s.hart.pc + 4)).flagged (f s).2)) := by
  have flags (t : State) (fl : Fl) : (t.raiseFl fl).retire 4 = (t.retire 4).withHart ((t.retire 4).hart.flagged fl) := rfl
  rw [fpWrites, issue_ready hready, flags, setG_retire]
  rfl

/-- Each scalar floating-point instruction writes the register, the result and the flags that the statements name. -/
theorem exec_of_floatResult {d : Reg} {r : Nat × Fl} (h : floatResult s i = some (d, r)) :
    ∃ f : State → Nat × Fl, exec i s = fpWrites i d f s ∧ f s = r := by
  unfold floatResult at h
  split at h <;> cases h
  case h_1 _ t a b => exact ⟨_, (rfl : _ = execFadd t d a b s), rfl⟩
  case h_2 _ t a b => exact ⟨_, (rfl : _ = execFsub t d a b s), rfl⟩
  case h_3 _ t a b => exact ⟨_, (rfl : _ = execFmul t d a b s), rfl⟩
  case h_4 _ t a b => exact ⟨_, (rfl : _ = execFfma t d a b s), rfl⟩
  case h_5 _ t a b => exact ⟨_, (rfl : _ = execFdiv t d a b s), rfl⟩
  case h_6 _ t a => exact ⟨_, (rfl : _ = execFsqrt t d a s), rfl⟩
  case h_7 _ t a b => exact ⟨_, (rfl : _ = execFmin t d a b s), rfl⟩
  case h_8 _ t a b => exact ⟨_, (rfl : _ = execFmax t d a b s), rfl⟩
  case h_9 _ c t a b => exact ⟨_, (rfl : _ = execFcmp c t d a b s), rfl⟩
  case h_10 _ t u a => exact ⟨_, (rfl : _ = execFcvt t u d a s), rfl⟩

theorem floatForms : FloatForms := by
  intro s i d x fl hres hready
  obtain ⟨f, hexec, hf⟩ := exec_of_floatResult hres
  rw [hexec, fpWrites_ready hready, hf]

/-- An instruction whose result is the canonical NaN, with NV as its only flag. -/
theorem exec_canonicalNan {d : Reg} {t : FType} {nv : Bool} (hres : floatResult s i = some (d, (ftFmt t).nan, Fl.nvIf nv)) (hready : Ready i s)
    (hd : d ≠ 0) : ∃ u, exec i s = .next u ∧ u.g d = BitVec.ofNat 64 (ftFmt t).nan ∧ u.hart.tsw.nv = (s.hart.tsw.nv || nv) ∧
      sameFlagsButNv s u := by
  refine ⟨_, floatForms s i d _ _ hres hready, ?_, rfl, ?_⟩
  · simp [Hart.flagged, Hart.wroteG, hd]
  · simp [sameFlagsButNv, Hart.flagged, Hart.wroteG, Hart.goesOn, Tsw.completed, Fl.nvIf]

end

/-! ## NaN operands (R79, R108) -/

section
variable (f : Fmt) (rm : Round) {a b c : FVal}

theorem FVal.isNan_iff : a.isNan = true ↔ ∃ q, a = .nan q := by
  cases a <;> simp [FVal.isNan]

/-- The negative of a value is a NaN, or a signalling one, where the value is. -/
@[simp] theorem FVal.isNan_neg (a : FVal) : a.neg.isNan = a.isNan := by cases a <;> rfl
@[simp] theorem FVal.isSig_neg (a : FVal) : a.neg.isSig = a.isSig := by cases a <;> rfl

/-- The result for two NaN operands or one. -/
theorem nanOf_pair (a b : FVal) : f.nanOf [a, b] = (f.nan, Fl.nvIf (a.isSig || b.isSig)) := by
  simp [Fmt.nanOf]

theorem addV_nan (h : a.isNan = true ∨ b.isNan = true) : f.addV rm a b = (f.nan, Fl.nvIf (a.isSig || b.isSig)) := by
  rw [← nanOf_pair]
  rcases h with h | h <;> obtain ⟨q, rfl⟩ := FVal.isNan_iff.1 h
  · rfl
  · cases a <;> rfl

theorem divV_nan (h : a.isNan = true ∨ b.isNan = true) : f.divV rm a b = (f.nan, Fl.nvIf (a.isSig || b.isSig)) := by
  rw [← nanOf_pair]
  rcases h with h | h <;> obtain ⟨q, rfl⟩ := FVal.isNan_iff.1 h
  · rfl
  · cases a <;> rfl

theorem sqrtV_nan (h : a.isNan = true) : f.sqrtV rm a = (f.nan, Fl.nvIf a.isSig) := by
  obtain ⟨q, rfl⟩ := FVal.isNan_iff.1 h
  rfl

/-- An exact product with a NaN factor is a NaN, signalling where a factor is. -/
theorem mulExact_nan (h : a.isNan = true ∨ b.isNan = true) : mulExact a b = some (.nan (a.isSig || b.isSig)) := by
  rcases h with h | h <;> obtain ⟨q, rfl⟩ := FVal.isNan_iff.1 h
  · cases b <;> simp [mulExact, FVal.isSig]
  · cases a <;> simp [mulExact, FVal.isSig]

theorem mulV_nan (h : a.isNan = true ∨ b.isNan = true) : f.mulV rm a b = (f.nan, Fl.nvIf (a.isSig || b.isSig)) := by
  rw [Fmt.mulV, mulExact_nan h]

/-- A product without a NaN factor is 0 × ∞, or is no NaN. -/
theorem mulExact_number (ha : a.isNan = false) (hb : b.isNan = false) :
    (mulExact a b = none ∧ (timesZero a b || timesZero b a) = true) ∨
      ∃ p, mulExact a b = some p ∧ p.isNan = false ∧ (timesZero a b || timesZero b a) = false := by
  cases a with
  | nan q => cases ha
  | inf q =>
    cases b with
    | nan r => cases hb
    | inf r => exact .inr ⟨_, rfl, rfl, rfl⟩
    | fin r m e => by_cases hm : m = 0 <;> simp [mulExact, timesZero, hm, FVal.isNan]
  | fin q m e =>
    cases b with
    | nan r => cases hb
    | inf r => by_cases hm : m = 0 <;> simp [mulExact, timesZero, hm, FVal.isNan]
    | fin r n d => exact .inr ⟨_, rfl, rfl, rfl⟩

theorem isSig_of_not_isNan (h : a.isNan = false) : a.isSig = false := by
  cases a with
  | nan q => cases h
  | inf q => rfl
  | fin q m e => rfl

theorem timesZero_of_isNan (h : a.isNan = true ∨ b.isNan = true) : timesZero a b = false := by
  rcases h with h | h <;> obtain ⟨q, rfl⟩ := FVal.isNan_iff.1 h
  · rfl
  · cases a <;> rfl

/-- FFMA with a NaN operand: NV for a signalling one, and for a product 0 × ∞ whatever the addend. -/
theorem fmaV_nan (h : a.isNan = true ∨ b.isNan = true ∨ c.isNan = true) :
    f.fmaV rm a b c = (f.nan, Fl.nvIf (a.isSig || b.isSig || c.isSig || timesZero a b || timesZero b a)) := by
  by_cases factor : a.isNan = true ∨ b.isNan = true
  · rw [Fmt.fmaV, mulExact_nan factor, timesZero_of_isNan factor, timesZero_of_isNan factor.symm]
    simp [FVal.isNan, FVal.isSig]
  · obtain ⟨ha, hb⟩ := not_or.1 factor
    have addend := (h.resolve_left ha).resolve_left hb
    rw [Bool.not_eq_true] at ha hb
    rw [Fmt.fmaV, isSig_of_not_isNan ha, isSig_of_not_isNan hb, Bool.or_assoc (_ || _)]
    rcases mulExact_number ha hb with ⟨hp, invalid⟩ | ⟨p, hp, number, valid⟩
    · rw [hp, invalid, Bool.or_true]
      rfl
    · rw [hp, valid]
      simp [addend, isSig_of_not_isNan number]

end

theorem nanOperandsGiveCanonicalNan : NanOperandsGiveCanonicalNan := by
  refine ⟨fun s t d a hready hd nan => ?sqrt, fun s t d a b hready hd nan => ?fma, fun s t d a b i form hready hd nan => ?binary⟩
  case sqrt => exact exec_canonicalNan (congrArg (fun r => some (d, r)) (sqrtV_nan _ _ nan)) hready hd
  case fma =>
    have result : floatResult s (.ffma t d a b) = _ := congrArg (fun r => some (d, r)) (fmaV_nan _ _ nan)
    obtain ⟨u, hexec, value, invalid, others⟩ := exec_canonicalNan result hready hd
    exact ⟨u, hexec, value, others, by simp only [invalid, Bool.or_assoc]⟩
  case binary =>
    have result : floatResult s i = some (d, (ftFmt t).nan, Fl.nvIf ((scalarVal t (s.g a)).isSig || (scalarVal t (s.g b)).isSig)) := by
      rcases form with rfl | rfl | rfl | rfl
      · exact congrArg (fun r => some (d, r)) (addV_nan _ _ nan)
      · have negated := addV_nan (ftFmt t) s.hart.tsw.rm (a := scalarVal t (s.g a)) (b := (scalarVal t (s.g b)).neg) (by simpa using nan)
        rw [FVal.isSig_neg] at negated
        exact congrArg (fun r => some (d, r)) negated
      · exact congrArg (fun r => some (d, r)) (mulV_nan _ _ nan)
      · exact congrArg (fun r => some (d, r)) (divV_nan _ _ nan)
    obtain ⟨u, hexec, value, invalid, others⟩ := exec_canonicalNan result hready hd
    exact ⟨u, hexec, value, by rw [invalid, Bool.or_assoc], others⟩

end Sys2Proof.Machine

namespace Sys2Proof

open Sys2Proof.Machine

/-- Settles O8: each instruction hands its rounded result and flags to the shared write of g[d], and each operation of a NaN claim sorts out its NaN
operands first. -/
theorem floatInstructionsComplete : Obligations.FloatInstructionsComplete := ⟨floatForms, nanOperandsGiveCanonicalNan⟩

end Sys2Proof
end

section
/-! SUPPORT. Vector instructions without stream operands (R154, R155): what their effect is given, and the lanes of what it answers. -/

namespace Sys2Proof.Machine

open Sys2Proof.Claims

/-! ## The effect of a vector instruction on unbound registers -/

/-- The operands of a vector instruction that names no bound register. -/
def vinOf (s : State) (c : VArgs) : VIn :=
  ⟨sourceV s [] c.va, sourceV s [] c.vb, sourceV s [] c.vd, maskBits s c.msk, maskMode c.msk, s.hart.tsw.rm, s.g c.ga⟩

theorem sourceV_unbound {s : State} {r : Reg} (h : s.hart.bound r = none) (pops : List (Fin 8 × V512 × Bool)) : sourceV s pops r = s.v r := by
  rw [sourceV, h]
  rfl

theorem writeResult_streams (s : State) (c : VArgs) (r : VRes) : (writeResult s c none r).hart.streams = s.hart.streams := by
  unfold writeResult
  split
  · simp
  next h => cases h
  · dsimp only
    split <;> rfl

theorem writeResult_v {r : VRes} (noG : r.gres = none) (noPair : r.reg2 = none) (s : State) (c : VArgs) :
    writeResult s c none r = s.setV c.vd r.reg := by simp only [writeResult, noG, noPair]

theorem writeResult_g {r : VRes} {x : Word} (toG : r.gres = some x) (s : State) (c : VArgs) : writeResult s c none r = s.setG c.vd x := by
  simp only [writeResult, toG]

/-- An instruction that takes no stream register names none when it is ready (R164, R168). -/
theorem plainRegs_of_ready {s : State} {i : Instr} (hready : Ready i s) (plain : (vUse i).plain = true) : plainRegs s i := by
  intro r hr
  by_contra bound
  obtain ⟨st, hst⟩ := Option.ne_none_iff_exists'.1 bound
  exact Bool.false_ne_true (hready.streams.symm.trans (misuse_of_bound hst (.inr (.inr (.inr ⟨plain, hr⟩)))))

section
variable {s : State} {i : Instr} (hready : Ready i s) (plain : plainRegs s i) (c : VArgs) (f : VIn → VRes)
include hready plain

/-- Its result is written, its flags are raised, and it goes on. -/
theorem vecHart_plain :
    vecHart i c f s = .next ((writeResult (s.raiseFl (f (vinOf s c)).fl) c none (f (vinOf s c))).retire 4) := by
  have still : ∀ r, (r ∈ (vUse i).src ∨ r ∈ (vUse i).dst) →
      (writeResult (s.raiseFl (f (vinOf s c)).fl) c none (f (vinOf s c))).hart.bound r = none := fun r hr =>
    bound_eq_none_congr (fun j => congrArg (fun v : Vector Stream 8 => v[j].en) (writeResult_streams ..)) (plain r hr)
  have unmoved := advanceStreams_plain still
  rw [vecHart, issue_ready hready, vecApply, operands_plain plain]
  exact congrArg (fun t : State => Host.Outcome.next (t.retire 4)) unmoved

/-- One v register is written. -/
theorem vecHart_writesV (noG : (f (vinOf s c)).gres = none) (noPair : (f (vinOf s c)).reg2 = none) :
    vecHart i c f s = .next (afterV s c.vd (f (vinOf s c)).reg (f (vinOf s c)).fl) := by
  rw [vecHart_plain hready plain, writeResult_v noG noPair]
  rfl

/-- A g register is written. -/
theorem vecHart_writesG {x : Word} (toG : (f (vinOf s c)).gres = some x) (noFlags : (f (vinOf s c)).fl = Fl.none) :
    vecHart i c f s = .next (s.withHart (s.hart.wroteG c.vd x (s.hart.pc + 4))) := by
  rw [vecHart_plain hready plain, writeResult_g toG, noFlags, State.raiseFl_none]
  exact congrArg Host.Outcome.next (setG_retire ..)

end

/-! ## Lanes -/

theorem lane_lt (w : Nat) (x : V512) (k : Nat) : lane w x k < 2 ^ w := field_lt ..

theorem laneBits_mul_lanes (t : ElemType) : t.laneBits * t.lanes = 512 := by cases t <;> rfl

theorem lanes_pos (t : ElemType) : 0 < t.lanes := by cases t <;> decide

/-- No register has more lanes than its mask has bits (R20). -/
theorem lanes_le (t : ElemType) : t.lanes ≤ 64 := by cases t <;> decide

theorem packLanes_lt (w : Nat) : ∀ l : List Nat, packLanes w l < 2 ^ (w * l.length)
  | [] => Nat.one_pos
  | x :: r => by
    have low : x % 2 ^ w < 2 ^ w := Nat.mod_lt _ (Nat.two_pow_pos w)
    rw [packLanes, List.length_cons, Nat.mul_succ, Nat.add_comm (w * _), Nat.pow_add]
    calc x % 2 ^ w + 2 ^ w * packLanes w r < 2 ^ w * (packLanes w r + 1) := by rw [Nat.mul_succ]; omega
      _ ≤ 2 ^ w * 2 ^ (w * r.length) := Nat.mul_le_mul_left _ (packLanes_lt w r)

theorem field_packLanes (w : Nat) : ∀ (l : List Nat) (k : Nat) (hk : k < l.length), field (packLanes w l) (w * k) w = l[k] % 2 ^ w
  | x :: r, 0, _ => by rw [field, packLanes, Nat.mul_zero, pow_zero, Nat.div_one, Nat.add_mul_mod_self_left, Nat.mod_mod]; rfl
  | x :: r, k + 1, hk => by
    have above : (x % 2 ^ w + 2 ^ w * packLanes w r) / 2 ^ w = packLanes w r := by
      rw [Nat.add_mul_div_left _ _ (Nat.two_pow_pos w), Nat.div_eq_of_lt (Nat.mod_lt _ (Nat.two_pow_pos w)), Nat.zero_add]
    rw [field, packLanes, Nat.mul_succ, Nat.add_comm (w * k), Nat.pow_add, ← Nat.div_div_eq_div_mul, above]
    exact field_packLanes w r k (Nat.lt_of_succ_lt_succ hk)

/-- A lane of a register that is made of lanes. -/
theorem lane_ofLanes {w n k : Nat} (fits : w * n ≤ 512) (hk : k < n) (f : Nat → Nat) :
    lane w (ofLanes w ((List.range n).map f)) k = f k % 2 ^ w := by
  have small := packLanes_lt w ((List.range n).map f)
  rw [List.length_map, List.length_range] at small
  rw [lane, ofLanes, BitVec.toNat_ofNat, Nat.mod_eq_of_lt (small.trans_le (Nat.pow_le_pow_right Nat.two_pos fits)),
    field_packLanes w _ k (by simpa using hk), List.getElem_map, List.getElem_range]

theorem lane_setLane {w k : Nat} (hk : k < 512 / w) (x : V512) (i v : Nat) :
    lane w (setLane w x i v) k = if k = i then v % 2 ^ w else lane w x k := by
  rw [setLane, lane_ofLanes (Nat.mul_div_le 512 w) hk]
  split
  · rfl
  · exact Nat.mod_eq_of_lt (lane_lt w x k)

/-- An element of a result: an inactive one keeps the destination under `.mu` and is 0 otherwise (R155). -/
theorem lane_perElement {w n k : Nat} (fits : w * n ≤ 512) (hk : k < n) (x : VIn) (f : Nat → Nat × Fl) :
    lane w (perElement w n x f).reg k = if x.active k then (f k).1 % 2 ^ w else if x.mode = .mu then lane w x.d k else 0 := by
  rw [perElement, List.map_map, lane_ofLanes fits hk, Function.comp_apply]
  split
  · rfl
  · split
    · exact Nat.mod_eq_of_lt (lane_lt w x.d k)
    · exact Nat.zero_mod _

/-- Lane 0 of a register whose other lanes are 0. -/
theorem ofLanes_single (w x : Nat) : ofLanes w [x] = BitVec.ofNat 512 (x % 2 ^ w) := rfl

/-! ## Masks -/

/-- The mask bits of an instruction are those of its mask register, and 1 without one (R20). -/
theorem testBit_maskBits (s : State) (m : Mask) {k : Nat} (hk : k < 64) : (maskBits s m).testBit k = laneBit s m k := by
  cases m with
  | none => rw [maskBits, Nat.testBit_two_pow_sub_one, decide_eq_true hk]; rfl
  | mu r => rw [maskBits, Nat.testBit_mod_two_pow, decide_eq_true hk, Bool.true_and]; rfl
  | ma r => rw [maskBits, Nat.testBit_mod_two_pow, decide_eq_true hk, Bool.true_and]; rfl

theorem active_vinOf (s : State) (c : VArgs) {k : Nat} (hk : k < 64) : (vinOf s c).active k = laneBit s c.msk k := testBit_maskBits s c.msk hk

theorem laneOn_iff {s : State} {m : Mask} {k : Nat} : laneOn s m k ↔ laneBit s m k = true := by
  cases m with
  | none => exact iff_of_true trivial rfl
  | mu r => exact Iff.rfl
  | ma r => exact Iff.rfl

theorem maskMode_mu_iff {m : Mask} : maskMode m = .mu ↔ m.mk = 1 := by cases m <;> simp [maskMode, Mask.mk]

end Sys2Proof.Machine
end

section
/-! SUPPORT. Reductions, scans and lane moves (R96, R97, R165, R166, R168): their values in the words of the statements, and the statement about
them. -/

namespace Sys2Proof.Machine

open Sys2Proof.Claims

/-! ## Integer lanes -/

section
variable {t : ElemType}

theorem etSigned_of_isInt : t.isInt = true → etSigned t = decide (t.code % 2 = 0) := by cases t <;> decide

theorem elemBits_of_isInt : t.isInt = true → t.elemBits = t.laneBits := by cases t <;> decide

theorem signedOf_eq_toInt (n x : Nat) : signedOf n x = (BitVec.ofNat n x).toInt := by
  simp [signedOf, BitVec.toInt_eq_toNat_cond]

/-- The value of an integer lane is the one the statements name. -/
theorem etInt_eq_typed (int : t.isInt = true) {x : Nat} (hx : x < 2 ^ t.laneBits) : etInt t x = typed t x := by
  simp only [etInt, typed, etSigned_of_isInt int, elemBits_of_isInt int, signedOf_eq_toInt, Nat.mod_eq_of_lt hx, decide_eq_true_eq]

/-- The value of a signed lane: the upper half of the patterns is negative. -/
theorem typed_signed (signed : t.code % 2 = 0) {x : Nat} (hx : x < 2 ^ t.laneBits) :
    typed t x = if 2 * x < 2 ^ t.laneBits then (x : Int) else (x : Int) - (2 ^ t.laneBits : Nat) := by
  rw [typed, if_pos signed, BitVec.toInt_eq_toNat_cond, BitVec.toNat_ofNat, Nat.mod_eq_of_lt hx]

theorem typed_unsigned (unsigned : ¬ t.code % 2 = 0) (x : Nat) : typed t x = x := if_neg unsigned

/-- Lanes of the same value are the same. -/
theorem eq_of_typed_eq {x y : Nat} (hx : x < 2 ^ t.laneBits) (hy : y < 2 ^ t.laneBits) (h : typed t x = typed t y) : x = y := by
  by_cases sign : t.code % 2 = 0
  · rw [typed_signed sign hx, typed_signed sign hy] at h
    omega
  · rw [typed_unsigned sign, typed_unsigned sign] at h
    exact Int.ofNat_inj.1 h

/-- The smaller of two lanes, the first where they are equal. -/
def lesser (t : ElemType) (p x : Nat) : Nat := if typed t x < typed t p then x else p

/-- The larger of two lanes, the first where they are equal. -/
def greater (t : ElemType) (p x : Nat) : Nat := if typed t p < typed t x then x else p

theorem lesser_lt {n a b : Nat} (ha : a < n) (hb : b < n) : lesser t a b < n := by unfold lesser; split <;> assumption

theorem greater_lt {n a b : Nat} (ha : a < n) (hb : b < n) : greater t a b < n := by unfold greater; split <;> assumption

theorem laneAdd_int (int : t.isInt = true) (rm : Round) (a b : Nat) : laneAdd t rm a b = ((a + b) % 2 ^ t.laneBits, Fl.none) := if_pos int

theorem laneExt_min_int (int : t.isInt = true) {a b : Nat} (ha : a < 2 ^ t.laneBits) (hb : b < 2 ^ t.laneBits) :
    laneExt false t a b = (lesser t a b, Fl.none) := by
  simp [laneExt, lesser, int, etInt_eq_typed int ha, etInt_eq_typed int hb]

theorem laneExt_max_int (int : t.isInt = true) {a b : Nat} (ha : a < 2 ^ t.laneBits) (hb : b < 2 ^ t.laneBits) :
    laneExt true t a b = (greater t a b, Fl.none) := by
  simp [laneExt, greater, int, etInt_eq_typed int ha, etInt_eq_typed int hb]

theorem laneAdd_float (float : ¬ t.isInt = true) (rm : Round) :
    laneAdd t rm = fun a b => (etFmt t).addV rm ((etFmt t).decode a) ((etFmt t).decode b) := by
  funext a b
  exact if_neg float

theorem laneExt_float (float : ¬ t.isInt = true) (mx : Bool) : laneExt mx t = (etFmt t).minMax mx := by
  funext a b
  exact if_neg float

/-! ## Identities (R165) -/

theorem extIdentity_min (t : ElemType) : extIdentity false t = identityMin t := by cases t <;> rfl

theorem extIdentity_max (t : ElemType) : extIdentity true t = identityMax t := by cases t <;> rfl

theorem identityMin_lt : t.isInt = true → identityMin t < 2 ^ t.laneBits := by cases t <;> decide

theorem identityMax_lt : t.isInt = true → identityMax t < 2 ^ t.laneBits := by cases t <;> decide

theorem two_pow_laneBits (t : ElemType) : 2 ^ t.laneBits = 2 * 2 ^ (t.laneBits - 1) := by cases t <;> rfl

section
variable (int : t.isInt = true) {x : Nat} (hx : x < 2 ^ t.laneBits)
include int hx

theorem typed_le_identityMin : typed t x ≤ typed t (identityMin t) := by
  have top := identityMin_lt int
  have half := two_pow_laneBits t
  by_cases sign : t.code % 2 = 0
  · rw [typed_signed sign hx, typed_signed sign top]
    rw [identityMin, if_pos int, if_pos sign] at top ⊢
    omega
  · rw [typed_unsigned sign, typed_unsigned sign, identityMin, if_pos int, if_neg sign]
    omega

theorem identityMax_le_typed : typed t (identityMax t) ≤ typed t x := by
  have bottom := identityMax_lt int
  have half := two_pow_laneBits t
  by_cases sign : t.code % 2 = 0
  · rw [typed_signed sign hx, typed_signed sign bottom]
    rw [identityMax, if_pos int, if_pos sign] at bottom ⊢
    omega
  · rw [typed_unsigned sign, typed_unsigned sign, identityMax, if_pos int, if_neg sign]
    omega

theorem lesser_identityMin : lesser t (identityMin t) x = x := by
  unfold lesser
  split
  · rfl
  next above => exact eq_of_typed_eq (identityMin_lt int) hx (le_antisymm (not_lt.1 above) (typed_le_identityMin int hx))

theorem greater_identityMax : greater t (identityMax t) x = x := by
  unfold greater
  split
  · rfl
  next below => exact eq_of_typed_eq (identityMax_lt int) hx (le_antisymm (identityMax_le_typed int hx) (not_lt.1 below))

end
end

/-! ## The lanes that an instruction works on -/

theorem lanesOr_vinOf {s : State} {c : VArgs} (hva : s.hart.bound c.va = none) (t : ElemType) (e : Nat) :
    lanesOr t (vinOf s c) e = lanesIn s c.va c.msk t e :=
  List.map_congr_left fun k hk => by
    rw [active_vinOf s c ((List.mem_range.1 hk).trans_le (lanes_le t)), vinOf, sourceV_unbound hva]

theorem lanesOr_length (t : ElemType) (x : VIn) (e : Nat) : (lanesOr t x e).length = t.lanes := by rw [lanesOr, List.length_map, List.length_range]

theorem lanesIn_length (s : State) (va : Reg) (m : Mask) (t : ElemType) (e : Nat) : (lanesIn s va m t e).length = t.lanes := by
  rw [lanesIn, List.length_map, List.length_range]

theorem lanesIn_ne_nil (s : State) (va : Reg) (m : Mask) (t : ElemType) (e : Nat) : lanesIn s va m t e ≠ [] :=
  List.ne_nil_of_length_pos (by rw [lanesIn_length]; exact lanes_pos t)

theorem mem_lanesIn_lt {s : State} {va : Reg} {m : Mask} {t : ElemType} {e : Nat} (he : e < 2 ^ t.laneBits) :
    ∀ x ∈ lanesIn s va m t e, x < 2 ^ t.laneBits := by
  intro x hx
  obtain ⟨k, -, rfl⟩ := List.mem_map.1 hx
  split
  · exact lane_lt ..
  · exact he

/-! ## Reductions -/

/-- A fold that starts at the first lane is one that starts at an identity, where the lanes are combined without flags. -/
theorem foldLanes_eq_foldl {f : Nat → Nat → Nat × Fl} {g : Nat → Nat → Nat} {e : Nat} {P : Nat → Prop}
    (combine : ∀ a b, P a → P b → f a b = (g a b, Fl.none)) (closed : ∀ a b, P a → P b → P (g a b)) (identity : ∀ a, P a → g e a = a)
    {l : List Nat} (ne : l ≠ []) (hl : ∀ x ∈ l, P x) : foldLanes f l = (l.foldl g e, Fl.none) := by
  have fold : ∀ (r : List Nat) (a : Nat), P a → (∀ x ∈ r, P x) →
      r.foldl (fun p b => let q := f p.1 b; (q.1, p.2.or q.2)) (a, Fl.none) = (r.foldl g a, Fl.none) := by
    intro r
    induction r with
    | nil => exact fun a _ _ => rfl
    | cons b r ih =>
      intro a ha hr
      have hb := hr b List.mem_cons_self
      rw [List.foldl_cons, List.foldl_cons, ← ih _ (closed a b ha hb) fun x hx => hr x (List.mem_cons_of_mem b hx)]
      simp only [combine a b ha hb]
      rfl
  cases l with
  | nil => exact absurd rfl ne
  | cons a r =>
    have ha := hl a List.mem_cons_self
    rw [foldLanes, fold r a ha fun x hx => hl x (List.mem_cons_of_mem a hx), List.foldl_cons, identity a ha]

section
variable {f : Nat → Nat → Nat × Fl} {n : Nat} (hf : ∀ a b, f a b = ((a + b) % n, Fl.none))
include hf

/-- One level of `PairSum` halves the list and keeps its sum modulo `n`. -/
theorem pairLevel_mod : ∀ (k : Nat) (l : List Nat), l.length = 2 * k → (∀ x ∈ l, x < n) →
    ∃ m, pairLevel f l = (m, Fl.none) ∧ m.length = k ∧ m.sum % n = l.sum % n ∧ ∀ x ∈ m, x < n
  | 0, [], _, _ => ⟨[], rfl, rfl, rfl, fun _ h => (List.not_mem_nil h).elim⟩
  | k + 1, a :: b :: r, len, small => by
    obtain ⟨m, level, hlen, hsum, hm⟩ := pairLevel_mod k r (by rw [List.length_cons, List.length_cons] at len; omega)
      fun x hx => small x (List.mem_cons_of_mem a (List.mem_cons_of_mem b hx))
    refine ⟨(a + b) % n :: m, ?_, ?_, ?_, ?_⟩
    · rw [pairLevel, hf, level]
      rfl
    · rw [List.length_cons, hlen]
    · rw [List.sum_cons, List.sum_cons, List.sum_cons, ← Nat.add_assoc, Nat.add_mod, hsum, Nat.mod_mod, ← Nat.add_mod]
    · exact List.forall_mem_cons.2 ⟨Nat.mod_lt _ (Nat.pos_of_ne_zero fun h => absurd (small a List.mem_cons_self) (by omega)), hm⟩

/-- `PairSum` of numbers modulo `n` is their sum modulo `n` (R96). -/
theorem pairSum_mod : ∀ (k : Nat) (l : List Nat), l.length = 2 ^ k → (∀ x ∈ l, x < n) → pairSum f k l = (l.sum % n, Fl.none)
  | 0, [x], _, small => by
    rw [List.sum_singleton, Nat.mod_eq_of_lt (small x List.mem_cons_self)]
    rfl
  | k + 1, l, len, small => by
    obtain ⟨m, level, hlen, hsum, hm⟩ := pairLevel_mod hf (2 ^ k) l (by rw [len, Nat.pow_succ']) small
    rw [pairSum, level]
    simp only [pairSum_mod k m hlen hm, hsum]
    rfl

end

section
variable (s : State) (va : Reg) (m : Mask) {t : ElemType}

theorem pairSum_lanes_int (int : t.isInt = true) (rm : Round) :
    pairSum (laneAdd t rm) (Nat.log2 t.lanes) (lanesIn s va m t 0) = ((lanesIn s va m t 0).sum % 2 ^ t.laneBits, Fl.none) := by
  have count : t.lanes = 2 ^ Nat.log2 t.lanes := by cases t <;> rfl
  exact pairSum_mod (laneAdd_int int rm) _ _ ((lanesIn_length ..).trans count) (mem_lanesIn_lt (Nat.two_pow_pos _))

theorem foldLanes_min_int (int : t.isInt = true) : foldLanes (laneExt false t) (lanesIn s va m t (identityMin t)) =
    ((lanesIn s va m t (identityMin t)).foldl (lesser t) (identityMin t), Fl.none) :=
  foldLanes_eq_foldl (fun _ _ => laneExt_min_int int) (fun _ _ => lesser_lt) (fun _ => lesser_identityMin int) (lanesIn_ne_nil _ _ _ _ _)
    (mem_lanesIn_lt (identityMin_lt int))

theorem foldLanes_max_int (int : t.isInt = true) : foldLanes (laneExt true t) (lanesIn s va m t (identityMax t)) =
    ((lanesIn s va m t (identityMax t)).foldl (greater t) (identityMax t), Fl.none) :=
  foldLanes_eq_foldl (fun _ _ => laneExt_max_int int) (fun _ _ => greater_lt) (fun _ => greater_identityMax int) (lanesIn_ne_nil _ _ _ _ _)
    (mem_lanesIn_lt (identityMax_lt int))

theorem foldLanes_or : foldLanes (fun a b => (a ||| b, Fl.none)) (lanesIn s va m t 0) =
    ((lanesIn s va m t 0).foldl (fun p x => p ||| x) 0, Fl.none) :=
  foldLanes_eq_foldl (P := fun _ => True) (fun _ _ _ _ => rfl) (fun _ _ _ _ => trivial) (fun a _ => Nat.zero_or a) (lanesIn_ne_nil _ _ _ _ _)
    fun _ _ => trivial

end

/-- Each reduction leaves in lane 0 the value, and raises the flags, that the statements name. -/
theorem exec_of_reduction {s : State} {i : Instr} {vd : Reg} {t : ElemType} {r : Nat × Fl} (h : reduction s i = some (vd, t, r))
    (plain : plainRegs s i) :
    ∃ (c : VArgs) (op : VIn → Nat × Fl), exec i s = vecHart i c (fun x => inLane0 t (op x)) s ∧ c.vd = vd ∧ op (vinOf s c) = r := by
  have source {va vd : Reg} {m : Mask} (hva : va ∈ (vUse i).src) (e : Nat) :
      lanesOr t (vinOf s ⟨va, va, vd, m, 0⟩) e = lanesIn s va m t e := lanesOr_vinOf (plain va (.inl hva)) t e
  unfold reduction at h
  split at h
  case h_1 vd' va m t' =>
    refine ⟨⟨va, va, vd, m, 0⟩, fun x => pairSum (laneAdd t x.rm) (Nat.log2 t.lanes) (lanesOr t x (addIdentity t)), ?_⟩
    split at h <;> cases h
    case isTrue int => exact ⟨rfl, rfl, by simp only [source List.mem_cons_self, addIdentity, if_pos int]; exact pairSum_lanes_int s va m int _⟩
    case isFalse float =>
      exact ⟨rfl, rfl, by simp only [source List.mem_cons_self, addIdentity, if_neg float, laneAdd_float float, identityAdd]; rfl⟩
  case h_2 vd' va m t' =>
    refine ⟨⟨va, va, vd, m, 0⟩, fun x => foldLanes (laneExt false t) (lanesOr t x (extIdentity false t)), ?_⟩
    split at h <;> cases h
    case isTrue int => exact ⟨rfl, rfl, by simp only [source List.mem_cons_self, extIdentity_min]; exact foldLanes_min_int s va m int⟩
    case isFalse float => exact ⟨rfl, rfl, by simp only [source List.mem_cons_self, extIdentity_min, laneExt_float float]⟩
  case h_3 vd' va m t' =>
    refine ⟨⟨va, va, vd, m, 0⟩, fun x => foldLanes (laneExt true t) (lanesOr t x (extIdentity true t)), ?_⟩
    split at h <;> cases h
    case isTrue int => exact ⟨rfl, rfl, by simp only [source List.mem_cons_self, extIdentity_max]; exact foldLanes_max_int s va m int⟩
    case isFalse float => exact ⟨rfl, rfl, by simp only [source List.mem_cons_self, extIdentity_max, laneExt_float float]⟩
  case h_4 vd' va m t' =>
    cases h
    exact ⟨⟨va, va, vd, m, 0⟩, fun x => foldLanes (fun a b => (a ||| b, Fl.none)) (lanesOr t x 0), rfl, rfl,
      by simp only [source List.mem_cons_self]; exact foldLanes_or s va m⟩
  case h_5 => cases h

theorem exec_reduction {s : State} {i : Instr} {vd : Reg} {t : ElemType} {r : Nat} {f : Fl} (h : reduction s i = some (vd, t, r, f))
    (hready : Ready i s) (plain : plainRegs s i) : exec i s = .next (afterV s vd (BitVec.ofNat 512 (r % 2 ^ t.laneBits)) f) := by
  obtain ⟨c, op, hexec, rfl, hop⟩ := exec_of_reduction h plain
  rw [hexec, vecHart_writesV hready plain c _ rfl rfl, hop, inLane0, whole, ofLanes_single]

/-! ## Scans -/

/-- Each step of a scan answers the running value. -/
theorem scanFrom_getD {f : Nat → Nat → Nat × Fl} {x : VIn} : ∀ (r : List Nat) (i : Nat) (p : Nat → Nat),
    (∀ k, p (k + 1) = (f (p k) (r.getD k 0)).1) → ∀ k, k < r.length → ∀ d, ((scanFrom f x i (p 0) r).getD k d).1 = p (k + 1) := by
  intro r
  induction r with
  | nil => exact fun i p step k hk => absurd hk (Nat.not_lt_zero k)
  | cons b r ih =>
    intro i p step k hk d
    have first : (f (p 0) b).1 = p 1 := (step 0).symm
    rw [scanFrom, first]
    cases k with
    | zero => rw [List.getD_cons_zero]
    | succ k => exact ih (i + 1) (fun k => p (k + 1)) (fun k => step (k + 1)) k (Nat.lt_of_succ_lt_succ hk) d

theorem scan_gres (t : ElemType) (x : VIn) (f : Nat → Nat → Nat × Fl) (e : Nat) : (scan t x f e).gres = none := by
  unfold scan
  split <;> rfl

theorem scan_reg2 (t : ElemType) (x : VIn) (f : Nat → Nat → Nat × Fl) (e : Nat) : (scan t x f e).reg2 = none := by
  unfold scan
  split <;> rfl

/-- A lane of a scan, where `p` is the running value. -/
theorem lane_scan {t : ElemType} {x : VIn} {f : Nat → Nat → Nat × Fl} {e : Nat} {p : Nat → Nat}
    (head : p 0 = (scanFirst t x ((lanesOr t x e).getD 0 0)).1) (step : ∀ k, p (k + 1) = (f (p k) ((lanesOr t x e).getD (k + 1) 0)).1)
    {k : Nat} (hk : k < t.lanes) : lane t.laneBits (scan t x f e).reg k =
      if x.active k then p k % 2 ^ t.laneBits else if x.mode = .mu then lane t.laneBits x.d k else 0 := by
  have len := lanesOr_length t x e
  unfold scan
  split
  next empty => rw [empty, List.length_nil] at len; exact absurd hk (by omega)
  next a r lanes =>
    rw [lanes, List.getD_cons_zero] at head
    rw [lanes, List.length_cons] at len
    rw [lanes] at step
    have value : (((scanFirst t x a) :: scanFrom f x 1 (scanFirst t x a).1 r).getD k (0, Fl.none)).1 = p k := by
      cases k with
      | zero => exact head.symm
      | succ k =>
        rw [← head]
        exact scanFrom_getD r 1 p step k (by omega) _
    rw [lane_perElement (laneBits_mul_lanes t).le hk]
    simp only [value]

/-- A number that an operation of a type may meet in a lane: an integer one is a pattern of the lane's width. -/
def InLane (t : ElemType) (x : Nat) : Prop := t.isInt = true → x < 2 ^ t.laneBits

/-- Two forms of an operation agree on lanes, and answer a lane. -/
def LanesAgree (t : ElemType) (f op : Nat → Nat → Nat × Fl) : Prop :=
  ∀ a b, InLane t a → InLane t b → f a b = op a b ∧ InLane t (op a b).1

theorem laneAdd_agrees (t : ElemType) (rm : Round) : LanesAgree t (laneAdd t rm) fun a b =>
    lanewise t (fun a b _ => a + b) (fun a b _ => (etFmt t).addV rm a b) a b 0 := by
  intro a b _ _
  beta_reduce
  by_cases int : t.isInt = true
  · have sum : (BitVec.ofNat t.laneBits a + BitVec.ofNat t.laneBits b).toNat = (a + b) % 2 ^ t.laneBits := by
      rw [← BitVec.ofNat_add, BitVec.toNat_ofNat]
    rw [laneAdd_int int, lanewise, if_pos int, sum]
    exact ⟨rfl, fun _ => Nat.mod_lt _ (Nat.two_pow_pos _)⟩
  · rw [laneAdd_float int, lanewise, if_neg int]
    exact ⟨rfl, fun h => absurd h int⟩

theorem laneExt_max_agrees (t : ElemType) : LanesAgree t (laneExt true t) fun a b =>
    if t.isInt then (if typed t a < typed t b then b else a, Fl.none) else (etFmt t).minMax true a b := by
  intro a b ha hb
  beta_reduce
  by_cases int : t.isInt = true
  · rw [laneExt_max_int int (ha int) (hb int), if_pos int]
    exact ⟨rfl, fun _ => greater_lt (ha int) (hb int)⟩
  · rw [laneExt_float int, if_neg int]
    exact ⟨rfl, fun h => absurd h int⟩

/-- Each scan is the shared one, with an operation that agrees with the one the statements name. -/
theorem exec_of_scanForm {s : State} {i : Instr} {vd : Reg} {m : Mask} {t : ElemType} {x : Nat → Nat} {op : Nat → Nat → Nat × Fl}
    (h : scanForm s i = some (vd, m, t, x, op)) : ∃ (va : Reg) (f : VIn → Nat → Nat → Nat × Fl) (e : Nat),
      exec i s = vecHart i ⟨va, va, vd, m, 0⟩ (fun y => scan t y (f y) e) s ∧ va ∈ (vUse i).src ∧ vd ∈ (vUse i).dst ∧
      x = (fun k => (lanesIn s va m t e).getD k 0) ∧ InLane t e ∧ LanesAgree t (f (vinOf s ⟨va, va, vd, m, 0⟩)) op := by
  unfold scanForm at h
  split at h <;> cases h
  case h_1 _ va =>
    refine ⟨va, fun y => laneAdd t y.rm, identityAdd t, rfl, List.mem_cons_self, List.mem_cons_self, rfl, fun int => ?_, laneAdd_agrees t _⟩
    rw [identityAdd, if_pos int]
    exact Nat.two_pow_pos _
  case h_2 _ va =>
    refine ⟨va, fun _ => laneExt true t, identityMax t, ?_, List.mem_cons_self, List.mem_cons_self, rfl, identityMax_lt, laneExt_max_agrees t⟩
    rw [← extIdentity_max]
    rfl

/-- Lane 0 of a scan is where the statements let it start. -/
theorem scanFirst_vinOf (s : State) (c : VArgs) (t : ElemType) (a : Nat) : (scanFirst t (vinOf s c) a).1 = scanHead s c.msk t a := by
  rw [scanFirst, scanHead, active_vinOf s c (by decide)]
  split <;> rfl

theorem inLane_scanHead (s : State) (m : Mask) {t : ElemType} {a : Nat} (ha : InLane t a) : InLane t (scanHead s m t a) := by
  intro int
  rw [scanHead, int, Bool.not_true, Bool.and_false, Bool.false_and, if_neg Bool.false_ne_true]
  exact ha int

theorem inLane_lanesIn (s : State) (va : Reg) (m : Mask) {t : ElemType} {e : Nat} (he : InLane t e) (k : Nat) :
    InLane t ((lanesIn s va m t e).getD k 0) := by
  intro int
  rw [List.getD_eq_getElem?_getD]
  cases hx : (lanesIn s va m t e)[k]? with
  | none => exact Nat.two_pow_pos _
  | some x => exact mem_lanesIn_lt (he int) x (List.mem_of_getElem? hx)

theorem exec_scan {s : State} {i : Instr} {vd : Reg} {m : Mask} {t : ElemType} {x : Nat → Nat} {op : Nat → Nat → Nat × Fl} {p : Nat → Nat}
    (h : scanForm s i = some (vd, m, t, x, op)) (hready : Ready i s) (plain : plainRegs s i) (head : p 0 = scanHead s m t (x 0))
    (step : ∀ k, p (k + 1) = (op (p k) (x (k + 1))).1) :
    ∃ y f, exec i s = .next (afterV s vd y f) ∧ ∀ k, k < t.lanes → lane t.laneBits y k =
      if laneBit s m k then p k % 2 ^ t.laneBits else if m.mk = 1 then lane t.laneBits (s.v vd) k else 0 := by
  obtain ⟨va, f, e, hexec, hva, hvd, rfl, he, agree⟩ := exec_of_scanForm h
  have source := lanesOr_vinOf (c := ⟨va, va, vd, m, 0⟩) (plain va (.inl hva)) t e
  have running : ∀ k, InLane t (p k) := by
    intro k
    induction k with
    | zero => rw [head]; exact inLane_scanHead s m (inLane_lanesIn s va m he 0)
    | succ k ih => rw [step]; exact (agree _ _ ih (inLane_lanesIn s va m he _)).2
  refine ⟨_, _, hexec.trans (vecHart_writesV hready plain _ _ (scan_gres ..) (scan_reg2 ..)), fun k hk => ?_⟩
  rw [lane_scan (p := p) (by rw [source, scanFirst_vinOf, head])
    (fun k => by rw [source, step, (agree _ _ (running k) (inLane_lanesIn s va m he _)).1]) hk, active_vinOf s _ (hk.trans_le (lanes_le t))]
  simp only [vinOf, maskMode_mu_iff, sourceV_unbound (plain vd (.inr hvd))]

theorem reductionsAndScansComplete : ReductionsAndScansComplete := by
  refine ⟨fun s i vd t r f h _ hready plain => exec_reduction h hready plain, fun s i vd m t x op p h _ hready plain head step => ?_⟩
  obtain ⟨y, f, hexec, lanes⟩ := exec_scan h hready plain head step
  refine ⟨y, f, hexec, fun k hk on => ?_, fun k hk off => ?_⟩
  · rw [lanes k hk, if_pos (laneOn_iff.1 on)]
  · rw [lanes k hk, if_neg (mt laneOn_iff.2 off)]

/-! ## Lane moves -/

/-- A lane as VMVG writes it to a g register: sign-extended for the signed types, and otherwise as it is (R168). -/
theorem movedLane_eq (t : ElemType) (v : Nat) :
    (if t.isInt && etSigned t then BitVec.ofInt 64 (etInt t v) else BitVec.ofNat 64 v) =
      if t.isInt ∧ t.code % 2 = 0 then (BitVec.ofNat t.laneBits v).signExtend 64 else BitVec.ofNat 64 v := by
  by_cases int : t.isInt = true
  · by_cases sign : t.code % 2 = 0
    · simp only [int, etSigned_of_isInt int, sign, etInt, elemBits_of_isInt int, ofInt_signedOf, decide_true, Bool.and_self, and_self, if_true]
    · simp [int, etSigned_of_isInt int, sign]
  · simp [int]

theorem laneMovesComplete : LaneMovesComplete := by
  refine ⟨fun s gd va n t _ hready => ?mvg, fun s vd ga n t _ hready => ?mgv⟩
  case mvg =>
    have plain := plainRegs_of_ready hready rfl
    refine (rfl : _ = vecHart (.vmvg gd va n t) ⟨va, va, gd, .none, 0⟩ (effVmvg n.val t) s).trans ?_
    rw [vecHart_writesG hready plain _ _ rfl rfl, movedLane_eq, vinOf, sourceV_unbound (plain va (.inl List.mem_cons_self))]
  case mgv =>
    have plain := plainRegs_of_ready hready rfl
    refine ⟨_, (rfl : _ = vecHart (.vmgv vd ga n t) ⟨vd, vd, vd, .none, ga⟩ (effVmgv n.val t) s).trans (vecHart_writesV hready plain _ _ rfl rfl), ?_⟩
    intro k hk
    have dest := sourceV_unbound (plain vd (.inl List.mem_cons_self)) []
    rw [effVmgv, whole, lane_setLane hk, vinOf, dest]

end Sys2Proof.Machine

namespace Sys2Proof

open Sys2Proof.Machine

/-- Settles O31: a fold from the first lane is one from the identity, `PairSum` of integers is their sum, and a scan's lanes are its
running value. -/
theorem reductionsAndLaneMovesComplete : Obligations.ReductionsAndLaneMovesComplete := ⟨reductionsAndScansComplete, laneMovesComplete⟩

end Sys2Proof
end

section
/-! SUPPORT. Division at its edges (R101), branches and jumps (R112–R114), TRAP, BRK and TRET (R117, R118, R121), and the statements about them. -/

namespace Sys2Proof.Machine

open Sys2Proof.Claims

/-! ## Division -/

/-- The register that an instruction of major 0x01 names holds the result afterwards. -/
theorem reads_integerResult {s : State} {i : Instr} {d : Reg} {x y : Word} (hres : integerResult s i = some (d, x)) (hd : d ≠ 0)
    (hready : Ready i s) (hxy : x = y) : ∃ t, exec i s = .next t ∧ t.g d = y :=
  ⟨_, integerForms s i d x hres hready, (State.g_of_wroteG rfl hd).trans hxy⟩

/-- Settles O4: the four are forms of major 0x01, which write their result; the quotients and remainders of the table are then computed. -/
theorem divisionCorners : Obligations.DivisionCorners := by
  intro s d a b
  refine ⟨fun i hi hready => ?writes, fun hd => ⟨?_, ?_, ?_, ?_, ?_, ?_, ?_, ?_, ?_⟩⟩
  case writes =>
    obtain ⟨x, hres⟩ : ∃ x, integerResult s i = some (d, x) := by
      simp only [List.mem_cons, List.not_mem_nil, or_false] at hi
      rcases hi with rfl | rfl | rfl | rfl <;> exact ⟨_, rfl⟩
    exact ⟨x, integerForms s i d x hres hready⟩
  · exact fun hready hb => reads_integerResult rfl hd hready (if_pos hb)
  · exact fun hready hb => reads_integerResult rfl hd hready (if_pos hb)
  · exact fun hready hb => reads_integerResult rfl hd hready (if_pos hb)
  · exact fun hready hb => reads_integerResult rfl hd hready (if_pos hb)
  all_goals exact fun hready ha hb => reads_integerResult rfl hd hready (by rw [ha, hb]; rfl)

/-! ## Branches -/

theorem branch_ready {i : Instr} {s : State} (hready : Ready i s) (taken : State → Bool) (off : BitVec 14) :
    branch i taken off s = .next (s.withHart (s.hart.goesOn (s.hart.pc + if taken s then off.signExtend 64 * 4 else 4))) := by
  rw [branch, issue_ready hready, State.finish_eq]
  cases taken s <;> rfl

/-- A conditional branch tests the condition that the statements name. -/
theorem exec_of_branchTaken {s : State} {i : Instr} {c : Bool} {off : BitVec 14} (h : branchTaken s i = some (c, off)) :
    ∃ taken : State → Bool, exec i s = branch i taken off s ∧ taken s = c := by
  unfold branchTaken at h
  split at h <;> cases h
  case h_1 a b => exact ⟨_, (rfl : _ = execBeq a b off s), rfl⟩
  case h_2 a b => exact ⟨_, (rfl : _ = execBne a b off s), (decide_not ..).symm⟩
  case h_3 a b => exact ⟨_, (rfl : _ = execBlt a b off s), rfl⟩
  case h_4 a b => exact ⟨_, (rfl : _ = execBge a b off s), by simp [BitVec.slt, ← decide_not]⟩
  case h_5 a b => exact ⟨_, (rfl : _ = execBltn a b off s), rfl⟩
  case h_6 a b => exact ⟨_, (rfl : _ = execBgen a b off s), by simp [BitVec.ult, ← decide_not]⟩

/-- A word that the decoder rejects is no instruction of the tables. -/
theorem decodeTableWord_of_reject {w : Nat} {e : Reject} (h : w < 2 ^ 32 ∧ decodeFirst w = .one (.error e)) : decodeTableWord 32 w = none := by
  obtain ⟨lt, first⟩ := h
  rw [decodeTableWord, tableBytes, Nat.mod_mod, Nat.mod_eq_of_lt lt, decode, wordOfBytes_bytesOfWord lt]
  simp only [first]

/-- Major 0x0A has no arm for a CND above 1 (R112). -/
theorem decodeImm_major0A_rejects {w : Nat} (cnd : 2 ≤ field w 0 2) : decodeImm 0x0A w = .error .unassignedSelector := by
  rw [decodeImm]
  split
  case h_1 eq => omega
  case h_2 eq => omega
  case h_3 => rfl

theorem decodeTableWord_major0A_none {x cnd : Nat} (hx : x < 2 ^ 24) (low : 2 ≤ cnd) (high : cnd < 4) :
    decodeTableWord 32 (0x0A * 2 ^ 26 + 4 * x + cnd) = none := by
  have selector : field (0x0A * 2 ^ 26 + 4 * x + cnd) 0 2 = cnd := by
    simp only [field]
    omega
  refine decodeTableWord_of_reject (e := .unassignedSelector) (decodeFirst_of_major (m := 0x0A) (by omega) (by decide) fun m => ?_)
  rw [decodeOne, m]
  exact decodeImm_major0A_rejects (low.trans_eq selector.symm)

/-- Settles O6: each branch is `branch` with its condition, and the decoder has no arm for the two CND values. -/
theorem branchesComplete : Obligations.BranchesComplete := by
  refine ⟨fun s i c off h hready => ?_, fun x hx => ⟨decodeTableWord_major0A_none hx (by decide) (by decide),
    decodeTableWord_major0A_none hx (by decide) (by decide)⟩⟩
  obtain ⟨taken, hexec, rfl⟩ := exec_of_branchTaken h
  rw [hexec, branch_ready hready]

/-! ## Jumps -/

theorem setG_finish (s : State) (d : Reg) (x pc : Word) : (s.setG d x).finish pc = s.withHart (s.hart.wroteG d x pc) := by
  rw [State.setG_eq, State.finish_eq, State.withHart_hart, State.withHart_withHart, Hart.setG_goesOn]

theorem exec_jal {s : State} {d : Reg} {off : BitVec 21} (hready : Ready (.jal d off) s) :
    exec (.jal d off) s = .next (s.withHart (s.hart.wroteG d (s.hart.pc + 4) (s.hart.pc + off.signExtend 64 * 4))) := by
  refine (rfl : _ = execJal d off s).trans ?_
  rw [execJal, issue_ready hready, setG_finish]

theorem exec_jalr {s : State} {d a : Reg} {imm : BitVec 16} (hready : Ready (.jalr d a imm) s) : exec (.jalr d a imm) s = .next (
    if (s.g a + imm.signExtend 64 * 4).toNat % 4 = 0 then
      s.withHart (s.hart.wroteG d (s.hart.pc + 4) (s.g a + imm.signExtend 64 * 4))
    else trapHere ⟨exMisalign, s.g a + imm.signExtend 64 * 4⟩ s) := by
  refine (rfl : _ = execJalr d a imm s).trans ?_
  rw [execJalr, issue_ready hready]
  simp only [bne_iff_ne, ite_not, setG_finish]

theorem alignedJumps : AlignedJumps :=
  ⟨fun _ _ _ hready => exec_jal hready, fun _ _ _ _ hready aligned => by rw [exec_jalr hready, if_pos aligned]⟩

theorem misalignedJumpTraps : MisalignedJumpTraps := by
  intro s d a imm hready hw misaligned
  have taken := trapHere_taken hw ⟨exMisalign, s.g a + imm.signExtend 64 * 4⟩
  exact ⟨_, by rw [exec_jalr hready, if_neg misaligned], taken.regs.1, taken.pc, taken.trap⟩

/-- Settles O7: the target is computed before the link is written, and a misaligned one traps with nothing written. -/
theorem jumpsComplete : Obligations.JumpsComplete := ⟨alignedJumps, misalignedJumpTraps⟩

/-! ## TRAP and BRK -/

/-- What a trap is taken from is the hart but for its lease, and memory. -/
theorem TrapTaken.of_lease {s s1 t : State} {l : LeaseRegs} (hart : s1.hart = { s.hart with lease := l }) (mem : s1.mem = s.mem)
    {int : Bool} {code : Nat} {tval epc : Word} (h : TrapTaken s1 t int code tval epc) : TrapTaken s t int code tval epc := by
  obtain ⟨saved, trap, pc, mode, enable, pending, status, stopped, regs, counts, tags, kept⟩ := h
  rw [hart] at saved trap pc mode status stopped regs counts tags
  rw [mem] at kept
  exact ⟨saved, trap, pc, mode, enable, pending, status, stopped, regs, counts, tags, kept⟩

/-- Without a held lease no batch is parked (R205), and the trap gives none. -/
theorem takeTrap_unheld {s : State} (hw : s.hart.wait = none) (held : s.hart.lease.held = false) (int : Bool) (code : Nat) (tval epc : Word) :
    (takeTrap int code tval epc s).hart.lease.held = false := by
  rw [takeTrap, withdrawWait_none hw, parkBatch, held]
  exact held

/-- A lease ended before a trap: the trap is that of the state before. -/
theorem takeTrap_endLease {s : State} (hw : s.hart.wait = none) (int : Bool) (code : Nat) (tval epc : Word) :
    TrapTaken s (takeTrap int code tval epc (endLease s)) int code tval epc ∧
      (takeTrap int code tval epc (endLease s)).hart.lease.held = false := by
  obtain ⟨hart, mem⟩ := endLease_hart s
  have waits : (endLease s).hart.wait = none := by rw [hart, ← hw]
  exact ⟨.of_lease hart mem (takeTrap_taken waits ..), takeTrap_unheld waits (by rw [hart]) ..⟩

theorem leaseBusy_eq_false {s : State} (h : ∀ c ∈ (s.array s.cluster).queue, c.core = s.cur → c.op.leased = false) : leaseBusy s = false := by
  simpa [leaseBusy] using h

theorem exec_trap {s : State} {k : BitVec 12} (hready : Ready (.trap k) s)
    (settled : k = 0 → s.hart.lease.park = false ∧ s.hart.running = false ∧ leaseBusy s = false) :
    exec (.trap k) s = .next (takeTrap false exTrap (k.setWidth 64) (s.hart.pc + 4) (if k = 0 ∧ s.hart.lease.held then endLease s else s)) := by
  have goes : ¬ (k = 0 ∧ (s.hart.lease.park || s.hart.running || leaseBusy s) = true) := by
    rintro ⟨hk, waits⟩
    obtain ⟨park, run, busy⟩ := settled hk
    simp [park, run, busy] at waits
  have pc : (if k = 0 ∧ s.hart.lease.held then endLease s else s).hart.pc = s.hart.pc := by
    split
    · rw [(endLease_hart s).1]
    · rfl
  refine (rfl : _ = execTrap k s).trans ?_
  rw [execTrap, issue_ready hready, if_neg goes]
  simp only [Bool.and_eq_true, decide_eq_true_eq, pc]

theorem exec_brk {s : State} {k : BitVec 12} (hready : Ready (.brk k) s) :
    exec (.brk k) s = .next (takeTrap false exBreak (k.setWidth 64) s.hart.pc s) :=
  (rfl : _ = execBrk k s).trans (issue_ready hready _)

/-- Settles O11: both take the trap of the state before them; TRAP 0 waits for nothing, and the lease it ends is neither parked nor held after it. -/
theorem trapAndBreakTakeTheirExceptions : Obligations.TrapAndBreakTakeTheirExceptions := by
  refine ⟨fun s k hready hw settled => ?_, fun s k hready hw => ⟨_, exec_brk hready, takeTrap_taken hw ..⟩⟩
  refine ⟨_, exec_trap hready fun hk => ?_, ?_⟩
  · obtain ⟨park, run, queue⟩ := settled hk
    exact ⟨park, run, leaseBusy_eq_false queue⟩
  by_cases ends : k = 0 ∧ s.hart.lease.held
  · rw [if_pos ends]
    obtain ⟨taken, held⟩ := takeTrap_endLease hw false exTrap (k.setWidth 64) (s.hart.pc + 4)
    exact ⟨taken, fun _ => held⟩
  · rw [if_neg ends]
    exact ⟨takeTrap_taken hw .., fun hk => takeTrap_unheld hw (by simpa [hk] using ends) ..⟩

/-! ## TRET -/

/-- A resume request leaves all of the hart but its lease, and memory. -/
theorem raiseResume_hart (s : State) : (∃ l, (raiseResume s).hart = { s.hart with lease := l }) ∧ (raiseResume s).mem = s.mem := by
  unfold raiseResume
  dsimp only
  split
  · split
    · exact ⟨⟨_, (endLease_hart s).1⟩, (endLease_hart s).2⟩
    · exact ⟨⟨s.hart.lease, rfl⟩, rfl⟩
  · split <;> exact ⟨⟨s.hart.lease, rfl⟩, rfl⟩

theorem exec_tret {s : State} (hready : Ready .tret s) : exec .tret s = .next (trapReturn s) :=
  (rfl : _ = execTret s).trans (issue_ready hready _)

/-- TRET puts the hart back in one update, after which only its lease can change (R121, R206). -/
theorem trapReturn_hart (s : State) : (∃ l, (trapReturn s).hart = { s.hart with
      pc := s.hart.trap.tepc
      tsw := s.hart.tsws
      seq := { s.hart.seq with stopped := false }
      ahead := none
      lease := l }) ∧ (trapReturn s).mem = s.mem :=
  raiseResume_hart (s.onHart _)

/-- Settles O12: what TRET puts back is said once, and registers and memory are no part of it. -/
theorem trapReturnRestores : Obligations.TrapReturnRestores := by
  intro s hready
  obtain ⟨⟨l, hart⟩, mem⟩ := trapReturn_hart s
  refine ⟨_, exec_tret hready, ?_⟩
  rw [hart]
  exact ⟨rfl, rfl, rfl, rfl, rfl, rfl, rfl, rfl, fun a => by rw [mem]⟩

end Sys2Proof.Machine
end

section
/-! SUPPORT. Segments of local memory, bit fields (R144, R145), scalar atomics (R146–R148), and the statement about them. -/

namespace Sys2Proof.Machine

open Sys2Proof.Claims

/-! ## One segment of local memory -/

/-- A run of `n` bytes of local memory, which no key bars and no page replicates. -/
def localSeg (p n : Nat) : Seg := ⟨p, n, true, 0⟩

theorem localSeg_plain (p n : Nat) : pteRepl (localSeg p n).entry = false := (by decide +kernel : pteRepl 0 = false)

/-- A store to one segment writes its bytes. -/
theorem store_localSeg_mem (s : State) {p n : Nat} {bs : List Byte} (hlen : bs.length = n) :
    (s.store [localSeg p n] bs).mem = s.mem.write p bs := by
  have whole : bs.take (localSeg p n).len = bs := List.take_of_length_le hlen.le
  rw [(store_harts ..).mem, writeSegs, writeSegs, whole, writeSeg, localSeg_plain]
  exact writeKeyed_mem ..

theorem store_localSeg_hart (s : State) (p n : Nat) (bs : List Byte) : (s.store [localSeg p n] bs).hart = freshStreams s.hart :=
  store_hart (by rfl) bs

theorem writeKeyed_cur (s : State) (key a : Nat) (bs : List Byte) : (s.writeKeyed key a bs).cur = s.cur := by
  unfold State.writeKeyed tagLines
  split <;> rfl

theorem store_localSeg_cur (s : State) (p n : Nat) (bs : List Byte) : (s.store [localSeg p n] bs).cur = s.cur := by
  rw [(store_harts ..).cur, writeSegs, writeSegs, writeSeg, localSeg_plain]
  exact writeKeyed_cur ..

theorem aheadOnly_freshStreams (h : Hart) : aheadOnly h (freshStreams h) := by
  refine ⟨fun _ => [], ?_⟩
  have streams : h.streams.map (fun st => { st with ahead := [] }) =
      Vector.ofFn fun j : Fin 8 => { h.streams[j] with ahead := [] } := by
    ext i hi : 1
    simp
  rw [freshStreams, streams]

theorem aheadOnly_refl (h : Hart) : aheadOnly h h := by
  refine ⟨fun j => h.streams[j].ahead, ?_⟩
  have streams : h.streams = Vector.ofFn fun j : Fin 8 => { h.streams[j] with ahead := h.streams[j].ahead } := by
    ext i hi : 1
    simp
  rw [← streams]

/-! ## Bit fields -/

/-- The segment of a bit field: the bytes its bits lie in. -/
def bitSeg (s : State) (a n : Nat) : Seg := ownSeg s (bitBytes a n).1 (bitBytes a n).2

theorem ownAdd_of_none {s : State} (h : s.adds = []) (l : List Seg) : ownAdd s l = false := by
  rw [ownAdd, h]
  rfl

/-- The bytes of a bit field hold its bits. -/
theorem testBit_load_bitSeg (s : State) (a n k : Nat) (hk : k < 8 * (bitBytes a n).2) :
    (leNat (s.load [bitSeg s a n])).testBit k = localBit s (8 * (a / 8) + k) := by
  rw [State.load, bitSeg, readSegs_own]
  exact testBit_readN_own s (a / 8) _ k hk

/-- Bit `k` of a field. -/
theorem testBit_field (w lo n k : Nat) : (field w lo n).testBit k = (decide (k < n) && w.testBit (lo + k)) := by
  rw [field, Nat.testBit_mod_two_pow, Nat.testBit_div_two_pow, Nat.add_comm]

/-- The field that LBF reads holds the bits at its address. -/
theorem testBit_bitField (s : State) (a n k : Nat) (hk : k < n) :
    (field (leNat (s.load [bitSeg s a n])) (a % 8) n).testBit k = localBit s (a + k) := by
  rw [testBit_field, decide_eq_true hk, Bool.true_and, testBit_load_bitSeg s a n _ (by simp only [bitBytes]; omega)]
  congr 1
  omega

/-- Bit `k` of a field of `n` bits as a word: a bit of the field, or above them the sign where it is extended (R144). -/
theorem getLsbD_fieldWord {n f : Nat} (hn : 0 < n) (hf : f < 2 ^ n) (sx : Bool) {k : Nat} (hk : k < 64) :
    (if sx then BitVec.ofInt 64 (signedOf n f) else BitVec.ofNat 64 f : Word).getLsbD k =
      if k < n then f.testBit k else sx && f.testBit (n - 1) := by
  cases sx with
  | true =>
    rw [if_pos rfl, ofInt_signedOf, BitVec.getLsbD_signExtend, BitVec.msb_eq_getLsbD_last, BitVec.getLsbD_ofNat, BitVec.getLsbD_ofNat,
      decide_eq_true hk, decide_eq_true (Nat.sub_one_lt hn.ne')]
    split
    next h => simp only [decide_eq_true h, Bool.true_and]
    · simp only [Bool.true_and]
  | false =>
    rw [if_neg Bool.false_ne_true, BitVec.getLsbD_ofNat, decide_eq_true hk, Bool.true_and]
    split
    · rfl
    next h => rw [Bool.false_and, Nat.testBit_lt_two_pow (hf.trans_le (Nat.pow_le_pow_right Nat.two_pos (by omega)))]

/-- A number with the `n` bits from bit `k` on replaced by those of `x`. -/
def replaceField (old x k n : Nat) : Nat := old % 2 ^ k + 2 ^ k * (x % 2 ^ n) + 2 ^ (k + n) * (old / 2 ^ (k + n))

theorem testBit_replaceField (old x k n j : Nat) :
    (replaceField old x k n).testBit j = if k ≤ j ∧ j < k + n then x.testBit (j - k) else old.testBit j := by
  have parts : replaceField old x k n = 2 ^ k * (2 ^ n * (old / 2 ^ (k + n)) + x % 2 ^ n) + old % 2 ^ k := by
    rw [replaceField, Nat.pow_add]
    ring
  rw [parts, Nat.testBit_two_pow_mul_add _ (Nat.mod_lt _ (Nat.two_pow_pos k)),
    Nat.testBit_two_pow_mul_add _ (Nat.mod_lt _ (Nat.two_pow_pos n))]
  by_cases low : j < k
  · rw [if_pos low, if_neg (by omega), Nat.testBit_mod_two_pow, decide_eq_true low, Bool.true_and]
  · rw [if_neg low]
    by_cases inside : j - k < n
    · rw [if_pos inside, if_pos (by omega), Nat.testBit_mod_two_pow, decide_eq_true inside, Bool.true_and]
    · rw [if_neg inside, if_neg (by omega), Nat.testBit_div_two_pow]
      congr 1
      omega

/-- The bits of the own local memory after `m` bytes from byte `c` on have been written. -/
theorem localBit_of_write {s t : State} {c m x : Nat} (hcur : t.cur = s.cur)
    (hmem : t.mem = s.mem.write (localPlace s.cur c) (toBytes m x)) (k : Nat) :
    localBit t k = if 8 * c ≤ k ∧ k < 8 * c + 8 * m then x.testBit (k - 8 * c) else localBit s k := by
  split
  next h =>
    have back : t.mem.readN (localPlace t.cur c) m = toBytes m x := by
      have := Memory.readN_write_same s.mem (localPlace s.cur c) (toBytes m x)
      rwa [toBytes_length, ← hmem, ← hcur] at this
    have bit := testBit_readN_own t c m (k - 8 * c) (by omega)
    rw [back, leNat_toBytes, show 256 ^ m = 2 ^ (8 * m) from by rw [Nat.pow_mul], Nat.testBit_mod_two_pow, decide_eq_true (by omega),
      Bool.true_and, show 8 * c + (k - 8 * c) = k by omega] at bit
    exact bit.symm
  next h =>
    have out : localPlace s.cur (k / 8) < localPlace s.cur c ∨ localPlace s.cur c + (toBytes m x).length ≤ localPlace s.cur (k / 8) := by
      rw [toBytes_length]
      unfold localPlace
      omega
    rw [localBit, localBit, hcur, hmem, Memory.read_write_other out]

theorem localBit_retire (s : State) (n k : Nat) : localBit (s.retire n) k = localBit s k := rfl

/-- The state after the `n` bits from bit `p` of the own local memory on have been replaced by those of `x`. -/
def storeField (s : State) (p n x : Nat) : State :=
  s.store [bitSeg s p n] (toBytes (bitBytes p n).2 (replaceField (leNat (s.load [bitSeg s p n])) x (p % 8) n))

theorem storeField_hart (s : State) (p n x : Nat) : (storeField s p n x).hart = freshStreams s.hart := store_localSeg_hart ..

theorem storeField_cur (s : State) (p n x : Nat) : (storeField s p n x).cur = s.cur := store_localSeg_cur ..

theorem storeField_mem (s : State) (p n x : Nat) : (storeField s p n x).mem = s.mem.write (localPlace s.cur (p / 8))
    (toBytes (bitBytes p n).2 (replaceField (leNat (s.load [bitSeg s p n])) x (p % 8) n)) := store_localSeg_mem s (toBytes_length ..)

/-- Only the bits of the field change (R144, R145). -/
theorem localBit_storeField (s : State) (p n x k : Nat) :
    localBit (storeField s p n x) k = if p ≤ k ∧ k < p + n then x.testBit (k - p) else localBit s k := by
  rw [localBit_of_write (storeField_cur ..) (storeField_mem ..), testBit_replaceField]
  by_cases inside : p ≤ k ∧ k < p + n
  · rw [if_pos inside, if_pos (by simp only [bitBytes]; omega), if_pos (by omega)]
    congr 1
    omega
  · rw [if_neg inside]
    split
    next reached =>
      rw [if_neg (by omega), testBit_load_bitSeg s p n _ (by omega), show 8 * (p / 8) + (k - 8 * (p / 8)) = k by omega]
    · rfl

/-- No byte outside the own local memory changes. -/
theorem storeField_outside {s : State} {p n : Nat} (fits : p + n ≤ 2 ^ 22) (x : Nat) {q : Nat}
    (out : q < localPlace s.cur 0 ∨ localPlace s.cur (2 ^ 19) ≤ q) : (storeField s p n x).mem.read q = s.mem.read q := by
  rw [storeField_mem, Memory.read_write_other]
  simp only [toBytes_length, bitBytes, localPlace] at out ⊢
  omega

theorem bitFieldExc_inside {x : Word} {n : Nat} (hfit : x.toNat + n ≤ 2 ^ 22) : bitFieldExc x n = none := if_pos hfit

/-- A bit field that leaves the local memory raises ADDRESS. -/
theorem bitFieldExc_outside {x : Word} {n : Nat} (out : 2 ^ 22 < x.toNat + n) : bitFieldExc x n = some ⟨exAddress, x⟩ :=
  if_neg (Nat.not_le.2 out)

section
variable {s : State} {a b d : Reg} {w : Fin 32}

/-- LBF of a field inside the local memory, with no add on its way. -/
theorem exec_lbf {sx : Bool} (hready : Ready (.lbf sx d a b w) s) (hfit : (s.g a + s.g b).toNat + w.val + 1 ≤ 2 ^ 22) (hadds : s.adds = []) :
    exec (.lbf sx d a b w) s =
      let f := field (leNat (s.load [bitSeg s (s.g a + s.g b).toNat (w.val + 1)])) ((s.g a + s.g b).toNat % 8) (w.val + 1)
      .next (s.withHart ((dropMeeting s (segRuns [bitSeg s (s.g a + s.g b).toNat (w.val + 1)])).hart.wroteG d
        (if sx then BitVec.ofInt 64 (signedOf (w.val + 1) f) else BitVec.ofNat 64 f) (s.hart.pc + 4))) := by
  refine (rfl : _ = execLbf sx d a b w s).trans ?_
  rw [execLbf, issue_ready hready]
  simp only [bitFieldExc_inside (n := w.val + 1) hfit, ownAdd_of_none hadds, if_neg Bool.false_ne_true, State.setG_eq, State.retire_eq,
    State.withHart_hart, State.withHart_withHart, Hart.setG_pc, Hart.setG_goesOn]
  rfl

/-- SBF of a field inside the local memory, with no add on its way. -/
theorem exec_sbf (hready : Ready (.sbf d a b w) s) (hfit : (s.g a + s.g b).toNat + w.val + 1 ≤ 2 ^ 22) (hadds : s.adds = []) :
    exec (.sbf d a b w) s = .next ((storeField s (s.g a + s.g b).toNat (w.val + 1) (s.g d).toNat).retire 4) := by
  refine (rfl : _ = execSbf d a b w s).trans ?_
  rw [execSbf, issue_ready hready]
  simp only [bitFieldExc_inside (n := w.val + 1) hfit, ownAdd_of_none hadds, if_neg Bool.false_ne_true]
  rfl

theorem lbf_traps {sx : Bool} (hw : s.hart.wait = none) (hready : Ready (.lbf sx d a b w) s) (out : 2 ^ 22 < (s.g a + s.g b).toNat + w.val + 1) :
    ∃ t, exec (.lbf sx d a b w) s = .next t ∧ TrapTaken s t false 4 (s.g a + s.g b) s.hart.pc := by
  refine ⟨_, (rfl : _ = execLbf sx d a b w s).trans ?_, trapHere_taken hw ⟨exAddress, s.g a + s.g b⟩⟩
  rw [execLbf, issue_ready hready]
  simp only [bitFieldExc_outside (n := w.val + 1) out]

theorem sbf_traps (hw : s.hart.wait = none) (hready : Ready (.sbf d a b w) s) (out : 2 ^ 22 < (s.g a + s.g b).toNat + w.val + 1) :
    ∃ t, exec (.sbf d a b w) s = .next t ∧ TrapTaken s t false 4 (s.g a + s.g b) s.hart.pc := by
  refine ⟨_, (rfl : _ = execSbf d a b w s).trans ?_, trapHere_taken hw ⟨exAddress, s.g a + s.g b⟩⟩
  rw [execSbf, issue_ready hready]
  simp only [bitFieldExc_outside (n := w.val + 1) out]

end

theorem bitFieldsComplete : BitFieldsComplete := by
  refine ⟨fun s sx d a b w hready hfit hadds => ?_, fun s d a b w hready hfit hadds => ?_, fun s sx d a b w => lbf_traps,
    fun s d a b w => sbf_traps⟩
  · refine ⟨_, _, exec_lbf hready hfit hadds, dropMeeting_aheadOnly .., fun k hk => ?_⟩
    rw [getLsbD_fieldWord (Nat.succ_pos _) (field_lt ..) sx hk]
    by_cases h : k ≤ w.val
    · rw [if_pos h, if_pos (Nat.lt_succ_of_le h)]
      exact testBit_bitField s _ _ k (Nat.lt_succ_of_le h)
    · rw [if_neg h, if_neg (by omega)]
      exact congrArg (sx && ·) (testBit_bitField s _ _ w.val (Nat.lt_succ_self _))
  · refine ⟨_, exec_sbf hready hfit hadds, ?_, fun k _ => ?_, fun q hq => ?_⟩
    · rw [State.retire_eq, State.withHart_hart, storeField_hart]
      rfl
    · rw [localBit_retire, localBit_storeField]
      exact if_congr (by omega) rfl rfl
    · rw [State.retire_eq, State.withHart_mem]
      exact storeField_outside (by omega) _ hq

/-! ## Scalar atomics -/

/-- Each atomic is the shared atomic, and what it writes is what the statements name (R147). -/
theorem exec_of_atomicForm_new {i : Instr} {d a b : Reg} {n : Nat} {am : AddrMode} {oa : Order} (h : atomicForm i = some (d, a, b, n, am, oa))
    (s : State) : ∃ w f, exec i s = atomic i d a b w am oa f s ∧ n = (if w then 8 else 4) ∧ ∀ o x c, f (8 * n) o x c = atomicNew n o x c i := by
  unfold atomicForm at h
  split at h <;> cases h
  case h_1 _ w sc => exact ⟨w, _, (rfl : _ = execAtomAdd d a b w am oa sc s), rfl, fun _ _ _ => rfl⟩
  case h_2 _ w sc => exact ⟨w, _, (rfl : _ = execAtomAnd d a b w am oa sc s), rfl, fun _ _ _ => rfl⟩
  case h_3 _ w sc => exact ⟨w, _, (rfl : _ = execAtomOr d a b w am oa sc s), rfl, fun _ _ _ => rfl⟩
  case h_4 _ w sc => exact ⟨w, _, (rfl : _ = execAtomXor d a b w am oa sc s), rfl, fun _ _ _ => rfl⟩
  case h_5 _ w sc => exact ⟨w, _, (rfl : _ = execAtomMin d a b w am oa sc s), rfl, fun _ _ _ => rfl⟩
  case h_6 _ w sc => exact ⟨w, _, (rfl : _ = execAtomMax d a b w am oa sc s), rfl, fun _ _ _ => rfl⟩
  case h_7 _ w sc => exact ⟨w, _, (rfl : _ = execAtomSwp d a b w am oa sc s), rfl, fun _ _ _ => rfl⟩
  case h_8 _ w sc => exact ⟨w, _, (rfl : _ = execAtomCas d a b w am oa sc s), rfl, fun _ _ _ => rfl⟩

/-- The state after an atomic has written, before its value goes to its register: an atomic with nothing to write leaves it. -/
def atomicStored (s : State) (l : List Seg) (n : Nat) : Option Nat → State
  | some x => s.store l (toBytes n x)
  | none => s

/-- A store to one segment is read back from it. -/
theorem readN_writeSegs_one {s : State} {who : Nat} {g : Seg} {bs : List Byte} (plain : pteRepl g.entry = false) (ok : g.ok = true)
    (hlen : bs.length = g.len) : (writeSegs s who [g] bs).mem.readN g.place g.len = bs := by
  have whole : bs.take g.len = bs := List.take_of_length_le hlen.le
  rw [writeSegs, writeSegs, whole, writeSeg, plain, ok, ← hlen]
  simpa using Memory.readN_write_same s.mem g.place bs

/-- What is read afresh already has no piece to give up. -/
theorem dropMeeting_fresh {s : State} {h : Hart} (fresh : s.hart = freshStreams h) (l : List (Nat × Nat)) :
    (dropMeeting s l).hart = freshStreams h := by
  simp [dropMeeting, fresh, freshStreams]

/-- A load into a hart that reads its streams afresh is an acquiring load. -/
theorem loaded_fresh (h : Hart) (acq away un : Bool) (d : Dest) (addr : Word) (x : V512) (bad : Bool) :
    loaded (freshStreams h) acq away un d addr x bad = loaded h true away un d addr x bad := by
  simp only [loaded, freshStreams_idem, ite_self, if_true]
  rfl

section
variable {s s1 : State} {i : Instr} {d a b : Reg} {n : Nat} {am : AddrMode} {oa : Order} {g : Seg}

/-- An atomic that is ready, passes its checks and has nothing to wait for ends as a load, after what it has written. -/
theorem atomic_passed (hform : atomicForm i = some (d, a, b, n, am, oa)) (hready : Ready i s)
    (hacc : access s am n needRW (s.g a) n = (.ok [g], s1)) (plain : pteRepl g.entry = false) (hgo : storeWaits s1 [g] oa = false) :
    exec i s =
      let old := leNat (readSegs s1 (sectorOf s.cluster) [g])
      .next (loadEnd (atomicStored s1 [g] n (atomicNew n old ((s.g b).toNat % 2 ^ (8 * n)) ((s.g d).toNat % 2 ^ (8 * n)) i)) [g] (isAcq oa)
        (leaves s am [g]) (.g d) (s.g a) (BitVec.ofNat 512 old)) := by
  obtain ⟨w, f, hexec, hn, hf⟩ := exec_of_atomicForm_new hform s
  have only := access_ok_stations hacc
  have regs (r : Reg) : s1.g r = s.g r := by rw [State.g, State.g, only.hart]
  rw [hexec, atomic, issue_ready hready]
  dsimp only
  rw [← hn, hacc]
  dsimp only
  rw [List.any_cons, List.any_nil, plain, Bool.or_false, if_neg Bool.false_ne_true, hgo, if_neg Bool.false_ne_true, State.load,
    State.cluster_of_cur only.cur, hf, leaves_of_cur only.cur, regs b, regs d]
  generalize atomicNew n _ _ _ i = v
  cases v <;> rfl

end

section
variable {s : State} {g : Seg} {n : Nat}

/-- An atomic leaves every byte outside its segment. -/
theorem atomicStored_outside (plain : pteRepl g.entry = false) (v : Option Nat) : SameOutside [g] s (atomicStored s [g] n v) := by
  intro p hp
  cases v with
  | none => rfl
  | some x =>
    rw [atomicStored, (store_harts ..).mem]
    exact writeSegs_other _ _ _ _ (fun k hk => .inl (List.mem_singleton.1 hk ▸ plain)) hp

/-- The new value lies in the segment. -/
theorem atomicStored_readBack (plain : pteRepl g.entry = false) (ok : g.ok = true) (hlen : g.len = n) (x : Nat) :
    (atomicStored s [g] n (some x)).mem.readN g.place n = toBytes n x := by
  rw [atomicStored, (store_harts ..).mem, ← hlen]
  exact readN_writeSegs_one plain ok (toBytes_length ..)

/-- An atomic that writes gives up every piece read ahead, as an acquiring load does; one that does not gives up what a load does. -/
theorem loadEnd_atomicStored_hart (ok : g.ok = true) (v : Option Nat) (acq away : Bool) (d : Dest) (addr : Word) (x : V512) :
    ∃ h, aheadOnly s.hart h ∧ (loadEnd (atomicStored s [g] n v) [g] acq away d addr x).hart =
      loaded h (acq || v.isSome) away (allUn [g]) d addr x false := by
  have allOk : [g].all Seg.ok = true := by rw [List.all_cons, ok]; rfl
  have ends := loadEnd_hart (atomicStored s [g] n v) [g] acq away d addr x fun _ => allOk
  rw [allOk] at ends
  cases v with
  | none => exact ⟨_, dropMeeting_aheadOnly s (segRuns [g]), by rw [Option.isSome_none, Bool.or_false]; exact ends⟩
  | some y =>
    have fresh : (atomicStored s [g] n (some y)).hart = freshStreams s.hart := store_hart allOk _
    rw [dropMeeting_fresh fresh, Bool.not_true, loaded_fresh] at ends
    exact ⟨s.hart, aheadOnly_refl _, by rw [Option.isSome_some, Bool.or_true]; exact ends⟩

end

theorem atomicsComplete : AtomicsComplete := by
  intro s s1 i d a b n am oa g hform hready hacc plain hgo ok
  have only := access_ok_stations hacc
  have hsize : g.len = n := by simpa [segBytes] using access_segBytes hacc
  have hexec := atomic_passed hform hready hacc plain hgo
  dsimp only at hexec ⊢
  generalize leNat (readSegs s1 (sectorOf s.cluster) [g]) = old at hexec ⊢
  generalize atomicNew n old _ _ i = v at hexec ⊢
  obtain ⟨h, ahead, hart⟩ := loadEnd_atomicStored_hart (s := s1) (n := n) ok v (isAcq oa) (leaves s am [g]) (.g d) (s.g a) (BitVec.ofNat 512 old)
  rw [only.hart] at ahead
  refine ⟨_, h, hexec, fun p hp => ?_, ?_, ?_, ahead, hart⟩
  · rw [loadEnd_mem, atomicStored_outside plain v p hp, only.mem]
  · rintro rfl p
    rw [loadEnd_mem, ← only.mem]
    rfl
  · rintro x rfl
    rw [loadEnd_mem, atomicStored_readBack plain ok hsize]

/-- Settles O25: a bit field is one segment of the own local memory, read and replaced bit by bit; an atomic ends as a load does, after the store of
its one segment. -/
theorem bitFieldsAndAtomicsComplete : Obligations.BitFieldsAndAtomicsComplete := ⟨bitFieldsComplete, atomicsComplete⟩

end Sys2Proof.Machine
end

section
/-! SUPPORT. Strided and indexed lane accesses (R141–R143): what each lane does, what the lanes do one after another, and the statement about them. -/

namespace Sys2Proof.Machine

open Sys2Proof.Claims

/-! ## What streams have read ahead -/

theorem aheadOnly_trans {h k l : Hart} (hk : aheadOnly h k) (kl : aheadOnly k l) : aheadOnly h l := by
  obtain ⟨_, rfl⟩ := hk
  obtain ⟨f, rfl⟩ := kl
  exact ⟨f, by simp⟩

/-- A register stays unbound whatever its stream has read ahead. -/
theorem bound_of_aheadOnly {h k : Hart} (ahead : aheadOnly h k) {r : Reg} (free : h.bound r = none) : k.bound r = none := by
  obtain ⟨l, rfl⟩ := ahead
  exact bound_eq_none_congr (fun j => by simp) free

/-! ## One lane -/

/-- A lane whose address passes the checks is one segment (R141). -/
theorem access_lane {t : ElemType} {a : Word} (fits : laneFits t a) (s : State) (need : Need) :
    access s .cb (t.laneBits / 8) need a (t.laneBits / 8) = (.ok [localSeg (clusterPlace s a) (t.laneBits / 8)], s) := by
  obtain ⟨cluster, inside, aligned⟩ := fits
  exact access_local s .cb _ need a _ (by decide) (by simpa [formOk] using ⟨cluster, inside⟩) aligned

/-- A lane whose address fails them raises an exception that shows the address. -/
theorem access_lane_fails {t : ElemType} {a : Word} (unfit : ¬ laneFits t a) (s : State) (need : Need) :
    ∃ code, access s .cb (t.laneBits / 8) need a (t.laneBits / 8) = (.exc ⟨code, a⟩, s) := by
  cases form : formOk .cb a.toNat (t.laneBits / 8) with
  | false => exact ⟨exAddress, access_badForm form⟩
  | true =>
    refine ⟨exMisalign, access_misaligned form fun aligned => unfit ?_⟩
    obtain ⟨cluster, inside⟩ : a.toNat < 2 ^ 23 ∧ a.toNat % 2 ^ 19 + t.laneBits / 8 ≤ 2 ^ 19 := by simpa [formOk] using form
    exact ⟨cluster, inside, aligned⟩

/-- The current core reads local memory as it is. -/
theorem load_localSeg (s : State) {p : Nat} (far : 2 ^ 52 ≤ p) (n : Nat) : s.load [localSeg p n] = s.mem.readN p n := by
  have plain : readPlace (sectorOf s.cluster) (localSeg p n) = p := by rw [readPlace, localSeg_plain, if_neg Bool.false_ne_true, localSeg]
  rw [State.load, readSegs, List.flatMap_singleton, plain, State.readKeyed, if_pos (by rw [Bool.or_eq_true]; exact .inr (decide_eq_true far))]
  rfl

/-- The bytes of a lane in memory as a number. -/
def laneAt (s : State) (t : ElemType) (a : Word) : Nat := leNat (s.mem.readN (clusterPlace s a) (t.laneBits / 8))

theorem laneBits_bytes (t : ElemType) : 8 * (t.laneBits / 8) = t.laneBits := by cases t <;> rfl

/-- The bytes of a lane fit its width. -/
theorem leNat_lt_lane {t : ElemType} {bs : List Byte} (hlen : bs.length = t.laneBits / 8) : leNat bs < 2 ^ t.laneBits := by
  have h := leNat_lt bs
  rwa [hlen, show 256 = 2 ^ 8 from rfl, ← Nat.pow_mul, laneBits_bytes] at h

theorem laneAt_lt (s : State) (t : ElemType) (a : Word) : laneAt s t a < 2 ^ t.laneBits := leNat_lt_lane (by simp [Memory.readN])

section
variable {t : ElemType} {addr : Nat → Word} {k : Nat} (s : State) (x : V512)

theorem loadLane_fits (fits : laneFits t (addr k)) : loadLane t.laneBits addr s x k =
    .ok (setLane t.laneBits x k (laneAt s t (addr k))) false
      (s.withHart (dropMeeting s (segRuns [localSeg (clusterPlace s (addr k)) (t.laneBits / 8)])).hart) := by
  have far : 2 ^ 52 ≤ clusterPlace s (addr k) := by unfold clusterPlace localPlace; omega
  rw [loadLane, access_lane fits]
  dsimp only
  rw [load_localSeg s far]
  rfl

theorem loadLane_fails (unfit : ¬ laneFits t (addr k)) : ∃ code, loadLane t.laneBits addr s x k = .exc ⟨code, addr k⟩ s := by
  obtain ⟨code, h⟩ := access_lane_fails unfit s needR
  exact ⟨code, by rw [loadLane, h]⟩

theorem storeLane_fits (fits : laneFits t (addr k)) (src : V512) : storeLane t.laneBits addr src s x k =
    .ok x false (s.store [localSeg (clusterPlace s (addr k)) (t.laneBits / 8)] (toBytes (t.laneBits / 8) (lane t.laneBits src k))) := by
  rw [storeLane, access_lane fits]

end

/-! ## The lanes one after another (R142) -/

section
variable {on : Nat → Bool} {f : State → V512 → Nat → LaneOut} {i : Nat} {r : List Nat} {x y : V512} {bad : Option Nat} {b : Bool} {s u : State}
  {e : Exc}

theorem runLanes_inactive (h : on i = false) : runLanes on f (i :: r) x bad s = runLanes on f r x bad s := by
  rw [runLanes, if_neg (by rw [h]; exact Bool.false_ne_true)]

theorem runLanes_ok (h : on i = true) (hf : f s x i = .ok y b u) :
    runLanes on f (i :: r) x bad s = runLanes on f r y (if b && bad.isNone then some i else bad) u := by
  rw [runLanes, if_pos h, hf]

theorem runLanes_exc (h : on i = true) (hf : f s x i = .exc e u) : runLanes on f (i :: r) x bad s = (some (i, e), x, bad, u) := by
  rw [runLanes, if_pos h, hf]

end

/-- Lanes that are all performed are followed by the lanes after them. -/
theorem runLanes_append {on : Nat → Bool} {f : State → V512 → Nat → LaneOut} (r : List Nat) {y : V512} {bad' : Option Nat} {u : State} :
    ∀ (l : List Nat) {x : V512} {bad : Option Nat} {s : State}, runLanes on f l x bad s = (none, y, bad', u) →
      runLanes on f (l ++ r) x bad s = runLanes on f r y bad' u := by
  intro l
  induction l with
  | nil =>
    intro x bad s h
    cases h
    rfl
  | cons i l ih =>
    intro x bad s h
    rw [List.cons_append]
    cases active : on i with
    | false =>
      rw [runLanes_inactive active] at h ⊢
      exact ih h
    | true =>
      cases hf : f s x i with
      | ok y b u =>
        rw [runLanes_ok active hf] at h ⊢
        exact ih h
      | exc e u =>
        rw [runLanes_exc active hf] at h
        cases h

/-- Loads of lanes that pass their checks: each performed lane holds its bytes, each other one is as before, and of the state no more changes than
what streams have read ahead. -/
theorem runLanes_loads {t : ElemType} {on : Nat → Bool} {addr : Nat → Word} : ∀ (l : List Nat) (x : V512) (s : State),
    (∀ k ∈ l, on k = true → laneFits t (addr k)) →
    ∃ y h, runLanes on (loadLane t.laneBits addr) l x none s = (none, y, none, s.withHart h) ∧ aheadOnly s.hart h ∧
      ∀ k, k < t.lanes → lane t.laneBits y k = if k ∈ l ∧ on k = true then laneAt s t (addr k) else lane t.laneBits x k := by
  intro l
  induction l with
  | nil => exact fun x s _ => ⟨x, s.hart, rfl, aheadOnly_refl _, fun k _ => (if_neg fun h => List.not_mem_nil h.1).symm⟩
  | cons i l ih =>
    intro x s fits
    have later := fun k hk => fits k (List.mem_cons_of_mem i hk)
    cases active : on i with
    | false =>
      obtain ⟨y, h, run, ahead, lanes⟩ := ih x s later
      refine ⟨y, h, (runLanes_inactive active).trans run, ahead, fun k hk => (lanes k hk).trans (if_congr ?_ rfl rfl)⟩
      rw [List.mem_cons]
      refine and_congr_left fun hon => (or_iff_right ?_).symm
      rintro rfl
      exact Bool.false_ne_true (active.symm.trans hon)
    | true =>
      obtain ⟨y, h, run, ahead, lanes⟩ := ih (setLane t.laneBits x i (laneAt s t (addr i)))
        (s.withHart (dropMeeting s (segRuns [localSeg (clusterPlace s (addr i)) (t.laneBits / 8)])).hart) later
      refine ⟨y, h, (runLanes_ok active (loadLane_fits s x (fits i List.mem_cons_self active))).trans run,
        aheadOnly_trans (dropMeeting_aheadOnly ..) ahead, fun k hk => ?_⟩
      rw [lanes k hk, lane_setLane hk, Nat.mod_eq_of_lt (laneAt_lt ..)]
      by_cases rest : k ∈ l ∧ on k = true
      · rw [if_pos rest, if_pos ⟨List.mem_cons_of_mem i rest.1, rest.2⟩]
        rfl
      · rw [if_neg rest]
        by_cases first : k = i
        · subst first
          rw [if_pos rfl, if_pos ⟨List.mem_cons_self, active⟩]
        · rw [if_neg first, if_neg fun h => rest ⟨(List.mem_cons.1 h.1).resolve_left first, h.2⟩]

/-- Byte `o` of a number. -/
theorem getD_toBytes {n o : Nat} (ho : o < n) (x : Nat) : (toBytes n x).getD o 0 = BitVec.ofNat 8 (x / 2 ^ (8 * o)) := by
  induction n generalizing o x with
  | zero => exact absurd ho (Nat.not_lt_zero o)
  | succ n ih =>
    cases o with
    | zero => rw [toBytes, List.getD_cons_zero, Nat.mul_zero, pow_zero, Nat.div_one]
    | succ o =>
      rw [toBytes, List.getD_cons_succ, ih (Nat.lt_of_succ_lt_succ ho), Nat.div_div_eq_div_mul, Nat.mul_succ, Nat.add_comm (8 * o), Nat.pow_add]

/-- The place `p` lies outside the bytes of the lane at an address. -/
def outsideLane (s : State) (t : ElemType) (a : Word) (p : Nat) : Prop := p < clusterPlace s a ∨ clusterPlace s a + t.laneBits / 8 ≤ p

theorem clusterPlace_of_cur {s u : State} (h : u.cur = s.cur) (a : Word) : clusterPlace u a = clusterPlace s a := by
  unfold clusterPlace
  rw [h]

/-- Stores of lanes that pass their checks: of the bytes of a lane those stand that no later lane reaches, and bytes outside the lanes are as
before. -/
theorem runLanes_stores {t : ElemType} {on : Nat → Bool} {addr : Nat → Word} (src x : V512) : ∀ (l : List Nat) (s : State),
    l.Pairwise (· < ·) → (∀ k ∈ l, on k = true → laneFits t (addr k)) →
    ∃ u, runLanes on (storeLane t.laneBits addr src) l x none s = (none, x, none, u) ∧ u.cur = s.cur ∧ aheadOnly s.hart u.hart ∧
      (∀ p, (∀ k ∈ l, on k = true → outsideLane s t (addr k) p) → u.mem.read p = s.mem.read p) ∧
      ∀ k ∈ l, on k = true → ∀ o, o < t.laneBits / 8 →
        (∀ j ∈ l, k < j → on j = true → outsideLane s t (addr j) (clusterPlace s (addr k) + o)) →
        u.mem.read (clusterPlace s (addr k) + o) = BitVec.ofNat 8 (lane t.laneBits src k / 2 ^ (8 * o)) := by
  intro l
  induction l with
  | nil => exact fun s _ _ => ⟨s, rfl, rfl, aheadOnly_refl _, fun _ _ => rfl, fun k hk => absurd hk List.not_mem_nil⟩
  | cons i l ih =>
    intro s ascending fits
    obtain ⟨above, ascending⟩ := List.pairwise_cons.1 ascending
    have later := fun k hk => fits k (List.mem_cons_of_mem i hk)
    cases active : on i with
    | false =>
      have other {k : Nat} (hk : k ∈ i :: l) (hon : on k = true) : k ∈ l :=
        (List.mem_cons.1 hk).resolve_left fun h => Bool.false_ne_true (active.symm.trans (h ▸ hon))
      obtain ⟨u, run, cur, ahead, outside, written⟩ := ih s ascending later
      exact ⟨u, (runLanes_inactive active).trans run, cur, ahead, fun p hp => outside p fun k hk => hp k (List.mem_cons_of_mem i hk),
        fun k hk hon o ho free => written k (other hk hon) hon o ho fun j hj => free j (List.mem_cons_of_mem i hj)⟩
    | true =>
      have first := storeLane_fits s x (fits i List.mem_cons_self active) src
      have hlen := toBytes_length (t.laneBits / 8) (lane t.laneBits src i)
      have mem := store_localSeg_mem s (p := clusterPlace s (addr i)) hlen
      have cur1 := store_localSeg_cur s (clusterPlace s (addr i)) (t.laneBits / 8) (toBytes (t.laneBits / 8) (lane t.laneBits src i))
      have hart1 := store_localSeg_hart s (clusterPlace s (addr i)) (t.laneBits / 8) (toBytes (t.laneBits / 8) (lane t.laneBits src i))
      generalize s.store _ _ = s1 at first mem cur1 hart1
      obtain ⟨u, run, cur, ahead, outside, written⟩ := ih s1 ascending later
      simp only [outsideLane, clusterPlace_of_cur cur1] at outside written ⊢
      refine ⟨u, (runLanes_ok active first).trans run, cur.trans cur1, aheadOnly_trans (hart1 ▸ aheadOnly_freshStreams s.hart) ahead,
        fun p hp => ?_, fun k hk hon o ho free => ?_⟩
      · rw [outside p fun k hk => hp k (List.mem_cons_of_mem i hk), mem]
        exact Memory.read_write_other (by rw [hlen]; exact hp i List.mem_cons_self active)
      · rcases List.mem_cons.1 hk with rfl | hk
        · rw [outside _ fun j hj => free j (List.mem_cons_of_mem k hj) (above j hj), mem, Memory.read_write, if_pos (by omega),
            Nat.add_sub_cancel_left, getD_toBytes ho]
        · exact written k hk hon o ho fun j hj => free j (List.mem_cons_of_mem i hj)

/-! ## What the lane accesses share -/

/-- Each strided or indexed access of unbound registers is the shared load or store with the addresses of its lanes (R141). -/
theorem exec_of_laneForm {s : State} {i : Instr} {st : Bool} {d : Reg} {m : Mask} {t : ElemType} {addr : Nat → Word}
    (h : laneForm s i = some (st, d, m, t, addr)) (plain : plainRegs s i) :
    ∃ a, exec i s = (if st then laneStore i d m t a s else laneLoad i d m t a s) ∧ a s [] = addr ∧ sourceV s [] d = s.v d := by
  unfold laneForm at h
  split at h <;> cases h
  case h_1 ga gb => exact ⟨strided ga gb, rfl, rfl, sourceV_unbound (plain _ (.inr (List.mem_singleton_self _))) _⟩
  case h_2 ga gb => exact ⟨strided ga gb, rfl, rfl, sourceV_unbound (plain _ (.inl (List.mem_singleton_self _))) _⟩
  case h_3 ga vb =>
    refine ⟨indexed ga vb t, rfl, ?_, sourceV_unbound (plain _ (.inr (List.mem_singleton_self _))) _⟩
    funext k
    rw [indexed, sourceV_unbound (plain vb (.inl (List.mem_singleton_self _)))]
  case h_4 ga vb =>
    refine ⟨indexed ga vb t, rfl, ?_, sourceV_unbound (plain _ (.inl List.mem_cons_self)) _⟩
    funext k
    rw [indexed, sourceV_unbound (plain vb (.inl (List.mem_cons_of_mem _ (List.mem_singleton_self _))))]

theorem localAdds_of_none {s : State} (h : s.adds = []) : localAdds s = false := by
  rw [localAdds, h]
  rfl

theorem mem_lanesFrom {s : State} {n k : Nat} : k ∈ lanesFrom s n ↔ s.hart.tsw.rlane.toNat ≤ k ∧ k < n := by
  simp [lanesFrom, and_comm]

theorem lanesFrom_ascending (s : State) (n : Nat) : (lanesFrom s n).Pairwise (· < ·) := List.pairwise_lt_range.filter _

/-- The active bit of a lane is the one the statements name (R20). -/
theorem maskBits_iff {s : State} {m : Mask} {t : ElemType} {k : Nat} (hk : k < t.lanes) : (maskBits s m).testBit k = true ↔ laneOn s m k := by
  rw [testBit_maskBits s m (hk.trans_le (lanes_le t)), laneOn_iff]

/-- The lanes performed are those listed that are active. -/
theorem laneRuns_iff {s : State} {m : Mask} {t : ElemType} {k : Nat} :
    laneRuns s m t k ↔ k ∈ lanesFrom s t.lanes ∧ (maskBits s m).testBit k = true := by
  rw [laneRuns, mem_lanesFrom, and_assoc]
  exact and_congr_right fun _ => and_congr_right fun hk => (maskBits_iff hk).symm

theorem maskMode_ma_iff {m : Mask} : maskMode m = .ma ↔ m.mk = 2 := by cases m <;> simp [maskMode, Mask.mk]

/-- Under `.ma` the inactive lanes become 0, and every other lane is as it is (R141). -/
theorem lane_zeroInactive {t : ElemType} {k : Nat} (hk : k < t.lanes) (on : Nat → Bool) (mode : Masking) (x : V512) :
    lane t.laneBits (zeroInactive t.laneBits t.lanes on mode x) k = if mode = .ma ∧ on k = false then 0 else lane t.laneBits x k := by
  unfold zeroInactive
  by_cases zeroes : mode = .ma
  · rw [if_pos zeroes, lane_ofLanes (Nat.mul_div_le 512 _) hk, decide_eq_true hk, Bool.true_and]
    cases on k with
    | false => rw [Bool.not_false, if_pos rfl, if_pos ⟨zeroes, rfl⟩, Nat.zero_mod]
    | true => rw [Bool.not_true, if_neg Bool.false_ne_true, if_neg fun h => Bool.false_ne_true h.2.symm, Nat.mod_eq_of_lt (lane_lt ..)]
  · rw [if_neg zeroes, if_neg fun h => zeroes h.1]

/-- With no bad data TVAL would show the lowest active lane (R133). -/
theorem errLane_lowest {on : Nat → Bool} {n k : Nat} (hk : k < n) (active : on k = true) :
    on (errLane on n none) = true ∧ errLane on n none ≤ k := by
  have found : ((List.range n).find? on).isSome = true := List.find?_isSome.2 ⟨k, List.mem_range.2 hk, active⟩
  obtain ⟨j, hj⟩ := Option.isSome_iff_exists.1 found
  obtain ⟨hon, _, below⟩ := List.find?_range_eq_some.1 hj
  rw [errLane, Option.getD_none, hj, Option.getD_some]
  refine ⟨hon, Nat.le_of_not_lt fun lt => ?_⟩
  have := below k lt
  simp [active] at this

section
variable {s : State} {m : Mask} {t : ElemType} {k : Nat} (hk : k < t.lanes)
include hk

/-- It is an active lane that TVAL would show. -/
theorem errLane_laneOn (active : laneOn s m k) :
    laneOn s m (errLane (maskBits s m).testBit t.lanes none) ∧ errLane (maskBits s m).testBit t.lanes none ≤ k := by
  obtain ⟨active, least⟩ := errLane_lowest hk ((maskBits_iff hk).2 active)
  exact ⟨(maskBits_iff (least.trans_lt hk)).1 active, least⟩

/-- An active lane, and under `.mu` every lane, is as the lanes performed have left it. -/
theorem lane_zeroInactive_kept (kept : laneOn s m k ∨ m.mk ≠ 2) (x : V512) :
    lane t.laneBits (zeroInactive t.laneBits t.lanes (maskBits s m).testBit (maskMode m) x) k = lane t.laneBits x k := by
  rw [lane_zeroInactive hk, if_neg]
  rintro ⟨ma, off⟩
  rcases kept with active | undisturbed
  · exact Bool.false_ne_true (off.symm.trans ((maskBits_iff hk).2 active))
  · exact undisturbed (maskMode_ma_iff.1 ma)

/-- Under `.ma` an inactive lane is 0. -/
theorem lane_zeroInactive_off (off : ¬ laneOn s m k) (ma : m.mk = 2) (x : V512) :
    lane t.laneBits (zeroInactive t.laneBits t.lanes (maskBits s m).testBit (maskMode m) x) k = 0 := by
  rw [lane_zeroInactive hk, if_pos ⟨maskMode_ma_iff.2 ma, Bool.eq_false_iff.2 (mt (maskBits_iff hk).1 off)⟩]

end

/-- The value of a load moves no stream on. -/
theorem deliver_streams (s : State) (away un : Bool) (r : Reg) (addr : Word) (x : V512) (bad : Bool) :
    (deliver s away un (.v r) addr x bad).hart.streams = s.hart.streams := by
  cases away <;> cases bad <;> rfl

/-- A v register that takes its value at once, or waits for it, is what a load leaves. -/
theorem deliver_retire_hart (s : State) (away un : Bool) (r : Reg) (addr : Word) (x : V512) :
    ((deliver s away un (.v r) addr x false).retire 4).hart = loaded s.hart false away un (.v r) addr x false := by
  cases away <;> rfl

/-- The state before the trap of a lane: the register is written where a lower lane has been performed. -/
def lanesKept (s : State) (d : Reg) (any : Bool) (y : V512) : State := if any then s.setV d y else s

theorem lanesKept_mem (s : State) (d : Reg) (any : Bool) (y : V512) : (lanesKept s d any y).mem = s.mem := by cases any <;> rfl

theorem lanesKept_control (s : State) (d : Reg) (any : Bool) (y : V512) : (lanesKept s d any y).hart.wait = s.hart.wait ∧
    (lanesKept s d any y).hart.trap = s.hart.trap ∧ (lanesKept s d any y).hart.pc = s.hart.pc := by
  cases any <;> exact ⟨rfl, rfl, rfl⟩

theorem lanesKept_v (s : State) (d : Reg) (any : Bool) (y : V512) : (lanesKept s d any y).hart.v[d] = if any then y else s.v d := by
  cases any with
  | false => rfl
  | true => exact State.v_setV_same s d y

/-! ## Loads and stores whose lanes come to an end, and loads that fault -/

section
variable {s : State} {i : Instr} {d : Reg} {m : Mask} {t : ElemType} {a : State → List (Fin 8 × V512 × Bool) → Nat → Word} {y : V512} {h : Hart}
  (hready : Ready i s) (plain : plainRegs s i) (hadds : s.adds = [])
include hready plain hadds

/-- A load all of whose lanes pass ends as a load does, its inactive lanes 0 under `.ma`. -/
theorem laneLoad_performed (source : sourceV s [] d = s.v d) (ahead : aheadOnly s.hart h)
    (run : runLanes (maskBits s m).testBit (loadLane t.laneBits (a s [])) (lanesFrom s t.lanes) (s.v d) none s = (none, y, none, s.withHart h)) :
    laneLoad i d m t a s = .next ((deliver (s.withHart h) (lanesAway s (maskBits s m).testBit (a s []) (List.range t.lanes)) false (.v d)
      (a s [] (errLane (maskBits s m).testBit t.lanes none)) (zeroInactive t.laneBits t.lanes (maskBits s m).testBit (maskMode m) y)
      false).retire 4) := by
  rw [laneLoad, issue_ready hready]
  dsimp only
  rw [operands_plain plain]
  dsimp only
  rw [localAdds_of_none hadds, if_neg Bool.false_ne_true, source, run]
  dsimp only
  rw [advanceStreams_plain fun r hr => ?_]
  refine bound_eq_none_congr (fun j => ?_) (bound_of_aheadOnly ahead (plain r hr))
  rw [deliver_streams]
  rfl

/-- A load one of whose lanes fails traps with its number. -/
theorem laneLoad_faulted (source : sourceV s [] d = s.v d) {k : Nat} {e : Exc}
    (run : runLanes (maskBits s m).testBit (loadLane t.laneBits (a s [])) (lanesFrom s t.lanes) (s.v d) none s =
      (some (k, e), y, none, s.withHart h)) :
    laneLoad i d m t a s = .next (laneTrap k e (lanesKept (s.withHart h) d
      ((lanesFrom s t.lanes).any fun j => j < k && (maskBits s m).testBit j) y)) := by
  rw [laneLoad, issue_ready hready]
  dsimp only
  rw [operands_plain plain]
  dsimp only
  rw [localAdds_of_none hadds, if_neg Bool.false_ne_true, source, run]
  rfl

/-- A store all of whose lanes pass counts as one store where it leaves the core. -/
theorem laneStore_performed (source : sourceV s [] d = s.v d) {u : State} (ahead : aheadOnly s.hart u.hart)
    (run : runLanes (maskBits s m).testBit (storeLane t.laneBits (a s []) (s.v d)) (lanesFrom s t.lanes) 0 none s = (none, y, none, u)) :
    ∃ away, laneStore i d m t a s = .next ((countStore u u.replNext away false false).retire 4) := by
  refine ⟨lanesAway s (maskBits s m).testBit (a s []) (List.range t.lanes), ?_⟩
  rw [laneStore, issue_ready hready]
  dsimp only
  rw [operands_plain plain]
  dsimp only
  rw [localAdds_of_none hadds, if_neg Bool.false_ne_true, source, run]
  dsimp only
  rw [advanceStreams_plain fun r hr => ?_]
  refine bound_eq_none_congr (fun j => ?_) (bound_of_aheadOnly ahead (plain r hr))
  rw [countStore_hart]
  cases lanesAway s (maskBits s m).testBit (a s []) (List.range t.lanes) <;> rfl

end

/-- No active lane names another core where each names the own one. -/
theorem lanesAway_eq_false {s : State} {m : Mask} {t : ElemType} {addr : Nat → Word}
    (own : ∀ k, k < t.lanes → laneOn s m k → (addr k).toNat / 2 ^ 19 = s.cur % 16) :
    lanesAway s (maskBits s m).testBit addr (List.range t.lanes) = false := by
  rw [lanesAway, List.any_eq_false]
  intro k hk
  have lt := List.mem_range.1 hk
  rw [Bool.and_eq_true, bne_iff_ne, not_and_not_right, maskBits_iff lt]
  exact own k lt

theorem laneLoadsComplete : LaneLoadsComplete := by
  intro s i d m t addr hform hready plain hadds fits
  obtain ⟨a, hexec, rfl, source⟩ := exec_of_laneForm hform plain
  obtain ⟨y, h, run, ahead, lanes⟩ := runLanes_loads (lanesFrom s t.lanes) (s.v d) s fun k hk hon => fits k (laneRuns_iff.2 ⟨hk, hon⟩)
  have performed := hexec.trans (laneLoad_performed hready plain hadds source ahead run)
  have own := lanesAway_eq_false (s := s) (m := m) (t := t) (addr := a s [])
  have kept {k : Nat} (hk : k < t.lanes) (h : laneOn s m k ∨ m.mk ≠ 2) := lane_zeroInactive_kept hk h y
  have off {k : Nat} (hk : k < t.lanes) (h : ¬ laneOn s m k) (ma : m.mk = 2) := lane_zeroInactive_off hk h ma y
  have least {k : Nat} (hk : k < t.lanes) := errLane_laneOn (s := s) (m := m) hk
  generalize lanesAway s (maskBits s m).testBit (a s []) (List.range t.lanes) = away at performed own
  generalize zeroInactive t.laneBits t.lanes (maskBits s m).testBit (maskMode m) y = x at performed kept off
  generalize errLane (maskBits s m).testBit t.lanes none = k₀ at performed least
  have hart := deliver_retire_hart (s.withHart h) away false d (a s [] k₀) x
  have mem := ((deliver_harts (s.withHart h) away false (.v d) (a s [] k₀) x false).trans (retire_harts _ 4)).mem
  refine ⟨_, x, h, k₀, performed, fun p => by rw [mem]; rfl, ahead, fun k => least, ?_, fun each => ?_, fun k runs => ?_, fun k => off,
    fun k hk skipped h => ?_⟩
  · cases away with
    | true => exact .inl hart
    | false => exact .inr hart
  · obtain ⟨_, hv, _⟩ := aheadOnly_regs ahead
    rw [hart, own each, ← hv]
    rfl
  · obtain ⟨_, hk, active⟩ := id runs
    rw [kept hk (.inl active), lanes k hk, if_pos (laneRuns_iff.1 runs)]
    rfl
  · rw [kept hk h, lanes k hk, if_neg (mt laneRuns_iff.2 skipped)]

theorem laneStoresComplete : LaneStoresComplete := by
  intro s i r m t addr hform hready plain hadds fits
  obtain ⟨a, hexec, rfl, source⟩ := exec_of_laneForm hform plain
  obtain ⟨u, run, cur, ahead, outside, written⟩ := runLanes_stores (s.v r) 0 (lanesFrom s t.lanes) s (lanesFrom_ascending ..)
    fun k hk hon => fits k (laneRuns_iff.2 ⟨hk, hon⟩)
  obtain ⟨away, performed⟩ := laneStore_performed hready plain hadds source ahead run
  obtain ⟨hg, hv, _, hpc⟩ := aheadOnly_regs ahead
  have mem : ((countStore u u.replNext away false false).retire 4).mem = u.mem := ((countStore_harts ..).trans (retire_harts ..)).mem
  refine ⟨_, hexec.trans performed, ?_, ?_, ?_, fun p hp => ?_, fun k o hk ho free => ?_⟩
  · rw [← hg]; cases away <;> rfl
  · rw [← hv]; cases away <;> rfl
  · rw [← hpc]; cases away <;> rfl
  · rw [mem]
    exact outside p fun k hk hon => hp k (laneRuns_iff.2 ⟨hk, hon⟩)
  · rw [mem]
    obtain ⟨listed, hon⟩ := laneRuns_iff.1 hk
    exact written k listed hon o ho fun j hj lt hon => free j lt (laneRuns_iff.2 ⟨hj, hon⟩)

/-! ## A lane that fails its checks (R143) -/

/-- A lane's trap saves its number; the rest is the trap of the state before it. -/
theorem laneTrap_leaves {s : State} (hw : s.hart.wait = none) {k : Nat} (hk : k < 2 ^ 7) (e : Exc) :
    (laneTrap k e s).hart.tsws.rlane.toNat = k ∧
      (laneTrap k e s).hart.trap = { s.hart.trap with int := false, code := BitVec.ofNat 16 e.code, tval := e.tval, tepc := s.hart.pc } ∧
      (laneTrap k e s).hart.pc = s.hart.trap.tvec ∧ (laneTrap k e s).hart.v = s.hart.v ∧ SameMemory s (laneTrap k e s) := by
  have taken := trapHere_taken (s := s.onHart fun h => { h with tsw := { h.tsw with rlane := BitVec.ofNat 7 k } }) hw e
  refine ⟨?_, taken.trap, taken.pc, taken.regs.2.1, taken.mem⟩
  refine (congrArg (fun w : Tsw => w.rlane.toNat) taken.saved).trans ?_
  exact Nat.mod_eq_of_lt hk

/-- The lanes below a listed one come before it. -/
theorem lanesFrom_split {s : State} {n f : Nat} (hf : f ∈ lanesFrom s n) :
    ∃ l r, lanesFrom s n = l ++ f :: r ∧ ∀ k, k ∈ l ↔ k ∈ lanesFrom s n ∧ k < f := by
  obtain ⟨l, r, split⟩ := List.append_of_mem hf
  have ascending := lanesFrom_ascending s n
  rw [split, List.pairwise_append, List.pairwise_cons] at ascending
  obtain ⟨_, ⟨above, _⟩, below⟩ := ascending
  refine ⟨l, r, split, fun k => ⟨fun hk => ⟨split ▸ List.mem_append_left _ hk, below k hk f List.mem_cons_self⟩, fun ⟨hk, lt⟩ => ?_⟩⟩
  rw [split, List.mem_append, List.mem_cons] at hk
  rcases hk with hk | rfl | hk
  · exact hk
  · exact absurd lt (Nat.lt_irrefl k)
  · exact absurd (above k hk) (Nat.lt_asymm lt)

theorem aheadOnly_control {h k : Hart} (ahead : aheadOnly h k) : k.wait = h.wait ∧ k.trap = h.trap ∧ k.pc = h.pc := by
  obtain ⟨_, rfl⟩ := ahead
  exact ⟨rfl, rfl, rfl⟩

/-- Up to a lane that fails its checks the lanes are loaded; from it on they are as before. -/
theorem runLanes_loads_upTo {s : State} {m : Mask} {t : ElemType} {addr : Nat → Word} {f : Nat} (hf : laneRuns s m t f)
    (unfit : ¬ laneFits t (addr f)) (fits : ∀ k, k < f → laneRuns s m t k → laneFits t (addr k)) (x : V512) :
    ∃ y h code, runLanes (maskBits s m).testBit (loadLane t.laneBits addr) (lanesFrom s t.lanes) x none s =
        (some (f, ⟨code, addr f⟩), y, none, s.withHart h) ∧ aheadOnly s.hart h ∧
      (∀ k, k < f → laneRuns s m t k → lane t.laneBits y k = laneAt s t (addr k)) ∧
      ∀ k, k < t.lanes → ¬ (k < f ∧ laneRuns s m t k) → lane t.laneBits y k = lane t.laneBits x k := by
  obtain ⟨listed, active⟩ := laneRuns_iff.1 hf
  obtain ⟨l, r, split, below⟩ := lanesFrom_split listed
  have performed {k : Nat} : k ∈ l ∧ (maskBits s m).testBit k = true ↔ k < f ∧ laneRuns s m t k := by
    rw [below, laneRuns_iff, and_comm (a := k ∈ _), and_assoc]
  obtain ⟨y, h, run, ahead, lanes⟩ := runLanes_loads l x s fun k hk active =>
    fits k (performed.1 ⟨hk, active⟩).1 (performed.1 ⟨hk, active⟩).2
  obtain ⟨code, fails⟩ := loadLane_fails (s.withHart h) y unfit
  refine ⟨y, h, code, ?_, ahead, fun k lt runs => ?_, fun k hk out => ?_⟩
  · rw [split]
    exact (runLanes_append (f :: r) l run).trans (runLanes_exc active fails)
  · obtain ⟨_, hk, _⟩ := id runs
    rw [lanes k hk, if_pos (performed.2 ⟨lt, runs⟩)]
  · rw [lanes k hk, if_neg (mt performed.1 out)]

/-- The register before the trap of lane `f` has the lanes performed below it, whether or not there are any. -/
theorem lane_lanesKept {s : State} {m : Mask} {t : ElemType} {d : Reg} {h : Hart} {y : V512} {f k : Nat} (hv : h.v = s.hart.v)
    (above : ∀ j, j < t.lanes → ¬ (j < f ∧ laneRuns s m t j) → lane t.laneBits y j = lane t.laneBits (s.v d) j) (hk : k < t.lanes) :
    lane t.laneBits (lanesKept (s.withHart h) d ((lanesFrom s t.lanes).any fun j => j < f && (maskBits s m).testBit j) y).hart.v[d] k =
      lane t.laneBits y k := by
  rw [lanesKept_v]
  split
  · rfl
  next none =>
    rw [above k hk fun ⟨lt, runs⟩ => none ?_]
    · exact congrArg (fun v : Vector V512 32 => lane t.laneBits v[d] k) hv
    · obtain ⟨listed, active⟩ := laneRuns_iff.1 runs
      exact List.any_eq_true.2 ⟨k, listed, by rw [active, Bool.and_true, decide_eq_true lt]⟩

theorem laneFaultsKeepLowerLanes : LaneFaultsKeepLowerLanes := by
  intro s i d m t addr f hform hready plain hadds hw hf unfit fits
  obtain ⟨a, hexec, rfl, source⟩ := exec_of_laneForm hform plain
  obtain ⟨y, h, code, run, ahead, lower, upper⟩ := runLanes_loads_upTo hf unfit fits (s.v d)
  have faulted := hexec.trans (laneLoad_faulted hready plain hadds source run)
  obtain ⟨_, hv, _⟩ := aheadOnly_regs ahead
  have kept {k : Nat} (hk : k < t.lanes) := lane_lanesKept hv upper hk
  generalize ((lanesFrom s t.lanes).any fun j => j < f && (maskBits s m).testBit j) = any at faulted kept
  obtain ⟨wait, trap, pc⟩ := lanesKept_control (s.withHart h) d any y
  obtain ⟨hwait, htrap, hpc⟩ := aheadOnly_control ahead
  have mem : (lanesKept (s.withHart h) d any y).mem = s.mem := lanesKept_mem ..
  generalize lanesKept (s.withHart h) d any y = u at faulted kept wait trap pc mem
  have small : f < 2 ^ 7 := (hf.2.1.trans_le (lanes_le t)).trans (by decide)
  obtain ⟨rlane, trap', pc', v', mem'⟩ := laneTrap_leaves (wait.trans (hwait.trans hw)) small ⟨code, a s [] f⟩
  refine ⟨_, faulted, rlane, ?_, ?_, ?_, ?_, fun p => (mem' p).trans (by rw [mem]), fun k lt runs => ?_, fun k le hk => ?_⟩
  · rw [trap']
    exact pc.trans hpc
  · rw [trap']
  · rw [trap']
  · rw [pc', trap]
    exact congrArg (·.tvec) htrap
  · obtain ⟨_, hk, _⟩ := id runs
    rw [v', kept hk, lower k lt runs]
    rfl
  · rw [v', kept hk, upper k hk fun h => Nat.not_lt.2 le h.1]

/-- Settles O26: a lane whose address passes the checks is one segment, and one induction on the lanes says for loads, one for stores, what they have
done; the lanes below one that fails are such a run of loads. -/
theorem laneAccessesComplete : Obligations.LaneAccessesComplete := ⟨laneLoadsComplete, laneStoresComplete, laneFaultsKeepLowerLanes⟩

end Sys2Proof.Machine
end

section
/-! SUPPORT. Vector atomics (R149, R150), and the statement about them. -/

namespace Sys2Proof.Machine

open Sys2Proof.Claims

/-! ## What the stores of the lanes leave of the hart -/

/-- Stores change of a hart at most what streams have read ahead and which interrupts are pending (R178, R406). -/
def storesOnly (h k : Hart) : Prop := ∃ q, aheadOnly { h with irq := q } k

theorem storesOnly_refl (h : Hart) : storesOnly h h := ⟨h.irq, aheadOnly_refl h⟩

theorem storesOnly_trans {h k l : Hart} (hk : storesOnly h k) (kl : storesOnly k l) : storesOnly h l := by
  obtain ⟨_, _, rfl⟩ := hk
  obtain ⟨q, f, rfl⟩ := kl
  exact ⟨q, f, by simp⟩

theorem storesOnly_fields {h k : Hart} (only : storesOnly h k) :
    k.g = h.g ∧ k.v = h.v ∧ k.pc = h.pc ∧ k.old = h.old ∧ k.loads = h.loads := by
  obtain ⟨_, _, rfl⟩ := only
  exact ⟨rfl, rfl, rfl, rfl, rfl⟩

theorem bound_of_storesOnly {h k : Hart} (only : storesOnly h k) {r : Reg} (free : h.bound r = none) : k.bound r = none := by
  obtain ⟨q, ahead⟩ := only
  exact bound_of_aheadOnly ahead free

/-- A store leaves the hart but for pieces read ahead, and for ERR where a key refuses a page. -/
theorem store_storesOnly (s : State) (l : List Seg) (bs : List Byte) : storesOnly s.hart (s.store l bs).hart := by
  have fresh : (s.store l bs).hart = freshStreams (errIf (writeSegs s s.cur l bs) l).hart := rfl
  rw [fresh, errIf]
  split
  · rw [writeSegs_hart]
    exact ⟨s.hart.irq, aheadOnly_freshStreams s.hart⟩
  · rw [raise_cur, State.withHart_hart, writeSegs_hart]
    exact ⟨_, aheadOnly_freshStreams _⟩

/-! ## The lanes of the statement and the lanes of the model -/

/-- The mask condition of the statement's lanes. -/
theorem unmasked_or_bit_iff {s : State} {m : Mask} {k : Nat} :
    (m.mk = 0 ∨ (s.v (toReg m.reg)).getLsbD k = true) ↔ laneBit s m k = true := by
  have reg (r : Reg) : toReg r.val = r := Fin.ext (Nat.mod_eq_of_lt r.isLt)
  cases m with
  | none => simp [Mask.mk, laneBit]
  | mu r => simp [Mask.mk, Mask.reg, laneBit, reg]
  | ma r => simp [Mask.mk, Mask.reg, laneBit, reg]

theorem laneBit_of_v {s u : State} (h : u.hart.v = s.hart.v) (m : Mask) (k : Nat) : laneBit u m k = laneBit s m k := by
  cases m <;> simp only [laneBit, State.v, h]

/-- The lowest lane whose data was bad, as the model keeps it and as the statement does. -/
theorem lowestBad_eq (ok : Bool) (bad : Option Nat) (k : Nat) :
    (if !ok && bad.isNone then some k else bad) = if bad = none ∧ ok = false then some k else bad := by
  cases ok <;> cases bad <;> rfl

/-- A lane whose access passes, away from replicated pages, reads its bytes and writes the new value (R149). -/
theorem atomLane_ok {t : ElemType} {am : AddrMode} {addr : Nat → Word} {f : Nat → Nat → Nat} {s s1 : State} {k : Nat} {l : List Seg}
    (hacc : access s am (t.laneBits / 8) needRW (addr k) (t.laneBits / 8) = (.ok l, s1)) (plain : ¬ (l.any fun g => pteRepl g.entry) = true)
    (x : V512) : atomLane t.laneBits am addr f s x k = .ok (setLane t.laneBits x k (leNat (s1.load l))) (!l.all Seg.ok)
      (s1.store l (toBytes (t.laneBits / 8) (f (leNat (s1.load l)) (lane t.laneBits x k)))) := by
  rw [atomLane, hacc]
  exact if_neg plain

/-- The bytes of a lane's access make a lane. -/
theorem load_lt_lane {t : ElemType} {am : AddrMode} {need : Need} {a : Word} {s s1 : State} {l : List Seg}
    (hacc : access s am (t.laneBits / 8) need a (t.laneBits / 8) = (.ok l, s1)) : leNat (s1.load l) < 2 ^ t.laneBits :=
  leNat_lt_lane ((readSegs_length ..).trans (access_segBytes hacc))

/-- Where the statement's lanes come to an end, so do the model's, in the same register and state. -/
theorem runLanes_of_vatomLanes {i : Instr} {am : AddrMode} {m : Mask} {t : ElemType} {v : V512} {on : Nat → Bool} {f : Nat → Nat → Nat}
    (new : ∀ o x, o < 2 ^ t.laneBits → x < 2 ^ t.laneBits → f o x = vatomNew t o x i) : ∀ (l : List Nat) {x y : V512} {bad bad' : Option Nat}
    {s u : State}, (∀ k ∈ l, on k = laneBit s m k) → vatomLanes i am m t v l x bad s = some (y, bad', u) →
    runLanes on (atomLane t.laneBits am (fun k => BitVec.ofNat 64 (lane t.laneBits v k)) f) l x bad s = (none, y, bad', u) ∧
      storesOnly s.hart u.hart := by
  intro l
  induction l with
  | nil =>
    intro x y bad bad' s u _ h
    cases h
    exact ⟨rfl, storesOnly_refl _⟩
  | cons k l ih =>
    intro x y bad bad' s u mask h
    have first := mask k List.mem_cons_self
    have later := fun j hj => mask j (List.mem_cons_of_mem k hj)
    rw [vatomLanes] at h
    simp only [unmasked_or_bit_iff, ← first] at h
    cases active : on k with
    | false =>
      rw [active, if_neg Bool.false_ne_true] at h
      rw [runLanes_inactive active]
      exact ih later h
    | true =>
      rw [active, if_pos rfl] at h
      split at h
      next segs s1 hacc =>
        split at h
        · cases h
        next plain =>
          have kept : storesOnly s.hart (s1.store segs (toBytes (t.laneBits / 8)
              (f (leNat (s1.load segs)) (lane t.laneBits x k)))).hart := by
            rw [← (access_ok_stations hacc).hart]
            exact store_storesOnly ..
          have lane_ok := atomLane_ok (f := f) (addr := fun k => BitVec.ofNat 64 (lane t.laneBits v k)) hacc plain x
          rw [runLanes_ok active lane_ok, lowestBad_eq]
          rw [new _ _ (load_lt_lane hacc) (lane_lt ..)] at kept ⊢
          obtain ⟨_, hv, _⟩ := storesOnly_fields kept
          obtain ⟨run, rest⟩ := ih (fun j hj => (later j hj).trans (laneBit_of_v hv m j).symm) h
          exact ⟨run, storesOnly_trans kept rest⟩
      · cases h

/-- The types of VATOM.min and VATOM.max are f32 and integer types (R149). -/
theorem isInt_of_vatomAccepts {am : AddrMode} {t : ElemType} (h : vatomAccepts false am t = true) (notF32 : t ≠ .f32) : t.isInt = true := by
  unfold vatomAccepts at h
  split at h
  case h_1 => rfl
  case h_2 => rfl
  case h_3 => rfl
  case h_4 => rfl
  case h_5 => exact absurd rfl notF32
  case h_6 => cases h

/-- The lesser or greater of two lanes is the one the statements name. -/
theorem vatomExt_eq {am : AddrMode} {t : ElemType} (h : vatomAccepts false am t = true) (mx : Bool) {o x : Nat} (ho : o < 2 ^ t.laneBits)
    (hx : x < 2 ^ t.laneBits) : vatomExt mx t o x = if t = .f32 then (fmtF32.minMax mx o x).1
      else if mx then (if typed t o < typed t x then x else o) else (if typed t x < typed t o then x else o) := by
  unfold vatomExt
  split
  · rfl
  next notF32 =>
    have int := isInt_of_vatomAccepts h notF32
    rw [etInt_eq_typed int ho, etInt_eq_typed int hx]

/-- Each vector atomic is the shared one, and on the types it takes its new value is the one the statements name (R149). -/
theorem exec_of_vatomForm {i : Instr} {vd va : Reg} {am : AddrMode} {m : Mask} {t : ElemType} (h : vatomForm i = some (vd, va, am, m, t))
    (wf : i.wf = true) (s : State) : ∃ f, exec i s = vatomic i vd va am m t f s ∧ va ∈ (vUse i).src ∧
      ∀ o x, o < 2 ^ t.laneBits → x < 2 ^ t.laneBits → f o x = vatomNew t o x i := by
  unfold vatomForm at h
  split at h <;> cases h
  all_goals refine ⟨_, rfl, List.mem_cons_of_mem _ (List.mem_singleton_self _), fun o x ho hx => ?_⟩
  case h_5 => exact vatomExt_eq wf false ho hx
  case h_6 => exact vatomExt_eq wf true ho hx
  all_goals rfl

/-! ## The end of a vector atomic -/

section
variable {s : State} {i : Instr} {vd va : Reg} {am : AddrMode} {m : Mask} {t : ElemType} {f : Nat → Nat → Nat}

/-- A vector atomic of unbound registers all of whose lanes come to an end gives the old values to its register (R150). -/
theorem vatomic_performed (hready : Ready i s) (plain : plainRegs s i) (hadds : s.adds = []) (hva : va ∈ (vUse i).src) {y : V512}
    {bad : Option Nat} {u : State} (kept : storesOnly s.hart u.hart)
    (run : runLanes (maskBits s m).testBit (atomLane t.laneBits am (fun k => BitVec.ofNat 64 (lane t.laneBits (s.v va) k)) f)
      (lanesFrom s t.lanes) (s.v vd) none s = (none, y, bad, u)) :
    ∃ away un, vatomic i vd va am m t f s = .next ((deliver u away un (.v vd)
      (BitVec.ofNat 64 (lane t.laneBits (s.v va) (errLane (maskBits s m).testBit t.lanes bad)))
      (zeroInactive t.laneBits t.lanes (maskBits s m).testBit (maskMode m) y) bad.isSome).retire 4) := by
  let addr (k : Nat) : Word := BitVec.ofNat 64 (lane t.laneBits (s.v va) k)
  refine ⟨atomAway s am (maskBits s m).testBit addr (List.range t.lanes),
    atomUn s am addr t.laneBits ((List.range t.lanes).filter (maskBits s m).testBit), ?_⟩
  have noAdd : (s.adds.any fun a => a.core == s.cur) = false := by rw [hadds, List.any_nil]
  rw [vatomic, issue_ready hready]
  dsimp only
  rw [operands_plain plain]
  dsimp only
  rw [noAdd, if_neg Bool.false_ne_true, sourceV_unbound (plain va (.inl hva)), run]
  dsimp only
  rw [advanceStreams_plain fun r hr => ?_]
  refine bound_eq_none_congr (fun j => ?_) (bound_of_storesOnly kept (plain r hr))
  rw [deliver_streams]

end

/-- The register of a vector atomic is written at once, or a load waits for its value (R132, R137). -/
theorem deliver_retire_cases (u : State) (away un : Bool) (r : Reg) (addr : Word) (x : V512) (bad : Bool) :
    let w := ((deliver u away un (.v r) addr x bad).retire 4).hart
    w.pc = u.hart.pc + 4 ∧ w.g = u.hart.g ∧ ((w.v = u.hart.v.set r x ∧ w.old = u.hart.old) ∨
      (w.v = u.hart.v ∧ w.old.iss = u.hart.old.iss + 1 ∧ w.loads = u.hart.loads ++ [⟨.v r, addr, x, bad, un⟩])) := by
  cases away with
  | true => exact ⟨rfl, rfl, .inr ⟨rfl, rfl, rfl⟩⟩
  | false => cases bad <;> exact ⟨rfl, rfl, .inl ⟨rfl, rfl⟩⟩

/-- Settles O27: lane by lane the statement's loop is the model's, whose stores leave the hart but for pieces read ahead and ERR; what is left is to
deliver the old values. -/
theorem vectorAtomicsComplete : Obligations.VectorAtomicsComplete := by
  intro s s1 i vd va am m t x bad hform wf hready plain hadds lanes
  obtain ⟨f, hexec, hva, new⟩ := exec_of_vatomForm hform wf s
  obtain ⟨run, kept⟩ := runLanes_of_vatomLanes (on := (maskBits s m).testBit) new (lanesFrom s t.lanes)
    (fun k hk => testBit_maskBits s m ((mem_lanesFrom.1 hk).2.trans_le (lanes_le t))) lanes
  obtain ⟨away, un, performed⟩ := vatomic_performed (f := f) hready plain hadds hva kept run
  obtain ⟨hg, hv, hpc, hold, hloads⟩ := storesOnly_fields kept
  obtain ⟨pc, g, cases⟩ := deliver_retire_cases s1 away un vd
    (BitVec.ofNat 64 (lane t.laneBits (s.v va) (errLane (maskBits s m).testBit t.lanes bad)))
    (zeroInactive t.laneBits t.lanes (maskBits s m).testBit (maskMode m) x) bad.isSome
  refine ⟨_, zeroInactive t.laneBits t.lanes (maskBits s m).testBit (maskMode m) x, un, errLane (maskBits s m).testBit t.lanes bad,
    hexec.trans performed, fun k hbad => by rw [hbad]; rfl, fun noBad k hk active => noBad ▸ errLane_laneOn hk active,
    fun p => by rw [((deliver_harts ..).trans (retire_harts ..)).mem], pc.trans (by rw [hpc]), g.trans hg,
    fun k hk kept => lane_zeroInactive_kept hk kept x, fun k hk off ma => lane_zeroInactive_off hk off ma x, ?_⟩
  rw [← hold, ← hloads]
  exact cases

end Sys2Proof.Machine
end

section
/-! SUPPORT. Lanes bit by bit (R19), lane operations in the words of the statements (R157–R159), the flags of elements (R154), and the instructions
that work element by element (R155–R162, R168). -/

namespace Sys2Proof.Machine

open Sys2Proof.Claims

/-! ## Lanes bit by bit -/

theorem testBit_lane (w : Nat) (x : V512) (k j : Nat) : (lane w x k).testBit j = (decide (j < w) && x.getLsbD (w * k + j)) := testBit_field ..

/-- A bit of a register is a bit of the lane it lies in. -/
theorem getLsbD_eq_testBit_lane {w : Nat} (hw : 0 < w) (x : V512) (b : Nat) : x.getLsbD b = (lane w x (b / w)).testBit (b % w) := by
  rw [testBit_lane, decide_eq_true (Nat.mod_lt b hw), Bool.true_and, Nat.div_add_mod]

/-- Above the lanes it is made of, a register is 0. -/
theorem getLsbD_ofLanes_above {w b : Nat} {l : List Nat} (above : w * l.length ≤ b) : (ofLanes w l).getLsbD b = false := by
  rw [ofLanes, BitVec.getLsbD_ofNat, Nat.testBit_lt_two_pow ((packLanes_lt w l).trans_le (Nat.pow_le_pow_right Nat.two_pos above)), Bool.and_false]

theorem lane_and (w : Nat) (x y : V512) (k : Nat) : lane w (x &&& y) k = lane w x k &&& lane w y k := by
  refine Nat.eq_of_testBit_eq fun j => ?_
  simp only [Nat.testBit_and, testBit_lane, BitVec.getLsbD_and]
  cases decide (j < w) <;> rfl

theorem lane_or (w : Nat) (x y : V512) (k : Nat) : lane w (x ||| y) k = lane w x k ||| lane w y k := by
  refine Nat.eq_of_testBit_eq fun j => ?_
  simp only [Nat.testBit_or, testBit_lane, BitVec.getLsbD_or]
  cases decide (j < w) <;> rfl

theorem lane_xor (w : Nat) (x y : V512) (k : Nat) : lane w (x ^^^ y) k = lane w x k ^^^ lane w y k := by
  refine Nat.eq_of_testBit_eq fun j => ?_
  simp only [Nat.testBit_xor, testBit_lane, BitVec.getLsbD_xor]
  cases decide (j < w) <;> rfl

/-- A lane of the complement, at any width. -/
theorem lane_complement {w k : Nat} (hk : k < 512 / w) (x : V512) : lane w (~~~x) k = 2 ^ w - 1 - lane w x k := by
  rw [Nat.sub_sub, Nat.add_comm 1]
  refine Nat.eq_of_testBit_eq fun j => ?_
  rw [Nat.testBit_two_pow_sub_succ (lane_lt w x k), testBit_lane, testBit_lane]
  by_cases hj : j < w
  · have inside : w * k + j < 512 :=
      calc w * k + j < w * (k + 1) := by rw [Nat.mul_succ]; omega
        _ ≤ w * (512 / w) := Nat.mul_le_mul_left w hk
        _ ≤ 512 := Nat.mul_div_le 512 w
    simp [hj, inside]
  · simp [hj]

/-! ## Integer lanes (R157) -/

theorem ofNat_sub_toNat {w a b : Nat} (ha : a < 2 ^ w) (hb : b < 2 ^ w) :
    (BitVec.ofNat w a - BitVec.ofNat w b).toNat = (a + 2 ^ w - b) % 2 ^ w := by
  rw [BitVec.toNat_sub, BitVec.toNat_ofNat, BitVec.toNat_ofNat, Nat.mod_eq_of_lt ha, Nat.mod_eq_of_lt hb]
  congr 1
  omega

theorem ofNat_mul_toNat (w a b : Nat) : (BitVec.ofNat w a * BitVec.ofNat w b).toNat = a * b % 2 ^ w := by
  rw [← BitVec.ofNat_mul, BitVec.toNat_ofNat]

section
variable {t : ElemType} (rm : Round) {a b : Nat}

theorem laneAdd_eq_lanewise (ha : a < 2 ^ t.laneBits) (hb : b < 2 ^ t.laneBits) :
    laneAdd t rm a b = lanewise t (fun a b _ => a + b) (fun a b _ => (etFmt t).addV rm a b) a b 0 :=
  (laneAdd_agrees t rm a b (fun _ => ha) fun _ => hb).1

theorem laneSub_eq_lanewise (ha : a < 2 ^ t.laneBits) (hb : b < 2 ^ t.laneBits) :
    laneSub t rm a b = lanewise t (fun a b _ => a - b) (fun a b _ => (etFmt t).addV rm a b.neg) a b 0 := by
  rw [laneSub, lanewise, ofNat_sub_toNat ha hb]

theorem laneMul_eq_lanewise (a b : Nat) :
    laneMul t rm a b = lanewise t (fun a b _ => a * b) (fun a b _ => (etFmt t).mulV rm a b) a b 0 := by
  rw [laneMul, lanewise, ofNat_mul_toNat]

theorem laneFma_eq_lanewise (a b c : Nat) :
    laneFma t rm a b c = lanewise t (fun a b c => a * b + c) (fun a b c => (etFmt t).fmaV rm a b c) a b c := by
  have sum : (BitVec.ofNat t.laneBits a * BitVec.ofNat t.laneBits b + BitVec.ofNat t.laneBits c).toNat = (a * b + c) % 2 ^ t.laneBits := by
    rw [← BitVec.ofNat_mul, ← BitVec.ofNat_add, BitVec.toNat_ofNat]
  rw [laneFma, lanewise, sum]

theorem laneExt_min_eq (ha : a < 2 ^ t.laneBits) (hb : b < 2 ^ t.laneBits) :
    laneExt false t a b = if t.isInt then (if typed t b < typed t a then b else a, Fl.none) else (etFmt t).minMax false a b := by
  by_cases int : t.isInt = true
  · rw [laneExt_min_int int ha hb, if_pos int, lesser]
  · rw [laneExt_float int, if_neg int]

theorem laneExt_max_eq (ha : a < 2 ^ t.laneBits) (hb : b < 2 ^ t.laneBits) :
    laneExt true t a b = if t.isInt then (if typed t a < typed t b then b else a, Fl.none) else (etFmt t).minMax true a b :=
  (laneExt_max_agrees t a b (fun _ => ha) fun _ => hb).1

end

/-! ## Shifts (R159) -/

section
variable {w a : Nat} (ha : a < 2 ^ w) (n : Nat)

/-- A shift to the left by the width or more leaves nothing. -/
theorem shl_eq_shiftLeft (a n : Nat) : (if n < w then a * 2 ^ n % 2 ^ w else 0) = (BitVec.ofNat w a <<< n).toNat := by
  rw [BitVec.toNat_shiftLeft, BitVec.toNat_ofNat, Nat.shiftLeft_eq, Nat.mod_mul_mod]
  split
  · rfl
  next far => exact (Nat.mod_eq_zero_of_dvd (Dvd.dvd.mul_left (Nat.pow_dvd_pow 2 (not_lt.1 far)) a)).symm

include ha

theorem shr_eq_ushiftRight : (if n < w then a / 2 ^ n else 0) = (BitVec.ofNat w a >>> n).toNat := by
  rw [BitVec.toNat_ushiftRight, BitVec.toNat_ofNat, Nat.mod_eq_of_lt ha, Nat.shiftRight_eq_div_pow]
  split
  · rfl
  next far => exact (Nat.div_eq_of_lt (ha.trans_le (Nat.pow_le_pow_right Nat.two_pos (not_lt.1 far)))).symm

end

theorem intPattern_ofInt (w : Nat) (x : Int) : intPattern w x = (BitVec.ofInt w x).toNat := by
  rw [intPattern, BitVec.toNat_ofInt]

/-- Division by something larger leaves the sign. -/
theorem ediv_of_small {x d : Int} (low : -d ≤ x) (high : x < d) : x / d = if x < 0 then -1 else 0 := by
  have pos : 0 < d := by omega
  split
  next neg => exact le_antisymm (Int.le_sub_one_of_lt (Int.ediv_neg_of_neg_of_pos neg pos)) ((Int.le_ediv_iff_mul_le pos).2 (by omega))
  next nonneg => exact Int.ediv_eq_zero_of_lt (not_lt.1 nonneg) high

/-- An arithmetic shift by the width or more is one by the width less 1: the sign is left. -/
theorem sra_eq_sshiftRight (w a n : Nat) :
    intPattern w (signedOf w a / 2 ^ min n (w - 1)) = ((BitVec.ofNat w a).sshiftRight n).toNat := by
  have value : signedOf w a / 2 ^ min n (w - 1) = ((BitVec.ofNat w a).sshiftRight n).toInt := by
    rw [signedOf_eq_toInt, BitVec.toInt_sshiftRight, Int.shiftRight_eq_div_pow, Nat.cast_pow, Nat.cast_ofNat]
    rcases Nat.le_total n (w - 1) with near | far
    · rw [min_eq_left near]
    · have low := BitVec.le_toInt (BitVec.ofNat w a)
      have high := BitVec.toInt_lt (x := BitVec.ofNat w a)
      have wide : (2 : Int) ^ (w - 1) ≤ 2 ^ n := pow_le_pow_right₀ (by decide) far
      rw [min_eq_right far, ediv_of_small low high, ediv_of_small (by omega) (by omega)]
  rw [intPattern_ofInt, value, BitVec.ofInt_toInt]

/-! ## The flags of elements (R154) -/

/-- A flag that either of two operations sets is set by a list of them where one of them sets it. -/
theorem Fl.all_any {p : Fl → Bool} (either : ∀ a b, p (a.or b) = (p a || p b)) (unset : p Fl.none = false) (l : List Fl) :
    p (Fl.all l) = l.any p := by
  have fold : ∀ (l : List Fl) (a : Fl), p (l.foldl Fl.or a) = (p a || l.any p) := by
    intro l
    induction l with
    | nil => exact fun a => (Bool.or_false _).symm
    | cons b r ih => exact fun a => by rw [List.foldl_cons, ih, either, List.any_cons, Bool.or_assoc]
  rw [Fl.all, fold, unset, Bool.false_or]

/-- A flag of elements is set where an active one sets it. -/
theorem perElement_flag {p : Fl → Bool} (either : ∀ a b, p (a.or b) = (p a || p b)) (unset : p Fl.none = false) (w n : Nat) (x : VIn)
    (f : Nat → Nat × Fl) : p (perElement w n x f).fl = true ↔ ∃ k, k < n ∧ x.active k = true ∧ p (f k).2 = true := by
  have element (k : Nat) : p (if x.active k then f k else (if x.mode = .mu then lane w x.d k else 0, Fl.none)).2 = true ↔
      x.active k = true ∧ p (f k).2 = true := by
    cases x.active k <;> simp [unset]
  rw [perElement, Fl.all_any either unset, List.any_eq_true]
  simp only [List.mem_map, List.mem_range, exists_exists_and_eq_and, element]

theorem flagsOf_perElement (w n : Nat) (x : VIn) (f : Nat → Nat × Fl) : flagsOf n (fun k => x.active k = true) f (perElement w n x f).fl :=
  ⟨perElement_flag (p := Fl.nv) (fun _ _ => rfl) rfl w n x f, perElement_flag (p := Fl.dz) (fun _ _ => rfl) rfl w n x f,
    perElement_flag (p := Fl.of) (fun _ _ => rfl) rfl w n x f, perElement_flag (p := Fl.uf) (fun _ _ => rfl) rfl w n x f,
    perElement_flag (p := Fl.nx) (fun _ _ => rfl) rfl w n x f⟩

/-- The flags depend on the elements that there are, and on those that work. -/
theorem flagsOf_congr {n : Nat} {on on' : Nat → Prop} {r r' : Nat → Nat × Fl} {f : Fl} (same : ∀ k, k < n → (on k ↔ on' k) ∧ r k = r' k)
    (h : flagsOf n on r f) : flagsOf n on' r' f := by
  have element (p : Fl → Bool) : (∃ k, k < n ∧ on k ∧ p (r k).2 = true) ↔ ∃ k, k < n ∧ on' k ∧ p (r' k).2 = true :=
    exists_congr fun k => and_congr_right fun hk => by rw [(same k hk).1, (same k hk).2]
  obtain ⟨nv, dz, of, uf, nx⟩ := h
  exact ⟨nv.trans (element Fl.nv), dz.trans (element Fl.dz), of.trans (element Fl.of), uf.trans (element Fl.uf), nx.trans (element Fl.nx)⟩

theorem widthOf_eq (l : LaneWidth) : widthOf l = laneWidth l := by cases l <;> rfl

/-! ## Instructions that work element by element -/

/-- The effect of `i` is one of `n` elements of `w` bits with the results `r`. -/
def WorksPerElement (s : State) (i : Instr) (vd : Reg) (m : Mask) (w n : Nat) (r : Nat → Nat × Fl) : Prop :=
  ∃ (va vb ga : Reg) (g : VIn → Nat → Nat × Fl), exec i s = vecHart i ⟨va, vb, vd, m, ga⟩ (fun x => perElement w n x (g x)) s ∧
    ∀ k, k < n → g (vinOf s ⟨va, vb, vd, m, ga⟩) k = r k

section
variable {s : State} {i : Instr} {vd : Reg} {m : Mask} (va vb ga : Reg) (plain : plainRegs s i)
  (named : ∀ r ∈ [va, vb, vd], r ∈ (vUse i).src ∨ r ∈ (vUse i).dst)
include plain named

/-- The sources and the destination of an instruction on unbound registers. -/
theorem vinOf_sources : (vinOf s ⟨va, vb, vd, m, ga⟩).a = s.v va ∧ (vinOf s ⟨va, vb, vd, m, ga⟩).b = s.v vb ∧
    (vinOf s ⟨va, vb, vd, m, ga⟩).d = s.v vd :=
  ⟨sourceV_unbound (plain va (named va (by simp))) [], sourceV_unbound (plain vb (named vb (by simp))) [],
    sourceV_unbound (plain vd (named vd (by simp))) []⟩

theorem worksPerElement_of_perLane {t : ElemType} (op : VIn → Nat → Nat → Nat → Nat × Fl) {r : Nat → Nat × Fl}
    (hexec : exec i s = vecHart i ⟨va, vb, vd, m, ga⟩ (fun x => perLane t x (op x)) s)
    (value : ∀ k, op (vinOf s ⟨va, vb, vd, m, ga⟩) (lane t.laneBits (s.v va) k) (lane t.laneBits (s.v vb) k) (lane t.laneBits (s.v vd) k) = r k) :
    WorksPerElement s i vd m t.laneBits t.lanes r := by
  obtain ⟨a, b, d⟩ := vinOf_sources (m := m) va vb ga plain named
  refine ⟨va, vb, ga, fun x k => op x (lane t.laneBits x.a k) (lane t.laneBits x.b k) (lane t.laneBits x.d k), hexec, fun k _ => ?_⟩
  simp only [← value, a, b, d]

theorem worksPerElement_of_perWidth {l : LaneWidth} {op : Nat → Nat → Nat} {r : Nat → Nat × Fl}
    (hexec : exec i s = vecHart i ⟨va, vb, vd, m, ga⟩ (fun x => perWidth l x op) s)
    (value : ∀ k, k < 512 / widthOf l → (op (lane (widthOf l) (s.v va) k) (lane (widthOf l) (s.v vb) k), Fl.none) = r k) :
    WorksPerElement s i vd m (widthOf l) (512 / widthOf l) r := by
  obtain ⟨a, b, -⟩ := vinOf_sources (m := m) va vb ga plain named
  rw [widthOf_eq] at value ⊢
  refine ⟨va, vb, ga, fun x k => (op (lane (laneWidth l) x.a k) (lane (laneWidth l) x.b k), Fl.none), hexec, fun k hk => ?_⟩
  simp only [← value k hk, a, b]

end

/-- Each form works element by element with the results that the statements name. -/
theorem worksPerElement_of_vectorLane {s : State} {i : Instr} {vd : Reg} {m : Mask} {w n : Nat} {r : Nat → Nat × Fl}
    (h : vectorLane s i = some (vd, m, w, n, r)) (plain : plainRegs s i) : WorksPerElement s i vd m w n r := by
  unfold vectorLane at h
  split at h <;> cases h
  case h_1 va vb t =>
    exact worksPerElement_of_perLane va vb 0 plain (by simp [vUse]) (fun x a b _ => laneAdd t x.rm a b) rfl
      fun k => laneAdd_eq_lanewise _ (lane_lt ..) (lane_lt ..)
  case h_2 va vb t =>
    exact worksPerElement_of_perLane va vb 0 plain (by simp [vUse]) (fun x a b _ => laneSub t x.rm a b) rfl
      fun k => laneSub_eq_lanewise _ (lane_lt ..) (lane_lt ..)
  case h_3 va vb t =>
    exact worksPerElement_of_perLane va vb 0 plain (by simp [vUse]) (fun x a b _ => laneMul t x.rm a b) rfl
      fun k => laneMul_eq_lanewise ..
  case h_4 va vb t =>
    exact worksPerElement_of_perLane va vb 0 plain (by simp [vUse]) (fun x a b c => laneFma t x.rm a b c) rfl
      fun k => laneFma_eq_lanewise ..
  case h_5 va vb t =>
    exact worksPerElement_of_perLane va vb 0 plain (by simp [vUse]) (fun _ a b _ => laneExt false t a b) rfl
      fun k => laneExt_min_eq (lane_lt ..) (lane_lt ..)
  case h_6 va vb t =>
    exact worksPerElement_of_perLane va vb 0 plain (by simp [vUse]) (fun _ a b _ => laneExt true t a b) rfl
      fun k => laneExt_max_eq (lane_lt ..) (lane_lt ..)
  case h_7 va vb l =>
    exact worksPerElement_of_perWidth va vb 0 plain (by simp [vUse]) rfl fun k _ => by rw [lane_and]
  case h_8 va vb l =>
    exact worksPerElement_of_perWidth va vb 0 plain (by simp [vUse]) rfl fun k _ => by rw [lane_or]
  case h_9 va vb l =>
    exact worksPerElement_of_perWidth va vb 0 plain (by simp [vUse]) rfl fun k _ => by rw [lane_xor]
  case h_10 va l =>
    exact worksPerElement_of_perWidth va va 0 plain (by simp [vUse]) rfl fun k hk => by
      rw [lane_complement hk, widthOf_eq]
  case h_11 va vb l =>
    exact worksPerElement_of_perWidth va vb 0 plain (by simp [vUse]) rfl fun k _ => by
      rw [← shl_eq_shiftLeft, widthOf_eq]
  case h_12 va vb l =>
    exact worksPerElement_of_perWidth va vb 0 plain (by simp [vUse]) rfl fun k _ => by
      rw [← shr_eq_ushiftRight (lane_lt ..), widthOf_eq]
  case h_13 va vb l =>
    exact worksPerElement_of_perWidth va vb 0 plain (by simp [vUse]) rfl fun k _ => by
      rw [← sra_eq_sshiftRight, widthOf_eq]
  case h_14 t u va =>
    obtain ⟨a, -⟩ := vinOf_sources (vd := vd) (m := m) va va 0 plain (by simp [vUse])
    exact ⟨va, va, 0, fun x k => convert t u x.rm (lane u.elemBits x.a k), rfl, fun k _ => congrArg (fun v => convert t u _ (lane _ v k)) a⟩
  case h_15 ga t =>
    exact worksPerElement_of_perLane vd vd ga plain (by simp [vUse]) (fun x _ _ _ => (x.gv.toNat % 2 ^ t.laneBits, Fl.none)) rfl fun k => rfl
  case h_16 va t =>
    exact worksPerElement_of_perLane va va 0 plain (by simp [vUse]) (fun _ a _ _ => sfLane t sfExp2 a) rfl fun _ => rfl
  case h_17 va t =>
    exact worksPerElement_of_perLane va va 0 plain (by simp [vUse]) (fun _ a _ _ => sfLane t sfLog2 a) rfl fun _ => rfl
  case h_18 va t =>
    exact worksPerElement_of_perLane va va 0 plain (by simp [vUse]) (fun _ a _ _ => sfLane t sfRcp a) rfl fun _ => rfl
  case h_19 va t =>
    exact worksPerElement_of_perLane va va 0 plain (by simp [vUse]) (fun _ a _ _ => sfLane t sfRsq a) rfl fun _ => rfl
  case h_20 va t =>
    exact worksPerElement_of_perLane va va 0 plain (by simp [vUse]) (fun _ a _ _ => sfLane t sfTanh a) rfl fun _ => rfl

/-- The elements of a conversion lie in a register, and there are 64 at most, since not both types have 4 bits (R161). -/
theorem vcvt_fits {t u : ElemType} (pair : vcvtAccepts t u = true) :
    t.elemBits * (512 / max t.elemBits u.elemBits) ≤ 512 ∧ 512 / max t.elemBits u.elemBits ≤ 64 := by
  have bits (t : ElemType) : t.elemBits = 4 ∨ 8 ≤ t.elemBits := by cases t <;> decide
  have wide : 8 ≤ max t.elemBits u.elemBits := by
    simp only [vcvtAccepts, Bool.and_eq_true, Bool.not_eq_true', Bool.and_eq_false_iff, beq_eq_false_iff_ne] at pair
    have := bits t
    have := bits u
    omega
  exact ⟨(Nat.mul_le_mul_right _ (le_max_left ..)).trans (Nat.mul_div_le 512 _), Nat.div_le_of_le_mul (by omega)⟩

/-- The elements of a form lie in its destination, and each has a bit in the mask (R20). -/
theorem vectorLane_fits {s : State} {i : Instr} {vd : Reg} {m : Mask} {w n : Nat} {r : Nat → Nat × Fl}
    (h : vectorLane s i = some (vd, m, w, n, r)) (wf : i.wf = true) : vd ∈ (vUse i).dst ∧ w * n ≤ 512 ∧ n ≤ 64 := by
  have wide (l : LaneWidth) : widthOf l * (512 / widthOf l) ≤ 512 ∧ 512 / widthOf l ≤ 64 := by cases l <;> decide
  unfold vectorLane at h
  split at h <;> cases h
  case h_14 t u va =>
    exact ⟨List.mem_cons_self, vcvt_fits wf⟩
  case h_7 | h_8 | h_9 | h_10 | h_11 | h_12 | h_13 => exact ⟨List.mem_cons_self, wide _⟩
  all_goals exact ⟨List.mem_cons_self, (laneBits_mul_lanes _).le, lanes_le _⟩

/-- An element-by-element effect, in the words of the statements. -/
theorem elementwise_completes {s : State} {i : Instr} {vd : Reg} {m : Mask} {w n : Nat} {r : Nat → Nat × Fl}
    (works : WorksPerElement s i vd m w n r) (fits : vd ∈ (vUse i).dst ∧ w * n ≤ 512 ∧ n ≤ 64) (hready : Ready i s) (plain : plainRegs s i) :
    ∃ x f, exec i s = .next (afterV s vd x f) ∧ (∀ k, k < n → laneOn s m k → lane w x k = (r k).1 % 2 ^ w) ∧
      (∀ k, k < n → ¬ laneOn s m k → lane w x k = if m.mk = 1 then lane w (s.v vd) k else 0) ∧
      (∀ b, w * n ≤ b → x.getLsbD b = false) ∧ flagsOf n (laneOn s m) r f := by
  obtain ⟨va, vb, ga, g, hexec, value⟩ := works
  obtain ⟨hvd, fits, few⟩ := fits
  have active : ∀ k, k < n → ((vinOf s ⟨va, vb, vd, m, ga⟩).active k = true ↔ laneOn s m k) := fun k hk => by
    rw [active_vinOf s _ (hk.trans_le few), laneOn_iff]
  have dest : (vinOf s ⟨va, vb, vd, m, ga⟩).d = s.v vd := sourceV_unbound (plain vd (.inr hvd)) []
  refine ⟨_, _, hexec.trans (vecHart_writesV hready plain _ _ rfl rfl), fun k hk on => ?_, fun k hk off => ?_, fun b hb => ?_,
    flagsOf_congr (fun k hk => ⟨active k hk, value k hk⟩) (flagsOf_perElement ..)⟩
  · rw [lane_perElement fits hk, if_pos ((active k hk).2 on), value k hk]
  · rw [lane_perElement fits hk, if_neg (mt (active k hk).1 off), dest]
    exact if_congr maskMode_mu_iff rfl rfl
  · exact getLsbD_ofLanes_above (by simpa using hb)

theorem elementwiseForms : ElementwiseForms := fun _ _ _ _ _ _ _ h wf hready plain =>
  elementwise_completes (worksPerElement_of_vectorLane h plain) (vectorLane_fits h wf) hready plain

end Sys2Proof.Machine
end

section
/-! SUPPORT. f32 patterns (R78, R81) the special cases of the special functions (R169), and the statement about element-by-element
instructions. -/

namespace Sys2Proof.Machine

open Sys2Proof.Claims

/-! ## Patterns of f32 -/

theorem fmtF32_signed_lt (s : Bool) {code : Nat} (h : code < 2 ^ 31) : fmtF32.signed s code < 2 ^ 32 := by
  have sign : fmtF32.signCode = 2 ^ 31 := rfl
  cases s with
  | false => exact h.trans (by decide)
  | true => rw [Fmt.signed, if_pos rfl, sign]; omega

theorem fmtF32_infCode_lt : fmtF32.infCode < 2 ^ 31 := by decide

theorem fmtF32_nan_lt : fmtF32.nan < 2 ^ 32 := by decide

theorem fmtF32_overflowCode_lt (rm : Round) (s : Bool) : fmtF32.overflowCode rm s < 2 ^ 32 := by cases rm <;> cases s <;> decide

/-- Rounding answers a pattern of 32 bits. -/
theorem fmtF32_round_lt (rm : Round) (s : Bool) (num den : Nat) (e : Int) : (fmtF32.round rm s num den e).1 < 2 ^ 32 := by
  have inf := fmtF32_infCode_lt
  unfold Fmt.round
  dsimp only
  split
  · exact fmtF32_signed_lt s (by decide)
  · split
    · exact fmtF32_overflowCode_lt rm s
    · split <;> exact fmtF32_signed_lt s (by omega)

theorem fmtF32_ofVal_lt (rm : Round) (a : FVal) : (fmtF32.ofVal rm a).1 < 2 ^ 32 := by
  cases a with
  | nan s => exact fmtF32_nan_lt
  | inf s => exact fmtF32_signed_lt s fmtF32_infCode_lt
  | fin s m e => exact fmtF32_round_lt ..

/-- No value of a pattern has an exponent below that of the least subnormal (R81). -/
theorem fmtF32_decode_exponent {x m : Nat} {s : Bool} {e : Int} (h : fmtF32.decode x = .fin s m e) : -149 ≤ e := by
  have least : fmtF32.umin = -149 := by decide
  unfold Fmt.decode at h
  dsimp only at h
  split at h
  · split at h <;> cases h
  · split at h <;> cases h <;> omega

/-! ## Comparing with an integer (R171) -/

section
variable {e : Int} (he : -200 ≤ e) (m c : Nat)
include he

/-- In units of 2^−200 the magnitudes of both are whole. -/
theorem scaled_eq : m * 2 ^ (e + 200).toNat = m * 2 ^ (e - min e 0).toNat * 2 ^ (200 + min e 0).toNat ∧
    c * 2 ^ 200 = c * 2 ^ (0 - min e 0).toNat * 2 ^ (200 + min e 0).toNat := by
  rw [Nat.mul_assoc, Nat.mul_assoc, ← Nat.pow_add, ← Nat.pow_add]
  constructor <;> congr 2 <;> omega

theorem scaled_lt_iff : m * 2 ^ (e - min e 0).toNat < c * 2 ^ (0 - min e 0).toNat ↔ m * 2 ^ (e + 200).toNat < c * 2 ^ 200 := by
  rw [(scaled_eq he m c).1, (scaled_eq he m c).2, Nat.mul_lt_mul_right (Nat.two_pow_pos _)]

theorem scaled_gt_iff : c * 2 ^ (0 - min e 0).toNat < m * 2 ^ (e - min e 0).toNat ↔ c * 2 ^ 200 < m * 2 ^ (e + 200).toNat := by
  rw [(scaled_eq he m c).1, (scaled_eq he m c).2, Nat.mul_lt_mul_right (Nat.two_pow_pos _)]

omit he in
theorem flt_eq_decide (s f : Bool) : flt (.fin s m e) (.fin f c 0) = decide (
    (if s then -((m * 2 ^ (e - min e 0).toNat : Nat) : Int) else (m * 2 ^ (e - min e 0).toNat : Nat)) +
      (if !f then -((c * 2 ^ (0 - min e 0).toNat : Nat) : Int) else (c * 2 ^ (0 - min e 0).toNat : Nat)) < 0) := rfl

theorem flt_positive_iff (s : Bool) (hc : 0 < c) :
    flt (.fin s m e) (.fin false c 0) = true ↔ (s = false → m * 2 ^ (e + 200).toNat < c * 2 ^ 200) := by
  have pos : 0 < c * 2 ^ (0 - min e 0).toNat := Nat.mul_pos hc (Nat.two_pow_pos _)
  rw [← scaled_lt_iff he m c, flt_eq_decide, decide_eq_true_eq]
  generalize m * 2 ^ (e - min e 0).toNat = x, c * 2 ^ (0 - min e 0).toNat = y at pos
  cases s with
  | false => simp
  | true => simp; omega

theorem flt_negative_iff (s : Bool) :
    flt (.fin s m e) (.fin true c 0) = true ↔ s = true ∧ c * 2 ^ 200 < m * 2 ^ (e + 200).toNat := by
  rw [← scaled_gt_iff he m c, flt_eq_decide, decide_eq_true_eq]
  generalize m * 2 ^ (e - min e 0).toNat = x, c * 2 ^ (0 - min e 0).toNat = y
  cases s with
  | false => simp; omega
  | true => simp

end

/-! ## The table of R169 -/

/-- No flag but NV and DZ is raised. -/
structure NvDzOnly (f : Fl) : Prop where
  of : f.of = false
  uf : f.uf = false
  nx : f.nx = false

/-- A special function raises no flag but NV and DZ. -/
def OnlyNvDz (sf : FVal → FVal × Fl) : Prop := ∀ a, NvDzOnly (sf a).2

/-- A special function has the results and the flags of the table of `i`, on the values that patterns have. -/
def FollowsTable (i : Instr) (sf : FVal → FVal × Fl) : Prop :=
  ∀ (a : FVal) (r : Nat) (nv dz : Bool), (∀ s m e, a = .fin s m e → -149 ≤ e) → specialCase i a = some (r, nv, dz) →
    (fmtF32.ofVal .rne (sf a).1).1 = r ∧ (sf a).2 = ⟨nv, dz, false, false, false⟩

/-- A zero keeps its sign. -/
theorem fmtF32_ofVal_zero (rm : Round) (s : Bool) (e : Int) : (fmtF32.ofVal rm (.fin s 0 e)).1 = if s then 0x80000000 else 0 := by
  cases s <;> rfl

theorem fmtF32_ofVal_one (s : Bool) : (fmtF32.ofVal .rne (.fin s 1 0)).1 = if s then 0xBF800000 else 0x3F800000 := by
  cases s <;> decide

theorem fmtF32_ofVal_inf (rm : Round) (s : Bool) : (fmtF32.ofVal rm (.inf s)).1 = if s then 0xFF800000 else 0x7F800000 := by
  cases s <;> rfl

section
variable (vd va : Reg) (k : Mask) (t : ElemType)

/-- At 128 and above VEXP2 overflows, and below −150 it is 0 (R171). -/
theorem sfExp2_table : FollowsTable (.vexp2 vd va k t) sfExp2 := by
  intro a r nv dz normal h
  cases a with
  | nan g => cases h; exact ⟨rfl, rfl⟩
  | inf s => cases h; cases s <;> exact ⟨rfl, rfl⟩
  | fin s m e =>
    have he : -200 ≤ e := (normal s m e rfl).trans' (by decide)
    have top : flt (.fin s m e) (fint 128) = true ↔ _ := flt_positive_iff he m 128 s (by decide)
    have bottom : flt (.fin s m e) (fint (-150)) = true ↔ _ := flt_negative_iff he m 150 s
    simp only [specialCase] at h
    split at h
    next zero => cases h; rw [sfExp2, if_pos zero]; exact ⟨fmtF32_ofVal_one false, rfl⟩
    next zero =>
      split at h
      next above =>
        have large : flt (.fin s m e) (fint 128) = false := Bool.eq_false_iff.2 fun h => not_lt.2 above.2 (top.1 h above.1)
        cases h
        rw [sfExp2, if_neg zero, large]
        exact ⟨rfl, rfl⟩
      next above =>
        split at h <;> cases h
        next below =>
          have small : flt (.fin s m e) (fint 128) = true := top.2 fun pos => absurd (pos.symm.trans below.1) Bool.false_ne_true
          rw [sfExp2, if_neg zero, small, bottom.2 below]
          exact ⟨rfl, rfl⟩

theorem sfLog2_table : FollowsTable (.vlog2 vd va k t) sfLog2 := by
  intro a r nv dz _ h
  cases a with
  | nan g => cases h; exact ⟨rfl, rfl⟩
  | inf s => cases s <;> cases h <;> exact ⟨rfl, rfl⟩
  | fin s m e =>
    simp only [specialCase] at h
    split at h
    next zero => cases h; rw [sfLog2, if_pos zero]; exact ⟨rfl, rfl⟩
    next zero =>
      split at h <;> cases h
      next neg => rw [sfLog2, if_neg zero, if_pos neg]; exact ⟨rfl, rfl⟩

theorem sfRcp_table : FollowsTable (.vrcp vd va k t) sfRcp := by
  intro a r nv dz _ h
  cases a with
  | nan g => cases h; exact ⟨rfl, rfl⟩
  | inf s => cases h; exact ⟨fmtF32_ofVal_zero .rne s 0, rfl⟩
  | fin s m e =>
    simp only [specialCase] at h
    split at h <;> cases h
    next zero => rw [sfRcp, if_pos zero]; exact ⟨fmtF32_ofVal_inf .rne s, rfl⟩

theorem sfRsq_table : FollowsTable (.vrsq vd va k t) sfRsq := by
  intro a r nv dz _ h
  cases a with
  | nan g => cases h; exact ⟨rfl, rfl⟩
  | inf s => cases s <;> cases h <;> exact ⟨rfl, rfl⟩
  | fin s m e =>
    simp only [specialCase] at h
    split at h
    next zero => cases h; rw [sfRsq, if_pos zero]; exact ⟨fmtF32_ofVal_inf .rne s, rfl⟩
    next zero =>
      split at h <;> cases h
      next neg => rw [sfRsq, if_neg zero, if_pos neg]; exact ⟨rfl, rfl⟩

theorem sfTanh_table : FollowsTable (.vtanh vd va k t) sfTanh := by
  intro a r nv dz _ h
  cases a with
  | nan g => cases h; exact ⟨rfl, rfl⟩
  | inf s => cases h; cases s <;> exact ⟨fmtF32_ofVal_one _, rfl⟩
  | fin s m e =>
    simp only [specialCase] at h
    split at h <;> cases h
    next zero => rw [sfTanh, if_pos zero, zero]; exact ⟨fmtF32_ofVal_zero .rne s e, rfl⟩

end

/-! ## No flags but NV and DZ (R169) -/

theorem sfExp2_onlyNvDz : OnlyNvDz sfExp2 := by
  intro a
  unfold sfExp2
  (repeat' split) <;> exact ⟨rfl, rfl, rfl⟩

theorem sfLog2_onlyNvDz : OnlyNvDz sfLog2 := by
  intro a
  unfold sfLog2
  (repeat' split) <;> exact ⟨rfl, rfl, rfl⟩

theorem sfRcp_onlyNvDz : OnlyNvDz sfRcp := by
  intro a
  unfold sfRcp
  (repeat' split) <;> exact ⟨rfl, rfl, rfl⟩

theorem sfRsq_onlyNvDz : OnlyNvDz sfRsq := by
  intro a
  unfold sfRsq
  (repeat' split) <;> exact ⟨rfl, rfl, rfl⟩

theorem sfTanh_onlyNvDz : OnlyNvDz sfTanh := by
  intro a
  unfold sfTanh
  (repeat' split) <;> exact ⟨rfl, rfl, rfl⟩

/-! ## The instructions -/

/-- Each instruction of a special function applies one with its table to each lane. -/
theorem vectorLane_of_specialForm {i : Instr} {vd va : Reg} {m : Mask} (h : specialForm i = some (vd, va, m)) (s : State) : ∃ sf,
    vectorLane s i = some (vd, m, 32, 16, fun k => sfLane .f32 sf (lane 32 (s.v va) k)) ∧ i.wf = true ∧ OnlyNvDz sf ∧ FollowsTable i sf := by
  unfold specialForm at h
  split at h <;> cases h
  case h_1 => exact ⟨_, rfl, rfl, sfExp2_onlyNvDz, sfExp2_table _ _ _ _⟩
  case h_2 => exact ⟨_, rfl, rfl, sfLog2_onlyNvDz, sfLog2_table _ _ _ _⟩
  case h_3 => exact ⟨_, rfl, rfl, sfRcp_onlyNvDz, sfRcp_table _ _ _ _⟩
  case h_4 => exact ⟨_, rfl, rfl, sfRsq_onlyNvDz, sfRsq_table _ _ _ _⟩
  case h_5 => exact ⟨_, rfl, rfl, sfTanh_onlyNvDz, sfTanh_table _ _ _ _⟩

theorem specialFunctionCases : SpecialFunctionCases := by
  intro s i vd va m k r nv dz hform hready plain hk on table
  obtain ⟨sf, hlane, wf, only, follows⟩ := vectorLane_of_specialForm hform s
  obtain ⟨x, f, hexec, active, -, -, flags⟩ := elementwiseForms s i vd m 32 16 _ hlane wf hready plain
  obtain ⟨hnv, hdz, hof, huf, hnx⟩ := flags
  obtain ⟨value, raised⟩ := follows _ r nv dz (fun _ _ _ => fmtF32_decode_exponent) table
  have result : sfLane .f32 sf (lane 32 (s.v va) k) = (r, ⟨nv, dz, false, false, false⟩) := Prod.ext value raised
  have clear {b : Bool} {p : Fl → Bool} (set : b = true ↔ ∃ k, k < 16 ∧ laneOn s m k ∧ p (sfLane .f32 sf (lane 32 (s.v va) k)).2 = true)
      (never : ∀ a, p (sf a).2 = false) : b = false :=
    Bool.eq_false_iff.2 fun h => have ⟨_, _, _, hj⟩ := set.1 h; Bool.false_ne_true ((never _).symm.trans hj)
  refine ⟨_, hexec, ?_, fun h => ?_, fun h => ?_, ?_, ?_, ?_⟩
  · have written : (afterV s vd x f).v vd = x := Vector.getElem_set_self _
    rw [written, active k hk on, result]
    exact Nat.mod_eq_of_lt (value ▸ fmtF32_ofVal_lt ..)
  · exact (congrArg (s.hart.tsw.nv || ·) (hnv.2 ⟨k, hk, on, (congrArg (Fl.nv ·.2) result).trans h⟩)).trans (Bool.or_true _)
  · exact (congrArg (s.hart.tsw.dz || ·) (hdz.2 ⟨k, hk, on, (congrArg (Fl.dz ·.2) result).trans h⟩)).trans (Bool.or_true _)
  · exact (congrArg (s.hart.tsw.of || ·) (clear hof fun a => (only a).of)).trans (Bool.or_false _)
  · exact (congrArg (s.hart.tsw.uf || ·) (clear huf fun a => (only a).uf)).trans (Bool.or_false _)
  · exact (congrArg (s.hart.tsw.nx || ·) (clear hnx fun a => (only a).nx)).trans (Bool.or_false _)

/-- Settles O29: each form is a list of elements whose operations agree, lane by lane, with those of the statement; the special functions meet their
table before their algorithms run. -/
theorem elementwiseInstructionsComplete : Obligations.ElementwiseInstructionsComplete := ⟨elementwiseForms, specialFunctionCases⟩

end Sys2Proof.Machine
end

section
/-! SUPPORT. Compare, select, permute, pack and unpack (R160, R163, R164, R167), and the statement about them. -/

namespace Sys2Proof.Machine

open Sys2Proof.Claims

/-! ## Compare and select (R160) -/

theorem ofBool_testBit_zero (b : Bool) : (ofBool b).testBit 0 = b := by cases b <;> rfl

/-- A register made of bits. -/
theorem getLsbD_ofLanes_bits {n : Nat} (hn : n ≤ 512) (f : Nat → Bool) (k : Nat) :
    (ofLanes 1 ((List.range n).map fun i => ofBool (f i))).getLsbD k = (decide (k < n) && f k) := by
  by_cases hk : k < n
  · rw [getLsbD_eq_testBit_lane Nat.one_pos, Nat.div_one, Nat.mod_one, lane_ofLanes (by omega) hk, decide_eq_true hk, Bool.true_and,
      Nat.testBit_mod_two_pow, ofBool_testBit_zero]
    rfl
  · rw [getLsbD_ofLanes_above (by simpa using hk), decide_eq_false hk, Bool.false_and]

/-- VCMP, where `r` is the condition on each lane. -/
theorem effVcmp_eq {c : VCond} {t : ElemType} {x : VIn} {r : Nat → Bool × Fl}
    (lanes : ∀ k, laneCmp c t (lane t.laneBits x.a k) (lane t.laneBits x.b k) = r k) :
    effVcmp c t x = whole (ofLanes 1 ((List.range t.lanes).map fun k => ofBool (r k).1)) (Fl.all ((List.range t.lanes).map fun k => (r k).2)) := by
  simp only [effVcmp, lanes, List.map_map, Function.comp_def]

theorem compareAndSelectComplete : CompareAndSelectComplete := by
  refine ⟨fun s c vd va vb t _ hready plain => ?compare, fun s vd va vb m l hready plain => ?select⟩
  case compare =>
    intro a b r
    obtain ⟨ha, hb, -⟩ := vinOf_sources (vd := vd) (m := .none) va vb 0 plain (by simp [vUse])
    have lanes : ∀ k, laneCmp c t (a k) (b k) = r k := fun k => by
      simp only [r, laneCmp]
      split
      next int =>
        rw [etInt_eq_typed int (lane_lt ..), etInt_eq_typed int (lane_lt ..)]
        cases c with
        | ne => exact congrArg (·, Fl.none) (decide_not ..).symm
        | eq | lt | le | un => rfl
      · rfl
    have result := effVcmp_eq (c := c) (x := vinOf s ⟨va, vb, vd, .none, 0⟩) (by rw [ha, hb]; exact lanes)
    refine ⟨_, _, (rfl : _ = vecHart (.vcmp c vd va vb t) ⟨va, vb, vd, .none, 0⟩ (effVcmp c t) s).trans
      (vecHart_writesV hready plain _ _ rfl rfl), fun k => ?_, ?_⟩
    · rw [result]
      exact getLsbD_ofLanes_bits ((lanes_le t).trans (by decide)) _ k
    · rw [result, whole, Fl.all_any (p := Fl.nv) (fun _ _ => rfl) rfl, List.any_eq_true]
      simp only [List.mem_map, List.mem_range, exists_exists_and_eq_and]
  case select =>
    obtain ⟨a, b, -⟩ := vinOf_sources (vd := vd) (m := .mu m) va vb 0 plain (by simp [vUse])
    refine ⟨_, (rfl : _ = vecHart (.vsel vd va vb m l) ⟨va, vb, vd, .mu m, 0⟩ (effVsel l) s).trans
      (vecHart_writesV hready plain _ _ rfl rfl), fun k hk => ?_⟩
    have pos : 0 < laneWidth l := by cases l <;> decide
    have few : 512 / laneWidth l ≤ 64 := by cases l <;> decide
    have inside : k / laneWidth l < 512 / laneWidth l := Nat.div_lt_of_lt_mul (by rw [Nat.mul_div_cancel' (by cases l <;> decide)]; exact hk)
    have selector : (vinOf s ⟨va, vb, vd, .mu m, 0⟩).m.testBit (k / laneWidth l) = (s.v m).getLsbD (k / laneWidth l) :=
      testBit_maskBits s (.mu m) (inside.trans_le few)
    rw [effVsel, whole, getLsbD_eq_testBit_lane pos, lane_ofLanes (Nat.mul_div_le 512 _) inside, selector, a, b, widthOf_eq, apply_ite (· % _),
      Nat.mod_eq_of_lt (lane_lt ..), Nat.mod_eq_of_lt (lane_lt ..), apply_ite (Nat.testBit · _), ← getLsbD_eq_testBit_lane pos,
      ← getLsbD_eq_testBit_lane pos]

/-! ## Permute (R167) -/

theorem permuteCompletes : PermuteCompletes := by
  intro s vd va vb m t hready plain
  obtain ⟨a, b, d⟩ := vinOf_sources (vd := vd) (m := m) va vb 0 plain (by simp [vUse])
  refine ⟨_, (rfl : _ = vecHart (.vperm vd va vb m t) ⟨va, vb, vd, m, 0⟩ (effVperm t) s).trans (vecHart_writesV hready plain _ _ rfl rfl),
    fun k hk => ?_⟩
  intro j
  have active (small : j < t.lanes) : (vinOf s ⟨va, vb, vd, m, 0⟩).active j = true ↔ laneOn s m j := by
    rw [active_vinOf s _ (small.trans_le (lanes_le t)), laneOn_iff]
  have mode : (vinOf s ⟨va, vb, vd, m, 0⟩).mode = .mu ↔ m.mk = 1 := maskMode_mu_iff
  rw [effVperm, whole, lane_ofLanes (laneBits_mul_lanes t).le hk, a, b, d]
  refine ⟨fun small on => ?_, fun off => ?_⟩
  · rw [if_pos (Bool.and_eq_true_iff.2 ⟨decide_eq_true small, (active small).2 on⟩), Nat.mod_eq_of_lt (lane_lt ..)]
  · rw [if_neg fun h => off (have ⟨small, on⟩ := Bool.and_eq_true_iff.1 h; ⟨of_decide_eq_true small, (active (of_decide_eq_true small)).1 on⟩),
      if_congr mode rfl rfl]
    split
    · exact Nat.mod_eq_of_lt (lane_lt ..)
    · exact Nat.zero_mod _

/-! ## Scales (R163) -/

/-- The magnitude of a finite value other than 0, as the scale of a block looks at it. -/
def magnitude : FVal → Option (Nat × Int)
  | .fin _ m e => if m = 0 then none else some (m, e)
  | _ => none

theorem magnitude_eq_some_iff {a : FVal} {m : Nat} {e : Int} : magnitude a = some (m, e) ↔ m ≠ 0 ∧ ∃ s, a = .fin s m e := by
  cases a with
  | nan | inf => simp [magnitude]
  | fin s n k =>
    simp only [magnitude, FVal.fin.injEq]
    split
    · simp; omega
    · simp; grind

/-- The scale of a block is the least that fits its magnitudes. -/
theorem packScale_eq (t : ElemType) (l : List FVal) : packScale t l = if l.filterMap magnitude = [] then 127
    else ((List.range 255).find? fun (c : Nat) => (l.filterMap magnitude).all fun p => within t p.1 p.2 ((c : Int) - 127)).getD 254 := by
  have default (o : Option Nat) : (match o with | some c => c | none => 254) = o.getD 254 := by cases o <;> rfl
  rw [← if_congr List.isEmpty_iff rfl rfl, ← default]
  rfl

/-- A zero fits every scale. -/
theorem within_zero (t : ElemType) (e k : Int) : within t 0 e k = true := by
  have zero : (scaleFrac 0 1 e).1 = 0 := by
    unfold scaleFrac
    split <;> simp
  simp [within, zero]

/-- The least code that a test takes, or 254 where it takes none below 255. -/
theorem find_range_getD (p : Nat → Bool) :
    let c := ((List.range 255).find? p).getD 254
    c ≤ 254 ∧ (p c = true ∨ c = 254) ∧ ∀ c', c' < c → p c' = false := by
  intro c
  cases found : (List.range 255).find? p with
  | none =>
    have eq : c = 254 := by simp only [c, found, Option.getD_none]
    exact ⟨eq.le, .inr eq, fun c' h => by simpa using List.find?_eq_none.1 found c' (by simp; omega)⟩
  | some d =>
    have eq : c = d := by simp only [c, found, Option.getD_some]
    obtain ⟨hp, hd, below⟩ := List.find?_range_eq_some.1 found
    simp only [List.mem_range] at hd
    exact ⟨by omega, .inl (eq ▸ hp), fun c' h => by simpa using below c' (eq ▸ h)⟩

/-- The scale of a block that holds the values `l`. -/
theorem isScale_packScale {t : ElemType} {on : Nat → Prop} {v : Nat → FVal} {blk : Nat} {l : List FVal}
    (values : ∀ s m e, FVal.fin s m e ∈ l ↔ ∃ i, i / 16 = blk ∧ on i ∧ v i = .fin s m e) : isScale t on v blk (packScale t l) := by
  have mem (m : Nat) (e : Int) : (m, e) ∈ l.filterMap magnitude ↔ m ≠ 0 ∧ ∃ i s, i / 16 = blk ∧ on i ∧ v i = .fin s m e := by
    simp only [List.mem_filterMap, magnitude_eq_some_iff]
    constructor
    · rintro ⟨-, ha, nonzero, s, rfl⟩
      obtain ⟨i, hi⟩ := (values s m e).1 ha
      exact ⟨nonzero, i, s, hi⟩
    · rintro ⟨nonzero, i, s, hi⟩
      exact ⟨_, (values s m e).2 ⟨i, hi⟩, nonzero, s, rfl⟩
  have scale := packScale_eq t l
  generalize l.filterMap magnitude = mags at mem scale
  have empty_iff : (∀ i s m e, i / 16 = blk → on i → v i = .fin s m e → m = 0) ↔ mags = [] := by
    rw [List.eq_nil_iff_forall_not_mem]
    constructor
    · rintro empty ⟨m, e⟩ h
      obtain ⟨nonzero, i, s, hblk, hon, hv⟩ := (mem m e).1 h
      exact nonzero (empty i s m e hblk hon hv)
    · intro none i s m e hblk hon hv
      by_contra nonzero
      exact none (m, e) ((mem m e).2 ⟨nonzero, i, s, hblk, hon, hv⟩)
  have fits_iff (c : Nat) : (mags.all fun p => within t p.1 p.2 ((c : Int) - 127)) = true ↔
      ∀ i s m e, i / 16 = blk → on i → v i = .fin s m e → within t m e ((c : Int) - 127) = true := by
    rw [List.all_eq_true]
    constructor
    · intro fits i s m e hblk hon hv
      by_cases zero : m = 0
      · rw [zero]
        exact within_zero ..
      · exact fits (m, e) ((mem m e).2 ⟨zero, i, s, hblk, hon, hv⟩)
    · rintro fits ⟨m, e⟩ h
      obtain ⟨-, i, s, hblk, hon, hv⟩ := (mem m e).1 h
      exact fits i s m e hblk hon hv
  refine ⟨fun empty => ?_, fun full => ?_⟩
  · rw [scale, if_pos (empty_iff.1 empty)]
  · rw [if_neg (mt empty_iff.2 full)] at scale
    obtain ⟨le, fits, least⟩ := find_range_getD fun (c : Nat) => mags.all fun p => within t p.1 p.2 ((c : Int) - 127)
    rw [← scale] at le fits least
    exact ⟨le, fits.imp_left (fits_iff _).1, fun c' h => mt (fits_iff c').2 (Bool.eq_false_iff.1 (least c' h))⟩

/-! ## Packing (R163) -/

/-- Lanes that hold the same bits are the same. -/
theorem lane_congr {w k : Nat} {x y : V512} (same : ∀ b, w * k ≤ b → b < w * (k + 1) → x.getLsbD b = y.getLsbD b) : lane w x k = lane w y k := by
  refine Nat.eq_of_testBit_eq fun j => ?_
  rw [testBit_lane, testBit_lane]
  by_cases hj : j < w
  · rw [same _ (Nat.le_add_right ..) (by rw [Nat.mul_succ]; omega)]
  · simp [hj]

/-- A lane that is replaced leaves the bits below it. -/
theorem getLsbD_setLane_below {w i b : Nat} (hw : 0 < w) (below : b < w * i) (inside : b < w * (512 / w)) (x : V512) (v : Nat) :
    (setLane w x i v).getLsbD b = x.getLsbD b := by
  rw [getLsbD_eq_testBit_lane hw, lane_setLane (Nat.div_lt_of_lt_mul inside), if_neg (Nat.div_lt_of_lt_mul below).ne, ← getLsbD_eq_testBit_lane hw]

/-- The active values of a block of 16, as VPACK takes them. -/
def blockValues (x : VIn) (v : V512) (k : Nat) : List FVal :=
  (((List.range 16).map fun i => (x.active (16 * k + i), fmtF32.decode (lane 32 v i))).filter Prod.fst).map Prod.snd

/-- The scale that VPACK gives a block. -/
def blockScale (t : ElemType) (x : VIn) (v : V512) (k : Nat) : Nat := packScale t (blockValues x v k)

/-- An element of a block: its code, and 0 where it is inactive. -/
def blockCode (t : ElemType) (x : VIn) (v : V512) (k i : Nat) : Nat :=
  if x.active (16 * k + i) then (etEncode t .rne ((fmtF32.decode (lane 32 v i)).shift (127 - (blockScale t x v k : Int)))).1 else 0

theorem packBlock_codes (t : ElemType) (x : VIn) (v : V512) (k : Nat) :
    (packBlock t ((List.range 16).map fun i => (x.active (16 * k + i), fmtF32.decode (lane 32 v i)))).1.map Prod.fst =
      (List.range 16).map (blockCode t x v k) := by
  rw [packBlock, List.map_map, List.map_map]
  exact List.map_congr_left fun i _ => apply_ite Prod.fst _ (etEncode t .rne _) (0, Fl.none)

theorem map_range_halves {α : Type} (f g : Nat → α) (n : Nat) :
    (List.range n).map f ++ (List.range n).map g = (List.range (n + n)).map fun i => if i < n then f i else g (i - n) := by
  rw [List.range_add, List.map_append, List.map_map]
  congr 1
  · exact List.map_congr_left fun i hi => (if_pos (List.mem_range.1 hi)).symm
  · exact List.map_congr_left fun i _ => by simp

/-- VPACK: 32 codes, and the scales in the two bytes at the top. -/
theorem effVpack_reg (t : ElemType) (x : VIn) : (effVpack t x).reg = setLane 8 (setLane 8 (ofLanes t.elemBits ((List.range 32).map fun i =>
    if i < 16 then blockCode t x x.a 0 i else blockCode t x x.b 1 (i - 16))) 62 (blockScale t x x.a 0)) 63 (blockScale t x x.b 1) := by
  rw [← map_range_halves (blockCode t x x.a 0) (blockCode t x x.b 1) 16, ← packBlock_codes, ← packBlock_codes, ← List.map_append]
  rfl

theorem mem_blockValues {x : VIn} {v : V512} {k : Nat} {a : FVal} :
    a ∈ blockValues x v k ↔ ∃ i, i / 16 = k ∧ x.active i = true ∧ fmtF32.decode (lane 32 v (i % 16)) = a := by
  simp only [blockValues, List.mem_map, List.mem_filter, List.mem_range]
  constructor
  · rintro ⟨-, ⟨⟨i, hi, rfl⟩, on⟩, rfl⟩
    exact ⟨16 * k + i, by omega, on, by rw [Nat.mul_add_mod, Nat.mod_eq_of_lt hi]⟩
  · rintro ⟨i, rfl, on, rfl⟩
    exact ⟨_, ⟨⟨i % 16, Nat.mod_lt _ (by decide), rfl⟩, by rw [Nat.div_add_mod]; exact on⟩, rfl⟩

theorem isScale_blockScale {t : ElemType} {x : VIn} {v : V512} {k : Nat} {on : Nat → Prop} {elem : Nat → FVal}
    (same : ∀ i, i / 16 = k → ((x.active i = true ↔ on i) ∧ fmtF32.decode (lane 32 v (i % 16)) = elem i)) :
    isScale t on elem k (blockScale t x v k) :=
  isScale_packScale fun _ _ _ => mem_blockValues.trans
    (exists_congr fun i => and_congr_right fun hi => and_congr (same i hi).1 (iff_of_eq (congrArg (· = _) (same i hi).2)))

theorem blockScale_lt (t : ElemType) (x : VIn) (v : V512) (k : Nat) : blockScale t x v k < 2 ^ 8 := by
  rw [blockScale, packScale_eq]
  split
  · decide
  · exact (find_range_getD _).1.trans_lt (by decide)

/-- The types that VPACK takes have elements of 4 or 8 bits (R156). -/
theorem elemBits_of_isPacked {t : ElemType} : t.isPacked = true → t.elemBits = 4 ∨ t.elemBits = 8 := by cases t <;> decide

/-- The pieces of what VPACK writes. -/
theorem effVpack_lanes {t : ElemType} (packed : t.isPacked = true) (x : VIn) :
    lane 8 (effVpack t x).reg 62 = blockScale t x x.a 0 ∧ lane 8 (effVpack t x).reg 63 = blockScale t x x.b 1 ∧
    (∀ i, i < 32 → lane t.elemBits (effVpack t x).reg i =
      (if x.active i then (etEncode t .rne ((fmtF32.decode (lane 32 (if i < 16 then x.a else x.b) (i % 16))).shift
        (127 - ((if i < 16 then blockScale t x x.a 0 else blockScale t x x.b 1 : Nat) : Int)))).1 else 0) % 2 ^ t.elemBits) ∧
    ∀ b, 32 * t.elemBits ≤ b → b < 496 → (effVpack t x).reg.getLsbD b = false := by
  have width := elemBits_of_isPacked packed
  have narrow : t.elemBits ≤ 8 := by omega
  have codes (b : Nat) (hb : b < 496) : (effVpack t x).reg.getLsbD b = (ofLanes t.elemBits ((List.range 32).map fun i =>
      if i < 16 then blockCode t x x.a 0 i else blockCode t x x.b 1 (i - 16))).getLsbD b := by
    rw [effVpack_reg, getLsbD_setLane_below (by decide) (by omega) (by omega), getLsbD_setLane_below (by decide) (by omega) (by omega)]
  refine ⟨?_, ?_, fun i hi => ?_, fun b low high => ?_⟩
  · rw [effVpack_reg, lane_setLane (by decide), if_neg (by decide), lane_setLane (by decide), if_pos rfl, Nat.mod_eq_of_lt (blockScale_lt ..)]
  · rw [effVpack_reg, lane_setLane (by decide), if_pos rfl, Nat.mod_eq_of_lt (blockScale_lt ..)]
  · have inside : t.elemBits * (i + 1) ≤ 256 := (Nat.mul_le_mul narrow (by omega : i + 1 ≤ 32)).trans (by decide)
    rw [lane_congr fun b _ hb => codes b (by omega), lane_ofLanes (by omega) hi]
    rcases Nat.lt_or_ge i 16 with low | high
    · rw [if_pos low, if_pos low, if_pos low, Nat.mod_eq_of_lt low, blockCode, Nat.mul_zero, Nat.zero_add]
    · rw [if_neg high.not_gt, if_neg high.not_gt, if_neg high.not_gt, blockCode, Nat.mul_one, Nat.add_sub_cancel' high,
        show i % 16 = i - 16 by omega]
  · rw [codes b high, getLsbD_ofLanes_above]
    simp; omega

/-! ## Unpacking (R164) -/

/-- One element unpacked: the canonical NaN for a NaN or the scale 255. -/
theorem unpackElem_eq (t : ElemType) (c x : Nat) : unpackElem t c x = if c = 255 ∨ (etValue t x).isNan = true then 0x7FC00000
    else (fmtF32.ofVal .rne ((etValue t x).shift ((c : Int) - 127))).1 :=
  if_congr (by rw [Bool.or_eq_true, decide_eq_true_eq]) rfl rfl

theorem unpackElem_lt (t : ElemType) (c x : Nat) : unpackElem t c x < 2 ^ 32 := by
  unfold unpackElem
  dsimp only
  split
  · exact fmtF32_nan_lt
  · exact fmtF32_ofVal_lt ..

/-- A block unpacked into a register that held `old`. -/
def unpackHalf (t : ElemType) (x : VIn) (k : Nat) (old : V512) : VRes :=
  perElement 32 16 { x with d := old, m := x.m / 2 ^ (16 * k) } fun i =>
    (unpackElem t (lane 8 x.a (62 + k)) (lane t.elemBits x.a (16 * k + i)), Fl.none)

theorem effVunpk_eq (t : ElemType) (x : VIn) :
    effVunpk t x = { unpackHalf t x 0 x.d with reg2 := some (unpackHalf t x 1 x.b).reg } := rfl

theorem lane_unpackHalf (t : ElemType) (x : VIn) (k : Nat) (old : V512) {j : Nat} (hj : j < 16) :
    lane 32 (unpackHalf t x k old).reg j = if x.active (16 * k + j) then unpackElem t (lane 8 x.a (62 + k)) (lane t.elemBits x.a (16 * k + j))
      else if x.mode = .mu then lane 32 old j else 0 := by
  rw [unpackHalf, lane_perElement (by decide) hj, VIn.active, VIn.active, Nat.testBit_div_two_pow, Nat.add_comm j,
    Nat.mod_eq_of_lt (unpackElem_lt ..)]

/-- Elements without flags raise none. -/
theorem perElement_noFlags (w n : Nat) (x : VIn) (f : Nat → Nat) : (perElement w n x fun i => (f i, Fl.none)).fl = Fl.none := by
  have unset : ∀ l : List Fl, (∀ a ∈ l, a = Fl.none) → Fl.all l = Fl.none := by
    intro l h
    rw [List.eq_replicate_of_mem h, Fl.all]
    induction l.length with
    | zero => rfl
    | succ n ih => exact ih
  refine unset _ fun a ha => ?_
  simp only [List.map_map, List.mem_map] at ha
  obtain ⟨i, -, rfl⟩ := ha
  exact (apply_ite Prod.snd ..).trans (ite_self _)

/-- An element of the two registers. -/
theorem lane_unpacked (t : ElemType) (x : VIn) {i : Nat} (hi : i < 32) :
    lane 32 (if i < 16 then (unpackHalf t x 0 x.d).reg else (unpackHalf t x 1 x.b).reg) (i % 16) =
      if x.active i then unpackElem t (lane 8 x.a (62 + i / 16)) (lane t.elemBits x.a i)
      else if x.mode = .mu then lane 32 (if i < 16 then x.d else x.b) (i % 16) else 0 := by
  rcases Nat.lt_or_ge i 16 with low | high
  · rw [if_pos low, if_pos low, lane_unpackHalf t x 0 x.d (Nat.mod_lt i (by decide)), show 16 * 0 + i % 16 = i by omega, show i / 16 = 0 by omega]
  · rw [if_neg high.not_gt, if_neg high.not_gt, lane_unpackHalf t x 1 x.b (Nat.mod_lt i (by decide)), show 16 * 1 + i % 16 = i by omega,
      show i / 16 = 1 by omega]

theorem blockPackingCompletes : BlockPackingCompletes := by
  refine ⟨fun s vd va vb m t packed hready plain => ?pack, fun s vd va m t _ hready => ?unpack⟩
  case pack =>
    obtain ⟨a, b, -⟩ := vinOf_sources (vd := vd) (m := m) va vb 0 plain (by simp [vUse])
    obtain ⟨top0, top1, code, zero⟩ := effVpack_lanes packed (vinOf s ⟨va, vb, vd, m, 0⟩)
    rw [a] at top0
    rw [b] at top1
    rw [a, b] at code
    have active (i : Nat) (hi : i < 64) : (vinOf s ⟨va, vb, vd, m, 0⟩).active i = true ↔ laneOn s m i := by rw [active_vinOf s _ hi, laneOn_iff]
    have elem (i : Nat) : fmtF32.decode (lane 32 (if i < 16 then s.v va else s.v vb) (i % 16)) = packElem s va vb i := by
      rw [packElem, apply_ite s.v]
    refine ⟨_, _, _, _, (rfl : _ = vecHart (.vpack vd va vb m t) ⟨va, vb, vd, m, 0⟩ (effVpack t) s).trans (vecHart_writesV hready plain _ _ rfl rfl),
      top0, top1, isScale_blockScale fun i hi => ⟨active i (by omega), ?_⟩, isScale_blockScale fun i hi => ⟨active i (by omega), ?_⟩,
      fun i hi on => ?_, fun i hi off => ?_, zero⟩
    · rw [← elem, if_pos (by omega)]
    · rw [← elem, if_neg (by omega)]
    · rw [code i hi, elem, if_pos ((active i (by omega)).2 on)]
    · rw [code i hi, if_neg (mt (active i (by omega)).1 off), Nat.zero_mod]
  case unpack =>
    have plain := plainRegs_of_ready hready rfl
    obtain ⟨a, b, d⟩ := vinOf_sources (vd := vd) (m := m) va (nextReg vd) 0 plain (by simp [vUse])
    have exec := vecHart_plain hready plain ⟨va, nextReg vd, vd, m, 0⟩ (effVunpk t)
    have noFlags : (effVunpk t (vinOf s ⟨va, nextReg vd, vd, m, 0⟩)).fl = Fl.none := perElement_noFlags ..
    rw [noFlags, State.raiseFl_none] at exec
    have active (i : Nat) (hi : i < 64) : (vinOf s ⟨va, nextReg vd, vd, m, 0⟩).active i = true ↔ laneOn s m i := by
      rw [active_vinOf s _ hi, laneOn_iff]
    have mode : (vinOf s ⟨va, nextReg vd, vd, m, 0⟩).mode = .mu ↔ m.mk = 1 := maskMode_mu_iff
    refine ⟨_, (unpackHalf t _ 0 _).reg, (unpackHalf t _ 1 _).reg, exec, rfl, rfl, rfl, rfl, rfl, fun i hi on => ?_, fun i hi off => ?_⟩
    · rw [lane_unpacked t _ hi, if_pos ((active i (by omega)).2 on), unpackElem_eq, a]
    · rw [lane_unpacked t _ hi, if_neg (mt (active i (by omega)).1 off), if_congr mode rfl rfl, b, d, apply_ite s.v]

/-- Settles O30: the lanes of a register made of lanes are those it is made of; the scale of a block is the first that the search finds. -/
theorem selectPermutePackComplete : Obligations.SelectPermutePackComplete := ⟨compareAndSelectComplete, permuteCompletes, blockPackingCompletes⟩

end Sys2Proof.Machine
end

section
/-! SUPPORT. EBIND, EMAP, EFORCE and ESTEP (R282, R283, R286, R287, R289), the statement about the first three and an unbound stream,
and the end of a step, whose counter is told from the value the counter has once its reference is reached. -/

namespace Sys2Proof.Machine

open Sys2Proof.Claims

/-! ## Streams and arrays -/

@[simp] theorem setStream_hart (s : State) (c : Nat) (e : Fin 16) (x : Option StepStream) : (setStream s c e x).hart = s.hart := rfl
@[simp] theorem setStream_mem (s : State) (c : Nat) (e : Fin 16) (x : Option StepStream) : (setStream s c e x).mem = s.mem := rfl
@[simp] theorem setStream_counter (s : State) (c : Nat) (e : Fin 16) (x : Option StepStream) (k : Nat) :
    (setStream s c e x).counter k = s.counter k := rfl

theorem StepStream.record_length (x : StepStream) : x.record.length = 576 := by
  simp only [StepStream.record, wordBytes, List.length_append, toBytes_length]

theorem writeKeyed_arrays (s : State) (key a : Nat) (bs : List Byte) : (s.writeKeyed key a bs).arrays = s.arrays := by
  unfold State.writeKeyed tagLines
  split <;> rfl

theorem store_localSeg_array (s : State) (p n : Nat) (bs : List Byte) (c : Nat) : (s.store [localSeg p n] bs).array c = s.array c := by
  have arrays : (s.store [localSeg p n] bs).arrays = s.arrays := by
    rw [store_harts .., writeSegs, writeSegs, writeSeg, localSeg_plain]
    exact writeKeyed_arrays ..
  rw [State.array, arrays, State.array]

/-! ## EBIND (R283) -/

section
variable {s : State} {e : Fin 16} {a b c : Reg} (hready : Ready (.ebind e a b c) s) (aligned : (s.g a).toNat % 64 = 0)
  (fits : (s.g a).toNat + 576 ≤ 2 ^ 19) (hadds : s.adds = []) (idle : streamBusy (s.array s.cluster) e = false)

section
include aligned fits

theorem recordExc_none : recordExc (s.g a) 576 = none := by
  have inside : formOk .lo (s.g a).toNat 576 = true := by rw [formOk]; exact decide_eq_true fits
  rw [recordExc, inside, if_neg (by decide), if_neg (not_not.2 aligned)]

include hready

theorem exec_ebind_mode (hb : 2 < (s.g b).toNat) : exec (.ebind e a b c) s = .next (s.withHart (s.hart.wroteG c 2 (s.hart.pc + 4))) := by
  refine (rfl : _ = execEbind e a b c s).trans ?_
  rw [execEbind, issue_ready hready]
  simp only [recordExc_none aligned fits, if_pos hb, setG_retire]

end

section
include hadds idle

/-- EBIND with nothing to wait for. -/
theorem ebind_waits_not (l : List Seg) : (streamBusy (s.array s.cluster) e || ownAdd s l) = false := by
  rw [idle, ownAdd_of_none hadds, Bool.or_false]

include hready aligned fits

theorem exec_ebind_bind (hb : s.g b = 0) : exec (.ebind e a b c) s = .next (
    if recordOk s (s.mem.readN (localPlace s.cur (s.g a).toNat) 576) then
      (setStream s s.cluster e (some (StepStream.ofRecord (s.mem.readN (localPlace s.cur (s.g a).toNat) 576)))).withHart
        (s.hart.wroteG c 0 (s.hart.pc + 4))
    else s.withHart (s.hart.wroteG c 2 (s.hart.pc + 4))) := by
  have mode : (s.g b).toNat = 0 := by rw [hb]; rfl
  have bytes : s.load [⟨localPlace s.cur (s.g a).toNat, 576, true, 0⟩] = s.mem.readN (localPlace s.cur (s.g a).toNat) 576 := readSegs_own ..
  refine (rfl : _ = execEbind e a b c s).trans ?_
  rw [execEbind, issue_ready hready]
  simp only [recordExc_none aligned fits, mode, ebind_waits_not hadds idle, bytes, setG_retire]
  rfl

theorem exec_ebind_unbound (hb : s.g b = 1 ∨ s.g b = 2) (unbound : (s.array s.cluster).eph[e] = none) :
    exec (.ebind e a b c) s = .next (s.withHart (s.hart.wroteG c 1 (s.hart.pc + 4))) := by
  have stream : s.stream e = none := unbound
  refine (rfl : _ = execEbind e a b c s).trans ?_
  rw [execEbind, issue_ready hready]
  rcases hb with hb | hb <;>
    simp only [recordExc_none aligned fits, hb, stream, ebind_waits_not hadds idle, setG_retire] <;> rfl

section
variable {x : StepStream} (bound : s.stream e = some x)
include bound

theorem exec_ebind_save (hb : s.g b = 1) : exec (.ebind e a b c) s = .next (
    (s.store [localSeg (localPlace s.cur (s.g a).toNat) 576] x.record).withHart ((freshStreams s.hart).wroteG c 0 (s.hart.pc + 4))) := by
  refine (rfl : _ = execEbind e a b c s).trans ?_
  rw [execEbind, issue_ready hready]
  simp only [recordExc_none aligned fits, hb, bound, ebind_waits_not hadds idle, setG_retire]
  exact congrArg (fun h => Host.Outcome.next (State.withHart _ (h.wroteG c 0 (h.pc + 4)))) (store_localSeg_hart ..)

theorem exec_ebind_unbind (hb : s.g b = 2) : exec (.ebind e a b c) s = .next (
    (setStream (s.store [localSeg (localPlace s.cur (s.g a).toNat) 576] x.record) s.cluster e none).withHart
      ((freshStreams s.hart).wroteG c 0 (s.hart.pc + 4))) := by
  refine (rfl : _ = execEbind e a b c s).trans ?_
  rw [execEbind, issue_ready hready]
  simp only [recordExc_none aligned fits, hb, bound, ebind_waits_not hadds idle, setG_retire]
  exact congrArg (fun h => Host.Outcome.next (State.withHart _ (h.wroteG c 0 (h.pc + 4)))) (store_localSeg_hart ..)

end

end

end

/-- EBIND writes or reads one record and answers; what a save gives up of pieces read ahead is what a store gives up (R178, R283). -/
theorem saved_record {s : State} {p : Nat} {x : StepStream} :
    (s.store [localSeg p 576] x.record).mem.readN p 576 = x.record := by
  rw [store_localSeg_mem s x.record_length, ← x.record_length]
  exact Memory.readN_write_same ..

/-! ## Instructions on a bound stream (R282) -/

section
variable {s : State} {i : Instr} {e : Fin 16} (hready : Ready i s) (k : StepStream → State → State)
include hready

theorem onStream_bound {x : StepStream} (bound : s.stream e = some x) : onStream i e k s = .next (k x s) := by
  rw [onStream, issue_ready hready, bound]

theorem onStream_unbound (unbound : s.stream e = none) : onStream i e k s = .next (trapHere ⟨exAccess, BitVec.ofNat 64 e⟩ s) := by
  rw [onStream, issue_ready hready, unbound]

end

/-- A hart that goes on writes a register as before. -/
theorem goesOn_setG (h : Hart) (c : Reg) (y pc : Word) : ((h.goesOn pc).setG c y).goesOn pc = (h.setG c y).goesOn pc := by
  unfold Hart.setG
  split <;> rfl

/-- Two writes of g registers that go on, one after the other. -/
theorem setG_wroteG (h : Hart) (b c : Reg) (x y pc : Word) : (h.setG b x).wroteG c y pc = (h.wroteG b x pc).wroteG c y pc := by
  rw [← Hart.setG_goesOn, ← Hart.setG_goesOn (h.wroteG b x pc), ← Hart.setG_goesOn h, goesOn_setG]

theorem exec_emap {s : State} {e : Fin 16} {a b c : Reg} {x : StepStream} (hready : Ready (.emap e a b c) s) (bound : s.stream e = some x)
    (low : (s.g a).toNat < 64) (decided : eldOpen s e = false) : exec (.emap e a b c) s = .next (s.withHart
      ((s.hart.wroteG b x.step (s.hart.pc + 4)).wroteG c (x.map.extractLsb' (64 * (s.g a).toNat) 64) (s.hart.pc + 4))) := by
  have word : bits (s.g a) 6 58 = 0 := by simp only [bits, field]; omega
  have map : BitVec.ofNat 64 (x.map.toNat / 2 ^ (64 * (s.g a).toNat)) = x.map.extractLsb' (64 * (s.g a).toNat) 64 := by
    rw [BitVec.extractLsb', Nat.shiftRight_eq_div_pow]
  refine (rfl : _ = execEmap e a b c s).trans ((onStream_bound hready _ bound).trans ?_)
  rw [if_neg (not_not.2 word), decided, if_neg Bool.false_ne_true, map, setG_retire, State.setG_eq, State.withHart_withHart,
    State.withHart_hart, setG_wroteG, Hart.setG_pc]

theorem ephemerisForms : EphemerisForms := by
  refine ⟨fun s e a b c hready aligned fits hadds idle => ?bind, fun s e a b c x hready bound low decided => exec_emap hready bound low decided,
    fun s e x hready bound => ?force, fun s e i hi hready hw unbound => ?unbound⟩
  case bind =>
    intro bs
    have entry := exec_ebind_bind hready aligned fits hadds idle
    refine ⟨fun hb ok => ?_, fun hb bad => ?_, fun hb unbound => exec_ebind_unbound hready aligned fits hadds idle hb unbound, fun x hb bound => ?_,
      exec_ebind_mode hready aligned fits⟩
    · exact ⟨_, (entry hb).trans (congrArg Host.Outcome.next (if_pos ok)), setStream_eph .., rfl, rfl⟩
    · rw [entry hb, if_neg (Bool.eq_false_iff.1 bad)]
    · rcases hb with hb | hb
      · refine ⟨_, exec_ebind_save hready aligned fits hadds idle bound hb, saved_record, ?_, rfl⟩
        rw [if_pos hb, ← bound, State.withHart_array, store_localSeg_array]
      · refine ⟨_, exec_ebind_unbind hready aligned fits hadds idle bound hb, saved_record, ?_, rfl⟩
        rw [if_neg (by rw [hb]; decide), State.withHart_array, setStream_eph]
  case force =>
    exact ⟨_, (rfl : _ = execEforce e s).trans (onStream_bound hready _ bound), setStream_eph .., rfl, rfl⟩
  case unbound =>
    refine ⟨_, ?_, trapHere_taken hw ⟨exAccess, BitVec.ofNat 64 e⟩⟩
    rcases hi with rfl | ⟨a, b, c, rfl⟩ | ⟨a, b, c, rfl⟩ | ⟨c, rfl⟩
    · exact (rfl : _ = execEforce e s).trans (onStream_unbound hready _ unbound)
    · exact (rfl : _ = execEmap e a b c s).trans (onStream_unbound hready _ unbound)
    · exact (rfl : _ = execEsig e a b c s).trans (onStream_unbound hready _ unbound)
    · exact (rfl : _ = execEstep e c s).trans (onStream_unbound hready _ unbound)

/-! ## ESTEP (R286) -/

/-- What reaching a counter's reference changes: the stations' caches, and the count of free values (R218). -/
theorem reachRef_stations {s s1 : State} {need : Need} {noTag : Bool} {r : Word} {x : Except Exc CRef} (h : reachRef s need noTag r = (x, s1)) :
    StationsOnly s s1 := by
  have only := globalAccess_stations s (homeSlice s.cluster) s.part s.hart.spid need r.toNat 8
  have whole : StationsOnly s (reachRef s need noTag r).2 := by
    unfold reachRef
    split
    · split <;> rename_i entry <;> rw [entry] at only
      · exact only
      · split <;> exact only
      · exact only
    · split <;> rfl
    · rfl
  rwa [h] at whole

/-- A counter reads as before where no free value was drawn (R357). -/
theorem StationsOnly.counter {s s1 : State} (h : StationsOnly s s1) (draws : s1.draws = s.draws) (key : Nat) : s1.counter key = s.counter key := by
  rw [h, draws]
  rfl

/-- A write of a g register on two harts that differ in pieces read ahead. -/
theorem aheadOnly_wroteG {h k : Hart} (ahead : aheadOnly h k) (d : Reg) (x pc : Word) : aheadOnly (h.wroteG d x pc) (k.wroteG d x pc) := by
  obtain ⟨l, rfl⟩ := ahead
  exact ⟨l, rfl⟩

/-- The state in which a step has added to its counter and given up what streams have read ahead of it. -/
def countedStep (s : State) (key : Nat) : State := dropMeeting (counterAdd s key 1) [(ctrPlace key, 8)]

theorem countedStep_ahead (s : State) (key : Nat) : aheadOnly s.hart (countedStep s key).hart :=
  counterAdd_hart s key 1 ▸ dropMeeting_aheadOnly ..

theorem countedStep_cluster (s : State) (key : Nat) : (countedStep s key).cluster = s.cluster := by
  obtain ⟨lines, tagged⟩ := tagLines_eq s (ctrKid key) (ctrPlace key) 8
  rw [countedStep, counterAdd, setCounter, tagged]
  rfl

theorem endStep_counted (s : State) (e : Fin 16) (x : StepStream) (c : Reg) (key : Nat) : endStep s e x c key true =
    (setStream (countedStep s key) s.cluster e (some { x with force := x.pendf, pendf := false, step := x.step + 1 })).withHart
      ((countedStep s key).hart.wroteG c (x.step + 1) ((countedStep s key).hart.pc + 4)) := by
  rw [← countedStep_cluster s key, endStep, if_pos rfl, setG_retire, setStream_hart]
  rfl

section
variable {s s1 : State} {e : Fin 16} {c : Reg} {x : StepStream} {key : Nat} {ord : PageOrder} (hready : Ready (.estep e c) s)
  (bound : (s.array s.cluster).eph[e] = some x) (unasked : s.hart.wait = none) (retired : ∀ q ∈ (s.array s.cluster).queue, q.op.stream ≠ some e)
  (released : releaseWaits s1 = false) (reached : reachRef s needRW true x.sctr = (.ok (.at key true ord), s1))
include hready bound unasked retired released reached

theorem exec_estep : exec (.estep e c) s = .next (endStep s1 e x c key true) := by
  have only := reachRef_stations reached
  have array : s1.array s1.cluster = s.array s.cluster := by rw [only]; rfl
  have none_left : ((s1.array s1.cluster).queue.filter fun q => q.op.stream == some e) = [] :=
    List.filter_eq_nil_iff.2 fun q hq => by simpa using retired q (array ▸ hq)
  refine (rfl : _ = execEstep e c s).trans ((onStream_bound hready _ bound).trans ?_)
  simp only [unasked, reached, none_left, released, List.map_nil, List.isEmpty_nil, Bool.not_false, Bool.and_self, if_true]

/-- A step whose commands have retired ends: its counter is one above what it held when its reference was reached. -/
theorem estep_ends : ∃ t, exec (.estep e c) s = .next t ∧
    (t.array s.cluster).eph[e] = some { x with force := x.pendf, pendf := false, step := x.step + 1 } ∧
    t.counter key = s1.counter key + 1 ∧ aheadOnly (s.hart.wroteG c (x.step + 1) (s.hart.pc + 4)) t.hart ∧
    (∀ p, (p < ctrPlace key ∨ ctrPlace key + 8 ≤ p) → t.mem.read p = s.mem.read p) := by
  have only := reachRef_stations reached
  have cluster : s1.cluster = s.cluster := congrArg clusterOf only.cur
  have ahead : aheadOnly s.hart (countedStep s1 key).hart := only.hart ▸ countedStep_ahead s1 key
  obtain ⟨_, _, hpc⟩ := aheadOnly_control ahead
  refine ⟨_, (exec_estep hready bound unasked retired released reached).trans (congrArg Host.Outcome.next (endStep_counted ..)), ?_, ?_, ?_,
    fun p hp => ?_⟩
  · rw [State.withHart_array, cluster, setStream_eph]
  · exact counterAdd_counter ..
  · rw [State.withHart_hart, hpc]
    exact aheadOnly_wroteG ahead ..
  · exact (counterAdd_other s1 key 1 hp).trans (congrArg (fun m => m.read p) only.mem)

/-- Where reaching the reference draws no free value, that is one above what the counter held before. -/
theorem estep_counter_of_draws (draws : s1.draws = s.draws) : ∃ t, exec (.estep e c) s = .next t ∧ t.counter key = s.counter key + 1 := by
  obtain ⟨t, ht, _, counter, _, _⟩ := estep_ends hready bound unasked retired released reached
  exact ⟨t, ht, by rw [counter, (reachRef_stations reached).counter draws]⟩

end

end Sys2Proof.Machine
end

section
/-! SUPPORT. Lease commands that are accepted or refused for want of a lease (R189, R192, R195, R201), the grants of the array (R189, R206), and
the statement about them. -/

namespace Sys2Proof.Machine

open Sys2Proof.Claims

/-! ## The pages of a command (R201) -/

theorem mapPages_stations (m : Nat) (p : BitVec 16) (sp : BitVec 20) (need : Need) (l : List Nat) :
    ∀ s, StationsOnly s (mapPages s m p sp need l).2 := by
  induction l with
  | nil => exact fun s => rfl
  | cons page rest ih =>
    intro s
    have only := (translate_stations s m p sp (page * 65536)).trans (ih _)
    unfold mapPages
    dsimp only
    split
    · exact only
    · split <;> exact only

/-- Looking for the bytes that fail changes only what the stations cache. -/
theorem touchRuns_stations (s : State) (am : AddrMode) (need : Need) (runs : List (Nat × Nat)) : StationsOnly s (touchRuns s am need runs).2 := by
  cases am with
  | gl => exact mapPages_stations ..
  | lo => rfl
  | cb => rfl
  | ci => rfl

theorem touchRuns_ok_stations {s s1 : State} {am : AddrMode} {need : Need} {runs : List (Nat × Nat)} {x : Except Exc (List PageMap)}
    (h : touchRuns s am need runs = (x, s1)) : StationsOnly s s1 := by
  have only := touchRuns_stations s am need runs
  rwa [h] at only

theorem StationsOnly.array {s t : State} (h : StationsOnly s t) (c : Nat) : t.array c = s.array c := by rw [h]; rfl
theorem StationsOnly.cluster {s t : State} (h : StationsOnly s t) : t.cluster = s.cluster := congrArg clusterOf h.cur

/-! ## One command of a lease is spent (R189) -/

/-- The lease registers once one of the commands left has been spent: with the last one the lease ends. -/
def LeaseRegs.spent (l : LeaseRegs) : LeaseRegs :=
  if l.left = 1 then { l with held := false, left := 0, cols := 256, rows := 256 } else { l with left := l.left - 1 }

/-- Spending a command ends the lease with the last one, and otherwise counts LEFT down. -/
theorem consumeLeft_eq (s : State) : consumeLeft s = if s.hart.lease.left = 1
    then endLease (s.withHart { s.hart with lease := { s.hart.lease with left := s.hart.lease.left - 1 } })
    else s.withHart { s.hart with lease := { s.hart.lease with left := s.hart.lease.left - 1 } } :=
  if_congr (BitVec.sub_eq_iff_eq_add.trans (by rw [zero_add])) rfl rfl

theorem consumeLeft_hart (s : State) : (consumeLeft s).hart = { s.hart with lease := s.hart.lease.spent } := by
  rw [consumeLeft_eq, LeaseRegs.spent]
  split
  · exact (endLease_hart _).1
  · rfl

theorem consumeLeft_mem (s : State) : (consumeLeft s).mem = s.mem := by
  rw [consumeLeft_eq]
  split
  · exact (endLease_hart _).2
  · rfl

theorem consumeLeft_queue (s : State) : ((consumeLeft s).array s.cluster).queue = (s.array s.cluster).queue := by
  rw [consumeLeft_eq]
  split
  · exact (endLease_holder (s.withHart _)).2
  · rfl

/-- What acceptance leaves, where the look for its pages has changed what the stations cache (R192, R195, R202). -/
theorem accepted_of_stations {s s1 : State} (only : StationsOnly s s1) (op : CmdOp) (pages : List PageMap) :
    Accepted s ((consumeLeft (acceptCommand s1 op s.rows s.cols pages)).retire 4) op pages := by
  have hart : (acceptCommand s1 op s.rows s.cols pages).hart = { s.hart with otl := s.hart.otl.issue } :=
    only.hart ▸ rfl
  have after := consumeLeft_hart (acceptCommand s1 op s.rows s.cols pages)
  rw [hart] at after
  constructor
  case queue =>
    have queue := consumeLeft_queue (acceptCommand s1 op s.rows s.cols pages)
    have cluster : (acceptCommand s1 op s.rows s.cols pages).cluster = s.cluster := only.cluster
    rw [cluster] at queue
    refine queue.trans ?_
    rw [← only.cluster, ← only.array, ← only.cur]
    exact congrArg ArrayUnit.queue (State.array_setArray_same ..)
  case mem =>
    intro a
    exact congrArg (fun m => m.read a) ((consumeLeft_mem (acceptCommand s1 op s.rows s.cols pages)).trans only.mem)
  all_goals rw [State.retire_eq, State.withHart_hart, after]
  case count => exact ⟨rfl, rfl⟩
  case left => exact fun more => if_neg more
  case last =>
    intro last
    rw [Hart.goesOn_lease, LeaseRegs.spent, if_pos last]
    exact ⟨rfl, rfl, rfl, rfl⟩
  case pc => rfl
  case regs => exact ⟨rfl, rfl, rfl⟩

/-! ## What the lease commands ask (R201) -/

/-- The statement's form of a lease command as the model checks it. -/
def LeaseForm.asks (s : State) (f : LeaseForm) : Lease where
  fits := f.fits
  step3 := ownExc s f.names
  step4 := f.addr.bind fun p => alignExc (s.g p.1) (s.g p.2)
  am := f.am
  need := f.need
  runs := f.runs
  op := f.op
  rows := s.rows
  cols := s.cols

/-- Each lease command asks what its form says. -/
theorem exec_leaseForm {s : State} {i : Instr} {f : LeaseForm} (form : leaseForm s i = some f) :
    ∃ l : State → Lease, l s = LeaseForm.asks s f ∧ exec i s = leaseCommand i l s := by
  unfold leaseForm at form
  split at form <;> cases form
  case h_1 a b am nt n => exact ⟨slotLoad .mld a b am n, rfl, rfl⟩
  case h_2 a b am nt n => exact ⟨slotLoad .mldt a b am n, rfl, rfl⟩
  case h_3 a b am nt n => exact ⟨slotLoad .mlds a b am n, rfl, rfl⟩
  case h_4 ot a b am nt t =>
    refine ⟨_, ?_, (rfl : _ = execMst ot a b am nt t s)⟩
    rfl
  case h_5 t =>
    refine ⟨_, ?_, (rfl : _ = execMzero t s)⟩
    rfl
  case h_6 t sa sb =>
    refine ⟨_, ?_, (rfl : _ = execMma t sa sb s)⟩
    rfl

theorem ownExc_eq_none {s : State} {l : List Named} (owns : ∀ n ∈ l, ownsNamed s n = true) : ownExc s l = none := by
  simpa [ownExc] using owns

theorem alignExc_eq_none {a b : Word} (ha : a.toNat % 64 = 0) (hb : b.toNat % 64 = 0) : alignExc a b = none := by
  rw [alignExc, if_neg (not_not.2 ha), if_neg (not_not.2 hb)]

section
variable {s : State} {i : Instr} {f : LeaseForm} (form : leaseForm s i = some f) (hready : Ready i s) (hres : noResume s) (fits : f.fits = true)
include form hready hres fits

/-- A lease command without a lease, or with no command of it left (R201, log entry 52). -/
theorem exec_leaseForm_unleased (unleased : noLease s.hart = true) : exec i s = .next (trapHere ⟨exLease, i.tval⟩ s) := by
  obtain ⟨l, asks, exec⟩ := exec_leaseForm form
  rw [exec, leaseCommand, issue_ready hready]
  simp only [asks, LeaseForm.asks, fits, resumePending_eq_false hres, unleased, Bool.not_true, Bool.false_eq_true, if_false, if_true]

/-- A lease command whose slots and tiles are owned, whose base and pitch are aligned and whose bytes are within reach. -/
theorem exec_leaseForm_passes {s1 : State} {pages : List PageMap} (leased : noLease s.hart = false)
    (owns : ∀ n ∈ f.names, ownsNamed s n = true)
    (aligned : ∀ a b, f.addr = some (a, b) → (s.g a).toNat % 64 = 0 ∧ (s.g b).toNat % 64 = 0)
    (reach : touchRuns s f.am f.need f.runs = (.ok pages, s1)) :
    exec i s = .next ((consumeLeft (acceptCommand s1 f.op s.rows s.cols pages)).retire 4) := by
  have step4 : (f.addr.bind fun p => alignExc (s.g p.1) (s.g p.2)) = none :=
    Option.bind_eq_none_iff.2 fun p hp => alignExc_eq_none (aligned p.1 p.2 hp).1 (aligned p.1 p.2 hp).2
  obtain ⟨l, asks, exec⟩ := exec_leaseForm form
  rw [exec, leaseCommand, issue_ready hready]
  simp only [asks, LeaseForm.asks, fits, resumePending_eq_false hres, leased, ownExc_eq_none owns, step4, reach, Bool.not_true,
    Bool.false_eq_true, if_false]

end

/-! ## A trap keeps no command that was not queued -/

/-- Parking a batch takes commands out of the queue and puts none into it. -/
theorem parkBatch_queue (s : State) : ∀ q ∈ ((parkBatch s).array s.cluster).queue, q ∈ (s.array s.cluster).queue := by
  intro q hq
  unfold parkBatch at hq
  split at hq
  · exact hq
  · split at hq
    · rwa [(endLease_holder s).2] at hq
    · exact List.mem_of_mem_filter ((congrArg (q ∈ ArrayUnit.queue ·) (State.array_setArray_same ..)).mp hq)

theorem trapHere_queue {s : State} (unasked : s.hart.wait = none) (e : Exc) :
    ∀ q ∈ ((trapHere e s).array s.cluster).queue, q ∈ (s.array s.cluster).queue := by
  have parked : (trapHere e s).array s.cluster = (parkBatch (withdrawWait s)).array s.cluster := rfl
  rw [parked, withdrawWait_none unasked]
  exact parkBatch_queue s

theorem leaseCommandsAreAccepted : Sys2Proof.Claims.LeaseCommandsAreAccepted := by
  constructor
  · intro s s1 i f pages form hready hres fits held left owns aligned reach
    have leased : noLease s.hart = false := Bool.or_eq_false_iff.2 ⟨congrArg Bool.not held, beq_eq_false_iff_ne.2 left⟩
    exact ⟨_, exec_leaseForm_passes form hready hres fits leased owns aligned reach, accepted_of_stations (touchRuns_ok_stations reach) ..⟩
  · intro s i f form hready hres fits unasked unleased
    have unleased : noLease s.hart = true := by simpa [noLease] using unleased
    have trap := (trapHere_taken unasked ⟨exLease, i.tval⟩).trap
    exact ⟨_, exec_leaseForm_unleased form hready hres fits unleased, by rw [trap]; rfl, by rw [trap], by rw [trap], trapHere_queue unasked _⟩

/-! ## Grants (R189, R206) -/

/-- The first number of a range whose image passes a test, as its image. -/
theorem find?_map_range_first {α : Type} {f : Nat → α} {p : α → Bool} {n k : Nat} (hk : k < n) (hp : p (f k) = true)
    (below : ∀ j, j < k → ¬ p (f j) = true) : ((List.range n).map f).find? p = some (f k) := by
  have first : (List.range n).find? (p ∘ f) = some k :=
    List.find?_range_eq_some.2 ⟨hp, List.mem_range.2 hk, fun j hj => by simpa using below j hj⟩
  rw [List.find?_map, first]
  rfl

@[simp] theorem State.modifyHart_array (s : State) (n : Nat) (f : Hart → Hart) (c : Nat) : (s.modifyHart n f).array c = s.array c := by
  rw [State.array, State.modifyHart_arrays]
  rfl

/-- The record of a core whose hart has been changed. -/
theorem hartAt_modifyHart_same (s : State) (n : Nat) (f : Hart → Hart) : hartAt (s.modifyHart n f) n = f (hartAt s n) := by
  rw [hartAt, State.hartOf_modifyHart, if_pos rfl]
  rfl

section
variable {s : State} {c : Nat}

theorem exec_leaseGrant_barred (h : (s.array c).holder ≠ none ∨ (s.array c).resumes ≠ []) : exec (.leaseGrant c) s = .next s := by
  have barred : ((s.array c).holder.isSome || !(s.array c).resumes.isEmpty) = true := by
    simpa [Option.isSome_iff_ne_none] using h
  exact (rfl : _ = execLeaseGrant c s).trans (if_pos barred)

/-- The first core waiting after the last grantee is granted the lease. -/
theorem exec_leaseGrant_first {n : Nat} (free : (s.array c).holder = none) (nobody : (s.array c).resumes = [])
    (first : ((List.range 16).map fun k => c * 16 + ((s.array c).last + 1 + k) % 16).find? (fun m => (s.array c).waiting.contains m) = some n) :
    exec (.leaseGrant c) s = .next ((s.setArray c { s.array c with
      last := n % 16, holder := some n, waiting := (s.array c).waiting.filter fun m => m != n }).modifyHart n fun h =>
        { h with wait := some .leaseGranted }) := by
  refine (rfl : _ = execLeaseGrant c s).trans ?_
  simp only [execLeaseGrant, free, nobody, first, Option.isSome_none, List.isEmpty_nil, Bool.not_true, Bool.or_self, Bool.false_eq_true, if_false]

/-- The lowest core that asks for its parked batch gets it back. -/
theorem exec_resumeGrant_lowest {n : Nat} {p : Park} (free : (s.array c).holder = none)
    (lowest : ((List.range 16).map fun k => c * 16 + k).find? (fun m => (s.array c).resumes.contains m) = some n)
    (parked : (s.array c).parks.find? (fun q => q.core == n) = some p) :
    exec (.resumeGrant c) s = .next ((s.setArray c { s.array c with
      holder := some n, resumes := (s.array c).resumes.filter fun m => m != n
      parks := (s.array c).parks.filter fun q => q.core != n, queue := (s.array c).queue ++ p.cmds }).modifyHart n fun h => { h with
        otl := { h.otl with iss := h.otl.iss + BitVec.ofNat 32 p.cmds.length }
        lease := { h.lease with held := true, park := false, left := p.left, cols := p.cols, rows := p.rows } }) := by
  refine (rfl : _ = execResumeGrant c s).trans ?_
  simp only [execResumeGrant, free, lowest, parked, Option.isSome_none, Bool.false_eq_true, if_false]

end

theorem grantsFollowArbitration : Sys2Proof.Claims.GrantsFollowArbitration := by
  refine ⟨fun s c k hk free nobody waits below => ?_, fun s c => exec_leaseGrant_barred, fun s c k p hk free asks below parked => ?_⟩
  · have first := find?_map_range_first (f := fun j => c * 16 + ((s.array c).last + 1 + j) % 16) (p := fun m => (s.array c).waiting.contains m) hk
      (List.contains_iff_mem.2 waits) fun j hj => mt List.contains_iff_mem.1 (below j hj)
    refine ⟨_, exec_leaseGrant_first free nobody first, ?_⟩
    rw [State.modifyHart_array, State.array_setArray_same, hartAt_modifyHart_same, State.modifyHart_mem]
    exact ⟨rfl, by simp, rfl, rfl, rfl⟩
  · have lowest := find?_map_range_first (f := fun j => c * 16 + j) (p := fun m => (s.array c).resumes.contains m) hk
      (List.contains_iff_mem.2 asks) fun j hj => mt List.contains_iff_mem.1 (below j hj)
    refine ⟨_, exec_resumeGrant_lowest free lowest parked, ?_⟩
    rw [State.modifyHart_array, State.array_setArray_same, hartAt_modifyHart_same]
    exact ⟨rfl, rfl, rfl, rfl, rfl, rfl⟩

/-- Settles O35: lease commands are accepted or raise LEASE, with LEFT at 0 as without HELD (log entry 52), and the array grants by its
arbitration. -/
theorem leaseCommandsComplete : Obligations.LeaseCommandsComplete := ⟨leaseCommandsAreAccepted, grantsFollowArbitration⟩

end Sys2Proof.Machine
end

section
/-! SUPPORT. Counter references of a core (R218), CINIT and CPOISON (R227, R228, R272), and the statement about them. -/

namespace Sys2Proof.Machine

open Sys2Proof.Claims

/-! ## What reaching a counter leaves -/

theorem StationsOnly.g {s t : State} (h : StationsOnly s t) (r : Reg) : t.g r = s.g r := by rw [h]; rfl
theorem StationsOnly.adds {s t : State} (h : StationsOnly s t) : t.adds = s.adds := by rw [h]
theorem StationsOnly.roll {s t : State} (h : StationsOnly s t) : t.roll = s.roll := by rw [h]
theorem StationsOnly.poison {s t : State} (h : StationsOnly s t) : t.poison = s.poison := by rw [h]
theorem StationsOnly.poisoned {s t : State} (h : StationsOnly s t) (key : Nat) : t.poisoned key = s.poisoned key := by rw [h]; rfl

/-- The checks of a counter's reference change what the stations cache, and the count of free values (R218). -/
theorem coreRef_stations {s s1 : State} {need : Need} {noTag : Bool} {r : Word} {x : Except Exc CRef} (h : coreRef s need noTag r = (x, s1)) :
    StationsOnly s s1 := by
  have same (e : Exc) (h : ((.error e, s) : Except Exc CRef × State) = (x, s1)) : StationsOnly s s1 := (Prod.mk.inj h).2 ▸ StationsOnly.refl s
  unfold coreRef at h
  split at h
  · exact same _ h
  · split at h
    · exact same _ h
    · split at h
      · exact same _ h
      · exact reachRef_stations h

section
variable {i : Instr} {need : Need} {noTag : Bool} {r : State → Word} {s s1 : State} (hready : Ready i s) (k : CRef → State → State)
include hready

/-- A counter instruction whose reference passes its checks has its own effect. -/
theorem onCounter_reaches {c : CRef} (reached : coreRef s need noTag (r s) = (.ok c, s1)) : onCounter i need noTag r k s = .next (k c s1) := by
  rw [onCounter, issue_ready hready]
  simp only [reached]

/-- One whose reference fails a check traps. -/
theorem onCounter_refused {e : Exc} (refused : coreRef s need noTag (r s) = (.error e, s1)) :
    onCounter i need noTag r k s = .next (trapHere e s1) := by
  rw [onCounter, issue_ready hready]
  simp only [refused]

end

/-! ## CINIT (R227) -/

@[simp] theorem counterInit_hart (s : State) (k : Nat) (x : Word) : (counterInit s k x).hart = s.hart := setCounter_hart ..

theorem counterInit_counter (s : State) (k : Nat) (x : Word) : (counterInit s k x).counter k = x := setCounter_counter ..

/-- A counter that is initialised is not poisoned any more. -/
theorem counterInit_poisoned (s : State) (k : Nat) (x : Word) : (counterInit s k x).poisoned k = false := by
  rw [counterInit, setCounter_poisoned, State.poisoned]
  simp

/-- Setting a counter leaves every other byte of memory. -/
theorem setCounter_onlyCounter (s : State) (k : Nat) (w : Word) : onlyCounter k s (setCounter s k w) := by
  intro p hp
  rw [setCounter_mem, Memory.read_write_other]
  rwa [show (wordBytes w).length = 8 from toBytes_length 8 _]

/-- Somebody waits for the counter. -/
theorem any_sameCounter_iff (l : List RollEntry) (k : Nat) : l.any (sameCounter k) = true ↔ ∃ e ∈ l, ctrPlace e.key = ctrPlace k := by
  simp [sameCounter]

/-- The counter has been initialised, and what streams have read ahead of it given up (R178). -/
def initialised (s : State) (k : Nat) (x : Word) : State := dropMeeting (counterInit s k x) [(ctrPlace k, 8)]

section
variable {s s1 : State} {a b c : Reg} {sc : Option Scope} {key : Nat} {ord : PageOrder} (hready : Ready (.cinit a b c sc) s)
  (reached : coreRef s needRW true (s.g a) = (.ok (.at key true ord), s1)) (released : orderWaits s1 key ord = false)
include hready reached released

/-- CINIT of a counter that somebody waits for answers 1. -/
theorem exec_cinit_waitedFor (waiters : ∃ e ∈ s.roll, ctrPlace e.key = ctrPlace key) :
    exec (.cinit a b c sc) s = .next (s1.withHart (s.hart.wroteG c 1 (s.hart.pc + 4))) := by
  have only := coreRef_stations reached
  have busy : s1.roll.any (sameCounter key) = true := only.roll ▸ (any_sameCounter_iff ..).2 waiters
  refine (rfl : _ = execCinit a b c sc s).trans ((onCounter_reaches hready _ reached).trans ?_)
  simp only [released, busy, Bool.not_true, Bool.false_eq_true, if_false, if_true, setG_retire, only.hart]

/-- CINIT of a counter that nobody waits for sets it and answers 0. -/
theorem exec_cinit_free (free : ∀ e ∈ s.roll, ctrPlace e.key ≠ ctrPlace key) : exec (.cinit a b c sc) s = .next
    ((initialised s1 key (s.g b)).withHart
      ((initialised s1 key (s.g b)).hart.wroteG c 0 ((initialised s1 key (s.g b)).hart.pc + 4))) := by
  have only := coreRef_stations reached
  have nobody : s1.roll.any (sameCounter key) = false :=
    only.roll ▸ Bool.eq_false_iff.2 fun busy => by
      obtain ⟨e, he, same⟩ := (any_sameCounter_iff ..).1 busy
      exact free e he same
  refine (rfl : _ = execCinit a b c sc s).trans ((onCounter_reaches hready _ reached).trans ?_)
  simp only [released, nobody, Bool.not_true, Bool.false_eq_true, if_false, setG_retire, only.g, initialised]

end

/-! ## CPOISON (R228, R272) -/

theorem counterPoison_poisoned (s : State) (k : Nat) : (counterPoison s k).poisoned k = true := by
  have kept : (counterPoison s k).poison = if s.poisoned k then s.poison else s.poison ++ [ctrPlace k] := rfl
  rw [State.poisoned, kept]
  split
  · assumption
  · simp

theorem counterPoison_wakes_eq (s : State) (k : Nat) : (counterPoison s k).wakes = s.wakes ++ s.roll.filterMap fun e =>
    if sameCounter k e then (verdict (counterPoison s k) e.key e.thr).map fun st => (⟨e.waiter, st⟩ : Wake) else none := rfl

theorem counterPoison_roll_eq (s : State) (k : Nat) : (counterPoison s k).roll =
    s.roll.filter fun e => !(sameCounter k e && (verdict (counterPoison s k) e.key e.thr).isSome) := rfl

/-- Whoever waits for a poisoned counter finds status 1. -/
theorem verdict_poisoned {s : State} {key : Nat} (poisoned : s.poisoned key = true) (thr : Word) : verdict s key thr = some 1 := by
  rw [verdict, if_pos poisoned]

section
variable {s : State} {k : Nat} {e : RollEntry} (he : e ∈ s.roll)

section
variable (same : ctrPlace e.key = ctrPlace k)
include same

theorem counterPoison_verdict : verdict (counterPoison s k) e.key e.thr = some 1 :=
  verdict_poisoned ((poisoned_congr same).trans (counterPoison_poisoned s k)) _

/-- A waiter for a counter that is poisoned leaves the roll. -/
theorem counterPoison_roll_same : e ∉ (counterPoison s k).roll := by
  rw [counterPoison_roll_eq, List.mem_filter]
  simp [sameCounter, same, counterPoison_verdict same]

include he

/-- It wakes with status 1. -/
theorem counterPoison_wakes_same : ⟨e.waiter, 1⟩ ∈ (counterPoison s k).wakes := by
  rw [counterPoison_wakes_eq, List.mem_append, List.mem_filterMap]
  exact .inr ⟨e, he, by simp [sameCounter, same, counterPoison_verdict same]⟩

end

include he

/-- A waiter of another counter stays. -/
theorem counterPoison_roll_other (other : ctrPlace e.key ≠ ctrPlace k) : e ∈ (counterPoison s k).roll := by
  rw [counterPoison_roll_eq, List.mem_filter]
  exact ⟨he, by simp [sameCounter, other]⟩

end

/-- Between two states only harts and posted receives have changed, and of the current hart at most its count of copies (R272). -/
structure PostsEnded (s t : State) : Prop where
  state : t = { s with hart := t.hart, others := t.others, posts := t.posts }
  hart : t.hart = { s.hart with ocp := t.hart.ocp }

theorem PostsEnded.trans {s t u : State} (h : PostsEnded s t) (k : PostsEnded t u) : PostsEnded s u :=
  ⟨by rw [k.state, h.state], by rw [k.hart, h.hart]⟩

theorem modifyHart_ocp_postsEnded (s : State) (n : Nat) :
    PostsEnded s (s.modifyHart n fun h => { h with ocp := h.ocp.retire }) := by
  unfold State.modifyHart
  split <;> exact ⟨rfl, rfl⟩

/-- Posts that retire leave all but harts. -/
theorem retirePosts_postsEnded (l : List Post) : ∀ s : State,
    PostsEnded s (l.foldl (fun s p => s.modifyHart p.core fun h => { h with ocp := h.ocp.retire }) s) := by
  induction l with
  | nil => exact fun s => ⟨rfl, rfl⟩
  | cons p rest ih => exact fun s => (modifyHart_ocp_postsEnded s p.core).trans (ih _)

/-- Receives that are cancelled leave everything but harts and the list of them. -/
theorem cancelPosts_postsEnded (s : State) (key : Nat) : PostsEnded s (cancelPosts s key) := by
  have dropped (l : List Post) : PostsEnded s { s with posts := l } := ⟨rfl, rfl⟩
  exact (dropped _).trans (retirePosts_postsEnded ..)

theorem PostsEnded.mem {s t : State} (h : PostsEnded s t) : t.mem = s.mem := by rw [h.state]
theorem PostsEnded.roll {s t : State} (h : PostsEnded s t) : t.roll = s.roll := by rw [h.state]
theorem PostsEnded.wakes {s t : State} (h : PostsEnded s t) : t.wakes = s.wakes := by rw [h.state]
theorem PostsEnded.poisoned {s t : State} (h : PostsEnded s t) (key : Nat) : t.poisoned key = s.poisoned key := by rw [h.state]; rfl
theorem PostsEnded.regs {s t : State} (h : PostsEnded s t) :
    t.hart.pc = s.hart.pc ∧ t.hart.g = s.hart.g ∧ t.hart.v = s.hart.v ∧ t.hart.tsw = s.hart.tsw := by
  rw [h.hart]
  exact ⟨rfl, rfl, rfl, rfl⟩

theorem exec_cpoison {s s1 : State} {a : Reg} {sc : Option Scope} {key : Nat} {ord : PageOrder} (hready : Ready (.cpoison a sc) s)
    (reached : coreRef s needRW true (s.g a) = (.ok (.at key true ord), s1)) (released : orderWaits s1 key ord = false) :
    exec (.cpoison a sc) s = .next ((cancelPosts (counterPoison s1 key) key).retire 4) := by
  refine (rfl : _ = execCpoison a sc s).trans ((onCounter_reaches hready _ reached).trans ?_)
  simp only [released, Bool.false_eq_true, if_false, if_true]

/-- Settles O40: CINIT changes its counter alone, or nothing; CPOISON wakes exactly the waiters of its counter. -/
theorem counterManagementCompletes : Obligations.CounterManagementCompletes := by
  refine ⟨fun s s1 a b c sc key ord hready reached released => ?cinit, fun s s1 a sc key ord hready reached released => ?cpoison⟩
  case cinit =>
    have only := coreRef_stations reached
    by_cases waiters : ∃ e ∈ s.roll, ctrPlace e.key = ctrPlace key
    · have same : SameMemory s s1 := fun p => congrArg (fun m => m.read p) only.mem
      refine ⟨_, exec_cinit_waitedFor hready reached released waiters, fun p _ => same p, fun _ => ⟨rfl, same, only.poison⟩, fun free => ?_⟩
      obtain ⟨e, he, same⟩ := waiters
      exact absurd same (free e he)
    · have free : ∀ e ∈ s.roll, ctrPlace e.key ≠ ctrPlace key := fun e he same => waiters ⟨e, he, same⟩
      have ahead : aheadOnly s.hart (initialised s1 key (s.g b)).hart :=
        only.hart ▸ counterInit_hart s1 key (s.g b) ▸ dropMeeting_aheadOnly ..
      refine ⟨_, exec_cinit_free hready reached released free, fun p hp => ?_, fun busy => absurd busy waiters, fun _ => ⟨?_, ?_, ?_⟩⟩
      · exact (setCounter_onlyCounter _ key (s.g b) p hp).trans (congrArg (fun m => m.read p) only.mem)
      · obtain ⟨_, _, hpc⟩ := aheadOnly_control ahead
        rw [State.withHart_hart, hpc]
        exact aheadOnly_wroteG ahead ..
      · exact counterInit_counter ..
      · exact counterInit_poisoned s1 key (s.g b)
  case cpoison =>
    have only := coreRef_stations reached
    have ended := cancelPosts_postsEnded (counterPoison s1 key) key
    obtain ⟨hpc, hg, hv, htsw⟩ := ended.regs
    have hart : (counterPoison s1 key).hart = s.hart := only.hart
    refine ⟨_, exec_cpoison hready reached released, fun p => ?_, ?_, fun e he same => ⟨?_, ?_⟩, fun e he other => ?_, ?_, ?_, ?_, ?_⟩
    · exact congrArg (fun m => m.read p) (ended.mem.trans only.mem)
    · exact (ended.poisoned key).trans (counterPoison_poisoned s1 key)
    · rw [State.retire_eq, State.withHart_wakes, ended.wakes]
      exact counterPoison_wakes_same (only.roll ▸ he) same
    · rw [State.retire_eq, State.withHart_roll, ended.roll]
      exact counterPoison_roll_same same
    · rw [State.retire_eq, State.withHart_roll, ended.roll]
      exact counterPoison_roll_other (only.roll ▸ he) other
    · rw [State.retire_eq, State.withHart_hart, Hart.goesOn_pc, hpc, hart]
      rfl
    · rw [State.retire_eq, State.withHart_hart, Hart.goesOn_g, hg, hart]
    · rw [State.retire_eq, State.withHart_hart, Hart.goesOn_v, hv, hart]
    · rw [State.retire_eq, State.withHart_hart, Hart.goesOn_tsw, htsw, hart]

end Sys2Proof.Machine
end

section
/-! SUPPORT. The checks of a counter's reference (R218, R327), scopes (R216), CADD, CADDV and CREAD (R222, R223): the first part of the statement
about counter accesses, and what each instruction does, its values told from the counter as it stands once its reference is reached. -/

namespace Sys2Proof.Machine

open Sys2Proof.Claims

/-! ## The checks of a reference (R218) -/

/-- A field of a word is its part from `lo` on. -/
theorem toNat_extractLsb'_eq_bits (r : Word) (lo n : Nat) : (r.extractLsb' lo n).toNat = bits r lo n := by
  rw [BitVec.extractLsb'_toNat, Nat.shiftRight_eq_div_pow, bits, field]

theorem refKind_of_extract {r : Word} {k : BitVec 2} (h : r.extractLsb' 62 2 = k) : refKind r = k.toNat := by
  rw [← h, toNat_extractLsb'_eq_bits, refKind]

theorem bits_low_three (r : Word) : bits r 0 3 = r.toNat % 8 := by simp [bits, field]

section
variable {s : State} {need : Need} {noTag : Bool} {r : Word}

theorem coreRef_badForm (form : refForm r = false) : coreRef s need noTag r = (.error ⟨exAddress, r⟩, s) := by
  rw [coreRef, form]
  rfl

section
variable (form : refForm r = true)
include form

theorem coreRef_misaligned (kind : refKind r = 0) (off : r.toNat % 8 ≠ 0) : coreRef s need noTag r = (.error ⟨exMisalign, r⟩, s) := by
  simp [coreRef, form, kind, bits_low_three, off]

theorem coreRef_unreachable (kind : refKind r ≠ 0) (beyond : refReach s s.part s.userMode r = false) :
    coreRef s need noTag r = (.error ⟨exAccess, r⟩, s) := by
  simp [coreRef, form, kind, beyond]

theorem coreRef_noTag (kind : refKind r = 3) : coreRef s need true r = (.error ⟨exAccess, r⟩, s) := by
  simp [coreRef, form, kind, refReach, reachRef]

end

/-- A cluster of another partition is out of reach. -/
theorem refReach_foreign (kind : refKind r = 1 ∨ refKind r = 2) {p : BitVec 16} (foreign : inPart s p (refCluster r) = false) (user : Bool) :
    refReach s p user r = false := by
  rcases kind with kind | kind <;> simp [refReach, kind, foreign]

/-- The engine's counters are out of reach of user mode (R327). -/
theorem refReach_engine (kind : refKind r = 1) (engine : 4032 ≤ r.toNat % 4096) (p : BitVec 16) : refReach s p true r = false := by
  have low : bits r 0 12 = r.toNat % 4096 := by simp [bits, field]
  simp [refReach, kind, low, engine]

end

/-- A counter instruction whose reference fails a check raises the exception of that check. -/
theorem counterRef_traps {s : State} {i : Instr} {r : Word} {noTag : Bool} {e : Exc} (form : counterRef s i = some (r, noTag))
    (unasked : s.hart.wait = none) (hready : Ready i s) (refused : ∀ need, coreRef s need noTag r = (.error e, s)) :
    ∃ t, exec i s = .next t ∧ TrapTaken s t false e.code e.tval s.hart.pc := by
  refine ⟨_, ?_, trapHere_taken unasked e⟩
  unfold counterRef at form
  split at form <;> cases form
  case h_1 a b sc => exact (rfl : _ = execCadd a b sc s).trans (onCounter_refused hready _ (refused _))
  case h_2 a b c sc => exact (rfl : _ = execCaddv a b c sc s).trans (onCounter_refused hready _ (refused _))
  case h_3 a b c sc => exact (rfl : _ = execCread a b c sc s).trans (onCounter_refused hready _ (refused _))
  case h_4 a b c sc =>
    refine (rfl : _ = execCwait a b c sc s).trans ((issue_ready hready _).trans ?_)
    simp only [waitOn, unasked, refused]
  case h_5 a b c sc =>
    refine (rfl : _ = execCwaitt a b c sc s).trans ((issue_ready hready _).trans ?_)
    simp only [waitOn, unasked, refused]
  case h_6 a b c sc =>
    refine (rfl : _ = execCaw a b c sc s).trans ((issue_ready hready _).trans ?_)
    simp only [waitOn, unasked, refused]
  case h_7 a b c sc => exact (rfl : _ = execCinit a b c sc s).trans (onCounter_refused hready _ (refused _))
  case h_8 a sc => exact (rfl : _ = execCpoison a sc s).trans (onCounter_refused hready _ (refused _))

theorem counterReferenceChecks : CounterReferenceChecks := by
  intro s i r noTag form unasked hready
  have traps {e : Exc} := counterRef_traps (e := e) form unasked hready
  refine ⟨fun bad => traps fun _ => coreRef_badForm bad, fun good kind off => traps fun _ => coreRef_misaligned good (refKind_of_extract kind) off,
    fun good kind foreign => traps fun _ => coreRef_unreachable good ?_ ?_, fun good kind user engine => traps fun _ => coreRef_unreachable good ?_ ?_,
    fun good kind no => traps fun _ => no ▸ coreRef_noTag good (refKind_of_extract kind)⟩
  · rcases kind with kind | kind <;> rw [refKind_of_extract kind] <;> decide
  · rw [toNat_extractLsb'_eq_bits] at foreign
    exact refReach_foreign (kind.imp refKind_of_extract refKind_of_extract) foreign _
  · rw [refKind_of_extract kind]
    decide
  · rw [State.userMode, user]
    exact refReach_engine (refKind_of_extract kind) engine _

/-! ## Scopes (R216) -/

/-- The default scope is the smallest that contains the core and the homeroom. -/
theorem defaultScope_eq (n key : Nat) : defaultScope (clusterOf n) key = smallestScope n key := by
  have die : clusterOf n / 8 = n / 128 := Nat.div_div_eq_div_mul ..
  have sector : sectorOf (clusterOf n) = n / 1024 := Nat.div_div_eq_div_mul ..
  simp only [defaultScope, smallestScope, die, sector, Bool.and_eq_true, decide_eq_true_eq]
  rfl

theorem effectiveScope_eq (n key : Nat) (sc : Option Scope) : effectiveScope n key sc = Claims.scopeOf n key sc := by
  cases sc with
  | none => exact defaultScope_eq n key
  | some x => rw [effectiveScope, defaultScope_eq, Claims.scopeOf, larger]

/-! ## CADD (R219, R222) -/

/-- An add that sets out stands last among the adds on their way. -/
theorem sendAdd_adds (s : State) (key : Nat) (x : Word) (caw : Bool) (sc : Option Scope) (ord : PageOrder) :
    (sendAdd s key x caw sc ord).adds = s.adds ++ [⟨s.cur, key, x, caw, Claims.scopeOf s.cur key sc, ord⟩] := by
  rw [← effectiveScope_eq]
  rfl

@[simp] theorem sendAdd_mem (s : State) (key : Nat) (x : Word) (caw : Bool) (sc : Option Scope) (ord : PageOrder) :
    (sendAdd s key x caw sc ord).mem = s.mem := rfl

/-- Of the hart it leaves all but OST and what streams have read ahead of the counter (R178). -/
theorem sendAdd_hart (s : State) (key : Nat) (x : Word) (caw : Bool) (sc : Option Scope) (ord : PageOrder) :
    (sendAdd s key x caw sc ord).hart =
      { (dropMeeting s [(ctrPlace key, 8)]).hart with ost := { s.hart.ost with iss := s.hart.ost.iss + 1 } } := rfl

section
variable {s s1 : State} {a b : Reg} {sc : Option Scope} (hready : Ready (.cadd a b sc) s)
include hready

theorem exec_cadd {key : Nat} {ord : PageOrder} (reached : coreRef s needRW false (s.g a) = (.ok (.at key true ord), s1)) :
    exec (.cadd a b sc) s = .next ((sendAdd s1 key (s.g b) false sc ord).retire 4) := by
  refine (rfl : _ = execCadd a b sc s).trans ((onCounter_reaches hready _ reached).trans ?_)
  simp only [if_true, (coreRef_stations reached).g]

/-- CADD sends its add, which counts in OST (R216, R219, R222). -/
theorem cadd_completes {key : Nat} {ord : PageOrder} (reached : coreRef s needRW false (s.g a) = (.ok (.at key true ord), s1)) :
    ∃ t, exec (.cadd a b sc) s = .next t ∧ t.adds = s.adds ++ [⟨s.cur, key, s.g b, false, Claims.scopeOf s.cur key sc, ord⟩] ∧
      aheadOnly { s.hart.goesOn (s.hart.pc + 4) with ost := { s.hart.ost with iss := s.hart.ost.iss + 1 } } t.hart ∧ SameMemory s t := by
  have only := coreRef_stations reached
  refine ⟨_, exec_cadd hready reached, ?_, ?_, fun p => congrArg (fun m => m.read p) only.mem⟩
  · rw [State.retire_eq, State.withHart_adds, sendAdd_adds, only.adds, only.cur]
  · obtain ⟨l, ahead⟩ := only.hart ▸ dropMeeting_aheadOnly s1 [(ctrPlace key, 8)]
    rw [State.retire_eq, State.withHart_hart, sendAdd_hart, only.hart, ahead]
    exact ⟨l, rfl⟩

section
variable {i : Fin 64} (reached : coreRef s needRW false (s.g a) = (.ok (.tag i), s1))
include reached

theorem exec_cadd_tag : exec (.cadd a b sc) s = .next (if tagHeld s1 sc then s1 else s1.withHart
    { s.hart.goesOn (s.hart.pc + 4) with tagc := s.hart.tagc.set i (s.hart.tagc[i] + s.g b) }) := by
  have only := coreRef_stations reached
  refine (rfl : _ = execCadd a b sc s).trans ((onCounter_reaches hready _ reached).trans ?_)
  simp only [← only.hart, ← only.g]
  rfl

/-- A tag's add waits for a replicated write of the core that has not been applied (R312). -/
theorem cadd_tag_waits (pending : ∃ w ∈ s.repl, w.core = s.cur ∧ w.un = false) : exec (.cadd a b sc) s = .next s1 := by
  have only := coreRef_stations reached
  obtain ⟨w, hw, core, un⟩ := pending
  have write : s1.repl.any (fun w => w.core == s1.cur && !w.un) = true :=
    List.any_eq_true.2 ⟨w, only.repl ▸ hw, by rw [only.cur, core, un, beq_self_eq_true]; rfl⟩
  have held : tagHeld s1 sc = true := by rw [tagHeld, releaseHeld, write, Bool.or_true]
  rw [exec_cadd_tag hready reached, if_pos held]

end

end

/-- The scope `.core` or none named is the default of a tag (R216). -/
theorem tagScope_core {sc : Option Scope} (h : sc = none ∨ sc = some .core) : tagScope sc = .core := by
  rcases h with rfl | rfl <;> rfl

/-- What a tag's release covers is performed: the replicated writes, and above the scope `.core` the adds (R216, R217, R312). -/
theorem tagHeld_released {s : State} {sc : Option Scope} (writes : ∀ w ∈ s.repl, w.core = s.cur → w.un = true)
    (adds : (sc = none ∨ sc = some .core) ∨ ∀ x ∈ s.adds, x.core = s.cur → x.ord = .un) : tagHeld s sc = false := by
  rw [tagHeld, releaseHeld, Bool.or_eq_false_iff]
  constructor
  · rcases adds with low | adds
    · rw [tagScope_core low]
      rfl
    · split
      · rfl
      · simpa using adds
  · simpa using writes

theorem cadd_tag_completes {s s1 : State} {a b : Reg} {sc : Option Scope} {i : Fin 64} (hready : Ready (.cadd a b sc) s)
    (reached : coreRef s needRW false (s.g a) = (.ok (.tag i), s1)) (writes : ∀ w ∈ s.repl, w.core = s.cur → w.un = true)
    (adds : (sc = none ∨ sc = some .core) ∨ ∀ x ∈ s.adds, x.core = s.cur → x.ord = .un) :
    ∃ t, exec (.cadd a b sc) s = .next t ∧ SameMemory s t ∧
      t.hart = { s.hart.goesOn (s.hart.pc + 4) with tagc := s.hart.tagc.set i (s.hart.tagc[i] + s.g b) } := by
  have only := coreRef_stations reached
  have released : tagHeld s1 sc = false := by
    apply tagHeld_released
    · rwa [only.repl, only.cur]
    · rwa [only.adds, only.cur]
  refine ⟨_, exec_cadd_tag hready reached, ?_, ?_⟩
  all_goals rw [released, if_neg Bool.false_ne_true]
  · exact fun p => congrArg (fun m => m.read p) only.mem
  · rw [State.withHart_hart]

/-! ## CADDV (R222) -/

/-- A counter to which the core has added, and what its streams have read ahead of it given up (R178). -/
def added (s : State) (key : Nat) (x : Word) : State := dropMeeting (counterAdd s key x) [(ctrPlace key, 8)]

section
variable {s s1 : State} {a b c : Reg} {sc : Option Scope} {key : Nat} {ord : PageOrder}

theorem exec_caddv (hready : Ready (.caddv a b c sc) s) (reached : coreRef s needRW false (s.g a) = (.ok (.at key true ord), s1))
    (released : orderWaits s1 key ord = false) : exec (.caddv a b c sc) s = .next ((deliver (added s1 key (s.g b)) true (ord == .un) (.g c) (s.g a)
      ((s1.counter key).setWidth 512) false).retire 4) := by
  have only := coreRef_stations reached
  refine (rfl : _ = execCaddv a b c sc s).trans ((onCounter_reaches hready _ reached).trans ?_)
  simp only [released, Bool.false_eq_true, if_false, if_true, only.g, Bool.not_true, added]

/-- CADDV adds at the homeroom, and the old value is on its way to its register (R222). -/
theorem caddv_completes (hready : Ready (.caddv a b c sc) s) (reached : coreRef s needRW false (s.g a) = (.ok (.at key true ord), s1))
    (released : orderWaits s1 key ord = false) :
    ∃ t, exec (.caddv a b c sc) s = .next t ∧ t.counter key = s1.counter key + s.g b ∧ onlyCounter key s t ∧
      aheadOnly { s.hart.goesOn (s.hart.pc + 4) with
        old := { s.hart.old with iss := s.hart.old.iss + 1 }
        loads := s.hart.loads ++ [⟨.g c, s.g a, (s1.counter key).setWidth 512, false, decide (ord = .un)⟩] } t.hart := by
  have only := coreRef_stations reached
  refine ⟨_, exec_caddv hready reached released, counterAdd_counter .., fun p hp => ?_, ?_⟩
  · exact (counterAdd_other s1 key (s.g b) hp).trans (congrArg (fun m => m.read p) only.mem)
  · have ahead := dropMeeting_aheadOnly (counterAdd s1 key (s.g b)) [(ctrPlace key, 8)]
    rw [counterAdd_hart, only.hart] at ahead
    obtain ⟨l, ahead⟩ := ahead
    rw [State.retire_eq, State.withHart_hart, deliver_away_hart, added, ahead]
    exact ⟨l, rfl⟩

/-! ## CREAD (R223) -/

/-- A word result for g[r] fills it at once where no key refuses the counter's page. -/
theorem fillG_ok (s : State) (r : Reg) (x addr : Word) : s.fillG r x true addr = s.setG r x := by
  have fill := Hart.fill_g s.hart r addr (x.setWidth 512)
  rw [show (x.setWidth 512).setWidth 64 = x by simp] at fill
  exact congrArg s.withHart fill

/-- The state once CREAD has counted its read and written the poison bit. -/
def readCounted (s : State) (b : Reg) (key : Nat) : State :=
  (s.withHart { s.hart with old := s.hart.old.issue.retire }).setG b (if s.poisoned key then 1 else 0)

theorem exec_cread (hready : Ready (.cread a b c sc) s) (reached : coreRef s needR false (s.g a) = (.ok (.at key true ord), s1))
    (unheld : counterWaits s1 key ord = false) : exec (.cread a b c sc) s = .next
      ((readCounted s1 b key).withHart (waitedHart (readCounted s1 b key).hart c (s1.counter key))) := by
  have poison : BitVec.ofNat 64 (ofBool (s1.poisoned key)) = if s1.poisoned key then 1 else 0 := by
    cases s1.poisoned key <;> rfl
  refine (rfl : _ = execCread a b c sc s).trans ((onCounter_reaches hready _ reached).trans ?_)
  simp only [unheld, Bool.false_eq_true, if_false, fillG_ok, poison]
  rw [dropAhead_setG_retire]
  rfl

/-- What CREAD leaves of the hart but its register c. -/
theorem waitedHart_regs (h : Hart) (c : Reg) (x : Word) : (waitedHart h c x).pc = h.pc + 4 ∧ (waitedHart h c x).v = h.v ∧
    (waitedHart h c x).old = h.old ∧ (waitedHart h c x).tsw = h.tsw.completed := ⟨rfl, rfl, rfl, rfl⟩

/-- A wait that ends writes its register as any write does. -/
theorem g_waitedHart (s : State) (c r : Reg) (x : Word) : (s.withHart (waitedHart s.hart c x)).g r = if r = c then if c = 0 then 0 else x else s.g r := by
  have written : (s.withHart (waitedHart s.hart c x)).g r = (s.setG c x).g r := by
    rw [State.setG_eq, State.withHart_g, State.withHart_g, Hart.setG_g]
    rfl
  rw [written]
  split
  next same => rw [same, State.g_setG_same]
  next other => exact State.g_setG_other s x other

/-- CREAD gives the poison bit and the value (R223). -/
theorem cread_completes (hready : Ready (.cread a b c sc) s) (reached : coreRef s needR false (s.g a) = (.ok (.at key true ord), s1))
    (unheld : counterWaits s1 key ord = false) :
    ∃ t, exec (.cread a b c sc) s = .next t ∧ SameMemory s t ∧ t.hart.pc = s.hart.pc + 4 ∧ (c ≠ 0 → t.g c = s1.counter key) ∧
      (b ≠ 0 → b ≠ c → t.g b = if s.poisoned key then 1 else 0) ∧ (∀ r, r ≠ b → r ≠ c → t.g r = s.g r) ∧ t.hart.v = s.hart.v ∧
      t.hart.old = ⟨s.hart.old.iss + 1, s.hart.old.ret + 1⟩ ∧ t.hart.tsw = s.hart.tsw.completed := by
  have only := coreRef_stations reached
  obtain ⟨hpc, hv, hold, htsw⟩ := waitedHart_regs (readCounted s1 b key).hart c (s1.counter key)
  refine ⟨_, exec_cread hready reached unheld, fun p => congrArg (fun m => m.read p) only.mem, ?_, fun hc => ?_, fun hb hbc => ?_,
    fun r hrb hrc => ?_, ?_, ?_, ?_⟩
  · rw [State.withHart_hart, hpc, readCounted, State.setG_eq, State.withHart_hart, Hart.setG_pc, State.withHart_hart, only.hart]
  · rw [g_waitedHart, if_pos rfl, if_neg hc]
  · rw [g_waitedHart, if_neg hbc, readCounted, State.g_setG_same, if_neg hb, only.poisoned]
  · rw [g_waitedHart, if_neg hrc, readCounted, State.g_setG_other _ _ hrb, ← only.g]
    rfl
  · rw [State.withHart_hart, hv, readCounted, State.setG_eq, State.withHart_hart, Hart.setG_v, State.withHart_hart, only.hart]
  · rw [State.withHart_hart, hold, readCounted, State.setG_eq, State.withHart_hart, Hart.setG_old, State.withHart_hart, only.hart]
    rfl
  · rw [State.withHart_hart, htsw, readCounted, State.setG_eq, State.withHart_hart, Hart.setG_tsw, State.withHart_hart, only.hart]

end

end Sys2Proof.Machine
end

section
/-! SUPPORT. Counter waits (R210, R212, R221, R224–R226): how a wait ends, is registered or goes on, and what CAW does before it. -/

namespace Sys2Proof.Machine

open Sys2Proof.Claims

/-! ## A wait at its registration (R210, R224) -/

section
variable {s : State} {key : Nat} {ord : PageOrder} {addr thr : Word} {c : Reg} {sc : Option Scope}
  (unheld : counterWaits s key ord = false)
include unheld

/-- The evaluation at the registration ends the wait with the status it finds. -/
theorem waitFor_ends {st : Word} (found : verdict s key thr = some st) (limit : Option Word) :
    waitFor s (.at key true ord) addr thr c sc limit = s.withHart (waitedHart s.hart c st) := by
  simp only [waitFor, unheld, found, Bool.not_true, Bool.false_eq_true, if_false]
  exact dropAhead_setG_retire ..

section
variable (below : verdict s key thr = none)
include below

/-- A wait of no cycles ends with status 2. -/
theorem waitFor_timesOut : waitFor s (.at key true ord) addr thr c sc (some 0) = s.withHart (waitedHart s.hart c 2) := by
  simp only [waitFor, unheld, below, Bool.not_true, Bool.false_eq_true, if_false, if_true]
  exact dropAhead_setG_retire ..

/-- A wait without a limit takes its place on the roll. -/
theorem waitFor_registers (place : rollFull s key = false) : waitFor s (.at key true ord) addr thr c sc none =
    (register s key (.core s.cur) thr (effectiveScope s.cur key sc)).withHart
      { s.hart with wait := some (.counter key thr false s.hart.irq.cycle none) } := by
  simp only [waitFor, unheld, below, place, Bool.not_true, Bool.false_eq_true, if_false, reduceCtorEq, Option.map_none]
  rfl

end

end

/-- No wait is in progress. -/
theorem waitOn_none {s : State} (unasked : s.hart.wait = none) (c : Reg) : waitOn s c = none := by
  rw [waitOn, unasked]

/-- A wait that has been woken gives its status (R224). -/
theorem waitOn_woken {s : State} {st start : Word} {l : Option (Word × Reg)} (woken : s.hart.wait = some (.woken st start l)) (c : Reg) :
    waitOn s c = some (s.withHart (waitedHart s.hart c st)) := by
  rw [waitOn, woken]
  exact congrArg some (dropAhead_setG_retire s c st)

theorem exec_woken {s : State} {a b c : Reg} {sc : Option Scope} {st start : Word} {l : Option (Word × Reg)} {i : Instr}
    (hi : i = .cwait a b c sc ∨ i = .cwaitt a b c sc ∨ i = .caw a b c sc) (hready : Ready i s) (woken : s.hart.wait = some (.woken st start l)) :
    exec i s = .next (s.withHart (waitedHart s.hart c st)) := by
  have on := waitOn_woken woken c
  rcases hi with rfl | rfl | rfl
  · refine (rfl : _ = execCwait a b c sc s).trans ((issue_ready hready _).trans ?_)
    simp only [on]
  · refine (rfl : _ = execCwaitt a b c sc s).trans ((issue_ready hready _).trans ?_)
    simp only [on]
  · refine (rfl : _ = execCaw a b c sc s).trans ((issue_ready hready _).trans ?_)
    simp only [on]

section
variable {s s1 : State} {a b c : Reg} {sc : Option Scope} {r : CRef} (unasked : s.hart.wait = none)
include unasked

theorem exec_cwait (hready : Ready (.cwait a b c sc) s) (reached : coreRef s needR false (s.g a) = (.ok r, s1)) :
    exec (.cwait a b c sc) s = .next (waitFor s1 r (s.g a) (s.g b) c sc none) := by
  have only := coreRef_stations reached
  refine (rfl : _ = execCwait a b c sc s).trans ((issue_ready hready _).trans ?_)
  simp only [waitOn_none unasked, reached, only.g]

theorem exec_cwaitt (hready : Ready (.cwaitt a b c sc) s) (reached : coreRef s needR false (s.g a) = (.ok r, s1)) :
    exec (.cwaitt a b c sc) s = .next (waitFor s1 r (s.g a) (s.g b) c sc (some (s.g c))) := by
  have only := coreRef_stations reached
  refine (rfl : _ = execCwaitt a b c sc s).trans ((issue_ready hready _).trans ?_)
  simp only [waitOn_none unasked, reached, only.g]

theorem exec_caw (hready : Ready (.caw a b c sc) s) (reached : coreRef s needRW false (s.g a) = (.ok r, s1)) :
    exec (.caw a b c sc) s = .next (if s.hart.tsw.ap then waitFor s1 r (s.g a) (s.g c) c sc none else cawAdd s1 r (s.g b) sc) := by
  have only := coreRef_stations reached
  refine (rfl : _ = execCaw a b c sc s).trans ((issue_ready hready _).trans ?_)
  simp only [waitOn_none unasked, reached, only.g, only.hart]

end

/-! ## CWAIT and CWAITT (R224) -/

/-- A wait that ends once its reference is reached leaves the hart as the statements say, and memory. -/
theorem waited_of_stations {s s1 : State} (only : StationsOnly s s1) (c : Reg) (st : Word) :
    (s1.withHart (waitedHart s1.hart c st)).hart = waitedHart s.hart c st ∧ (s1.withHart (waitedHart s1.hart c st)).adds = s.adds ∧
      SameMemory s (s1.withHart (waitedHart s1.hart c st)) :=
  ⟨by rw [State.withHart_hart, only.hart], only.adds, fun p => congrArg (fun m => m.read p) only.mem⟩

section
variable {s s1 : State} {a b c : Reg} {sc : Option Scope} {key : Nat} {ord : PageOrder} (unasked : s.hart.wait = none)
  (reached : coreRef s needR false (s.g a) = (.ok (.at key true ord), s1)) (unheld : counterWaits s1 key ord = false)
include unasked reached unheld

theorem cwait_ends (hready : Ready (.cwait a b c sc) s) {st : Word} (found : verdict s1 key (s.g b) = some st) :
    ∃ t, exec (.cwait a b c sc) s = .next t ∧ t.hart = waitedHart s.hart c st ∧ SameMemory s t := by
  obtain ⟨hart, _, mem⟩ := waited_of_stations (coreRef_stations reached) c st
  exact ⟨_, (exec_cwait unasked hready reached).trans (congrArg Host.Outcome.next (waitFor_ends unheld found none)), hart, mem⟩

theorem cwait_registers (hready : Ready (.cwait a b c sc) s) (below : verdict s1 key (s.g b) = none) (place : rollFull s1 key = false) :
    ∃ t, exec (.cwait a b c sc) s = .next t ∧ t.roll = s.roll ++ [⟨key, .core s.cur, s.g b, Claims.scopeOf s.cur key sc⟩] ∧
      t.hart.pc = s.hart.pc ∧ t.hart.g = s.hart.g ∧ t.hart.wait = some (.counter key (s.g b) false s.hart.irq.cycle none) := by
  have only := coreRef_stations reached
  refine ⟨_, (exec_cwait unasked hready reached).trans (congrArg Host.Outcome.next (waitFor_registers unheld below place)), ?_⟩
  rw [effectiveScope_eq, only.cur, only.hart]
  exact ⟨congrArg (· ++ _) only.roll, rfl, rfl, rfl⟩

theorem cwaitt_ends (hready : Ready (.cwaitt a b c sc) s) {st : Word} (found : verdict s1 key (s.g b) = some st) :
    ∃ t, exec (.cwaitt a b c sc) s = .next t ∧ t.hart = waitedHart s.hart c st ∧ SameMemory s t := by
  obtain ⟨hart, _, mem⟩ := waited_of_stations (coreRef_stations reached) c st
  exact ⟨_, (exec_cwaitt unasked hready reached).trans (congrArg Host.Outcome.next (waitFor_ends unheld found _)), hart, mem⟩

theorem cwaitt_timesOut (hready : Ready (.cwaitt a b c sc) s) (below : verdict s1 key (s.g b) = none) (cycles : s.g c = 0) :
    ∃ t, exec (.cwaitt a b c sc) s = .next t ∧ t.hart = waitedHart s.hart c 2 ∧ SameMemory s t := by
  obtain ⟨hart, _, mem⟩ := waited_of_stations (coreRef_stations reached) c 2
  exact ⟨_, (exec_cwaitt unasked hready reached).trans (by rw [cycles, waitFor_timesOut unheld below]), hart, mem⟩

end

/-! ## CAW (R226) -/

section
variable {s s1 : State} {a b c : Reg} {sc : Option Scope} {key : Nat} {ord : PageOrder} (hready : Ready (.caw a b c sc) s)
  (unasked : s.hart.wait = none) (reached : coreRef s needRW false (s.g a) = (.ok (.at key true ord), s1))
include hready unasked reached

theorem exec_caw_sends (before : s.hart.tsw.ap = false) (released : orderWaits s1 key ord = false) : exec (.caw a b c sc) s = .next
    ((sendAdd s1 key (s.g b) true sc ord).withHart { (sendAdd s1 key (s.g b) true sc ord).hart with wait := some .cawAdd }) := by
  rw [exec_caw unasked hready reached, before, if_neg Bool.false_ne_true]
  simp only [cawAdd, released, Bool.false_eq_true, if_false, if_true]
  rfl

/-- The add of a CAW is sent once its release is met (R217, R226). -/
theorem caw_sends (before : s.hart.tsw.ap = false) (released : orderWaits s1 key ord = false) :
    ∃ t, exec (.caw a b c sc) s = .next t ∧ t.adds = s.adds ++ [⟨s.cur, key, s.g b, true, Claims.scopeOf s.cur key sc, ord⟩] ∧
      t.hart.wait = some .cawAdd ∧ t.hart.pc = s.hart.pc ∧ t.hart.g = s.hart.g ∧ SameMemory s t := by
  have only := coreRef_stations reached
  refine ⟨_, exec_caw_sends hready unasked reached before released, ?_, rfl, ?_, ?_, fun p => congrArg (fun m => m.read p) only.mem⟩
  · rw [State.withHart_adds, sendAdd_adds, only.adds, only.cur]
  · exact only.hart ▸ rfl
  · exact only.hart ▸ rfl

/-- Before that nothing has been sent. -/
theorem caw_holds (before : s.hart.tsw.ap = false) (held : orderWaits s1 key ord = true) :
    ∃ t, exec (.caw a b c sc) s = .next t ∧ t.adds = s.adds ∧ t.hart = s.hart ∧ SameMemory s t := by
  have only := coreRef_stations reached
  have waits : cawAdd s1 (.at key true ord) (s.g b) sc = s1 := by simp only [cawAdd, held, if_true]
  exact ⟨s1, (exec_caw unasked hready reached).trans (by rw [before, if_neg Bool.false_ne_true, waits]), only.adds, only.hart,
    fun p => congrArg (fun m => m.read p) only.mem⟩

/-- Once its add has been acknowledged it waits as CWAIT does. -/
theorem caw_ends (after : s.hart.tsw.ap = true) (unheld : counterWaits s1 key ord = false) {st : Word} (found : verdict s1 key (s.g c) = some st) :
    ∃ t, exec (.caw a b c sc) s = .next t ∧ t.hart = waitedHart s.hart c st ∧ t.adds = s.adds ∧ SameMemory s t :=
  ⟨_, (exec_caw unasked hready reached).trans (by rw [after, if_pos rfl, waitFor_ends unheld found none]),
    waited_of_stations (coreRef_stations reached) c st⟩

end

end Sys2Proof.Machine
end

section
/-! SUPPORT. What CounterAccessesComplete and CounterWaitsComplete rest on. Both tell what an instruction does to a counter from the value that the
counter shows before its reference is reached. Reaching a KIND 00 reference takes a free value where a station holds an entry that the tables no
longer do (R358, R359), and what a counter shows under a key pair it was not written under may change with each free value taken (R357, log entry
83). Both statements hold if it never does, and both imply that for one sealed word it does not; the model, to which `Config.garble` is a constant
without a body, does not decide it. Told from the counter in the state in which its reference has been reached, every clause stands above as a
lemma without that condition. -/

namespace Sys2Proof.Machine

open Sys2Proof.Claims

/-! ## Both statements hold where draws do not show in encrypted lines -/

/-- What a byte of an encrypted line shows under another key pair does not depend on the number of free values taken so far. -/
def GarbleSteady : Prop := ∀ n m key a l, Config.garble n key a l = Config.garble m key a l

/-- A counter then shows the same value before and after its reference is reached. -/
theorem GarbleSteady.counter (steady : GarbleSteady) {s s1 : State} (only : StationsOnly s s1) (key : Nat) : s1.counter key = s.counter key := by
  have shown (a n k : Nat) : s1.readKeyed k a n = s.readKeyed k a n := by
    rw [only]
    simp only [State.readKeyed, steady s1.draws s.draws]
    rfl
  rw [State.counter, shown, State.counter]

theorem GarbleSteady.verdict_reached (steady : GarbleSteady) {s s1 : State} (only : StationsOnly s s1) {key : Nat} {thr : Word}
    (clean : s.poisoned key = false) (h : reaches (s.counter key) thr) : verdict s1 key thr = some 0 :=
  Machine.verdict_reached (only.poisoned key ▸ clean) (steady.counter only key ▸ h)

theorem GarbleSteady.verdict_below (steady : GarbleSteady) {s s1 : State} (only : StationsOnly s s1) {key : Nat} {thr : Word}
    (clean : s.poisoned key = false) (h : ¬ reaches (s.counter key) thr) : verdict s1 key thr = none :=
  Machine.verdict_below (only.poisoned key ▸ clean) (steady.counter only key ▸ h)

theorem counterAccessesComplete_of_garbleSteady (steady : GarbleSteady) : Obligations.CounterAccessesComplete := by
  refine ⟨counterReferenceChecks, fun s s1 a b sc key ord hready reached => cadd_completes hready reached,
    fun s s1 a b c sc key ord hready reached released => ?caddv, fun s s1 a b c sc key ord hready reached unheld => ?cread,
    fun s s1 a b sc i hready reached pending => cadd_tag_waits hready reached pending,
    fun s s1 a b sc i hready reached writes adds => cadd_tag_completes hready reached writes adds⟩
  case caddv =>
    rw [← steady.counter (coreRef_stations reached)]
    exact caddv_completes hready reached released
  case cread =>
    rw [← steady.counter (coreRef_stations reached)]
    exact cread_completes hready reached unheld

theorem counterWaitsComplete_of_garbleSteady (steady : GarbleSteady) : Obligations.CounterWaitsComplete := by
  refine ⟨fun s s1 a b c sc key ord hready unasked reached unheld => ?cwait, fun s s1 a b c sc key ord hready unasked reached unheld => ?cwaitt,
    fun s a b c sc st start l i hi hready woken => exec_woken hi hready woken, fun s s1 a b c sc key ord hready unasked reached => ?caw⟩
  case cwait =>
    have only := coreRef_stations reached
    refine ⟨fun poisoned => ?_, fun clean h => ?_, fun clean h place => ?_⟩
    · exact cwait_ends unasked reached unheld hready (verdict_poisoned ((only.poisoned key).trans poisoned) _)
    · exact cwait_ends unasked reached unheld hready (steady.verdict_reached only clean h)
    · exact cwait_registers unasked reached unheld hready (steady.verdict_below only clean h) place
  case cwaitt =>
    have only := coreRef_stations reached
    refine ⟨fun poisoned => ?_, fun clean h => ?_, fun clean h cycles => ?_⟩
    · exact cwaitt_ends unasked reached unheld hready (verdict_poisoned ((only.poisoned key).trans poisoned) _)
    · exact cwaitt_ends unasked reached unheld hready (steady.verdict_reached only clean h)
    · exact cwaitt_timesOut unasked reached unheld hready (steady.verdict_below only clean h) cycles
  case caw =>
    have only := coreRef_stations reached
    exact ⟨caw_sends hready unasked reached, caw_holds hready unasked reached,
      fun after unheld clean h => caw_ends hready unasked reached after unheld (steady.verdict_reached only clean h)⟩

/-! ## What they say of draws -/

@[simp] theorem keepCached_draws (s : State) (c : Cached) : (keepCached s c).draws = s.draws := by
  unfold keepCached
  dsimp only
  split
  · rfl
  · split <;> rfl

/-- Where the tables no longer hold what the station does, either of the two serves, and a free value has been drawn (R358, R359). -/
theorem translate_stale {s : State} {m : Nat} {p : BitVec 16} {sp : BitVec 20} {va : Nat} {c : Cached} {w : Word × Bool}
    (space : (spaceEntry s p sp).isNone = false) (cached : cachedFor s m sp va = some c) (walked : (walkPath s p sp va).2 = some w)
    (stale : some w ≠ some (c.entry, c.big)) :
    ∃ e s1, (e = (c.entry, c.big) ∨ e = w) ∧ translate s m p sp va = (some ⟨pagePlace e.1 e.2 va, e.1⟩, s1) ∧ s1.draws = s.draws + 1 := by
  unfold translate
  simp only [space, Bool.false_eq_true, if_false, cached, walked, if_neg stale]
  cases h : s.flip.1
  · simp only [Bool.false_eq_true, if_false]
    exact ⟨w, _, .inr rfl, rfl, keepCached_draws ..⟩
  · simp only [if_true]
    exact ⟨_, _, .inl rfl, rfl, rfl⟩

/-- An access inside one page that is granted has one segment. -/
theorem globalAccess_onePage {s s1 : State} {m : Nat} {p : BitVec 16} {sp : BitVec 20} {need : Need} {va n : Nat} {page : Page} (hn : 0 < n)
    (inside : va % 65536 + n ≤ 65536) (served : translate s m p sp va = (some page, s1)) (granted : grants page.entry need = true) :
    globalAccess s m p sp need va n = (.ok [⟨page.place + va % 65536, n,
      keyOk s1 p (pteKey page.entry) va && tierOk s1 (page.place + va % 65536) n, page.entry⟩], s1) := by
  simp [globalAccess, runsOf_onePage hn inside, translateRuns, served, granted]

/-- The address of the descriptor page, which every space of a partition maps (R397). -/
def descAddress : Word := 0x007FFFFFFFFF0000

/-- An entry that a station holds for the page and the tables do not: it grants W as well. -/
def staleEntry : Cached := ⟨0, 0, 0x7FFFFFFFFF, false, descEntry 0 ||| 4⟩

/-- Core 0 after `n` free values, with `descAddress` in g1 and `x` in g2: HBM is sealed under earlier key pairs (R420), and the core's station
holds `staleEntry`. -/
def staleStation (n : Nat) (x : Word) : State := { State.reset with
  hart := { Hart.reset with g := (Hart.reset.g.set 1 descAddress).set 2 x }
  draws := n
  sealed := true
  stations := [staleEntry] }

/-- The word at the head of the descriptor page of the firmware partition, as a counter. -/
def descCounter : Nat := descPlace 0

theorem staleStation_translate (n : Nat) (x : Word) : ∃ e s1, (e = staleEntry.entry ∨ e = descEntry 0) ∧
    translate (staleStation n x) 0 0 0 descAddress.toNat = (some ⟨descCounter, e⟩, s1) ∧ s1.draws = n + 1 := by
  have held : (staleStation n x).stations = [staleEntry] := rfl
  have cached : cachedFor (staleStation n x) 0 0 descAddress.toNat = some staleEntry := by
    rw [cachedFor, held]
    decide
  have walked : (walkPath (staleStation n x) 0 0 descAddress.toNat).2 = some (descEntry 0, false) := rfl
  have spaces : (staleStation n x).spaces = [(0, ⟨0, rootFrame0⟩)] := rfl
  have space : (spaceEntry (staleStation n x) 0 0).isNone = false := by
    rw [spaceEntry, spaces]
    decide
  have stale : descEntry 0 ≠ staleEntry.entry := by decide
  obtain ⟨e, s1, he, served, drawn⟩ := translate_stale (w := (descEntry 0, false)) space cached walked (by
    rw [ne_eq, Option.some_inj, Prod.mk.injEq]
    exact fun same => stale same.1)
  refine ⟨e.1, s1, he.imp (fun same => by rw [same]) (fun same => by rw [same]), ?_, drawn⟩
  have place : pagePlace e.1 e.2 descAddress.toNat = descCounter := by
    rcases he with rfl | rfl <;> decide
  rw [served, place]

/-- Whichever serves, the counter is the same one. -/
theorem staleStation_reached (n : Nat) (x : Word) :
    ∃ s1, coreRef (staleStation n x) needR false descAddress = (.ok (.at descCounter true .rc), s1) ∧ s1.draws = n + 1 := by
  obtain ⟨e, s1, he, served, drawn⟩ := staleStation_translate n x
  have only : StationsOnly (staleStation n x) s1 := by
    have only := translate_stations (staleStation n x) 0 0 0 descAddress.toNat
    rwa [served] at only
  have granted : grants e needR = true := by rcases he with rfl | rfl <;> decide
  have access := globalAccess_onePage (n := 8) (by decide) (by decide) served granted
  have keys : keyOk s1 0 (pteKey e) descAddress.toNat = true := by rcases he with rfl | rfl <;> rfl
  have dark : s1.dark = [] := by rw [only]; rfl
  have tier : tierOk s1 descCounter 8 = true := by
    rw [tierOk, dark, if_neg (by decide)]
    rfl
  have part : (staleStation n x).part = 0 := rfl
  have slice : homeSlice (staleStation n x).cluster = 0 := by
    rw [State.cluster, show (staleStation n x).cur = 0 from rfl]
    decide
  have spid : (staleStation n x).hart.spid = 0 := rfl
  have form : refForm descAddress = true := by decide
  have kind : refKind descAddress = 0 := by decide
  have low : bits descAddress 0 3 = 0 := by decide
  have unrepl : pteRepl e = false := by rcases he with rfl | rfl <;> decide
  have rc : Seg.order ⟨descCounter, 8, true, e⟩ = .rc := by rcases he with rfl | rfl <;> decide
  have name : ctrName descCounter (pteKey e) = descCounter := by rcases he with rfl | rfl <;> decide
  have start : descCounter + descAddress.toNat % 65536 = descCounter := by decide
  simp only [start, keys, tier, Bool.and_self] at access
  refine ⟨s1, ?_, drawn⟩
  simp only [coreRef, form, kind, low, refReach, reachRef, part, slice, spid, access, unrepl, rc, name, Bool.not_true, Bool.false_eq_true, if_false,
    decide_false, Bool.and_false, ne_eq, not_true]

/-- The word that the counter shows: eight bytes of a sealed line of zeros, after `n` free values (R357, R420). -/
def sealedWord (n : Nat) : Word :=
  BitVec.ofNat 64 (leNat ((List.range 8).map fun i => Config.garble n 0 (descCounter + i) (Memory.readN [] ((descCounter + i) / 128 * 128) 128)))

/-- In an empty package that is sealed the counter shows free bytes. -/
theorem counter_of_sealed {s : State} (lines : s.lines = []) (closed : s.sealed = true) (mem : s.mem = []) :
    s.counter descCounter = sealedWord s.draws := by
  have place : ctrPlace descCounter = descCounter := by decide
  have kid : ctrKid descCounter = 0 := by decide
  have hidden (i : Nat) (hi : i ∈ List.range 8) : s.clear 0 (descCounter + i) = false := by
    have inside : descCounter + i < 2 ^ 50 := by
      have := List.mem_range.1 hi
      have : descCounter < 2 ^ 40 := by decide
      omega
    simp only [State.clear, State.lineKey, lines, List.find?_nil, Option.map_none, State.sealedAt, closed, Bool.true_and, decide_eq_true inside,
      Bool.not_true]
  rw [State.counter, sealedWord, State.readKeyed, lines, closed, place, kid, if_neg (by decide)]
  refine congrArg (fun l => BitVec.ofNat 64 (leNat l)) (List.map_congr_left fun i hi => ?_)
  rw [hidden i hi, if_neg Bool.false_ne_true, mem]

/-- What the counter shows before its reference is reached. -/
theorem staleStation_counter (n : Nat) (x : Word) : (staleStation n x).counter descCounter = sealedWord n := counter_of_sealed rfl rfl rfl

/-- What it shows once its reference is reached: the free bytes of one draw later. -/
theorem reached_counter {n : Nat} {x : Word} {s1 : State} (only : StationsOnly (staleStation n x) s1) (drawn : s1.draws = n + 1) :
    s1.counter descCounter = sealedWord (n + 1) := by
  rw [← drawn]
  exact counter_of_sealed (by rw [only]; rfl) (by rw [only]; rfl) (by rw [only]; rfl)

/-- CREAD in `staleStation`: by CounterAccessesComplete the free bytes of a sealed word are the same after one more draw. -/
theorem sealedWord_steady_of_counterAccessesComplete (h : Obligations.CounterAccessesComplete) (n : Nat) : sealedWord (n + 1) = sealedWord n := by
  obtain ⟨_, _, _, cread, _⟩ := h
  obtain ⟨s1, reached, drawn⟩ := staleStation_reached n 0
  have only := coreRef_stations reached
  have ready : Ready (.cread 1 2 3 none) (staleStation n 0) := .of_gate rfl
  have unheld : counterWaits s1 descCounter .rc = false := by
    rw [counterWaits, only.adds]
    rfl
  obtain ⟨t, exec, _, _, value, _⟩ := cread _ s1 1 2 3 none descCounter .rc ready reached unheld
  obtain ⟨t', exec', _, _, value', _⟩ := cread_completes ready reached unheld
  cases exec.symm.trans exec'
  rw [← reached_counter only drawn, ← value' (by decide), value (by decide), staleStation_counter]

/-- Words that reach the same thresholds are the same (R212). -/
theorem eq_of_reaches {v w : Word} (hv : reaches w v) (hw : reaches v w) : v = w := by
  unfold reaches at hv hw
  bv_omega

/-- CWAIT in `staleStation`: by CounterWaitsComplete they are the same too, since both words reach the same thresholds. -/
theorem sealedWord_steady_of_counterWaitsComplete (h : Obligations.CounterWaitsComplete) (n : Nat) : sealedWord (n + 1) = sealedWord n := by
  obtain ⟨cwait, _⟩ := h
  have same (x : Word) : reaches (sealedWord (n + 1)) x ↔ reaches (sealedWord n) x := by
    obtain ⟨s1, reached, drawn⟩ := staleStation_reached n x
    have only := coreRef_stations reached
    have ready : Ready (.cwait 1 2 3 none) (staleStation n x) := .of_gate rfl
    have unheld : counterWaits s1 descCounter .rc = false := by
      rw [counterWaits, only.adds]
      rfl
    have place : rollFull s1 descCounter = false := by
      rw [rollFull, only.roll, show (staleStation n x).roll = [] from rfl]
      decide
    have clean : s1.poisoned descCounter = false := by
      rw [only.poisoned]
      rfl
    have value := reached_counter only drawn
    obtain ⟨_, ends, registers⟩ := cwait _ s1 1 2 3 none descCounter .rc ready rfl reached unheld
    rw [staleStation_counter] at ends registers
    by_contra differ
    by_cases now : reaches (sealedWord (n + 1)) x
    · obtain ⟨t, exec, _, _, _, wait⟩ := registers rfl (fun before => differ ⟨fun _ => before, fun _ => now⟩) place
      obtain ⟨t', exec', hart, _⟩ := cwait_ends rfl reached unheld ready (verdict_reached clean (value ▸ now))
      cases exec.symm.trans exec'
      rw [hart] at wait
      cases wait
    · obtain ⟨t, exec, hart, _⟩ := ends rfl (by_contra fun before => differ ⟨fun h => absurd h now, fun h => absurd h before⟩)
      obtain ⟨t', exec', _, _, _, wait⟩ := cwait_registers rfl reached unheld ready (verdict_below clean (value ▸ now)) place
      cases exec.symm.trans exec'
      rw [hart] at wait
      cases wait
  have self (v : Word) : reaches v v := by
    rw [reaches, BitVec.sub_self]
    decide
  exact eq_of_reaches ((same _).1 (self _)) ((same _).2 (self _))

end Sys2Proof.Machine
end

section
/-! SUPPORT. Engine commands (R235, R236, R249) and XQUERY (R251), and the statement about them. -/

namespace Sys2Proof.Machine

open Sys2Proof.Claims

/-! ## The record of a command -/

/-- Each engine command is the shared issue with its own operation. -/
theorem exec_of_copyForm {i : Instr} {op : CopyOp} {a b c : Reg} {acq rel ord : Bool} {sc : Scope}
    (h : copyForm i = some (op, a, b, c, acq, rel, ord, sc)) (s : State) : exec i s = engineCommand i op a b c acq rel ord sc s := by
  unfold copyForm at h
  split at h <;> cases h <;> rfl

/-- The subscriptions are the two commands with a ring record. -/
theorem CopyOp.ring_iff (op : CopyOp) : op.ring = true ↔ op = .sub ∨ op = .pub := by cases op <;> decide

theorem recordExc_of_fitsLocal {x : Word} (h : recordFitsLocal x) : recordExc x 64 = none := by
  obtain ⟨inside, aligned⟩ := h
  have form : formOk .lo x.toNat 64 = true := decide_eq_true inside
  rw [recordExc, form, if_neg (by decide), if_neg (not_not.2 aligned)]

/-- The snapshot is the eight words of the record. -/
theorem snapshot_own (s : State) (o : Nat) : snapshot (s.load [ownSeg s o 64]) = blockWords s o := by
  rw [State.load, readSegs_own]
  refine List.map_congr_left fun k hk => ?_
  have inside : 8 * k + 8 ≤ 64 := by
    have := List.mem_range.1 hk
    omega
  rw [recWord, Memory.readN_part _ _ inside]
  rfl

theorem ownAdd_of_noAddTo {s : State} {o n : Nat} (h : noAddTo s (localPlace s.cur o) n) : ownAdd s [ownSeg s o n] = false := by
  rw [ownAdd, List.any_eq_false]
  intro a ha meets
  simp only [ownSeg, List.any_cons, List.any_nil, Bool.or_false, Bool.and_eq_true, decide_eq_true_eq, beq_iff_eq] at meets
  obtain ⟨own, before, after⟩ := meets
  have apart := h a ha own
  omega

/-! ## Issue -/

/-- Finding the serving engine changes only what the stations cache. -/
theorem servingOf_stations (s : State) (am : AddrMode) (a : Word) : StationsOnly s (servingOf s am a).2 := by
  unfold servingOf
  cases am with
  | gl =>
    have only := translate_stations s (homeSlice s.cluster) s.part s.hart.spid a.toNat
    dsimp only
    split <;> (rename_i served; rwa [served] at only)
  | lo => rfl
  | cb => rfl
  | ci => rfl

/-- The command that an engine instruction of the current core sends to the engine of slice `m` (R236). -/
def commandSent (s : State) (m : Nat) (op : CopyOp) (w : List Word) (ref : Word) (tag : Option Nat) (acq rel ord : Bool) (sc : Scope) : Copy where
  id := s.nextCopy
  issuer := .core s.cur
  slice := m
  op := op
  words := w
  ref := ref
  tag := tag
  acq := acq
  rel := rel
  ord := ord
  sc := sc
  space := s.hart.spid
  part := s.part
  stage := .fabric
  pos := 0
  idx := []
  off := 0
  fatal := none
  susp := none

/-- A command that is sent joins the others; its hart counts it in OCP and in the threshold of its tag. -/
theorem sendCommand_sends (s : State) (op : CopyOp) (w : List Word) (ref : Word) (tag : Option Nat) (acq rel ord : Bool) (sc : Scope) :
    ∃ m, (sendCommand s op w ref tag acq rel ord sc).copies = s.copies ++ [commandSent s m op w ref tag acq rel ord sc] ∧
      (sendCommand s op w ref tag acq rel ord sc).mem = s.mem ∧
      (sendCommand s op w ref tag acq rel ord sc).hart = { s.hart with
        ocp := s.hart.ocp.issue
        tagt := match tag with | some i => s.hart.tagt.setIfInBounds i (s.hart.tagt[i]?.getD 0 + 1) | none => s.hart.tagt } := by
  have only := servingOf_stations s (servingOperand op w).1 (servingOperand op w).2
  unfold sendCommand
  generalize servingOperand op w = operand at *
  dsimp only
  generalize servingOf s operand.1 operand.2 = served at *
  obtain ⟨m, s1⟩ := served
  dsimp only at only ⊢
  rw [only]
  exact ⟨m, rfl, rfl, rfl⟩

/-- The threshold of the tag that a tag word names counts the command. -/
theorem tagWord_counts (h : Hart) (x : Word) :
    (match tagWord x with | some i => h.tagt.setIfInBounds i (h.tagt[i]?.getD 0 + 1) | none => h.tagt) = taggedT h x := by
  have carries : bit1 x 6 = x.getLsbD 6 := rfl
  rw [tagWord, taggedT, carries, bits_low_six]
  cases x.getLsbD 6 <;> rfl

theorem tagWord_eq (x : Word) : tagWord x = if x.getLsbD 6 then some (x.toNat % 64) else none := by
  rw [tagWord, bits_low_six]
  rfl

/-- The record passes the checks of its command (R240, R249). -/
def recordPasses (s : State) (op : CopyOp) (w : List Word) : Bool := if op.ring then ringFits s w else recordFits op w s.hart.chip

theorem recordPasses_iff (s : State) (op : CopyOp) (w : List Word) :
    recordPasses s op w = true ↔ (if op = .sub ∨ op = .pub then ringFits s w else recordFits op w s.hart.chip) = true := by
  simp only [recordPasses, CopyOp.ring_iff]

section
variable {s : State} {i : Instr} {op : CopyOp} {a b c : Reg} {acq rel ord : Bool} {sc : Scope} (hready : Ready i s)
  (inside : recordFitsLocal (s.g a)) (reach : completionExc s (s.g b) = none) (clear : noAddTo s (localPlace s.cur (s.g a).toNat) 64)
include hready inside reach clear

/-- An engine command whose record can be read and whose completion reference is one: the record's checks, the limit of OCP, and the issue. -/
theorem engineCommand_checked : engineCommand i op a b c acq rel ord sc s = .next (
    if recordPasses s op (blockWords s (s.g a).toNat) = false then trapHere ⟨exRecord, s.g a⟩ s
    else if 64 ≤ s.hart.ocp.out then s
    else (sendCommand s op (blockWords s (s.g a).toNat) (s.g b) (tagWord (s.g c)) acq rel ord sc).retire 4) := by
  rw [engineCommand, issue_ready hready, ← snapshot_own]
  simp only [recordExc_of_fitsLocal inside, reach, show ([⟨localPlace s.cur (s.g a).toNat, 64, true, 0⟩] : List Seg) = [ownSeg s (s.g a).toNat 64] from rfl,
    ownAdd_of_noAddTo clear, recordPasses, Bool.not_eq_true', Bool.false_eq_true, if_false]
  rfl

end

/-- A trap leaves the commands of the engines. -/
theorem trapHere_copies {s : State} (unasked : s.hart.wait = none) (e : Exc) : (trapHere e s).copies = s.copies := by
  have parked : (trapHere e s).copies = (parkBatch (withdrawWait s)).copies := rfl
  rw [parked, withdrawWait_none unasked]
  unfold parkBatch endLease
  split
  · rfl
  · split
    · dsimp only
      split <;> rfl
    · rfl

theorem copyForms : CopyForms := by
  intro s i op a b c acq rel ord sc form hready inside reach clear
  have ran := (exec_of_copyForm form s).trans (engineCommand_checked hready inside reach clear)
  refine ⟨fun fits room => ?sent, fun bad unasked => ?refused, fun fits full => ?waits⟩
  case sent =>
    obtain ⟨m, copies, mem, hart⟩ := sendCommand_sends s op (blockWords s (s.g a).toNat) (s.g b) (tagWord (s.g c)) acq rel ord sc
    rw [(recordPasses_iff ..).2 fits, if_neg (by decide), if_neg (by omega)] at ran
    refine ⟨_, ran, fun p => by rw [State.retire_eq, State.withHart_mem, mem], ?_, _, copies, rfl, rfl, rfl, rfl, rfl, rfl, rfl, rfl, rfl, rfl,
      rfl, rfl, rfl, tagWord_eq _⟩
    rw [State.retire_eq, State.withHart_hart, hart, tagWord_counts]
    rfl
  case refused =>
    rw [Bool.eq_false_iff.2 (mt (recordPasses_iff ..).1 bad), if_pos rfl] at ran
    exact ⟨_, ran, trapHere_taken unasked _, trapHere_copies unasked _⟩
  case waits =>
    rwa [(recordPasses_iff ..).2 fits, if_neg (by decide), if_pos full] at ran

/-! ## Queries -/

/-- A number below every element and the start, and one of them, is the least. -/
theorem le_foldl_min_iff (l : List (Nat × Nat)) (o : Nat) : ∀ m, o ≤ l.foldl (fun m x => Nat.min m x.1) m ↔ o ≤ m ∧ ∀ y ∈ l, o ≤ y.1 := by
  induction l with
  | nil => simp
  | cons x rest ih =>
    intro m
    rw [List.foldl_cons, ih, List.forall_mem_cons, ← and_assoc]
    exact and_congr_left fun _ => Nat.le_min

/-- The element up to which an XPUT or XGET has written: the least of its position and the runs under way (R251). -/
theorem Copy.reached_least {x : Copy} {o : Nat} (op : x.op = .put ∨ x.op = .get) (pos : o ≤ x.pos) (runs : ∀ y ∈ x.idx, o ≤ y.1)
    (one : o = x.pos ∨ ∃ y ∈ x.idx, o = y.1) : x.reached = o := by
  have fold : x.reached = x.idx.foldl (fun m x => Nat.min m x.1) x.pos := by rcases op with h | h <;> rw [Copy.reached, h]
  obtain ⟨leastPos, leastRun⟩ := (le_foldl_min_iff x.idx x.reached x.pos).1 (by rw [fold])
  refine Nat.le_antisymm ?_ (by rw [fold]; exact (le_foldl_min_iff ..).2 ⟨pos, runs⟩)
  rcases one with rfl | ⟨y, hy, rfl⟩
  · exact leastPos
  · exact leastRun y hy

/-- The commands that this chip alone performs have written what lies behind their position. -/
theorem Copy.offset_plain {x : Copy} (op : x.op = .copy ∨ x.op = .gath ∨ x.op = .scat ∨ x.op = .fill) : x.offset = x.pos * recE x.words := by
  rcases op with h | h | h | h <;> rw [Copy.offset, Copy.reached, h] <;> rfl

theorem Copy.offset_runs {x : Copy} (op : x.op = .put ∨ x.op = .get) : x.offset = x.reached * recE x.words := by
  rcases op with h | h <;> rw [Copy.offset, h] <;> rfl

/-- A command that moves shows its offset. -/
theorem queryOf_moving {s : State} {x : Copy} (going : x.susp = none) (free : peerHolds s x = false) :
    (queryOf s x).1 = BitVec.ofNat 64 (2 ^ 62 + x.offset % 2 ^ 48) := by
  have held : peerHeld s x.id = false := free
  rw [queryOf, going, held, if_neg (by decide), Copy.query, going]
  simp only [queryWord, Nat.one_mul, Nat.zero_mul, Nat.add_zero]

/-- A command that is suspended here shows its cause and the offset it stopped at. -/
theorem queryOf_suspended (s : State) {x : Copy} {y : Suspension} (stopped : x.susp = some y) :
    (queryOf s x).1 = BitVec.ofNat 64 (2 * 2 ^ 62 + y.cause * 2 ^ 48 + x.off % 2 ^ 48) := by
  rw [queryOf, stopped, if_neg (by simp), Copy.query, stopped]
  rfl

/-- A command that a peer holds shows itself suspended, with one of the two causes of a page fault. -/
theorem queryOf_held {s : State} {x : Copy} (going : x.susp = none) (holds : peerHolds s x = true) :
    ∃ cause, (cause = 1 ∨ cause = 2) ∧ (queryOf s x).1.toNat / 2 ^ 48 = 2 * 2 ^ 14 + cause := by
  have held : peerHeld s x.id = true := holds
  have shown (cause : Nat) (h : cause < 4) : (queryWord 2 cause x.offset).toNat / 2 ^ 48 = 2 * 2 ^ 14 + cause := by
    rw [queryWord, BitVec.toNat_ofNat]
    omega
  rw [queryOf, going, held, if_pos (by decide)]
  refine ⟨if s.flip.1 then 2 else 1, ?_, shown _ (by split <;> decide)⟩
  split
  · exact .inr rfl
  · exact .inl rfl

theorem queryOf_stations (s : State) (x : Copy) : StationsOnly s (queryOf s x).2 := by
  unfold queryOf
  split <;> rfl

/-- What XQUERY finds of tag `k`: the word of the command that carries it, or the word kept at the end of the last. -/
def queryFound (s : State) (k : Nat) : Word × State :=
  match s.copies.find? fun x => x.issuer == .core s.cur && x.tag == some k with
  | some x => queryOf s x
  | none => (lookupD s.hart.queries k 0, s)

theorem queryFound_stations (s : State) (k : Nat) : StationsOnly s (queryFound s k).2 := by
  unfold queryFound
  split
  · exact queryOf_stations s _
  · rfl

theorem exec_xquery {s : State} {a b c : Reg} (hready : Ready (.xquery a b c) s) : exec (.xquery a b c) s = .next (
    (((queryFound s ((s.g a).toNat % 64)).2.setG b
      (s.hart.tagt[(s.g a).toNat % 64]?.getD 0 - s.hart.tagc[(s.g a).toNat % 64]?.getD 0)).setG c (queryFound s ((s.g a).toNat % 64)).1).retire 4) := by
  refine (rfl : _ = execXquery a b c s).trans ?_
  rw [execXquery, issue_ready hready, ← bits_low_six]
  rfl

/-- Two registers written one after the other, in a state that differs in its stations only. -/
theorem setG_setG_retire {s s1 : State} (only : StationsOnly s s1) (b c : Reg) (x y : Word) :
    let t := ((s1.setG b x).setG c y).retire 4
    SameMemory s t ∧ t.hart.pc = s.hart.pc + 4 ∧ t.hart.tsw = s.hart.tsw.completed ∧ t.hart.v = s.hart.v ∧ (∀ r, r ≠ b → r ≠ c → t.g r = s.g r) ∧
      (b ≠ 0 → b ≠ c → t.g b = x) ∧ (c ≠ 0 → t.g c = y) := by
  intro t
  have kept (r : Reg) : t.g r = ((s1.setG b x).setG c y).g r := rfl
  have hart : t.hart = ((s1.hart.setG b x).setG c y).goesOn (s1.hart.pc + 4) := by
    simp only [t, State.retire_eq, State.setG_eq, State.withHart_hart, Hart.setG_pc]
    rfl
  refine ⟨fun p => by rw [← only.mem]; rfl, ?_, ?_, ?_, fun r hb hc => ?_, fun hb differ => ?_, fun hc => ?_⟩
  · rw [hart, Hart.goesOn_pc, only.hart]
  · rw [hart, Hart.goesOn_tsw, Hart.setG_tsw, Hart.setG_tsw, only.hart]
  · rw [hart, Hart.goesOn_v, Hart.setG_v, Hart.setG_v, only.hart]
  · rw [kept, State.g_setG_other _ _ hc, State.g_setG_other _ _ hb, only.g]
  · rw [kept, State.g_setG_other _ _ differ, State.g_setG_same, if_neg hb]
  · rw [kept, State.g_setG_same, if_neg hc]

theorem queryCompletes : QueryCompletes := by
  intro s a b c hready
  obtain ⟨mem, pc, tsw, v, others, count, found⟩ := setG_setG_retire (queryFound_stations s ((s.g a).toNat % 64)) b c
    (s.hart.tagt[(s.g a).toNat % 64]?.getD 0 - s.hart.tagc[(s.g a).toNat % 64]?.getD 0) (queryFound s ((s.g a).toNat % 64)).1
  have ofCommand {x : Copy} (h : (s.copies.find? fun x => x.issuer == .core s.cur && x.tag == some ((s.g a).toNat % 64)) = some x) :
      (queryFound s ((s.g a).toNat % 64)).1 = (queryOf s x).1 := by
    rw [queryFound, h]
  refine ⟨_, exec_xquery hready, mem, pc, tsw, v, others, count, fun hc ended => ?_, fun x hc own going free op => ?_, fun x hc own going holds => ?_,
    fun x o hc own going free op pos runs one => ?_, fun x y hc own stopped => ?_⟩
  · rw [found hc, queryFound, ended]
  · rw [found hc, ofCommand own, queryOf_moving going free, Copy.offset_plain op]
  · rw [found hc, ofCommand own]
    exact queryOf_held going holds
  · rw [found hc, ofCommand own, queryOf_moving going free, Copy.offset_runs op, Copy.reached_least op pos runs one]
  · rw [found hc, ofCommand own, queryOf_suspended s stopped]

/-- Settles O44: the checks of the record decide between the issue, RECORD and the wait; XQUERY writes the two registers from one query word. -/
theorem copyCommandsComplete : Obligations.CopyCommandsComplete := ⟨copyForms, queryCompletes⟩

end Sys2Proof.Machine
end

section
/-! SUPPORT. The commands of the engines by number, fault records (R361), the usage block (R399, R400), and how a command retires (R245, R248). -/

namespace Sys2Proof.Machine

open Sys2Proof.Claims

/-! ## Commands by number -/

theorem findCopy_id {s : State} {id : Nat} {c : Copy} (h : findCopy s id = some c) : c.id = id := by
  simpa using List.find?_some h

/-- A command put in the place of the one of its number is found there. -/
theorem findCopy_setCopy {s : State} {id : Nat} {c d : Copy} (h : findCopy s id = some c) (same : d.id = id) :
    findCopy (setCopy s d) id = some d := by
  have number : (fun x : Copy => x.id == id) ∘ (fun x => if x.id = d.id then d else x) = fun x => x.id == id := by
    funext x
    by_cases hx : x.id = id
    · simp [same, hx]
    · simp [same, hx]
  have here : (s.copies.find? fun x => x.id == id) = some c := h
  rw [findCopy, setCopy, List.find?_map, number, here, Option.map_some, if_pos ((findCopy_id h).trans same.symm)]

/-- A number that every command of the list has left names none. -/
theorem findCopy_of_left {s : State} {id : Nat} {l : List Copy} (h : s.copies = l.filter fun x => x.id != id) : findCopy s id = none := by
  rw [findCopy, h, List.find?_eq_none]
  intro x hx
  simpa using (List.mem_filter.1 hx).2

/-! ## Fault records (R361) -/

/-- The record that reports a suspension in the ring of the address's owner. -/
def faultRecord (s : State) (part : BitVec 16) (unit serving : Nat) (x : Suspension) (off who : Nat) : FaultRecord where
  slice := ownerOf s part x.space x.va.toNat
  seq := lookupD s.faultSeq (ownerOf s part x.space x.va.toNat) 0
  words := [BitVec.ofNat 64 (unit + 16 * serving + 2 ^ 32 * lookupD s.faultSeq (ownerOf s part x.space x.va.toNat) 0), x.va, x.space.setWidth 64,
    BitVec.ofNat 64 (x.kind + 256 * x.cause), BitVec.ofNat 64 off, BitVec.ofNat 64 who]

/-- A record at the end of its ring. -/
def recorded (s : State) (r : FaultRecord) : State := { s with faults := s.faults ++ [r], faultSeq := bump s.faultSeq r.slice }

/-- With a place left in the ring the record is written. -/
theorem postFault_writes {s : State} {part : BitVec 16} {x : Suspension}
    (room : (s.faults.filter fun r => r.slice == ownerOf s part x.space x.va.toNat).length < 1024) (unit serving off who : Nat) :
    postFault s part unit serving x off who =
      let r := faultRecord s part unit serving x off who
      (some (r.slice, r.seq), recorded s r) := by
  rw [postFault, if_neg (Nat.not_le.2 room)]
  rfl

/-! ## Harts that keep all but their interrupts -/

/-- Harts differ in their interrupts at most. -/
def IrqOnly (h k : Hart) : Prop := k = { h with irq := k.irq }

theorem IrqOnly.trans {h k l : Hart} (p : IrqOnly h k) (q : IrqOnly k l) : IrqOnly h l := by
  unfold IrqOnly at *
  rw [q, p]

theorem IrqOnly.tagc {h k : Hart} (p : IrqOnly h k) : k.tagc = h.tagc := by rw [p]
theorem IrqOnly.ocp {h k : Hart} (p : IrqOnly h k) : k.ocp = h.ocp := by rw [p]

/-- An interrupt that is raised changes harts only, and of each its interrupts. -/
theorem raise_harts (s : State) (n b : Nat) : HartsOnly s (raise s n b) ∧ ∀ m, IrqOnly (hartAt s m) (hartAt (raise s n b) m) := by
  constructor
  · unfold raise State.modifyHart
    split <;> rfl
  · intro m
    unfold hartAt
    rw [raise, State.hartOf_modifyHart]
    split
    next same =>
      rw [same]
      rfl
    next => rfl

/-! ## Usage counters (R399, R400) -/

/-- A place outside the usage counters of a partition. -/
def offUsage (p : BitVec 16) (a : Nat) : Prop := a < usagePlace p 0 ∨ usagePlace p 7 ≤ a

/-- What a count in the usage block of a partition may change: its words and their lines, the interrupts of harts, and waiters, whose wakes it adds. -/
structure UsageCounted (p : BitVec 16) (s t : State) : Prop where
  state : t = { s with hart := t.hart, others := t.others, mem := t.mem, lines := t.lines, roll := t.roll, wakes := t.wakes }
  harts : ∀ n, IrqOnly (hartAt s n) (hartAt t n)
  mem : ∀ a, offUsage p a → t.mem.read a = s.mem.read a
  lines : ∀ l, offUsage p (128 * l) → offUsage p (128 * l + 127) → t.lineKey l = s.lineKey l
  wakes : ∀ w ∈ s.wakes, w ∈ t.wakes

theorem UsageCounted.refl (p : BitVec 16) (s : State) : UsageCounted p s s :=
  ⟨rfl, fun _ => rfl, fun _ _ => rfl, fun _ _ _ => rfl, fun _ h => h⟩

theorem UsageCounted.trans {p : BitVec 16} {s t u : State} (h : UsageCounted p s t) (k : UsageCounted p t u) : UsageCounted p s u where
  state := by rw [k.state, h.state]
  harts n := (h.harts n).trans (k.harts n)
  mem a ha := (k.mem a ha).trans (h.mem a ha)
  lines l lo hi := (k.lines l lo hi).trans (h.lines l lo hi)
  wakes w hw := k.wakes w (h.wakes w hw)

/-- Changes made one after another. -/
theorem UsageCounted.foldl {p : BitVec 16} {α : Type} {f : State → α → State} (step : ∀ s x, UsageCounted p s (f s x)) (l : List α) :
    ∀ s, UsageCounted p s (l.foldl f s) := by
  induction l with
  | nil => exact UsageCounted.refl p
  | cons x rest ih => exact fun s => (step s x).trans (ih _)

theorem usageCounted_raise (p : BitVec 16) (s : State) (n b : Nat) : UsageCounted p s (raise s n b) := by
  obtain ⟨only, harts⟩ := raise_harts s n b
  generalize raise s n b = t at *
  have same : t.mem = s.mem ∧ t.lines = s.lines ∧ t.roll = s.roll ∧ t.wakes = s.wakes := by
    rw [only]
    exact ⟨rfl, rfl, rfl, rfl⟩
  obtain ⟨mem, lines, roll, wakes⟩ := same
  exact ⟨by rw [mem, lines, roll, wakes]; exact only, harts, fun a _ => by rw [mem], fun l _ _ => by rw [State.lineKey, lines]; rfl, fun w h => by rwa [wakes]⟩

/-- The eight bytes of a usage counter. -/
theorem usage_word_inside {p : BitVec 16} {k a : Nat} (hk : k < 7) (h : offUsage p a) : a < usagePlace p k ∨ usagePlace p k + 8 ≤ a := by
  unfold offUsage usagePlace at *
  omega

theorem usageCounted_writeWord (p : BitVec 16) (s : State) {k : Nat} (hk : k < 7) (w : Word) :
    UsageCounted p s (s.writeWord (usagePlace p k) w) where
  state := rfl
  harts _ := rfl
  mem a ha := by
    rw [State.writeWord, State.write_mem, Memory.read_write_other]
    rw [wordBytes, toBytes_length]
    exact usage_word_inside hk ha
  lines _ _ _ := rfl
  wakes w h := List.mem_append_left _ h

/-- Lines that a tagged write does not reach keep their keys. -/
theorem lineKey_tagLines_other {s : State} {key a n l : Nat} (h : l < a / 128 ∨ (a + n - 1) / 128 < l) :
    (tagLines s key a n).lineKey l = s.lineKey l := by
  have fold (ks : List Nat) (out : l ∉ ks) : ∀ m : List (Nat × LineKey),
      (ks.foldl (fun m k => insertA m k (retag s key a n k)) m).find? (fun x => x.1 == l) = m.find? fun x => x.1 == l := by
    induction ks with
    | nil => exact fun _ => rfl
    | cons k rest ih =>
      obtain ⟨first, rest'⟩ := not_or.1 (mt List.mem_cons.2 out)
      exact fun m => (ih rest' _).trans (find_insertA_other m _ (Ne.symm first))
  unfold tagLines
  split
  · rfl
  · refine congrArg (Option.map _) (fold _ ?_ s.lines)
    intro hl
    obtain ⟨k, hk, rfl⟩ := List.mem_map.1 hl
    have := List.mem_range.1 hk
    omega

theorem usageCounted_counterAdd (p : BitVec 16) (s : State) {k : Nat} (hk : k < 7) (x : Word) :
    UsageCounted p s (counterAdd s (usagePlace p k) x) := by
  have small : usagePlace p k < 2 ^ 64 := by
    have := p.isLt
    unfold usagePlace descPlace
    omega
  have place : ctrPlace (usagePlace p k) = usagePlace p k := Nat.mod_eq_of_lt small
  obtain ⟨lines, tagged⟩ := tagLines_eq s (ctrKid (usagePlace p k)) (ctrPlace (usagePlace p k)) 8
  refine ⟨?_, fun n => by rw [counterAdd, setCounter_hartAt]; rfl, fun a ha => ?_, fun l lo hi => ?_, fun w hw => ?_⟩
  · unfold counterAdd setCounter
    rw [tagged]
    rfl
  · exact counterAdd_other s _ _ (by rw [place]; exact usage_word_inside hk ha)
  · refine lineKey_tagLines_other (s := s) (key := ctrKid (usagePlace p k)) ?_
    rw [place]
    unfold offUsage usagePlace descPlace at *
    omega
  · rw [counterAdd, setCounter_wakes]
    exact List.mem_append_left _ hw

theorem usageCounted_checkQuotas (s : State) (p : BitVec 16) : UsageCounted p s (checkQuotas s p) := by
  unfold checkQuotas
  split
  · exact .refl p s
  · refine UsageCounted.foldl (fun s q => ?_) _ s
    dsimp only
    have word (w : Word) := usageCounted_writeWord p s (k := 5) (by decide) w
    split
    · split
      · exact .refl p s
      · exact (word _).trans (usageCounted_raise ..)
    · split
      · exact word _
      · exact .refl p s

theorem usageCounted_addUsage (s : State) (p : BitVec 16) {k : Nat} (hk : k < 7) (x : Nat) : UsageCounted p s (addUsage s p k x) := by
  unfold addUsage
  split
  · exact .refl p s
  · exact (usageCounted_counterAdd p s hk _).trans (usageCounted_checkQuotas ..)

theorem UsageCounted.poison {p : BitVec 16} {s t : State} (h : UsageCounted p s t) : t.poison = s.poison := by rw [h.state]
theorem UsageCounted.copies {p : BitVec 16} {s t : State} (h : UsageCounted p s t) : t.copies = s.copies := by rw [h.state]
theorem UsageCounted.posts {p : BitVec 16} {s t : State} (h : UsageCounted p s t) : t.posts = s.posts := by rw [h.state]

/-! ## A command retires -/

/-- The commands, waiters and wakes without those of one command. -/
def forgetCopy (s : State) (id : Nat) : State := { s with
  copies := s.copies.filter fun x => x.id != id
  roll := s.roll.filter fun e => e.waiter != .copy id
  wakes := s.wakes.filter fun e => e.waiter != .copy id }

/-- The hart of the issuer once its command has ended: OCP, the tag and the query word kept (R245, R251). -/
def copyRetired (tag : Option Nat) (q : Word) (h : Hart) : Hart := { h with
  ocp := h.ocp.retire
  tagc := match tag with | some i => h.tagc.setIfInBounds i (h.tagc[i]?.getD 0 + 1) | none => h.tagc
  queries := match tag with | some i => insertA h.queries i q | none => h.queries }

/-- A core's command retires: it is forgotten, its bytes are counted, its hart goes on. -/
theorem retireCopy_core {c : Copy} {n : Nat} (issuer : c.issuer = .core n) (s : State) (q : Word) :
    retireCopy s c q = (addUsage (forgetCopy s c.id) c.part 4 (nominal c.op c.words)).modifyHart n (copyRetired c.tag q) := by
  unfold retireCopy onIssuer
  dsimp only
  rw [issuer]
  rfl

section
variable {c : Copy} {n : Nat} (issuer : c.issuer = .core n) (s : State) (q : Word)
include issuer

/-- The bytes are counted between the two. -/
theorem retireCopy_counted : UsageCounted c.part (forgetCopy s c.id) (addUsage (forgetCopy s c.id) c.part 4 (nominal c.op c.words)) ∧
    HartsOnly (addUsage (forgetCopy s c.id) c.part 4 (nominal c.op c.words)) (retireCopy s c q) := by
  refine ⟨usageCounted_addUsage _ _ (by decide) _, ?_⟩
  rw [retireCopy_core issuer]
  unfold State.modifyHart
  split <;> rfl

theorem findCopy_retireCopy : findCopy (retireCopy s c q) c.id = none := by
  obtain ⟨counted, harts⟩ := retireCopy_counted issuer s q
  refine findCopy_of_left (l := s.copies) ?_
  rw [harts]
  exact counted.copies

theorem retireCopy_poison : (retireCopy s c q).poison = s.poison := by
  obtain ⟨counted, harts⟩ := retireCopy_counted issuer s q
  rw [harts]
  exact counted.poison

/-- A wake of another waiter stays on its way. -/
theorem retireCopy_wakes {w : Wake} (hw : w ∈ s.wakes) (other : w.waiter ≠ .copy c.id) : w ∈ (retireCopy s c q).wakes := by
  obtain ⟨counted, harts⟩ := retireCopy_counted issuer s q
  rw [harts]
  exact counted.wakes w (List.mem_filter.2 ⟨hw, by simpa using other⟩)

/-- The issuer's hart has counted the end, and may have been told of a quota. -/
theorem retireCopy_hart : ∃ h, IrqOnly (hartAt s n) h ∧ hartAt (retireCopy s c q) n = copyRetired c.tag q h := by
  rw [retireCopy_core issuer, hartAt_modifyHart]
  exact ⟨_, (retireCopy_counted issuer s q).1.harts n, rfl⟩

theorem retireCopy_ocp : (hartAt (retireCopy s c q) n).ocp.ret = (hartAt s n).ocp.ret + 1 := by
  obtain ⟨h, irq, hart⟩ := retireCopy_hart issuer s q
  rw [hart, ← irq.ocp]
  rfl

/-- The tag keeps the query word of the command's end. -/
theorem retireCopy_query {k : Nat} (tag : c.tag = some k) : lookupD (hartAt (retireCopy s c q) n).queries k 0 = q := by
  obtain ⟨h, -, hart⟩ := retireCopy_hart issuer s q
  rw [hart, tag]
  exact (lookupD_insertA ..).trans (if_pos rfl)

theorem endNode_core (ok : Bool) : endNode s c ok = s := by rw [endNode, issuer]

end

/-! ## A reference of an event unit or of local memory -/

/-- A KIND 01 or KIND 10 reference names its place without a translation. -/
theorem partyRef_local {r : Word} (kind : refKind r = 1 ∨ refKind r = 2) (s : State) (m : Nat) (p : BitVec 16) (sp : BitVec 20) (need : Need) :
    partyRef s m p sp need r = (.at (refPlace r), s) := by
  rcases kind with h | h <;> (rw [partyRef, h]; rfl)

theorem refPlace_lt (r : Word) : refPlace r < 2 ^ 64 := by
  have cluster : refCluster r < 2 ^ 8 := Nat.mod_lt _ (by decide)
  have event : bits r 0 12 < 2 ^ 12 := Nat.mod_lt _ (by decide)
  have core : bits r 50 4 < 2 ^ 4 := Nat.mod_lt _ (by decide)
  have word : bits r 3 16 < 2 ^ 16 := Nat.mod_lt _ (by decide)
  unfold refPlace eventPlace localPlace
  split <;> omega

theorem ctrPlace_refPlace (r : Word) : ctrPlace (refPlace r) = refPlace r := Nat.mod_eq_of_lt (refPlace_lt r)

/-- A command whose fatal end is under way. -/
def Copy.failed (c : Copy) (cause : Nat) : Copy := { c with fatal := some cause, stage := .moved }

section
variable {c : Copy} {n : Nat} (issuer : c.issuer = .core n) (named : c.ref ≠ 0) (kind : refKind c.ref = 1 ∨ refKind c.ref = 2) (s : State) (cause : Nat)
include issuer named kind

/-- At a completion counter that is always reached a fatal end poisons it, and the command retires with its cause (R248). -/
theorem endFatal_local : endFatal s c cause = retireCopy (counterPoison s (refPlace c.ref)) (c.failed cause) (queryWord 3 cause c.off) := by
  unfold endFatal
  dsimp only
  rw [if_neg named, partyRef_local kind]
  exact endNode_core (c := c.failed cause) issuer ..

/-- What it leaves: the command is forgotten, its counter poisoned, the waiters of the counter woken, the cause kept. -/
theorem endFatal_leaves : findCopy (endFatal s c cause) c.id = none ∧ refPlace c.ref ∈ (endFatal s c cause).poison ∧
    (∀ e ∈ s.roll, ctrPlace e.key = refPlace c.ref → e.waiter ≠ .copy c.id → ⟨e.waiter, 1⟩ ∈ (endFatal s c cause).wakes) ∧
    (hartAt (endFatal s c cause) n).ocp.ret = (hartAt s n).ocp.ret + 1 ∧
    ∀ k, c.tag = some k → lookupD (hartAt (endFatal s c cause) n).queries k 0 = queryWord 3 cause c.off := by
  have core : (c.failed cause).issuer = .core n := issuer
  have poisoned := counterPoison_poisoned s (refPlace c.ref)
  rw [State.poisoned, ctrPlace_refPlace, List.contains_iff_mem] at poisoned
  rw [endFatal_local issuer named kind]
  refine ⟨findCopy_retireCopy core _ _, by rwa [retireCopy_poison core], fun e he same other => retireCopy_wakes core _ _ ?_ other,
    retireCopy_ocp core _ _, fun k tag => retireCopy_query core _ _ tag⟩
  exact counterPoison_wakes_same he (by rw [same, ctrPlace_refPlace])

end

end Sys2Proof.Machine
end

section
/-! SUPPORT. Suspended units (R248, R251, R266): walks and commands that are reported, resumed or ended. -/

namespace Sys2Proof.Machine

open Sys2Proof.Claims

/-! ## A walk that is suspended -/

/-- The walk of the current core, changed by its number. -/
theorem onWalk_own {s : State} {w : Walk} (own : s.hart.walk = some w) (f : Walk → Walk) : (onWalk s w.id f).hart.walk = some (f w) := by
  unfold onWalk
  dsimp only
  rw [own, Option.map_some, if_pos rfl]

theorem walkSuspended_reported {s : State} {w : Walk} {x : Suspension} (own : s.hart.walk = some w) (stopped : w.susp = some x)
    (unwritten : x.record = none) : exec (.walkSuspend s.cur) s = .next (postWalk s w) := by
  have hart : s.hartOf s.cur = s.hart := if_pos rfl
  have waits : (s.hart.walk.filter fun w => unposted w.susp) = some w := by
    rw [own, Option.filter_some, stopped, unposted, Suspension.posted, unwritten]
    rfl
  refine (rfl : _ = execWalkSuspend s.cur s).trans ?_
  rw [execWalkSuspend, hart, waits]

/-- The object at hand of a walk: the one on top of its stack, the root before the first. -/
def Walk.atHand (w : Walk) : Word := match w.stack with | f :: _ => f.addr | [] => w.root

theorem postWalk_writes {s : State} {w : Walk} {x : Suspension} (stopped : w.susp = some x) (unwritten : x.record = none) (plain : w.fn ≠ 3)
    (room : (s.faults.filter fun r => r.slice == ownerOf s w.part x.space x.va.toNat).length < 1024) :
    let r := faultRecord s w.part 2 (homeSlice (clusterOf w.core)) x w.atHand.toNat w.core
    postWalk s w = onWalk (recorded s r) w.id fun w => { w with susp := some { x with record := some (r.slice, r.seq) } } := by
  unfold postWalk
  rw [stopped]
  dsimp only
  rw [Suspension.posted, unwritten, if_neg (by decide), if_neg plain, if_neg plain, postFault_writes room]
  rfl

/-! ## A command that is resumed or ended -/

theorem unitResume_copy (s : State) (id : Nat) : exec (.unitResume 0 ⟨id, none⟩) s = .next (resumeCopy s id) := rfl

theorem resumeCopy_goesOn {s : State} {id : Nat} {c : Copy} {x : Suspension} (found : findCopy s id = some c) (stopped : c.susp = some x)
    (written : x.record ≠ none) : resumeCopy s id = setCopy (takeRecord s x) { c with susp := none } := by
  rw [resumeCopy, found]
  dsimp only
  rw [stopped]
  exact if_pos (Option.isSome_iff_ne_none.2 written)

/-- The service core takes one record out of its ring and changes nothing else. -/
theorem takeRecord_eq (s : State) (x : Suspension) : ∃ l, takeRecord s x = { s with faults := l } := by
  unfold takeRecord
  split
  · exact ⟨_, rfl⟩
  · exact ⟨s.faults, rfl⟩

theorem mem_takeRecord {s : State} {x : Suspension} {m n : Nat} (written : x.record = some (m, n)) (r : FaultRecord) :
    r ∈ (takeRecord s x).faults ↔ r ∈ s.faults ∧ ¬ (r.slice = m ∧ r.seq = n) := by
  rw [takeRecord, written]
  simp only [List.mem_filter, Bool.not_eq_true', Bool.and_eq_false_iff, beq_eq_false_iff_ne, not_and_or]

/-- No held message has a number below 2⁴⁴. -/
theorem unitFatal_copy {s : State} {id : Nat} (small : id < 2 ^ 44) : exec (.unitFatal 0 id) s = .next (fatalCopy s id) := by
  have unheld : heldById s id = none := if_pos small
  refine (rfl : _ = execUnitFatal 0 id s).trans ?_
  rw [execUnitFatal, unheld]

theorem fatalCopy_ends {s : State} {id : Nat} {c : Copy} {x : Suspension} (found : findCopy s id = some c) (stopped : c.susp = some x)
    (written : x.record ≠ none) (stage : c.stage = .begun) :
    fatalCopy s id = endFatal (setCopy (takeRecord s x) { c with susp := none }) { c with susp := none } x.cause := by
  have posted : x.posted = true := Option.isSome_iff_ne_none.2 written
  rw [fatalCopy, found]
  dsimp only
  rw [stopped]
  dsimp only
  rw [posted, stage, if_neg (by decide), if_neg (by decide)]

end Sys2Proof.Machine
end

section
/-! SUPPORT. What the writes of a walker leave of the harts, the counters and the other receives, and how a receive ends (R266, R268, R272, R361). -/

namespace Sys2Proof.Machine

open Sys2Proof.Claims

/-! ## What writes of a walker leave of the harts -/

/-- The harts are as before. -/
structure HartsKept (s t : State) : Prop where
  cur : t.cur = s.cur
  hart : t.hart = s.hart
  others : t.others = s.others

theorem HartsKept.refl (s : State) : HartsKept s s := ⟨rfl, rfl, rfl⟩

theorem HartsKept.trans {s t u : State} (h : HartsKept s t) (k : HartsKept t u) : HartsKept s u :=
  ⟨k.cur.trans h.cur, k.hart.trans h.hart, k.others.trans h.others⟩

theorem HartsKept.hartAt {s t : State} (h : HartsKept s t) (n : Nat) : hartAt t n = hartAt s n := by
  unfold Claims.hartAt State.hartOf
  rw [h.cur, h.hart, h.others]

theorem StationsOnly.hartsKept {s t : State} (h : StationsOnly s t) : HartsKept s t := by
  rw [h]
  exact ⟨rfl, rfl, rfl⟩

theorem writeKeyed_hartsKept (s : State) (key a : Nat) (bs : List Byte) : HartsKept s (s.writeKeyed key a bs) := by
  obtain ⟨l, tagged⟩ := tagLines_eq s key a bs.length
  rw [State.writeKeyed, tagged]
  exact ⟨rfl, rfl, rfl⟩

/-- A write by a replica keeps the harts. -/
theorem writeApplied_hartsKept (s : State) (key a : Nat) (bs : List Byte) (v : Vector Nat 3) :
    HartsKept s { s.writeKeyed key a bs with applied := v } := by
  obtain ⟨cur, hart, others⟩ := writeKeyed_hartsKept s key a bs
  exact ⟨cur, hart, others⟩

theorem applyUpTo_hartsKept (k : Fin 3) (n : Nat) (l : List ReplWrite) : ∀ s, HartsKept s (applyUpTo k n l s) := by
  induction l with
  | nil => exact HartsKept.refl
  | cons w rest ih =>
    intro s
    by_cases h : w.num < n
    · rw [applyUpTo_cons h]
      exact (writeApplied_hartsKept ..).trans (ih _)
    · rw [applyUpTo_stops h]
      exact .refl s

theorem dropApplied_hartsKept (s : State) : HartsKept s (dropApplied s) := by
  unfold dropApplied
  dsimp only
  split
  · exact .refl s
  · exact ⟨rfl, rfl, rfl⟩

theorem settleBy_hartsKept (f : Nat → Bool) (sec : Nat) (l : List Seg) (s : State) : HartsKept s (settleBy f sec l s) := by
  unfold settleBy
  dsimp only
  split
  · exact .refl s
  · exact (applyUpTo_hartsKept ..).trans (dropApplied_hartsKept _)

theorem settleAll_hartsKept (s : State) : HartsKept s (settleAll s) := by
  have fold (l : List (Fin 3)) : ∀ t : State, HartsKept t (l.foldl (fun u k => applyUpTo k u.replNext (u.repl.drop u.applied[k]) u) t) := by
    induction l with
    | nil => exact HartsKept.refl
    | cons k rest ih => exact fun t => (applyUpTo_hartsKept ..).trans (ih _)
  rw [settleAll]
  exact (fold _ s).trans (dropApplied_hartsKept _)

theorem writeSeg_hartsKept (s : State) (who : Nat) (g : Seg) (bs : List Byte) : HartsKept s (writeSeg s who g bs) := by
  unfold writeSeg
  split
  · exact .refl s
  · split
    · dsimp only
      have joined (l : List ReplWrite) (n : Nat) : HartsKept s { s with repl := l, replNext := n } := ⟨rfl, rfl, rfl⟩
      split
      · exact (joined ..).trans (settleAll_hartsKept _)
      · exact joined ..
    · exact writeKeyed_hartsKept ..

theorem writeSegs_hartsKept (who : Nat) (l : List Seg) : ∀ (bs : List Byte) (s : State), HartsKept s (writeSegs s who l bs) := by
  induction l with
  | nil => exact fun _ s => .refl s
  | cons g rest ih => exact fun bs s => (writeSeg_hartsKept ..).trans (ih _ _)

theorem walkerAccess_stations (s : State) (p : Party) (need : Need) (va n : Nat) : StationsOnly s (walkerAccess s p need va n).2 := by
  have only := globalAccess_stations s (homeSlice (clusterOf p.core)) p.part p.space need va n
  unfold walkerAccess
  generalize globalAccess s (homeSlice (clusterOf p.core)) p.part p.space need va n = found at *
  obtain ⟨_ | _, s1⟩ := found
  · dsimp only at only ⊢
    split <;> exact only
  · exact only

theorem walkerRead_hartsKept (s : State) (p : Party) (va n : Nat) : HartsKept s (walkerRead s p va n).2 := by
  have only := walkerAccess_stations s p needR va (8 * n)
  unfold walkerRead walkerReadAfter
  generalize walkerAccess s p needR va (8 * n) = found at *
  obtain ⟨_ | l, s1⟩ := found
  · exact only.hartsKept
  · exact only.hartsKept.trans (settleBy_hartsKept (· == p.core) (homeSlice (clusterOf p.core) / 16) l s1)

theorem walkerWrite_hartsKept (s : State) (p : Party) (va : Nat) (ws : List Word) : HartsKept s (walkerWrite s p va ws).2 := by
  have only := walkerAccess_stations s p needW va (8 * ws.length)
  unfold walkerWrite
  generalize walkerAccess s p needW va (8 * ws.length) = found at *
  obtain ⟨_ | l, s1⟩ := found
  · exact only.hartsKept
  · exact only.hartsKept.trans (writeSegs_hartsKept ..)

/-! ## Answers to messages -/

/-- What an answer to a message that was received whole leaves: the receives, harts but for their interrupts, and every byte above the memories that
hold usage blocks. -/
structure Concluded (s t : State) : Prop where
  posts : t.posts = s.posts
  harts : ∀ n, IrqOnly (hartAt s n) (hartAt t n)
  mem : ∀ a, 2 ^ 57 ≤ a → t.mem.read a = s.mem.read a

theorem Concluded.refl (s : State) : Concluded s s := ⟨rfl, fun _ => rfl, fun _ _ => rfl⟩

theorem Concluded.trans {s t u : State} (h : Concluded s t) (k : Concluded t u) : Concluded s u :=
  ⟨k.posts.trans h.posts, fun n => (h.harts n).trans (k.harts n), fun a ha => (k.mem a ha).trans (h.mem a ha)⟩

theorem Concluded.foldl {α : Type} {f : State → α → State} (step : ∀ s x, Concluded s (f s x)) (l : List α) : ∀ s, Concluded s (l.foldl f s) := by
  induction l with
  | nil => exact Concluded.refl
  | cons x rest ih => exact fun s => (step s x).trans (ih _)

theorem UsageCounted.concluded {p : BitVec 16} {s t : State} (h : UsageCounted p s t) : Concluded s t := by
  refine ⟨h.posts, h.harts, fun a ha => h.mem a (.inr ?_)⟩
  have := p.isLt
  unfold usagePlace descPlace
  omega

theorem links_concluded (s : State) (l : Links) : Concluded s { s with links := l } := ⟨rfl, fun _ => rfl, fun _ _ => rfl⟩

theorem pumpMessages_concluded (s : State) : Concluded s (pumpMessages s) := by
  unfold pumpMessages
  refine Concluded.foldl (fun s m => ?_) _ s
  dsimp only
  split
  · exact (links_concluded s _).trans (usageCounted_addUsage { s with links := _ } m.part (k := 3) (by decide) _).concluded
  · exact .refl s

theorem dropMessage_concluded (s : State) (m : OutMsg) : Concluded s (dropMessage s m) :=
  (links_concluded s _).trans (pumpMessages_concluded _)

theorem setCopy_concluded (s : State) (c : Copy) : Concluded s (setCopy s c) := ⟨rfl, fun _ => rfl, fun _ _ => rfl⟩

theorem copyMoved_concluded (s : State) (id : Nat) : Concluded s (copyMoved s id) := by
  unfold copyMoved
  split
  · exact .refl s
  · split
    · exact setCopy_concluded ..
    · exact .refl s

theorem copyAcked_concluded (s : State) (id : Nat) (n : BitVec 32) : Concluded s (copyAcked s id n) := by
  unfold copyAcked
  split
  · exact .refl s
  · refine Concluded.trans ?_ (copyMoved_concluded _ id)
    split
    · exact setCopy_concluded ..
    · exact .refl s

/-- The acknowledgement of a message that was received whole, at its source. -/
theorem ackReceived_taken (s : State) (dst : BitVec 12) (n : BitVec 32) : Concluded s (ackReceived s dst n 0 []) := by
  have ends (m : OutMsg) : Concluded s (match m.owner with | .copy id => copyAcked (dropMessage s m) id n | _ => dropMessage s m) := by
    split
    · exact (dropMessage_concluded s m).trans (copyAcked_concluded ..)
    · exact dropMessage_concluded s m
  unfold ackReceived
  split
  · exact .refl s
  · exact ends _

/-- A message whose words have all been taken is answered with status 0. -/
theorem conclude_taken (s : State) (src : BitVec 12) (n : BitVec 32) : Concluded s (conclude s src n 0 []) := by
  have noted : Concluded s (advanceWindow (recordStatus s src n 0 []) src n) := links_concluded s _
  unfold conclude answer
  dsimp only
  split
  · exact noted.trans (ackReceived_taken ..)
  · exact noted.trans (links_concluded _ _)

/-- Above the encrypted memories a byte reads the same under every key (R357). -/
theorem State.readKeyed_far {s : State} {key a n : Nat} (far : 2 ^ 52 ≤ a) : s.readKeyed key a n = s.mem.readN a n := by
  rw [State.readKeyed, if_pos (by rw [Bool.or_eq_true]; exact .inr (decide_eq_true far))]

/-- A counter above the encrypted memories is the word at its place. -/
theorem counter_far (s : State) {key : Nat} (far : 2 ^ 52 ≤ ctrPlace key) : s.counter key = s.mem.readWord (ctrPlace key) := by
  rw [State.counter, State.readKeyed_far far]
  rfl

theorem Concluded.counter {s t : State} (h : Concluded s t) {key : Nat} (far : 2 ^ 57 ≤ ctrPlace key) : t.counter key = s.counter key := by
  rw [counter_far t (by omega), counter_far s (by omega), Memory.readWord, Memory.readWord, Memory.readN_congr fun i _ => h.mem _ (by omega)]

/-- A receive that has ended well: it is gone, its core has one fewer outstanding, its messages are answered. -/
theorem dropPost_ends (s : State) (p : Post) : p ∉ (dropPost s p 0 []).posts ∧
    (hartAt (dropPost s p 0 []) p.core).ocp.ret = (hartAt s p.core).ocp.ret + 1 ∧
    ∀ key, 2 ^ 57 ≤ ctrPlace key → (dropPost s p 0 []).counter key = s.counter key := by
  have answered : Concluded (({ s with posts := s.posts.filter fun x => x.id != p.id } : State).modifyHart p.core fun h => { h with ocp := h.ocp.retire })
      (dropPost s p 0 []) := Concluded.foldl (fun s n => conclude_taken s p.chip n) p.admitted _
  have left := modifyHart_ocp_postsEnded { s with posts := s.posts.filter fun x => x.id != p.id } p.core
  refine ⟨?_, ?_, fun key far => ?_⟩
  · rw [answered.posts]
    have posts : (({ s with posts := s.posts.filter fun x => x.id != p.id } : State).modifyHart p.core fun h => { h with ocp := h.ocp.retire }).posts =
        s.posts.filter fun x => x.id != p.id := by
      unfold State.modifyHart
      split <;> rfl
    simp [posts]
  · rw [← (answered.harts p.core).ocp.symm, hartAt_modifyHart]
    rfl
  · rw [answered.counter far, State.modifyHart_counter]
    rfl

end Sys2Proof.Machine
end

section
/-! SUPPORT. The end record of a receive: the count of its object, its address, DONE and its retirement (R272); and O48. -/

namespace Sys2Proof.Machine

open Sys2Proof.Claims

/-! ## The end record of a receive (R272) -/

/-- A computation whose first part has answered goes on with its answer. -/
theorem PostM.bind_ok {α β : Type} {x : PostM α} {f : α → PostM β} {e e' : PostEnv} {a : α} (h : x e = .ok a e') : (x >>= f) e = f a e' := by
  show EStateM.bind x f e = f a e'
  rw [EStateM.bind, h]

theorem getPost_run (e : PostEnv) : getPost e = .ok e.p e := rfl

/-- An operation on the state that succeeds leaves the receive. -/
theorem pdoing_ok {α : Type} {f : State → Party → Except Halt α × State} {s t : State} {p : Post} {x : α} (h : f s p.party = (.ok x, t)) :
    pdoing f ⟨s, p⟩ = .ok x ⟨t, p⟩ := by
  refine (PostM.bind_ok (x := get) (e' := ⟨s, p⟩) rfl).trans ?_
  rw [h]
  rfl

theorem walkerRef_local {r : Word} (kind : refKind r = 1 ∨ refKind r = 2) (s : State) (q : Party) : walkerRef s q r = (.ok (refPlace r), s) := by
  rw [walkerRef, partyRef_local kind]

section
variable {s s1 s2 s3 : State} {p : Post} {o : Arrived} {h : Word} (one : p.objs = [o]) (unnamed : p.ptrs = []) (named : p.doneRef ≠ 0)
  (kind : refKind p.doneRef = 1) (read : walkerRead s p.party o.addr.toNat 1 = (.ok [h], s1))
  (counted : walkerWrite s1 p.party o.addr.toNat [(h &&& ~~~0xFFFF1) ||| 16] = (.ok (), s2))
  (slotted : walkerWrite s2 p.party p.slot.toNat [o.addr] = (.ok (), s3)) (settled : s3.repl = [])
include one unnamed named kind read counted slotted settled

/-- The end record of a receive of one object: its count, the slot, the add to DONE. -/
theorem finishPost_one : finishPost 1 ⟨s, p⟩ = .ok () ⟨counterAdd s3 (refPlace p.doneRef) 1, p⟩ := by
  have key : pdoing (fun s q => walkerRef s q p.doneRef) ⟨s, p⟩ = .ok (refPlace p.doneRef) ⟨s, p⟩ :=
    pdoing_ok (walkerRef_local (.inl kind) s _)
  have slot : postWrite p.slot [o.addr] ⟨s2, p⟩ = .ok () ⟨s3, p⟩ := pdoing_ok slotted
  have header : pdoing (fun s q => walkerRead s q o.addr.toNat 1) ⟨s, p⟩ = .ok [h] ⟨s1, p⟩ := pdoing_ok read
  have count : postWrite o.addr [canon h ||| BitVec.ofNat 64 (Nat.min 1 0xFFFF * 16)] ⟨s1, p⟩ = .ok () ⟨s2, p⟩ := pdoing_ok counted
  have still : settleRepl p.core s3 = s3 := by rw [settleRepl, settled]; rfl
  unfold finishPost
  rw [PostM.bind_ok (getPost_run _)]
  simp only [one, unnamed, List.length_singleton, List.find?_nil, if_neg named]
  rw [if_neg (by decide)]
  refine (PostM.bind_ok (a := some (refPlace p.doneRef)) (e' := ⟨s, p⟩) ?_).trans ?_
  · show EStateM.map _ _ _ = _
    rw [EStateM.map, key]
  refine (PostM.bind_ok (a := ()) (e' := ⟨s2, p⟩) ?_).trans ?_
  · refine (PostM.bind_ok (a := ()) (e' := ⟨s2, p⟩) ?_).trans rfl
    exact (PostM.bind_ok header).trans count
  refine (PostM.bind_ok slot).trans ?_
  show EStateM.Result.ok () _ = _
  simp only [still]
  rfl

/-- The stream that ends after its one object: the end record is taken. -/
theorem receiveStep_ends {m1 m2 : BitVec 32} (arrived : p.taken = p.next) (done : p.patches = [])
    (rest : p.pending = [(p.next, 0xFFFFFFFF, m1), (p.next + 8, 1, m2)]) :
    receiveStep ⟨s, p⟩ = .ok true ⟨counterAdd s3 (refPlace p.doneRef) 1, p⟩ := by
  have mark : p.word p.next = some 0xFFFFFFFF := by rw [Post.word, rest]; simp
  have number : p.word (p.next + 8) = some 1 := by rw [Post.word, rest]; simp
  have early : (p.pending.filter fun q => q.1 < p.next) = [] := by rw [rest]; simp
  have finish := finishPost_one one unnamed named kind read counted slotted settled
  have taken (n : Nat) : takeStream (n + 1) ⟨s, p⟩ = .ok true ⟨counterAdd s3 (refPlace p.doneRef) 1, p⟩ := by
    unfold takeStream
    rw [PostM.bind_ok (getPost_run _), done]
    rw [PostM.bind_ok (x := patchAll []) (a := ()) (e' := ⟨s, p⟩) rfl]
    rw [PostM.bind_ok (getPost_run _)]
    simp only [early, List.foldl_nil, mark, number, if_pos arrived]
    exact (PostM.bind_ok finish).trans rfl
  unfold receiveStep
  rw [PostM.bind_ok (getPost_run _)]
  exact (PostM.bind_ok (taken _)).trans rfl

theorem streamDeliver_ends {k : Nat} {m1 m2 : BitVec 32} (post : s.posts[k]? = some p) (running : p.susp = none) (sound : p.fail = none)
    (arrived : p.taken = p.next) (done : p.patches = []) (rest : p.pending = [(p.next, 0xFFFFFFFF, m1), (p.next + 8, 1, m2)]) :
    exec (.streamDeliver k) s = .next (dropPost (counterAdd s3 (refPlace p.doneRef) 1) p 0 []) := by
  have step := receiveStep_ends one unnamed named kind read counted slotted settled arrived done rest
  have still : settleRepl p.core (counterAdd s3 (refPlace p.doneRef) 1) = counterAdd s3 (refPlace p.doneRef) 1 := by
    have none : (counterAdd s3 (refPlace p.doneRef) 1).repl = [] := by
      obtain ⟨l, tagged⟩ := tagLines_eq s3 (ctrKid (refPlace p.doneRef)) (ctrPlace (refPlace p.doneRef)) 8
      rw [counterAdd, setCounter, tagged]
      exact settled
    rw [settleRepl, none]
    rfl
  refine (rfl : _ = execStreamDeliver k s).trans ?_
  rw [execStreamDeliver, post]
  dsimp only
  rw [running, if_neg (by decide), sound]
  dsimp only
  rw [EStateM.run, step]
  dsimp only
  rw [still]

end

/-! ## The statement -/

/-- Settles O48: a suspension is reported, taken back or ended by rewriting the list that holds its unit; the receive's end record is run write by write. -/
theorem suspendedUnitsResumeOrEnd : Obligations.SuspendedUnitsResumeOrEnd := by
  refine ⟨fun s w x own stopped unwritten plain room => ?suspended, fun s id m n c x found stopped written => ?resumed,
    fun s id n k c x small found stopped written issuer tag stage _ _ named kind => ?ended,
    fun s s1 s2 s3 k n p o h m1 m2 post running sound one unnamed done arrived rest named kind core read counted slotted settled => ?received⟩
  case suspended =>
    have ends := (walkSuspended_reported own stopped unwritten).trans (congrArg _ (postWalk_writes stopped unwritten plain room))
    refine ⟨_, ends, rfl, rfl, rfl, ⟨_, rfl, rfl, rfl, rfl, ?_⟩, _, onWalk_own (s := recorded s _) own _, rfl, Option.some_ne_none _⟩
    exact congrArg some (by rw [BitVec.ofNat_toNat, BitVec.setWidth_eq]; rfl)
  case resumed =>
    obtain ⟨l, taken⟩ := takeRecord_eq s x
    have number : c.id = id := findCopy_id found
    have goes := resumeCopy_goesOn found stopped (by rw [written]; exact Option.some_ne_none _)
    refine ⟨_, (unitResume_copy s id).trans (congrArg _ goes), findCopy_setCopy (c := c) ?_ number, ?_, ?_, mem_takeRecord written⟩
    · rw [taken]
      exact found
    · rw [taken]
      rfl
    · rw [taken]
      rfl
  case ended =>
    have number := findCopy_id found
    have ends := (unitFatal_copy small).trans (congrArg _ (fatalCopy_ends found stopped written stage))
    obtain ⟨l, taken⟩ := takeRecord_eq s x
    obtain ⟨gone, poisoned, wakes, ocp, query⟩ :=
      endFatal_leaves (c := { c with susp := none }) issuer named kind (setCopy (takeRecord s x) { c with susp := none }) x.cause
    rw [taken] at ends gone poisoned wakes ocp query
    exact ⟨_, ends, number ▸ gone, poisoned, fun e he same other => wakes e he same (number.symm ▸ other), ocp, query k tag⟩
  case received =>
    have kept : HartsKept s s3 := by
      have first := walkerRead_hartsKept s p.party o.addr.toNat 1
      have second := walkerWrite_hartsKept s1 p.party o.addr.toNat [(h &&& ~~~0xFFFF1) ||| 16]
      have third := walkerWrite_hartsKept s2 p.party p.slot.toNat [o.addr]
      rw [read] at first
      rw [counted] at second
      rw [slotted] at third
      exact (first.trans second).trans third
    have far : 2 ^ 57 ≤ ctrPlace (refPlace p.doneRef) := by
      rw [ctrPlace_refPlace, refPlace, if_pos kind, eventPlace]
      omega
    obtain ⟨gone, ocp, counters⟩ := dropPost_ends (counterAdd s3 (refPlace p.doneRef) 1) p
    refine ⟨_, streamDeliver_ends one unnamed named kind read counted slotted settled post running sound arrived done rest, ?_, gone, ?_⟩
    · rw [counters _ far, counterAdd_counter]
    · rw [← core, ocp, counterAdd, setCounter_hartAt, kept.hartAt]

end Sys2Proof.Machine
end

section
/-! SUPPORT. The accesses of an engine to local memory (R41, R244), and a region of it that is filled from its start. -/

namespace Sys2Proof.Machine

open Sys2Proof.Claims

/-! ## Accesses of an engine to local memory -/

theorem readSegs_localSeg (s : State) (sec : Nat) {p : Nat} (far : 2 ^ 52 ≤ p) (n : Nat) : readSegs s sec [localSeg p n] = s.mem.readN p n := by
  have plain : readPlace sec (localSeg p n) = p := by rw [readPlace, localSeg_plain, if_neg Bool.false_ne_true, localSeg]
  rw [readSegs, List.flatMap_singleton, plain, State.readKeyed_far far]
  rfl

/-- No write to a replicated page meets local memory. -/
theorem settleBy_localSeg (f : Nat → Bool) (sec p n : Nat) (s : State) : settleBy f sec [localSeg p n] s = s := by
  have none (w : ReplWrite) : ([localSeg p n].any fun g => pteRepl g.entry && w.place < g.place + g.len && g.place < w.place + w.data.length) = false := by
    rw [List.any_cons, localSeg_plain]
    rfl
  unfold settleBy
  simp only [none, Bool.and_false, List.filter_false, List.getLast?_nil]

theorem writeKeyed_far (s : State) {a : Nat} (far : 2 ^ 52 ≤ a) (key : Nat) (bs : List Byte) : s.writeKeyed key a bs = s.write a bs := by
  rw [State.writeKeyed, tagLines, if_pos (by rw [Bool.or_eq_true]; exact .inl (decide_eq_true far))]

theorem writeSegs_localSeg (s : State) (who : Nat) {p : Nat} (far : 2 ^ 52 ≤ p) (bs : List Byte) :
    writeSegs s who [localSeg p bs.length] bs = s.write p bs := by
  have whole : bs.take (localSeg p bs.length).len = bs := List.take_length
  rw [writeSegs, writeSegs, whole, writeSeg, localSeg_plain]
  exact writeKeyed_far s far _ bs

section
variable {am : AddrMode} (run : am = .lo ∨ am = .cb) (s : State) (c : Copy) (a : Nat)
include run

theorem localByte_far (core : Nat) : 2 ^ 52 ≤ localByte core am a := by
  rcases run with rfl | rfl <;> (unfold localByte localPlace; dsimp only; omega)

theorem partyAccess_run (m : Nat) (part : BitVec 16) (space : BitVec 20) (core : Nat) (need : Need) (n : Nat) :
    partyAccess s m part space core am need a n = (.ok [localSeg (localByte core am a) n], s) := by
  rcases run with rfl | rfl <;> rfl

theorem copyRead_run (n : Nat) : copyRead s c am a n = (.ok (s.mem.readN (localByte c.core am a) n), s) := by
  rw [copyRead, partyRead, partyAccess_run run]
  dsimp only
  rw [settleOwn, settleBy_localSeg, if_pos (by rfl), readSegs_localSeg _ _ (localByte_far run _ _)]

theorem copyWrite_run (bs : List Byte) : copyWrite s c am a bs = (none, s.write (localByte c.core am a) bs) := by
  rw [copyWrite, partyWrite, partyAccess_run run]
  dsimp only
  rw [if_pos (by rfl), writeSegs_localSeg _ _ (localByte_far run _ _)]

end

/-! ## A region of local memory filled from its start -/

/-- `l` bytes of a function from `a` on. -/
def bytesFrom (out : Nat → Byte) (a l : Nat) : List Byte := (List.range l).map fun j => out (a + j)

@[simp] theorem bytesFrom_length (out : Nat → Byte) (a l : Nat) : (bytesFrom out a l).length = l := by simp [bytesFrom]

theorem bytesFrom_append (out : Nat → Byte) (a l m : Nat) : bytesFrom out a l ++ bytesFrom out (a + l) m = bytesFrom out a (l + m) := by
  simp only [bytesFrom, List.range_add, List.map_append, List.map_map]
  refine congrArg _ (List.map_congr_left fun j _ => ?_)
  rw [Function.comp_apply, Nat.add_assoc]

theorem getD_bytesFrom (out : Nat → Byte) (a : Nat) {l j : Nat} (h : j < l) : (bytesFrom out a l).getD j 0 = out (a + j) := by
  simp [bytesFrom, h]

/-- `t` is `s` with the first `m` bytes of a region at place `b` as `out` gives them; harts and commands are as before. -/
structure Filled (s t : State) (b m : Nat) (out : Nat → Byte) : Prop where
  hart : t.hart = s.hart
  copies : t.copies = s.copies
  mem : ∀ p, t.mem.read p = if b ≤ p ∧ p < b + m then out (p - b) else s.mem.read p

theorem Filled.refl (s : State) (b : Nat) (out : Nat → Byte) : Filled s s b 0 out := ⟨rfl, rfl, fun p => by rw [if_neg (by omega)]⟩

/-- The next bytes are written. -/
theorem Filled.write {s t : State} {b m : Nat} {out : Nat → Byte} (h : Filled s t b m out) (l : Nat) :
    Filled s (t.write (b + m) (bytesFrom out m l)) b (m + l) out where
  hart := h.hart
  copies := h.copies
  mem p := by
    rw [State.write_mem, Memory.read_write, bytesFrom_length, h.mem]
    by_cases inside : b + m ≤ p ∧ p < b + m + l
    · rw [if_pos inside, if_pos (by omega), getD_bytesFrom _ _ (by omega), show m + (p - (b + m)) = p - b by omega]
    · rw [if_neg inside]
      exact if_congr (by omega) rfl rfl

/-- A run apart from the region reads as before. -/
theorem Filled.readN {s t : State} {b m : Nat} {out : Nat → Byte} (h : Filled s t b m out) {a n : Nat} (apart : a + n ≤ b ∨ b + m ≤ a) :
    t.mem.readN a n = s.mem.readN a n :=
  Memory.readN_congr fun i hi => by rw [h.mem, if_neg (by omega)]

theorem Filled.inside {s t : State} {b m : Nat} {out : Nat → Byte} (h : Filled s t b m out) {j : Nat} (hj : j < m) : t.mem.read (b + j) = out j := by
  rw [h.mem, if_pos (by omega), Nat.add_sub_cancel_left]

theorem Filled.outside {s t : State} {b m : Nat} {out : Nat → Byte} (h : Filled s t b m out) {p : Nat} (hp : p < b ∨ b + m ≤ p) :
    t.mem.read p = s.mem.read p := by
  rw [h.mem, if_neg (by omega)]

theorem Filled.findCopy {s t : State} {b m : Nat} {out : Nat → Byte} (h : Filled s t b m out) (id : Nat) : findCopy t id = findCopy s id := by
  unfold Machine.findCopy
  rw [h.copies]

end Sys2Proof.Machine
end

section
/-! SUPPORT. What one element brings, and elements of 16 bytes and more moved granule by granule (R247). -/

namespace Sys2Proof.Machine

open Sys2Proof.Claims

/-! ## What one element brings -/

/-- The run of `l` bytes at place `a` lies apart from the `n` bytes at place `b`. -/
def Apart (a l b n : Nat) : Prop := a + l ≤ b ∨ b + n ≤ a

/-- The `l` bytes that `out` gives from `m` on are those at place `a` in `s`. -/
def Sourced (s : State) (out : Nat → Byte) (m a l : Nat) : Prop := ∀ j, j < l → out (m + j) = s.mem.read (a + j)

/-- Bytes read from a source that the filled region does not reach are those to be written. -/
theorem Filled.readSource {s t : State} {b m n o l a : Nat} {out : Nat → Byte} (h : Filled s t b m out) (within : m ≤ n) (apart : Apart a l b n)
    (source : Sourced s out o a l) : t.mem.readN a l = bytesFrom out o l := by
  have clear : a + l ≤ b ∨ b + m ≤ a := by
    unfold Apart at apart
    omega
  rw [h.readN clear]
  refine List.map_congr_left fun j hj => ?_
  rw [source j (List.mem_range.1 hj)]

/-- Granules of 16 bytes that follow one another, moved in order. -/
theorem moveGranules_fills {s : State} {c : Copy} {x y m n a b : Nat} {out : Nat → Byte} (sam : recSam c.words = .lo) (dam : recDam c.words = .lo)
    (src : localPlace c.core x = a) (dst : localPlace c.core y = b + m) (r : Nat) : ∀ (i : Nat) (t : State), Filled s t b (m + 16 * i) out →
      m + 16 * (i + r) ≤ n → Apart (a + 16 * i) (16 * r) b n → Sourced s out (m + 16 * i) (a + 16 * i) (16 * r) →
      ∃ u, moveGranules c ((List.range' i r).map fun k => (x + 16 * k, y + 16 * k, 16)) t = (none, u) ∧ Filled s u b (m + 16 * (i + r)) out := by
  have place (z k : Nat) : localByte c.core .lo (z + 16 * k) = localPlace c.core z + 16 * k := by
    show localPlace c.core (z + 16 * k) = _
    unfold localPlace
    omega
  induction r with
  | zero => exact fun i t filled _ _ _ => ⟨t, rfl, filled⟩
  | succ r ih =>
    intro i t filled within apart source
    have clear : Apart (a + 16 * i) 16 b n := by
      unfold Apart at *
      omega
    have read := filled.readSource (by omega) clear fun j hj => source j (by omega)
    have next := filled.write 16
    obtain ⟨u, moved, done⟩ := ih (i + 1) _ (by rwa [Nat.mul_succ, ← Nat.add_assoc]) (by omega) (by unfold Apart at *; omega) (fun j hj => by
      have := source (16 + j) (by omega)
      rwa [show m + 16 * i + (16 + j) = m + 16 * (i + 1) + j by omega, show a + 16 * i + (16 + j) = a + 16 * (i + 1) + j by omega] at this)
    refine ⟨u, ?_, by rwa [show m + 16 * (i + (r + 1)) = m + 16 * (i + 1 + r) by omega]⟩
    rw [List.range'_succ, List.map_cons, moveGranules, sam, copyRead_run (.inl rfl), place, src, read]
    dsimp only
    rw [dam, copyWrite_run (.inl rfl), place, dst]
    dsimp only
    rw [Nat.add_assoc]
    exact moved

/-- An element of 16 bytes or more has a whole number of granules. -/
theorem recE_granules {w : List Word} (h : 16 ≤ recE w) : recE w = 16 * (recE w / 16) := by
  have power : 2 ^ 4 ∣ recE w := by
    unfold recE at *
    exact Nat.pow_dvd_pow 2 ((Nat.pow_le_pow_iff_right (a := 2) (by decide)).1 h)
  omega

/-- An element of 16 bytes or more, moved granule by granule. -/
theorem moveElement_fills {s t : State} {c : Copy} {x y m n a b : Nat} {out : Nat → Byte} (sam : recSam c.words = .lo) (dam : recDam c.words = .lo)
    (large : 16 ≤ recE c.words) (src : localPlace c.core x = a) (dst : localPlace c.core y = b + m) (filled : Filled s t b m out)
    (within : m + recE c.words ≤ n) (apart : Apart a (recE c.words) b n) (source : Sourced s out m a (recE c.words)) :
    ∃ u, moveGranules c (granules (recE c.words) x y) t = (none, u) ∧ Filled s u b (m + recE c.words) out := by
  have whole := recE_granules large
  have list : granules (recE c.words) x y = (List.range' 0 (recE c.words / 16)).map fun k => (x + 16 * k, y + 16 * k, 16) := by
    unfold granules
    split
    next one => rw [show recE c.words = 16 by omega]; rfl
    next => rw [List.range_eq_range']
  rw [list]
  rw [whole] at within apart source ⊢
  have moved := moveGranules_fills (n := n) sam dam src dst (recE c.words / 16) 0 t filled (by omega) (by simpa using apart) (by simpa using source)
  simpa [← whole] using moved

end Sys2Proof.Machine
end

section
/-! SUPPORT. The elements of a command in sequence, from its first to its last (R242, R247). -/

namespace Sys2Proof.Machine

open Sys2Proof.Claims

/-! ## Elements in sequence (R242, R247) -/

/-- What one element of a command brings, and the command with the index it has read. -/
def elemBrings (s : State) (c : Copy) (p : Nat) : Except Stop (List Byte) × Copy × State :=
  let w := c.words
  let e := recE w
  match c.op with
  | .fill => (.ok (pattern (recAux w) e), c, s)
  | .gath =>
    match copyIndex s c p with
    | (.error x, s) => (.error x, c, s)
    | (.ok (x, c), s) =>
      if badIndex w x then (.ok (pattern (cmdWord w 6) e), c, s)
      else
        let (r, s) := copyRead s c (recSam w) ((recSrc w).toNat + x * e) e
        (r, c, s)
  | _ =>
    let (r, s) := copyRead s c (recSam w) (srcAddr c p) e
    (r, c, s)

/-- What one element has brought goes before what the next `k` bring. -/
def joinElems (p k : Nat) (first : Except Stop (List Byte) × Copy × State) : Except Stop (List Byte) × Copy × State :=
  let (one, c, s) := first
  match one with
  | .error x => (.error x, c, s)
  | .ok bs =>
    match elemsBytes c (p + 1) k s with
    | (.ok r, c, s) => (.ok (bs ++ r), c, s)
    | other => other

theorem elemsBytes_succ (s : State) (c : Copy) (p k : Nat) : elemsBytes c p (k + 1) s = joinElems p k (elemBrings s c p) := rfl

/-- The elements that share a granule are read one after the other. -/
theorem elemsBytes_next {s t u : State} {c d f : Copy} {p k : Nat} {bs r : List Byte} (one : elemBrings s c p = (.ok bs, d, t))
    (rest : elemsBytes d (p + 1) k t = (.ok r, f, u)) : elemsBytes c p (k + 1) s = (.ok (bs ++ r), f, u) := by
  rw [elemsBytes_succ, one, joinElems, rest]

/-- A group counts at least the elements it began with, and none beyond the last. -/
theorem groupLen_bounds (e : Nat) (f : Nat → Nat) (p last n : Nat) : ∀ k, p + k ≤ last →
    k ≤ groupLen e f p last n k ∧ p + groupLen e f p last n k ≤ last := by
  induction n with
  | zero => exact fun k h => ⟨Nat.le_refl k, h⟩
  | succ n ih =>
    intro k h
    unfold groupLen
    split
    next more =>
      simp only [Bool.and_eq_true, decide_eq_true_eq] at more
      obtain ⟨grows, ends⟩ := ih (k + 1) (by omega)
      exact ⟨by omega, ends⟩
    next => exact ⟨Nat.le_refl k, h⟩

/-- A command that has come to position `p` and has read the indices `idx`. -/
def Copy.at (c : Copy) (p : Nat) (idx : List (Nat × Nat)) : Copy := { c with pos := p, idx := idx }

/-- A gather has kept no index from position `p` on. -/
def Unread (c : Copy) (idx : List (Nat × Nat)) (p : Nat) : Prop := c.op = .gath → ∀ q, p ≤ q → (idx.find? fun x => x.1 == q) = none

/-- Where the elements of a command go: one after the other from place `b` on. -/
structure Laid (c : Copy) (b : Nat) : Prop where
  dam : recDam c.words = .lo
  plain : c.op ≠ .scat
  place : ∀ p, p < elements c.op c.words → localPlace c.core (dstAddr c p) = b + p * recE c.words

/-- The state in which the elements before position `p` have been moved. -/
structure Moving (s : State) (c : Copy) (b : Nat) (out : Nat → Byte) (t : State) (p : Nat) (idx : List (Nat × Nat)) : Prop where
  unread : Unread c idx p
  within : p ≤ elements c.op c.words
  filled : Filled s t b (p * recE c.words) out

/-- Each element brings its bytes of `out`, whatever of the destination has been filled. -/
def BringsElements (s : State) (c : Copy) (b : Nat) (out : Nat → Byte) : Prop :=
  ∀ (t : State) (p q m : Nat) (idx : List (Nat × Nat)), Unread c idx q → q < elements c.op c.words → m ≤ elements c.op c.words * recE c.words →
    Filled s t b m out →
    ∃ idx', elemBrings t (c.at p idx) q = (.ok (bytesFrom out (q * recE c.words) (recE c.words)), c.at p idx', t) ∧ Unread c idx' (q + 1)

/-- Each element of 16 bytes or more is moved to its place. -/
def MovesElements (s : State) (c : Copy) (b : Nat) (out : Nat → Byte) : Prop :=
  ∀ (t : State) (p : Nat) (idx : List (Nat × Nat)), Moving s c b out t p idx → p < elements c.op c.words → 16 ≤ recE c.words →
    ∃ idx' u, copyElem t (c.at p idx) p = (none, c.at p idx', u) ∧ Unread c idx' (p + 1) ∧
      Filled s u b (p * recE c.words + recE c.words) out

section
variable {s : State} {c : Copy} {b : Nat} {out : Nat → Byte}

/-- Several elements bring their bytes one after the other. -/
theorem BringsElements.several (brings : BringsElements s c b out) {t : State} {m p : Nat} (within : m ≤ elements c.op c.words * recE c.words)
    (filled : Filled s t b m out) (k : Nat) : ∀ (q : Nat) (idx : List (Nat × Nat)), Unread c idx q → q + k ≤ elements c.op c.words →
      ∃ idx', elemsBytes (c.at p idx) q k t = (.ok (bytesFrom out (q * recE c.words) (k * recE c.words)), c.at p idx', t) ∧ Unread c idx' (q + k) := by
  induction k with
  | zero => exact fun q idx unread _ => ⟨idx, by rw [Nat.zero_mul]; rfl, unread⟩
  | succ k ih =>
    intro q idx unread last
    obtain ⟨idx', one, unread'⟩ := brings t p q m idx unread (by omega) within filled
    obtain ⟨idx'', rest, unread''⟩ := ih (q + 1) idx' unread' (by omega)
    refine ⟨idx'', ?_, by rwa [Nat.add_right_comm] at unread''⟩
    rw [elemsBytes_next one rest, Nat.succ_mul q, bytesFrom_append, Nat.succ_mul, Nat.add_comm]

section
variable (laid : Laid c b) (brings : BringsElements s c b out) (moves : MovesElements s c b out)
include laid brings

/-- The elements that share a granule are written at once. -/
theorem copyGranule_fills {t : State} {p : Nat} {idx : List (Nat × Nat)} (moving : Moving s c b out t p idx) {k : Nat} (some : 0 < k)
    (last : p + k ≤ elements c.op c.words) :
    ∃ idx' u, copyGranule t (c.at p idx) k = (none, c.at p idx', u) ∧ Moving s c b out u (p + k) idx' := by
  obtain ⟨unread, within, filled⟩ := moving
  obtain ⟨idx', read, unread'⟩ := brings.several (p := p) (Nat.mul_le_mul_right _ within) filled k p idx unread last
  have place : localByte (c.at p idx').core .lo (dstAddr (c.at p idx') p) = b + p * recE c.words := laid.place p (by omega)
  have wrote : copyGranule t (c.at p idx) k =
      (none, c.at p idx', t.write (b + p * recE c.words) (bytesFrom out (p * recE c.words) (k * recE c.words))) := by
    have dam : recDam (c.at p idx').words = .lo := laid.dam
    rw [copyGranule, show (c.at p idx).pos = p from rfl, read]
    dsimp only
    rw [dam, copyWrite_run (.inl rfl), show (c.at p idx').pos = p from rfl, place]
  refine ⟨idx', _, wrote, unread', last, ?_⟩
  rw [Nat.add_mul]
  exact filled.write _

include moves

theorem copyElems_moves (n : Nat) : ∀ (t : State) (p : Nat) (idx : List (Nat × Nat)), Moving s c b out t p idx → elements c.op c.words - p ≤ n →
    ∃ idx' u, copyElems n t (c.at p idx) = (none, c.at (elements c.op c.words) idx', u) ∧ Moving s c b out u (elements c.op c.words) idx' := by
  induction n with
  | zero =>
    intro t p idx moving done
    have last : p = elements c.op c.words := by
      have := moving.within
      omega
    exact ⟨idx, t, by rw [last]; rfl, last ▸ moving⟩
  | succ n ih =>
    intro t p idx moving fuel
    unfold copyElems
    rw [show elements (c.at p idx).op (c.at p idx).words = elements c.op c.words from rfl, show (c.at p idx).pos = p from rfl]
    by_cases done : elements c.op c.words ≤ p
    · have last : p = elements c.op c.words := Nat.le_antisymm moving.within done
      rw [if_pos done]
      exact ⟨idx, t, by rw [last], last ▸ moving⟩
    · rw [if_neg done]
      dsimp only
      have plain : (c.op != .scat) = true := by simpa using laid.plain
      cases shares : sharesGranules (c.at p idx) with
      | true =>
        obtain ⟨k, len, some, last⟩ : ∃ k, granuleLen (c.at p idx) p = k ∧ 1 ≤ k ∧ p + k ≤ elements c.op c.words :=
          ⟨_, rfl, groupLen_bounds (recE c.words) (dstAddr (c.at p idx)) p (elements c.op c.words) 15 1 (by omega)⟩
        obtain ⟨idx', u, wrote, next⟩ := copyGranule_fills laid brings moving some last
        rw [if_pos rfl, if_pos rfl, len, wrote]
        exact ih u _ idx' next (show elements c.op c.words - (p + k) ≤ n by omega)
      | false =>
        have large : 16 ≤ recE c.words := by
          rw [sharesGranules, show (c.at p idx).op = c.op from rfl, show (c.at p idx).words = c.words from rfl, plain, Bool.and_true] at shares
          simpa using shares
        obtain ⟨idx', u, wrote, unread, filled⟩ := moves t p idx moving (by omega) large
        rw [if_neg Bool.false_ne_true, if_neg Bool.false_ne_true, wrote]
        exact ih u (p + 1) idx' ⟨unread, by omega, by rwa [← Nat.succ_mul] at filled⟩ (by omega)

end

end

end Sys2Proof.Machine
end

section
/-! SUPPORT. The elements of fills, copies and gathers within the local memory of one core (R242, R243). -/

namespace Sys2Proof.Machine

open Sys2Proof.Claims

/-! ## Fills, copies and gathers (R242, R243) -/

/-- The addresses of a record without strides follow one another. -/
theorem elemAddr_row {w : List Word} {base : Word} {p : Nat} (flat : recNdim w = 0) (hp : p < recN w 0) (inside : base.toNat + p * recE w < 2 ^ 64)
    (dst : Bool) : elemAddr w base dst p = base.toNat + p * recE w := by
  have counts : recCount w 0 = recN w 0 ∧ recCount w 1 = 1 := by simp [recCount, flat]
  have offset : wordOfInt (((p * recE w : Nat) : Int) + ((0 : Nat) : Int) * recStride w dst 1 + ((0 : Nat) : Int) * recStride w dst 2) =
      BitVec.ofNat 64 (p * recE w) := by
    rw [Nat.cast_zero, zero_mul, zero_mul, add_zero, add_zero, wordOfInt, BitVec.ofInt_natCast]
  unfold elemAddr
  dsimp only
  rw [counts.1, counts.2, Nat.mod_eq_of_lt hp, Nat.div_eq_of_lt hp, Nat.zero_mod, Nat.zero_div, offset, BitVec.toNat_add, BitVec.toNat_ofNat]
  omega

section
variable {s : State} {c : Copy} {b : Nat} {out : Nat → Byte}

/-- The elements of a fill. -/
theorem fill_elements (op : c.op = .fill) (laid : Laid c b)
    (bytes : ∀ q, pattern (recAux c.words) (recE c.words) = bytesFrom out (q * recE c.words) (recE c.words)) :
    BringsElements s c b out ∧ MovesElements s c b out := by
  have op' (p : Nat) (idx : List (Nat × Nat)) : (c.at p idx).op = .fill := op
  refine ⟨fun t p q m idx _ _ _ _ => ⟨idx, ?_, fun gather => by simp [op] at gather⟩,
    fun t p idx moving hp _ => ⟨idx, _, ?_, fun gather => by simp [op] at gather, moving.filled.write _⟩⟩
  · rw [elemBrings, op', ← bytes]
    rfl
  · have place := laid.place p hp
    rw [dstAddr, op, if_neg (by decide)] at place
    rw [copyElem, op']
    dsimp only
    rw [show (c.at p idx).words = c.words from rfl, laid.dam, copyWrite_run (.inl rfl), localByte, show (c.at p idx).core = c.core from rfl, place,
      bytes p]

/-- The elements of a copy. -/
theorem copy_elements (op : c.op = .copy) (sam : recSam c.words = .lo) (laid : Laid c b) (source : ∀ q, q < elements c.op c.words →
      Apart (localPlace c.core (srcAddr c q)) (recE c.words) b (elements c.op c.words * recE c.words) ∧
      Sourced s out (q * recE c.words) (localPlace c.core (srcAddr c q)) (recE c.words)) :
    BringsElements s c b out ∧ MovesElements s c b out := by
  have op' (p : Nat) (idx : List (Nat × Nat)) : (c.at p idx).op = .copy := op
  have words (p : Nat) (idx : List (Nat × Nat)) : (c.at p idx).words = c.words := rfl
  refine ⟨fun t p q m idx _ hq within filled => ⟨idx, ?_, fun gather => by simp [op] at gather⟩, fun t p idx moving hp large => ?_⟩
  · obtain ⟨apart, bytes⟩ := source q hq
    rw [elemBrings, op']
    dsimp only
    rw [words, sam, copyRead_run (.inl rfl), show localByte (c.at p idx).core .lo (srcAddr (c.at p idx) q) = localPlace c.core (srcAddr c q) from rfl,
      filled.readSource within apart bytes]
  · obtain ⟨apart, bytes⟩ := source p hp
    have place := laid.place p hp
    rw [dstAddr, op, if_neg (by decide)] at place
    have ends : (p + 1) * recE c.words ≤ elements c.op c.words * recE c.words := Nat.mul_le_mul_right _ hp
    rw [Nat.succ_mul] at ends
    obtain ⟨u, moved, filled⟩ := moveElement_fills (c := c.at p idx) sam laid.dam large rfl place moving.filled ends apart bytes
    refine ⟨idx, u, ?_, fun gather => by simp [op] at gather, filled⟩
    rw [copyElem, op']
    dsimp only
    rw [show elemAddr (c.at p idx).words (recSrc (c.at p idx).words) false p = srcAddr c p from rfl, words]
    rw [words] at moved
    rw [moved]

/-- The index of position `q` of a gather, in the list as it is at its start. -/
def gatherIndex (s : State) (c : Copy) (q : Nat) : Nat := leNat (s.mem.readN (localPlace c.core ((recAux c.words).toNat + 4 * q)) 4)

/-- An index that has not been kept is read, and kept. -/
theorem copyIndex_reads (iam : recIam c.words = .lo) {t : State} {m n p q : Nat} {idx : List (Nat × Nat)} (filled : Filled s t b m out)
    (within : m ≤ n) (apart : Apart (localPlace c.core ((recAux c.words).toNat + 4 * q)) 4 b n) (unread : (idx.find? fun x => x.1 == q) = none) :
    copyIndex t (c.at p idx) q = (.ok (gatherIndex s c q, c.at p (idx ++ [(q, gatherIndex s c q)])), t) := by
  have clear : localPlace c.core ((recAux c.words).toNat + 4 * q) + 4 ≤ b ∨ b + m ≤ localPlace c.core ((recAux c.words).toNat + 4 * q) := by
    unfold Apart at apart
    omega
  have none : keptIndex (c.at p idx) q = none := by
    rw [keptIndex, show (c.at p idx).idx = idx from rfl, unread]
    rfl
  rw [copyIndex, none]
  dsimp only
  rw [show (c.at p idx).words = c.words from rfl, iam, copyRead_run (.inl rfl), localByte, show (c.at p idx).core = c.core from rfl, filled.readN clear]
  rfl

theorem Unread.kept {idx : List (Nat × Nat)} {q : Nat} (h : Unread c idx q) (x : Nat) : Unread c (idx ++ [(q, x)]) (q + 1) := by
  intro gather r hr
  rw [List.find?_append, h gather r (by omega), List.find?_cons_of_neg (by simp; omega)]
  rfl

/-- The elements of a gather. -/
theorem gather_elements (op : c.op = .gath) (sam : recSam c.words = .lo) (iam : recIam c.words = .lo) (laid : Laid c b)
    (list : ∀ q, q < elements c.op c.words →
      Apart (localPlace c.core ((recAux c.words).toNat + 4 * q)) 4 b (elements c.op c.words * recE c.words))
    (filler : ∀ q, q < elements c.op c.words → badIndex c.words (gatherIndex s c q) = true →
      pattern (cmdWord c.words 6) (recE c.words) = bytesFrom out (q * recE c.words) (recE c.words))
    (source : ∀ q, q < elements c.op c.words → badIndex c.words (gatherIndex s c q) = false →
      Apart (localPlace c.core ((recSrc c.words).toNat + gatherIndex s c q * recE c.words)) (recE c.words) b (elements c.op c.words * recE c.words) ∧
      Sourced s out (q * recE c.words) (localPlace c.core ((recSrc c.words).toNat + gatherIndex s c q * recE c.words)) (recE c.words)) :
    BringsElements s c b out ∧ MovesElements s c b out := by
  have op' (p : Nat) (idx : List (Nat × Nat)) : (c.at p idx).op = .gath := op
  have words (p : Nat) (idx : List (Nat × Nat)) : (c.at p idx).words = c.words := rfl
  refine ⟨fun t p q m idx unread hq within filled => ⟨idx ++ [(q, gatherIndex s c q)], ?_, unread.kept _⟩, fun t p idx moving hp large => ?_⟩
  · rw [elemBrings, op']
    dsimp only
    rw [copyIndex_reads iam filled within (list q hq) (unread op q (Nat.le_refl q)), words]
    dsimp only
    cases bad : badIndex c.words (gatherIndex s c q) with
    | true => rw [if_pos rfl, filler q hq bad]
    | false =>
      obtain ⟨apart, bytes⟩ := source q hq bad
      rw [if_neg Bool.false_ne_true, sam, copyRead_run (.inl rfl), localByte, show (c.at p _).core = c.core from rfl, filled.readSource within apart bytes]
  · have place := laid.place p hp
    rw [dstAddr, op, if_pos rfl] at place
    have ends : (p + 1) * recE c.words ≤ elements c.op c.words * recE c.words := Nat.mul_le_mul_right _ hp
    rw [Nat.succ_mul] at ends
    have within : p * recE c.words ≤ elements c.op c.words * recE c.words := by omega
    have index := copyIndex_reads (p := p) iam moving.filled within (list p hp) (moving.unread op p (Nat.le_refl p))
    cases bad : badIndex c.words (gatherIndex s c p) with
    | true =>
      refine ⟨idx ++ [(p, gatherIndex s c p)], _, ?_, moving.unread.kept _, moving.filled.write _⟩
      rw [copyElem, op']
      dsimp only
      rw [index, words]
      dsimp only
      rw [bad, if_pos rfl, laid.dam, copyWrite_run (.inl rfl), localByte, show (c.at p _).core = c.core from rfl, place, filler p hp bad]
    | false =>
      obtain ⟨apart, bytes⟩ := source p hp bad
      obtain ⟨u, moved, filled⟩ := moveElement_fills (c := c.at p (idx ++ [(p, gatherIndex s c p)])) sam laid.dam large rfl place moving.filled ends apart
        bytes
      refine ⟨idx ++ [(p, gatherIndex s c p)], u, ?_, moving.unread.kept _, filled⟩
      rw [copyElem, op']
      dsimp only
      rw [index, words]
      dsimp only
      rw [bad, if_neg Bool.false_ne_true]
      rw [words] at moved
      rw [moved]

end

end Sys2Proof.Machine
end

section
/-! SUPPORT. Fills, copies and gathers of a core from the start of the command to its last element (R237, R242–R244). -/

namespace Sys2Proof.Machine

open Sys2Proof.Claims

/-! ## A command from its start to its last element (R237, R244, R247) -/

/-- Runs of local memory that lie apart are not one another's. -/
theorem meets_apart {s : State} {c : Copy} {a b k l : Int} (apart : a + k ≤ b ∨ b + l ≤ a) :
    Range.meets s c ⟨.lo, a, a + k⟩ ⟨.lo, b, b + l⟩ = false := by
  have : ¬ (a < b + l ∧ b < a + k) := by omega
  simp [Range.meets, this]

/-- The elements of a record without strides are one run. -/
theorem dimRange_row {c : Copy} (flat : recNdim c.words = 0) (am : AddrMode) (base : Word) (dst : Bool) :
    dimRange c am base dst = ⟨am, base.toNat, base.toNat + (recN c.words 0 * recE c.words : Nat)⟩ := by
  simp [dimRange, recCount, flat]

theorem rowsMeet_row {c : Copy} (flat : recNdim c.words = 0) : rowsMeet c = false := by
  simp [rowsMeet, recCount, flat]

theorem elements_row {op : CopyOp} {w : List Word} (plain : op.indexed = false) (flat : recNdim w = 0) : elements op w = recN w 0 := by
  simp [elements, plain, recCount, flat]

/-- Nothing holds back the command that a BTE may start. -/
theorem exec_copyStart {s : State} {id n : Nat} {c : Copy} (found : findCopy s id = some c) (may : maystart s c n) (here : remote s c = false)
    (plain : c.op.ring = false) : exec (.copyStart id) s = .next (runCopy s c) := by
  obtain ⟨-, queued, unsuspended, unacquired, -, first⟩ := may
  have turn : startsLater s c = false := by
    rw [startsLater, List.any_eq_false]
    intro x hx later
    simp only [Bool.and_eq_true, Bool.or_eq_true, beq_iff_eq, decide_eq_true_eq] at later
    obtain ⟨⟨⟨before, slice⟩, issuer⟩, waits⟩ := later
    obtain ⟨fabric, queue⟩ := first x hx before slice issuer
    exact waits.elim fabric queue
  show execCopyStart id s = _
  simp [execCopyStart, found, queued, unsuspended, unacquired, turn, here, plain]

section
variable {s : State} {c : Copy} {b : Nat} {out : Nat → Byte}

/-- A command of this chip whose elements go in sequence, with nothing left to do after the last. -/
theorem runCopy_moves (start : c.pos = 0) (here : remote s c = false) (steady : orderShows s c = false)
    (unmasked : (c.op.indexed && recMsk c.words) = false) (laid : Laid c b) (unread : Unread c c.idx 0)
    (elems : BringsElements s c b out ∧ MovesElements s c b out) :
    ∃ idx u, runCopy s c = setCopy u { c.at (elements c.op c.words) idx with stage := .moved } ∧
      Filled s u b (elements c.op c.words * recE c.words) out := by
  have begun : Moving s c b out s 0 c.idx := ⟨unread, Nat.zero_le _, by simpa using Filled.refl s b out⟩
  obtain ⟨idx, u, moved, done⟩ := copyElems_moves laid elems.1 elems.2 (elements c.op c.words - c.pos) s 0 c.idx begun (by omega)
  have self : c.at 0 c.idx = c := by rw [Copy.at, ← start]
  have ran : runLocal s c = (none, c.at (elements c.op c.words) idx, u) := by
    rw [self] at moved
    rw [runLocal, steady, if_neg Bool.false_ne_true, moved]
    dsimp only
    rw [copyMask, if_neg (by rw [show (c.at (elements c.op c.words) idx).op = c.op from rfl, show (c.at _ idx).words = c.words from rfl, unmasked]; decide)]
  refine ⟨idx, u, ?_, done.filled⟩
  simp [runCopy, here, ran]

/-- Such a command of core `n`, started: all its elements are moved, from place `b` on. -/
theorem copyStart_moves {id n : Nat} (found : findCopy s id = some c) (may : maystart s c n) (op : c.op = .fill ∨ c.op = .copy ∨ c.op = .gath)
    (steady : orderShows s c = false) (unmasked : (c.op.indexed && recMsk c.words) = false) (laid : Laid c b) (unread : Unread c c.idx 0)
    (elems : BringsElements s c b out ∧ MovesElements s c b out) :
    ∃ t, exec (.copyStart id) s = .next t ∧ hasMoved t id (elements c.op c.words) ∧ t.hart = s.hart ∧
      (∀ j, j < elements c.op c.words * recE c.words → t.mem.read (b + j) = out j) ∧
      (∀ p, (p < b ∨ b + elements c.op c.words * recE c.words ≤ p) → t.mem.read p = s.mem.read p) := by
  have here : remote s c = false := by rcases op with h | h | h <;> simp [remote, h]
  have plain : c.op.ring = false := by rcases op with h | h | h <;> rw [h] <;> rfl
  have start : c.pos = 0 := by
    obtain ⟨-, -, -, -, start, -⟩ := may
    exact start
  obtain ⟨idx, u, ran, filled⟩ := runCopy_moves start here steady unmasked laid unread elems
  have still : findCopy u id = some c := (filled.findCopy id).trans found
  rw [exec_copyStart found may here plain, ran]
  have number : c.id = id := findCopy_id found
  exact ⟨_, rfl, ⟨_, findCopy_setCopy still number, rfl, rfl⟩, filled.hart, fun j hj => filled.inside hj, fun p hp => filled.outside hp⟩

end

/-! ## Fills, copies and gathers of a core (R242, R243) -/

/-- Byte `j` of a fill whose pattern is `x`, with elements of `e` bytes. -/
def fillByte (x : Word) (e j : Nat) : Byte := BitVec.ofNat 8 (x.toNat / 2 ^ (8 * (j % e % 8)))

theorem fillByte_at (x : Word) {e j : Nat} (inside : j < e) (q : Nat) : fillByte x e (q * e + j) = BitVec.ofNat 8 (x.toNat / 2 ^ (8 * (j % 8))) := by
  rw [fillByte, Nat.mul_comm q, Nat.mul_add_mod, Nat.mod_eq_of_lt inside]

theorem pattern_bytes (x : Word) {e : Nat} (q : Nat) : pattern x e = bytesFrom (fillByte x e) (q * e) e := by
  refine List.map_congr_left fun j hj => ?_
  have byte (y : Nat) : (BitVec.ofNat 8 (y % 2 ^ 8) : Byte) = BitVec.ofNat 8 y := by
    apply BitVec.eq_of_toNat_eq
    simp
  rw [fillByte_at x (List.mem_range.1 hj), bits, field, byte]

theorem recE_pos (w : List Word) : 0 < recE w := Nat.pow_pos (by decide)

theorem localPlace_add (n x k : Nat) : localPlace n (x + k) = localPlace n x + k := by
  unfold localPlace
  omega

theorem badIndex_iff (w : List Word) (x : Nat) : badIndex w x = true ↔ x = 0xFFFFFFFF ∨ recN w 1 ≤ x := by
  rw [badIndex, Bool.or_eq_true, beq_iff_eq, decide_eq_true_eq]

/-- Byte `m` of a gather that begins in `s`. -/
def gatherByte (s : State) (c : Copy) (m : Nat) : Byte :=
  if badIndex c.words (gatherIndex s c (m / recE c.words)) = true then fillByte (cmdWord c.words 6) (recE c.words) m
  else s.mem.read (localPlace c.core ((recSrc c.words).toNat + gatherIndex s c (m / recE c.words) * recE c.words + m % recE c.words))

theorem gatherByte_at (s : State) (c : Copy) {j : Nat} (inside : j < recE c.words) (q : Nat) : gatherByte s c (q * recE c.words + j) =
    if badIndex c.words (gatherIndex s c q) = true then BitVec.ofNat 8 ((cmdWord c.words 6).toNat / 2 ^ (8 * (j % 8)))
    else s.mem.read (localPlace c.core ((recSrc c.words).toNat + gatherIndex s c q * recE c.words + j)) := by
  have here : (q * recE c.words + j) / recE c.words = q := by
    rw [Nat.add_comm, Nat.add_mul_div_right _ _ (recE_pos c.words), Nat.div_eq_of_lt inside, Nat.zero_add]
  have within : (q * recE c.words + j) % recE c.words = j := by rw [Nat.mul_comm, Nat.mul_add_mod, Nat.mod_eq_of_lt inside]
  rw [gatherByte, here, within, fillByte_at _ inside]

section
variable {s : State} {id n : Nat} {c : Copy} (found : findCopy s id = some c) (may : maystart s c n)
include may

theorem core_of_maystart : c.core = n := by
  obtain ⟨issuer, -⟩ := may
  rw [Copy.core, issuer]

/-- Where the elements of a record without strides go. -/
theorem laid_row (op : c.op = .fill ∨ c.op = .copy) (flat : recNdim c.words = 0) (dam : recDam c.words = .lo)
    (inside : (recDst c.words).toNat + recN c.words 0 * recE c.words ≤ 2 ^ 19) : Laid c (localPlace n (recDst c.words).toNat) := by
  refine ⟨dam, by rcases op with h | h <;> rw [h] <;> decide, fun p hp => ?_⟩
  have plain : c.op.indexed = false := by rcases op with h | h <;> rw [h] <;> rfl
  rw [elements_row plain flat] at hp
  have := Nat.mul_lt_mul_of_pos_right hp (recE_pos c.words)
  rw [dstAddr, if_neg (by rcases op with h | h <;> rw [h] <;> decide), elemAddr_row flat hp (by omega), core_of_maystart may, localPlace_add]

include found

theorem fill_completes (op : c.op = .fill) (flat : recNdim c.words = 0) (dam : recDam c.words = .lo)
    (inside : (recDst c.words).toNat + recN c.words 0 * recE c.words ≤ 2 ^ 19) :
    ∃ t, exec (.copyStart id) s = .next t ∧ hasMoved t id (recN c.words 0) ∧ t.hart = s.hart ∧
      (∀ j, j < recN c.words 0 * recE c.words → t.mem.read (localPlace n (recDst c.words).toNat + j) = fillByte (recAux c.words) (recE c.words) j) ∧
      (∀ p, (p < localPlace n (recDst c.words).toNat ∨ localPlace n (recDst c.words).toNat + recN c.words 0 * recE c.words ≤ p) →
        t.mem.read p = s.mem.read p) := by
  have plain : c.op.indexed = false := by rw [op]; rfl
  have laid := laid_row may (.inl op) flat dam inside
  have steady : orderShows s c = false := by simp [orderShows, op, readRanges]
  rw [← elements_row plain flat]
  exact copyStart_moves found may (.inl op) steady (by rw [plain, Bool.false_and]) laid (fun gath => by simp [op] at gath)
    (fill_elements op laid fun q => pattern_bytes _ q)

theorem copy_completes (op : c.op = .copy) (flat : recNdim c.words = 0) (sam : recSam c.words = .lo) (dam : recDam c.words = .lo)
    (source : (recSrc c.words).toNat + recN c.words 0 * recE c.words ≤ 2 ^ 19) (inside : (recDst c.words).toNat + recN c.words 0 * recE c.words ≤ 2 ^ 19)
    (apart : Apart (recSrc c.words).toNat (recN c.words 0 * recE c.words) (recDst c.words).toNat (recN c.words 0 * recE c.words)) :
    ∃ t, exec (.copyStart id) s = .next t ∧ hasMoved t id (recN c.words 0) ∧ t.hart = s.hart ∧
      (∀ j, j < recN c.words 0 * recE c.words →
        t.mem.read (localPlace n (recDst c.words).toNat + j) = s.mem.read (localPlace n ((recSrc c.words).toNat + j))) ∧
      (∀ p, (p < localPlace n (recDst c.words).toNat ∨ localPlace n (recDst c.words).toNat + recN c.words 0 * recE c.words ≤ p) →
        t.mem.read p = s.mem.read p) := by
  have plain : c.op.indexed = false := by rw [op]; rfl
  have laid := laid_row may (.inr op) flat dam inside
  have steady : orderShows s c = false := by
    have reads : readRanges c = [dimRange c .lo (recSrc c.words) false] := by rw [readRanges, op, sam]
    have writes : writeRanges c = [dimRange c .lo (recDst c.words) true] := by rw [writeRanges, op, dam]
    rw [orderShows, rowsMeet_row flat, Bool.and_false, Bool.false_or, reads, writes, List.any_cons, List.any_cons, dimRange_row flat, dimRange_row flat,
      meets_apart (by unfold Apart at apart; omega)]
    rfl
  rw [← elements_row plain flat]
  refine copyStart_moves found may (.inr (.inl op)) steady (by rw [plain, Bool.false_and]) laid (fun gath => by simp [op] at gath)
    (copy_elements op sam laid fun q hq => ?_)
  rw [elements_row plain flat] at hq ⊢
  have ends : (q + 1) * recE c.words ≤ recN c.words 0 * recE c.words := Nat.mul_le_mul_right _ hq
  rw [Nat.succ_mul] at ends
  have place : localPlace c.core (srcAddr c q) = localPlace n ((recSrc c.words).toNat + q * recE c.words) := by
    rw [srcAddr, elemAddr_row flat hq (by omega), core_of_maystart may]
  refine ⟨?_, fun j _ => ?_⟩
  · rw [place]
    unfold Apart localPlace at *
    omega
  · rw [place, ← localPlace_add, Nat.add_assoc]

theorem gather_completes (op : c.op = .gath) (fresh : c.idx = []) (sam : recSam c.words = .lo) (dam : recDam c.words = .lo) (iam : recIam c.words = .lo)
    (unmasked : recMsk c.words = false)
    (apart : Apart (recSrc c.words).toNat (recN c.words 1 * recE c.words) (recDst c.words).toNat (recN c.words 0 * recE c.words))
    (list : Apart (recAux c.words).toNat (4 * recN c.words 0) (recDst c.words).toNat (recN c.words 0 * recE c.words)) :
    ∃ t, exec (.copyStart id) s = .next t ∧ hasMoved t id (recN c.words 0) ∧ t.hart = s.hart ∧
      (∀ j, j < recN c.words 0 * recE c.words → t.mem.read (localPlace n (recDst c.words).toNat + j) = gatherByte s c j) ∧
      (∀ p, (p < localPlace n (recDst c.words).toNat ∨ localPlace n (recDst c.words).toNat + recN c.words 0 * recE c.words ≤ p) →
        t.mem.read p = s.mem.read p) := by
  have count : elements c.op c.words = recN c.words 0 := by rw [elements, op]; rfl
  have core := core_of_maystart may
  have laid : Laid c (localPlace n (recDst c.words).toNat) :=
    ⟨dam, by rw [op]; decide, fun p _ => by rw [dstAddr, if_pos op, core, localPlace_add]⟩
  have masked : (c.op.indexed && recMsk c.words) = false := by rw [unmasked, Bool.and_false]
  have steady : orderShows s c = false := by
    have reads : readRanges c = [plainRange .lo (recSrc c.words) (recN c.words 1 * recE c.words), plainRange .lo (recAux c.words) (4 * recN c.words 0)] := by
      rw [readRanges, op, sam, iam]
    have writes : writeRanges c = [plainRange .lo (recDst c.words) (recN c.words 0 * recE c.words)] := by
      rw [writeRanges, masked, op, dam]
      rfl
    have first : Range.meets s c (plainRange .lo (recSrc c.words) (recN c.words 1 * recE c.words))
        (plainRange .lo (recDst c.words) (recN c.words 0 * recE c.words)) = false := meets_apart (by unfold Apart at apart; omega)
    have second : Range.meets s c (plainRange .lo (recAux c.words) (4 * recN c.words 0))
        (plainRange .lo (recDst c.words) (recN c.words 0 * recE c.words)) = false := meets_apart (by unfold Apart at list; omega)
    simp [orderShows, op, reads, writes, first, second]
  rw [← count]
  refine copyStart_moves found may (.inr (.inr op)) steady masked laid (fun _ q _ => by rw [fresh]; rfl)
    (gather_elements op sam iam laid (fun q hq => ?_) (fun q hq bad => ?_) (fun q hq good => ?_))
  · rw [count] at hq ⊢
    rw [core]
    unfold Apart localPlace at *
    omega
  · rw [pattern_bytes _ q]
    refine List.map_congr_left fun j hj => ?_
    rw [gatherByte_at s c (List.mem_range.1 hj), if_pos bad, fillByte_at _ (List.mem_range.1 hj)]
  · rw [count] at hq ⊢
    have few : gatherIndex s c q < recN c.words 1 := by
      rw [← Bool.not_eq_true, badIndex_iff] at good
      omega
    have ends : (gatherIndex s c q + 1) * recE c.words ≤ recN c.words 1 * recE c.words := Nat.mul_le_mul_right _ few
    rw [Nat.succ_mul] at ends
    refine ⟨?_, fun j hj => ?_⟩
    · rw [core]
      unfold Apart localPlace at *
      omega
    · rw [gatherByte_at s c hj, good, if_neg Bool.false_ne_true, localPlace_add]

end

end Sys2Proof.Machine
end

section
/-! SUPPORT. How a command enters its queue, is reported and completes (R237, R245, R248, R399). -/

namespace Sys2Proof.Machine

open Sys2Proof.Claims

/-! ## A command enters its queue (R237) -/

/-- The only command of its number is replaced where it stands. -/
theorem setCopy_once {s : State} {l r : List Copy} {c d : Copy} (here : s.copies = l ++ c :: r) (same : d.id = c.id)
    (once : ∀ x ∈ l ++ r, x.id ≠ c.id) : setCopy s d = { s with copies := l ++ d :: r } := by
  have others (m : List Copy) (sub : ∀ x ∈ m, x ∈ l ++ r) : (m.map fun x => if x.id = d.id then d else x) = m :=
    (List.map_congr_left fun x hx => if_neg (same ▸ once x (sub x hx))).trans (List.map_id m)
  rw [setCopy, here, List.map_append, List.map_cons, others l fun x hx => List.mem_append_left _ hx, others r fun x hx => List.mem_append_right _ hx,
    if_pos same.symm]

theorem accept_completes {s : State} {m : Nat} {l r : List Copy} {c : Copy} (here : s.copies = l ++ c :: r) (slice : c.slice = m) (stage : c.stage = .fabric)
    (first : ∀ x ∈ l, ¬ (x.slice = m ∧ x.stage = .fabric)) (once : ∀ x ∈ l ++ r, x.id ≠ c.id)
    (room : (s.copies.filter fun x => x.slice == m && x.stage != .fabric).length < 1024) :
    exec (.copyCommandAccept m) s = .next { s with copies := l ++ { c with stage := .queued } :: r } := by
  have before : (l.find? fun x => x.slice == m && x.stage == .fabric) = none := List.find?_eq_none.2 fun x hx => by simpa using first x hx
  have found : (s.copies.find? fun x => x.slice == m && x.stage == .fabric) = some c := by
    rw [here, List.find?_append, before, List.find?_cons_of_pos (by simp [slice, stage])]
    rfl
  refine (rfl : _ = execCopyCommandAccept m s).trans ?_
  rw [execCopyCommandAccept, if_neg (Nat.not_le.2 room), found]
  exact congrArg Host.Outcome.next (setCopy_once (d := { c with stage := .queued }) here rfl once)

/-! ## A command is reported (R248, R361) -/

theorem copySuspend_completes {s : State} {id n : Nat} {c : Copy} {x : Suspension} (found : findCopy s id = some c) (issuer : c.issuer = .core n)
    (stopped : c.susp = some x) (unwritten : x.record = none)
    (room : (s.faults.filter fun r => r.slice == ownerOf s c.part x.space x.va.toNat).length < 1024) :
    ∃ t, exec (.copySuspend id) s = .next t ∧ t.mem = s.mem ∧ t.hart = s.hart ∧
      (∃ r, t.faults = s.faults ++ [r] ∧ r.slice = ownerOf s c.part x.space x.va.toNat ∧ r.words[1]? = some x.va ∧
        r.words[2]? = some (x.space.setWidth 64) ∧ r.words[3]? = some (BitVec.ofNat 64 (x.kind + 256 * x.cause)) ∧
        (c.tag = none → r.words[5]? = some (BitVec.ofNat 64 n))) ∧
      ∃ c' y, findCopy t id = some c' ∧ c'.susp = some y ∧ y.record ≠ none ∧ exec (.partyCounterSuspend 0 id) s = .next t := by
  have number : c.id = id := findCopy_id found
  obtain ⟨r, written, names, at1, at2, at3, at5⟩ : ∃ r, execCopySuspend id s =
        .next (setCopy (recorded s r) { c with susp := some { x with record := some (r.slice, r.seq) } }) ∧
      r.slice = ownerOf s c.part x.space x.va.toNat ∧ r.words[1]? = some x.va ∧ r.words[2]? = some (x.space.setWidth 64) ∧
      r.words[3]? = some (BitVec.ofNat 64 (x.kind + 256 * x.cause)) ∧ r.words[5]? = some (BitVec.ofNat 64 c.faultWho) := by
    refine ⟨faultRecord s c.part (if c.op.ring then 1 else 0) c.slice x c.off c.faultWho, ?_, rfl, rfl, rfl, rfl, rfl⟩
    rw [execCopySuspend, found]
    dsimp only
    rw [stopped]
    dsimp only
    rw [Suspension.posted, unwritten, if_neg (by decide), postFault_writes room]
  refine ⟨_, written, rfl, rfl, ⟨r, rfl, names, at1, at2, at3, fun untagged => ?_⟩, _, _, findCopy_setCopy (s := recorded s r) found number, rfl,
    Option.some_ne_none _, written⟩
  rw [at5, Copy.faultWho, issuer, untagged]
  rfl

/-! ## A command completes (R245, R399) -/

/-- Places whose lines are not among those of a partition's usage counters. -/
def offUsageLines (p : BitVec 16) (a n : Nat) : Prop := a + n + 128 ≤ usagePlace p 0 ∨ usagePlace p 7 + 128 ≤ a

/-- Bytes of the encrypted memories, one by one (R357). -/
theorem readKeyed_encrypted (s : State) (key : Nat) {a : Nat} (near : a < 2 ^ 52) (n : Nat) : s.readKeyed key a n = (List.range n).map fun i =>
    if s.clear key (a + i) then s.mem.read (a + i) else Config.garble s.draws key (a + i) (s.mem.readN ((a + i) / 128 * 128) 128) := by
  unfold State.readKeyed
  split
  next plain =>
    simp only [Bool.or_eq_true, Bool.and_eq_true, Bool.not_eq_true', decide_eq_true_eq, Nat.not_le.2 near, or_false, List.isEmpty_iff] at plain
    obtain ⟨untagged, unsealed⟩ := plain
    have clear (b : Nat) : s.clear key b = true := by simp [State.clear, State.lineKey, State.sealedAt, untagged, unsealed]
    exact List.map_congr_left fun i _ => by rw [clear, if_pos rfl]
  next => rfl

/-- Such places read as before, whatever has been counted. -/
theorem UsageCounted.readKeyed {p : BitVec 16} {s t : State} (counted : UsageCounted p s t) {a n : Nat} (off : offUsageLines p a n) (key : Nat) :
    t.readKeyed key a n = s.readKeyed key a n := by
  have outside (b : Nat) (lo : a < b + 128) (hi : b < a + n + 128) : offUsage p b := by
    unfold offUsage offUsageLines at *
    omega
  by_cases near : a < 2 ^ 52
  · rw [readKeyed_encrypted t key near, readKeyed_encrypted s key near]
    refine List.map_congr_left fun i hi => ?_
    have inside := List.mem_range.1 hi
    have clear : t.clear key (a + i) = s.clear key (a + i) := by
      rw [State.clear, counted.lines _ (outside _ (by omega) (by omega)) (outside _ (by omega) (by omega)), counted.state]
      rfl
    have line : t.mem.readN ((a + i) / 128 * 128) 128 = s.mem.readN ((a + i) / 128 * 128) 128 :=
      Memory.readN_congr fun j hj => counted.mem _ (outside _ (by omega) (by omega))
    have draws : t.draws = s.draws := by rw [counted.state]
    rw [clear, line, draws, counted.mem _ (outside _ (by omega) (by omega))]
  · have far : 2 ^ 52 ≤ a := Nat.not_lt.1 near
    rw [State.readKeyed_far far, State.readKeyed_far far]
    exact Memory.readN_congr fun i hi => counted.mem _ (outside _ (by omega) (by omega))

/-- A counter away from the usage counters keeps its value. -/
theorem retireCopy_counter {c : Copy} {n key : Nat} (issuer : c.issuer = .core n) (s : State) (q : Word) (off : offUsageLines c.part (ctrPlace key) 8) :
    (retireCopy s c q).counter key = s.counter key := by
  rw [retireCopy_core issuer, State.modifyHart_counter, State.counter, (retireCopy_counted issuer s q).1.readKeyed off]
  rfl

theorem retireCopy_mem {c : Copy} {n : Nat} (issuer : c.issuer = .core n) (s : State) (q : Word) :
    (∀ a, offUsage c.part a → (retireCopy s c q).mem.read a = s.mem.read a) ∧ (descOf s c.part = none → (retireCopy s c q).mem = s.mem) := by
  obtain ⟨counted, harts⟩ := retireCopy_counted issuer s q
  have same : (retireCopy s c q).mem = (addUsage (forgetCopy s c.id) c.part 4 (nominal c.op c.words)).mem := by rw [harts]
  rw [same]
  refine ⟨counted.mem, fun unknown => ?_⟩
  have none : descOf (forgetCopy s c.id) c.part = none := unknown
  rw [addUsage, none]
  rfl

/-- The tag of the command has counted its end. -/
theorem retireCopy_tagc {c : Copy} {n k : Nat} (issuer : c.issuer = .core n) (s : State) (q : Word) (tag : c.tag = some k) (small : k < 64) :
    (hartAt (retireCopy s c q) n).tagc[k]?.getD 0 = (hartAt s n).tagc[k]?.getD 0 + 1 := by
  obtain ⟨h, irq, hart⟩ := retireCopy_hart issuer s q
  rw [hart, tag, ← irq.tagc]
  simp [copyRetired, small]

theorem partyRef_stations (s : State) (m : Nat) (p : BitVec 16) (sp : BitVec 20) (need : Need) (r : Word) :
    StationsOnly s (partyRef s m p sp need r).2 := by
  have only := globalAccess_stations s m p sp need r.toNat 8
  unfold partyRef
  split
  · split <;> (rename_i access; rwa [access] at only)
  · exact .refl s

section
variable {s s1 : State} {id n key : Nat} {c : Copy}

/-- A command whose elements are written adds its amount to the counter that its reference reaches, and retires. -/
theorem exec_copyComplete (found : findCopy s id = some c) (issuer : c.issuer = .core n) (stage : c.stage = .moved) (unsuspended : c.susp = none)
    (well : c.fatal = none) (settled : ∀ w ∈ s.repl, w.core ≠ n) (named : c.ref ≠ 0)
    (reached : partyRef s c.slice c.part c.space needRW c.ref = (.at key, s1)) :
    exec (.copyComplete id) s = .next (retireCopy (counterAdd s1 key (BitVec.ofNat 64 (amount c.op c.words))) c (queryWord 0 0 0)) := by
  have core : c.core = n := by rw [Copy.core, issuer]
  have written : (s.repl.any fun w => w.core == c.core) = false := by simpa [core] using settled
  have free : (c.stage != .moved || c.susp.isSome || s.repl.any fun w => w.core == c.core) = false := by rw [stage, unsuspended, written]; rfl
  refine (rfl : _ = execCopyComplete id s).trans ?_
  rw [execCopyComplete, found]
  dsimp only
  rw [free, well, if_neg Bool.false_ne_true, if_neg named, reached]
  exact congrArg Host.Outcome.next (endNode_core issuer ..)

/-- What it leaves: its counter has taken the amount in the state in which the reference has been reached. -/
theorem copyComplete_completes (found : findCopy s id = some c) (issuer : c.issuer = .core n) (stage : c.stage = .moved) (unsuspended : c.susp = none)
    (well : c.fatal = none) (settled : ∀ w ∈ s.repl, w.core ≠ n) (named : c.ref ≠ 0)
    (reached : partyRef s c.slice c.part c.space needRW c.ref = (.at key, s1)) (off : offUsageLines c.part (ctrPlace key) 8) :
    ∃ t, exec (.copyComplete id) s = .next t ∧ findCopy t id = none ∧ t.counter key = s1.counter key + BitVec.ofNat 64 (amount c.op c.words) ∧
      (∀ p, (p < ctrPlace key ∨ ctrPlace key + 8 ≤ p) → offUsage c.part p → t.mem.read p = s.mem.read p) ∧
      (descOf s c.part = none → onlyCounter key s t) ∧ (hartAt t n).ocp.ret = (hartAt s n).ocp.ret + 1 ∧
      ∀ k, c.tag = some k → k < 64 → (hartAt t n).tagc[k]?.getD 0 = (hartAt s n).tagc[k]?.getD 0 + 1 := by
  have only : StationsOnly s s1 := by
    have only := partyRef_stations s c.slice c.part c.space needRW c.ref
    rwa [reached] at only
  have number : c.id = id := findCopy_id found
  have hart : hartAt (counterAdd s1 key (BitVec.ofNat 64 (amount c.op c.words))) n = hartAt s n := by
    rw [counterAdd, setCounter_hartAt, only.hartsKept.hartAt]
  have others {p : Nat} (hp : p < ctrPlace key ∨ ctrPlace key + 8 ≤ p) :
      (counterAdd s1 key (BitVec.ofNat 64 (amount c.op c.words))).mem.read p = s.mem.read p := by rw [counterAdd_other _ _ _ hp, only.mem]
  have desc : descOf (counterAdd s1 key (BitVec.ofNat 64 (amount c.op c.words))) c.part = descOf s c.part := by
    obtain ⟨l, tagged⟩ := tagLines_eq s1 (ctrKid key) (ctrPlace key) 8
    unfold counterAdd setCounter
    rw [tagged, only]
    rfl
  obtain ⟨outside, unknown⟩ := retireCopy_mem issuer (counterAdd s1 key (BitVec.ofNat 64 (amount c.op c.words))) (queryWord 0 0 0)
  refine ⟨_, exec_copyComplete found issuer stage unsuspended well settled named reached, number ▸ findCopy_retireCopy issuer _ _, ?_,
    fun p hp usage => (outside p usage).trans (others hp), fun none p hp => ?_, ?_, fun k tag small => ?_⟩
  · rw [retireCopy_counter issuer _ _ off, counterAdd_counter]
  · rw [unknown (desc.trans none), others hp]
  · rw [retireCopy_ocp issuer, hart]
  · rw [retireCopy_tagc issuer _ _ tag small, hart]

end

end Sys2Proof.Machine
end

section
/-! SUPPORT. The tiles of a subscription and its FILL adds (R250). -/

namespace Sys2Proof.Machine

open Sys2Proof.Claims

/-! ## A tile of a subscription (R250) -/

section
variable {s : State} {c : Copy} {n x y k : Nat} (op : c.op = .sub) (core : c.core = n) (cb : ringGam c.words = .cb)
  (tile : (cmdWord c.words 0).toNat = x) (slot : (cmdWord c.words 2).toNat = y) (near : x < 2 ^ 23) (source : x % 2 ^ 19 + ringTb c.words ≤ 2 ^ 19)
  (inside : y + ringTb c.words ≤ 2 ^ 19) (other : n / 16 * 16 + x / 2 ^ 19 ≠ n)

/-- Byte `j` of the first tile, in the local memory of another core of the cluster. -/
def tileByte (s : State) (n x j : Nat) : Byte := s.mem.read (localPlace (n / 16 * 16 + x / 2 ^ 19) (x % 2 ^ 19 + j))

include op core cb tile slot near source inside other

/-- The pieces of the first tile are moved one after the other. -/
theorem tilePieces_fills (r : Nat) : ∀ (t : State) (m : Nat), Filled s t (localPlace n y) m (tileByte s n x) → m + 64 * r ≤ ringTb c.words →
    ∃ u, tilePieces r t { c with pos := m } = (none, { c with pos := m + 64 * r }, u) ∧ Filled s u (localPlace n y) (m + 64 * r) (tileByte s n x) := by
  induction r with
  | zero => exact fun t m filled _ => ⟨t, rfl, filled⟩
  | succ r ih =>
    intro t m filled last
    have size : max 1 (ringTb c.words) = ringTb c.words := by omega
    have here : m / ringTb c.words = 0 ∧ m % ringTb c.words = m := ⟨Nat.div_eq_of_lt (by omega), Nat.mod_eq_of_lt (by omega)⟩
    have from' : (cmdWord c.words 0 + BitVec.ofNat 64 0 * cmdWord c.words 1 + BitVec.ofNat 64 m).toNat = x + m := by
      rw [BitVec.zero_mul, BitVec.add_zero, BitVec.toNat_add, BitVec.toNat_ofNat, tile]
      omega
    have place : localByte n .cb (x + m) = localPlace (n / 16 * 16 + x / 2 ^ 19) (x % 2 ^ 19 + m) := by
      rw [localByte, show (x + m) / 2 ^ 19 = x / 2 ^ 19 by omega, show (x + m) % 2 ^ 19 = x % 2 ^ 19 + m by omega]
    have clear : localPlace (n / 16 * 16 + x / 2 ^ 19) (x % 2 ^ 19 + m) + 64 ≤ localPlace n y ∨
        localPlace n y + m ≤ localPlace (n / 16 * 16 + x / 2 ^ 19) (x % 2 ^ 19 + m) := by
      unfold localPlace
      omega
    have read : t.mem.readN (localPlace (n / 16 * 16 + x / 2 ^ 19) (x % 2 ^ 19 + m)) 64 = bytesFrom (tileByte s n x) m 64 := by
      rw [filled.readN clear]
      exact List.map_congr_left fun j _ => by rw [tileByte, ← Nat.add_assoc, localPlace_add _ (_ + m) j]
    obtain ⟨u, moved, done⟩ := ih _ _ (filled.write 64) (by omega)
    refine ⟨u, ?_, by rwa [Nat.mul_succ, Nat.add_comm (64 * r), ← Nat.add_assoc]⟩
    rw [tilePieces]
    dsimp only
    rw [size, here.1, here.2, from', slot, cb, if_pos op, Nat.zero_mod, Nat.zero_mul, Nat.add_zero]
    dsimp only
    rw [copyRead_run (.inr rfl), show Copy.core { c with pos := m } = n from core, place, read]
    dsimp only
    rw [copyWrite_run (.inl rfl), show Copy.core { c with pos := m } = n from core, show localByte n .lo (y + m) = localPlace n y + m from localPlace_add n y m]
    dsimp only
    rw [Nat.mul_succ, Nat.add_comm (64 * r), ← Nat.add_assoc]
    exact moved

/-- The first tile, moved whole; its FILL add is owed. -/
theorem moveTile_first (start : c.pos = 0) (whole : ringTb c.words % 64 = 0) (nonempty : 0 < ringTb c.words) :
    ∃ u, moveTile s c = setCopy u { c with pos := ringTb c.words, idx := [(0, 1)] } ∧
      Filled s u (localPlace n y) (ringTb c.words) (tileByte s n x) := by
  have pieces : 64 * (ringTb c.words / 64) = ringTb c.words := by omega
  obtain ⟨u, moved, filled⟩ := tilePieces_fills op core cb tile slot near source inside other (ringTb c.words / 64) s 0 (.refl s _ _) (by omega)
  rw [Nat.zero_add, pieces] at moved filled
  have self : { c with pos := 0 } = c := by rw [← start]
  rw [self] at moved
  refine ⟨u, ?_, filled⟩
  have size : max 1 (ringTb c.words) = ringTb c.words := by omega
  rw [moveTile, start, size, Nat.zero_mod, Nat.sub_zero, moved]

end

/-! ## Steps of a subscription -/

section
variable {s s1 : State} {id key : Nat} {c : Copy} (found : findCopy s id = some c) (stage : c.stage = .begun) (unsuspended : c.susp = none)
include found stage unsuspended

/-- A counter that has come so far lets the next tile be moved. -/
theorem exec_tile (op : c.op = .sub) (owed : c.idx = []) (start : c.pos = 0)
    (reached : partyRef s c.slice c.part c.space needR (cmdWord c.words 6) = (.at key, s1))
    (come : verdict s1 key (1 - BitVec.ofNat 64 (ringQ c.words)) = some 0) :
    exec (.subscriptionTile id) s = .next (moveTile (withdraw s1 (.copy id)) c) := by
  have free : (!c.op.ring || c.stage != .begun || c.susp.isSome) = false := by rw [op, stage, unsuspended]; rfl
  have threshold : (BitVec.ofNat 64 (0 + 1) - if c.op = .sub then BitVec.ofNat 64 (ringQ c.words) else 0) = 1 - BitVec.ofNat 64 (ringQ c.words) := by
    rw [if_pos op]
    rfl
  refine (rfl : _ = execSubscriptionTile id s).trans ?_
  rw [execSubscriptionTile, found]
  dsimp only
  rw [free, if_neg Bool.false_ne_true, owed, if_neg (by decide), start, Nat.zero_mod, if_neg (by decide), reached]
  dsimp only
  rw [Nat.zero_div, threshold, come]
  rfl

/-- The FILL add that a moved tile owes is made. -/
theorem exec_fillAdd (op : c.op = .sub ∨ c.op = .pub) (owes : c.idx ≠ []) (settled : s.repl = [])
    (reached : partyRef s c.slice c.part c.space needRW (cmdWord c.words 5) = (.at key, s1)) :
    exec (.subscriptionTile id) s = .next (setCopy (counterAdd s1 key 1)
      { c with idx := [], stage := if ringNt c.words * ringTb c.words ≤ c.pos then .moved else .begun }) := by
  have ring : c.op.ring = true := by rcases op with h | h <;> rw [h] <;> rfl
  have free : (!c.op.ring || c.stage != .begun || c.susp.isSome) = false := by rw [ring, stage, unsuspended]; rfl
  have owing : (!c.idx.isEmpty) = true := by simpa using owes
  have written : (s.repl.any fun w => w.core == c.core) = false := by rw [settled]; rfl
  refine (rfl : _ = execSubscriptionTile id s).trans ?_
  rw [execSubscriptionTile, found]
  dsimp only
  rw [free, if_neg Bool.false_ne_true, owing, if_pos rfl, written, if_neg Bool.false_ne_true, fillAdd, reached]

theorem tile_completes {n : Nat} (op : c.op = .sub) (issuer : c.issuer = .core n) (owed : c.idx = []) (start : c.pos = 0)
    (reached : partyRef s c.slice c.part c.space needR (cmdWord c.words 6) = (.at key, s1)) (clean : s.poisoned key = false)
    (come : reaches (s1.counter key) (1 - BitVec.ofNat 64 (ringQ c.words))) (cb : ringGam c.words = .cb) (whole : ringTb c.words % 64 = 0)
    (nonempty : 0 < ringTb c.words) (source : (cmdWord c.words 0).toNat % 2 ^ 19 + ringTb c.words ≤ 2 ^ 19) (near : (cmdWord c.words 0).toNat < 2 ^ 23)
    (inside : (cmdWord c.words 2).toNat + ringTb c.words ≤ 2 ^ 19) (other : n / 16 * 16 + (cmdWord c.words 0).toNat / 2 ^ 19 ≠ n) :
    ∃ t, exec (.subscriptionTile id) s = .next t ∧
      (∀ j, j < ringTb c.words → t.mem.read (localPlace n ((cmdWord c.words 2).toNat + j)) = tileByte s n (cmdWord c.words 0).toNat j) ∧
      (∀ p, (p < localPlace n (cmdWord c.words 2).toNat ∨ localPlace n (cmdWord c.words 2).toNat + ringTb c.words ≤ p) →
        t.mem.read p = s.mem.read p) ∧
      ∃ c', findCopy t id = some c' ∧ c'.pos = ringTb c.words ∧ c'.idx ≠ [] := by
  have only : StationsOnly s s1 := by
    have only := partyRef_stations s c.slice c.part c.space needR (cmdWord c.words 6)
    rwa [reached] at only
  have verdict : verdict s1 key (1 - BitVec.ofNat 64 (ringQ c.words)) = some 0 := verdict_reached ((only.poisoned key).trans clean) come
  have core : c.core = n := by rw [Copy.core, issuer]
  have mem : (withdraw s1 (.copy id)).mem = s.mem := only.mem
  obtain ⟨u, moved, filled⟩ := moveTile_first (s := withdraw s1 (.copy id)) op core cb rfl rfl near source inside other start whole nonempty
  have number : c.id = id := findCopy_id found
  have still : findCopy u id = some c := by
    rw [filled.findCopy, ← found, only]
    rfl
  rw [exec_tile found stage unsuspended op owed start reached verdict, moved]
  refine ⟨_, rfl, fun j hj => ?_, fun p hp => ?_, _, findCopy_setCopy still number, rfl, List.cons_ne_nil _ _⟩
  · rw [localPlace_add, show (setCopy u _).mem = u.mem from rfl, filled.inside hj, tileByte, mem, tileByte]
  · rw [show (setCopy u _).mem = u.mem from rfl, filled.outside hp, mem]

theorem fillAdd_completes (op : c.op = .sub ∨ c.op = .pub) (owes : c.idx ≠ []) (settled : s.repl = [])
    (reached : partyRef s c.slice c.part c.space needRW (cmdWord c.words 5) = (.at key, s1)) :
    ∃ t, exec (.subscriptionTile id) s = .next t ∧ t.counter key = s1.counter key + 1 ∧ onlyCounter key s t ∧
      ∃ c', findCopy t id = some c' ∧ c'.pos = c.pos ∧ c'.idx = [] ∧ (c'.stage = .moved ↔ ringNt c.words * ringTb c.words ≤ c.pos) := by
  have only : StationsOnly s s1 := by
    have only := partyRef_stations s c.slice c.part c.space needRW (cmdWord c.words 5)
    rwa [reached] at only
  have number : c.id = id := findCopy_id found
  have still : findCopy (counterAdd s1 key 1) id = some c := by
    obtain ⟨l, tagged⟩ := tagLines_eq s1 (ctrKid key) (ctrPlace key) 8
    rw [← found]
    unfold counterAdd setCounter
    rw [tagged, only]
    rfl
  rw [exec_fillAdd found stage unsuspended op owes settled reached]
  refine ⟨_, rfl, counterAdd_counter .., fun p hp => ?_, _, findCopy_setCopy still number, rfl, rfl, ?_⟩
  · exact (counterAdd_other _ _ _ hp).trans (by rw [only.mem])
  · dsimp only
    split <;> simp_all

end

end Sys2Proof.Machine
end

section
/-! SUPPORT. What CopyEngineRunsCommands rests on. It tells the completion of a command and both steps of a subscription from the value that a counter
shows before its reference is reached, as CounterAccessesComplete does: it holds where draws do not show in encrypted lines, it implies that for one
sealed word they do not, and the model, to which `Config.garble` is a constant without a body, does not decide it. Told from the counter in the state
in which its reference has been reached, every clause stands above as a lemma without that condition. -/

namespace Sys2Proof.Machine

open Sys2Proof.Claims

/-! ## The statement holds where draws do not show in encrypted lines -/

theorem GarbleSteady.partyCounter (steady : GarbleSteady) {s s1 : State} {m key : Nat} {p : BitVec 16} {sp : BitVec 20} {need : Need} {r : Word}
    (reached : partyRef s m p sp need r = (.at key, s1)) : s1.counter key = s.counter key := by
  refine steady.counter ?_ key
  have only := partyRef_stations s m p sp need r
  rwa [reached] at only

theorem engineRuns_of_garbleSteady (steady : GarbleSteady) : EngineRuns := by
  refine ⟨fun s m l r c => accept_completes, ?fill, ?copy, ?gather, ?complete, fun s id n c x => copySuspend_completes⟩
  case fill =>
    intro s id n c found may op flat dam _ _ inside
    obtain ⟨t, ran, moved, hart, bytes, others⟩ := fill_completes found may op flat dam inside
    exact ⟨t, ran, moved, hart, fun j hj => by rw [localPlace_add, bytes j hj, fillByte], others⟩
  case copy =>
    intro s id n c found may op flat sam dam _ _ _ _ source inside apart
    obtain ⟨t, ran, moved, hart, bytes, others⟩ := copy_completes found may op flat sam dam source inside apart
    exact ⟨t, ran, moved, hart, fun j hj => by rw [localPlace_add, bytes j hj], others⟩
  case gather =>
    intro s id n c found may op fresh sam dam iam unmasked _ _ _ _ _ _ _ _ _ _ apart list
    obtain ⟨t, ran, moved, hart, bytes, others⟩ := gather_completes found may op fresh sam dam iam unmasked apart list
    refine ⟨t, ran, moved, hart, fun p j hp hj => ?_, others⟩
    have inside : p * recE c.words + j < recN c.words 0 * recE c.words := calc
      _ < (p + 1) * recE c.words := by rw [Nat.succ_mul]; exact Nat.add_lt_add_left hj _
      _ ≤ recN c.words 0 * recE c.words := Nat.mul_le_mul_right _ hp
    rw [Nat.add_assoc, localPlace_add, bytes _ inside, gatherByte_at s c hj, gatherIndex, core_of_maystart may]
    exact if_congr (badIndex_iff ..) rfl rfl
  case complete =>
    intro s id n key c s1 found issuer stage unsuspended well settled named reached off
    rw [← steady.partyCounter reached]
    exact copyComplete_completes found issuer stage unsuspended well settled named reached off

theorem subscriptionMovesTiles_of_garbleSteady (steady : GarbleSteady) : SubscriptionMovesTiles := by
  refine ⟨?tile, ?fill⟩
  case tile =>
    intro s s1 id n key c found op issuer stage unsuspended owed start reached clean come cb whole nonempty _ _ source near inside other
    rw [← steady.partyCounter reached] at come
    exact tile_completes found stage unsuspended op issuer owed start reached clean come cb whole nonempty source near inside other
  case fill =>
    intro s s1 id key c found op stage unsuspended owes settled reached
    rw [← steady.partyCounter reached]
    exact fillAdd_completes found stage unsuspended op owes settled reached

theorem copyEngineRunsCommands_of_garbleSteady (steady : GarbleSteady) : Obligations.CopyEngineRunsCommands :=
  ⟨engineRuns_of_garbleSteady steady, subscriptionMovesTiles_of_garbleSteady steady⟩

/-! ## What it says of draws -/

/-- A page of the firmware partition that maps the frame of its descriptor page, for reads and writes. -/
def fillAddress : Word := 0x10000

/-- The entry of that page: R and W. -/
def fillEntry : Word := descEntry 0 ^^^ 12

/-- What a station still holds for it: R, W and X. -/
def staleFillEntry : Cached := ⟨0, 0, 1, false, descEntry 0 ||| 4⟩

/-- A subscription that owes its FILL add to the word at `fillAddress`. -/
def owing : Copy :=
  ⟨4, .core 0, 0, .sub, [0, 0, 0, 0, 0, fillAddress, 0, 0], 0, none, false, false, false, .pkg, 0, 0, .begun, 0, [(0, 1)], 0, none, none⟩

/-- The package after `n` free values, with that subscription: HBM is sealed under earlier key pairs (R420), and station 0 holds `staleFillEntry`. -/
def staleFill (n : Nat) : State := { State.reset with
  copies := [owing]
  draws := n
  sealed := true
  stations := [staleFillEntry]
  mgmt := { State.reset.mgmt with kept := [(0, 1, fillEntry)] } }

theorem staleFill_reached (n : Nat) :
    ∃ s1, partyRef (staleFill n) owing.slice owing.part owing.space needRW (cmdWord owing.words 5) = (.at descCounter, s1) ∧ s1.draws = n + 1 := by
  have cached : cachedFor (staleFill n) 0 0 fillAddress.toNat = some staleFillEntry := by
    rw [cachedFor, show (staleFill n).stations = [staleFillEntry] from rfl]
    decide
  have spaces : (staleFill n).spaces = [(0, ⟨0, rootFrame0⟩)] := rfl
  have space : (spaceEntry (staleFill n) 0 0).isNone = false := by
    rw [spaceEntry, spaces]
    decide
  have walked : (walkPath (staleFill n) 0 0 fillAddress.toNat).2 = some (fillEntry, false) := rfl
  have stale : some (fillEntry, false) ≠ some (staleFillEntry.entry, staleFillEntry.big) := by decide
  obtain ⟨e, s1, he, served, drawn⟩ := translate_stale space cached walked stale
  have only : StationsOnly (staleFill n) s1 := by
    have only := translate_stations (staleFill n) 0 0 0 fillAddress.toNat
    rwa [served] at only
  have place : pagePlace e.1 e.2 fillAddress.toNat = descCounter := by rcases he with rfl | rfl <;> decide
  have granted : grants e.1 needRW = true := by rcases he with rfl | rfl <;> decide
  have keys : keyOk s1 0 (pteKey e.1) fillAddress.toNat = true := by rcases he with rfl | rfl <;> rfl
  have unrepl : pteRepl e.1 = false := by rcases he with rfl | rfl <;> decide
  have name : ctrName descCounter (pteKey e.1) = descCounter := by rcases he with rfl | rfl <;> decide
  have dark : s1.dark = [] := by rw [only]; rfl
  have tier : tierOk s1 descCounter 8 = true := by
    rw [tierOk, dark, if_neg (by decide)]
    rfl
  have access := globalAccess_onePage (n := 8) (by decide) (by decide) served granted
  have start : descCounter + fillAddress.toNat % 65536 = descCounter := by decide
  simp only [place, start, keys, tier, Bool.and_self] at access
  refine ⟨s1, ?_, drawn⟩
  have kind : refKind fillAddress = 0 := by decide
  show partyRef (staleFill n) 0 0 0 needRW fillAddress = _
  simp only [partyRef, kind, access, unrepl, name, Bool.not_true, Bool.false_eq_true, if_false]

/-- The FILL add of `owing`: by CopyEngineRunsCommands the free bytes of a sealed word are the same after one more draw. -/
theorem sealedWord_steady_of_copyEngineRunsCommands (h : Obligations.CopyEngineRunsCommands) (n : Nat) : sealedWord (n + 1) = sealedWord n := by
  obtain ⟨-, -, fill⟩ := h
  obtain ⟨s1, reached, drawn⟩ := staleFill_reached n
  have only : StationsOnly (staleFill n) s1 := by
    have only := partyRef_stations (staleFill n) owing.slice owing.part owing.space needRW (cmdWord owing.words 5)
    rwa [reached] at only
  have found : findCopy (staleFill n) 4 = some owing := rfl
  have owes : owing.idx ≠ [] := List.cons_ne_nil _ _
  obtain ⟨t, ran, value, -⟩ := fill _ s1 4 descCounter owing found (.inl rfl) rfl rfl owes rfl reached
  obtain ⟨t', ran', value', -⟩ := fillAdd_completes found rfl rfl (.inl rfl) owes rfl reached
  cases ran.symm.trans ran'
  have before : (staleFill n).counter descCounter = sealedWord n := counter_of_sealed rfl rfl rfl
  have after : s1.counter descCounter = sealedWord (n + 1) := by
    rw [← drawn]
    exact counter_of_sealed (by rw [only]; rfl) (by rw [only]; rfl) (by rw [only]; rfl)
  rw [before] at value
  rw [after, value] at value'
  exact (add_right_cancel value').symm

end Sys2Proof.Machine
end
